-- ==== Sys2Proof/Word.lean ====
section
/-! DEFINITION. The word types of the Aqpin A12 (R1, R2, R68, R125): a byte, a 32-bit lane word, a 64-bit uniform or
instruction word, and the Castagnoli CRC's 32 bits are all bit vectors; every count and index is a Nat. -/

namespace Sys2Proof

/-- One byte of memory (R1). -/
abbrev Byte := BitVec 8

/-- One lane of a vector register (R68). -/
abbrev Lane := BitVec 32

/-- One uniform register, one instruction word, one generic address (R97, R125). -/
abbrev Word := BitVec 64

end Sys2Proof
end

