-- ==== Sys2Proof/Config.lean ====
section
/-! DEFINITION. The free values: what the manual leaves to the implementation or to chance. Each is opaque and has no
body, so no proof can lean on a value of it; notes/assumptions/ names each. -/

namespace Sys2Proof

/-- A stream of arbitrary numbers, read at State.freeCtr: cycles that pass, the turn taken when the schedule is empty,
whether a stale translation is used (R119), whether an operand-cache entry is placed (R303), skews of sys.time (R218). -/
opaque Config.freeNat : Nat → Nat

/-- The implementation's pattern for an approximation (R176): opcode, FMT and the input pattern. The model keeps it only
where it meets the bounds of R176. -/
opaque Config.approx : Nat → Nat → Lane → Lane

/-- The report of R421: a draw for what the signatures leave to chance, the nonce, the digests of the firmware image and of the
blob, and the partition's objects by arena address and measurement. The manual gives it no layout and no keys. -/
opaque Config.attestReport : Nat → List Byte → BitVec 384 → BitVec 384 → List (Word × BitVec 384) → List Byte

end Sys2Proof
end

