-- ==== Sys2Proof/Syntax.lean ====
section
/-! DEFINITION. The steps of the Aqpin A12, one constructor per row of spec/opcode_table.json. An instruction carries the
header of R126 and the fields of its operand format (R127 to R131) at their exact widths, so that a word that R137
refuses is a term too: legality is judged when the word issues, after the active lanes are known (R136). A row that is
not an instruction is an event of an engine, the scheduler, the ring, the host or the management cores. -/

namespace Sys2Proof

/-- The common header, bits [53:40] of a word (R126); the opcode is the constructor. -/
structure Header where
  ss : BitVec 2
  wc : BitVec 3
  u  : Bool
  pe : Bool
  pn : Bool
  pk : Bool
  pr : BitVec 5
  deriving DecidableEq, Repr

/-- Format F3 (R127): mb is the modifier byte, X[7:0], and fn the selector, X[15:8]. -/
structure F3 where
  d : BitVec 8
  a : BitVec 8
  b : BitVec 8
  fn : BitVec 8
  mb : BitVec 8
  deriving DecidableEq, Repr

/-- Format F4 (R127). -/
structure F4 where
  d : BitVec 8
  a : BitVec 8
  b : BitVec 8
  c : BitVec 8
  mb : BitVec 8
  deriving DecidableEq, Repr

/-- Format FI (R127). -/
structure FI where
  d : BitVec 8
  a : BitVec 8
  imm : BitVec 16
  mb : BitVec 8
  deriving DecidableEq, Repr

/-- Format FL (R127). -/
structure FL where
  d : BitVec 8
  imm : BitVec 32
  deriving DecidableEq, Repr

/-- Format FM (R127, R129). -/
structure FM where
  d : BitVec 8
  sb : BitVec 6
  vo : BitVec 8
  imm : BitVec 12
  spc : BitVec 3
  wid : BitVec 3
  deriving DecidableEq, Repr

/-- Format FB (R127, R130). -/
structure FB where
  off : BitVec 24
  ck : BitVec 2
  cn : Bool
  cr : BitVec 5
  hid : BitVec 4
  rsv : BitVec 4
  deriving DecidableEq, Repr

/-- Format FE (R127). -/
structure FE where
  d : BitVec 8
  sa : BitVec 6
  sb : BitVec 6
  sf : BitVec 6
  x : BitVec 14
  deriving DecidableEq, Repr

/-- Format FS (R127, R131). -/
structure FS where
  d : BitVec 8
  a : BitVec 8
  sel : BitVec 16
  x : BitVec 8
  deriving DecidableEq, Repr

/-- The name of a crew: partition, field id (R411), crew index within the field (R401). -/
structure CrewKey where
  part : Nat
  field : Nat
  crew : Nat
  deriving DecidableEq, Repr

/-- The name of a herd: its crew and its index within the crew (R401). -/
structure HerdKey where
  crew : CrewKey
  herd : Nat
  deriving DecidableEq, Repr

/-- The operation of an atomic or a reduction on a 32-bit word (R234, R237). -/
inductive AtomOp where
  | addI32 | addF32 | minI32 | minN32 | minF32 | maxI32 | maxN32 | maxF32 | and | or | xor | xch | cas
  deriving DecidableEq, Repr

/-- The answer to one lane's host or peer access (R231): an error, or the bytes read as one little-endian number, with
the page format that a peer reports (R277). -/
structure LaneAnswer where
  lane : Nat
  err : Bool
  data : BitVec 128
  fmt : BitVec 4
  deriving DecidableEq, Repr

/-- What host and peer memory answer to a copy (R121): the bytes read at source offsets, and the byte offsets of
64-byte steps of the copy whose remote access failed. -/
structure CopyEnv where
  bytes : List (Nat × Byte)
  failed : List Nat
  deriving DecidableEq, Repr

/-- A half-open range of physical addresses. -/
structure PRange where
  lo : Nat
  hi : Nat
  deriving DecidableEq, Repr

/-- What the configuration blob gives one partition (R408, R409, R419). -/
structure PartCfg where
  pid : Nat
  acres : List Nat
  hbmStacks : List Nat
  frames : List PRange
  arena : PRange
  pristine : PRange
  pen : PRange
  pool : PRange
  fbp : Nat
  /-- the lending limit, 0 unless the blob gives one (R419) -/
  lmax : Nat := 0
  ptbase : Word
  tvec : Word
  penbase : Word
  crewbase : Word
  crewcnt : Word
  deriving DecidableEq, Repr

/-- The leave table in units of 10 mW (R305). -/
structure LeaveTable where
  mma8 : Nat
  mma16 : Nat
  mma32 : Nat
  mld : Nat
  mst8 : Nat
  mst16 : Nat
  mst32 : Nat
  mzero : Nat
  mmov : Nat
  mabs : Nat
  mrd : Nat
  deriving DecidableEq, Repr

/-- One entry of the peer table (R417): a module index, its Poljor links and the partition of that module. -/
structure PeerEntry where
  index : Nat
  links : List Nat
  part : Nat
  deriving DecidableEq, Repr

/-- The signed configuration blob (R19, R113, R305, R310, R331, R408, R417). -/
structure Blob where
  pb : Nat
  ringOwner : Nat
  /-- the hold limit in microseconds; 200 in a blob that does not give one (R331) -/
  rholdlim : BitVec 32 := 200#32
  /-- the leave pool of each die in units of 10 mW; 300 W for a die that the blob gives none (R19) -/
  pools : List (Option Nat) := []
  leave : LeaveTable
  parts : List PartCfg
  common : List PRange
  /-- the stacks of the common pool (R112) -/
  commonStacks : List Nat
  peers : List PeerEntry
  deriving DecidableEq, Repr

/-- A partition's supervisor image (R409): its two signature checks, its page table as bytes at offsets from the
address that sys.ptbase names, and the code object to register. -/
structure SupImage where
  pid : Nat
  sigEd : Bool
  sigMl : Bool
  table : List (Nat × Byte)
  va : Word
  words : List Word
  deriving DecidableEq, Repr

/-- What boot reads over the fabric (R420, R421): the firmware image and its two signature checks, the blob, its bytes and its
checks, and the supervisor images. -/
structure BootInput where
  fwEd : Bool
  fwMl : Bool
  blobEd : Bool
  blobMl : Bool
  firmware : List Byte
  blobBytes : List Byte
  blob : Blob
  images : List SupImage
  deriving DecidableEq, Repr

/-- What a peer module asks of this module's memory (R114, R417). -/
inductive PeerOp where
  | load (w : Nat)
  | store (w : Nat) (data : BitVec 128)
  | atomic (op : AtomOp) (x y : Lane)
  deriving DecidableEq, Repr

/-- A peer module's access over Poljor (R417): who asks, which partition of this module serves it, and where. -/
structure PeerRequest where
  index : Nat
  part : Nat
  target : Nat
  va : BitVec 48
  op : PeerOp
  deriving DecidableEq, Repr

/-- One constructor per row of spec/opcode_table.json: 182 instructions (R139, R140) and 49 events. -/
inductive Instr where
  /-- ADD (R160), opcode 0x001. -/
  | add (h : Header) (x : F3)
  /-- SUB (R160), opcode 0x002. -/
  | sub (h : Header) (x : F3)
  /-- MUL (R160), opcode 0x003. -/
  | mul (h : Header) (x : F3)
  /-- MULHI (R161), opcode 0x004. -/
  | mulhi (h : Header) (x : F3)
  /-- MIN (R162), opcode 0x005. -/
  | min (h : Header) (x : F3)
  /-- MAX (R162), opcode 0x006. -/
  | max (h : Header) (x : F3)
  /-- ABS (R163), opcode 0x007. -/
  | abs (h : Header) (x : F3)
  /-- NEG (R163), opcode 0x008. -/
  | neg (h : Header) (x : F3)
  /-- AND (R167), opcode 0x009. -/
  | and (h : Header) (x : F3)
  /-- OR (R167), opcode 0x00A. -/
  | or (h : Header) (x : F3)
  /-- XOR (R167), opcode 0x00B. -/
  | xor (h : Header) (x : F3)
  /-- ANDN (R167), opcode 0x00C. -/
  | andn (h : Header) (x : F3)
  /-- NOT (R167), opcode 0x00D. -/
  | not (h : Header) (x : F3)
  /-- SHL (R168), opcode 0x00E. -/
  | shl (h : Header) (x : F3)
  /-- SHR (R168), opcode 0x00F. -/
  | shr (h : Header) (x : F3)
  /-- SAR (R168), opcode 0x010. -/
  | sar (h : Header) (x : F3)
  /-- ROT (R168), opcode 0x011. -/
  | rot (h : Header) (x : F3)
  /-- POPC (R169), opcode 0x012. -/
  | popc (h : Header) (x : F3)
  /-- CLZ (R169), opcode 0x013. -/
  | clz (h : Header) (x : F3)
  /-- CTZ (R169), opcode 0x014. -/
  | ctz (h : Header) (x : F3)
  /-- BREV (R169), opcode 0x015. -/
  | brev (h : Header) (x : F3)
  /-- BFE (R170), opcode 0x016. -/
  | bfe (h : Header) (x : F3)
  /-- MOV (R171), opcode 0x017. -/
  | mov (h : Header) (x : F3)
  /-- CMP (R172), opcode 0x018. -/
  | cmp (h : Header) (x : F3)
  /-- FMA (R165), opcode 0x020. -/
  | fma (h : Header) (x : F4)
  /-- MAD (R165), opcode 0x021. -/
  | mad (h : Header) (x : F4)
  /-- SEL (R171), opcode 0x022. -/
  | sel (h : Header) (x : F4)
  /-- BFI (R170), opcode 0x023. -/
  | bfi (h : Header) (x : F4)
  /-- DOT4 (R166), opcode 0x024. -/
  | dot4 (h : Header) (x : F4)
  /-- ADDI (R164), opcode 0x030. -/
  | addi (h : Header) (x : FI)
  /-- MULI (R164), opcode 0x031. -/
  | muli (h : Header) (x : FI)
  /-- ANDI (R167), opcode 0x032. -/
  | andi (h : Header) (x : FI)
  /-- ORI (R167), opcode 0x033. -/
  | ori (h : Header) (x : FI)
  /-- XORI (R167), opcode 0x034. -/
  | xori (h : Header) (x : FI)
  /-- SHLI (R168), opcode 0x035. -/
  | shli (h : Header) (x : FI)
  /-- SHRI (R168), opcode 0x036. -/
  | shri (h : Header) (x : FI)
  /-- SARI (R168), opcode 0x037. -/
  | sari (h : Header) (x : FI)
  /-- CMPI (R173), opcode 0x038. -/
  | cmpi (h : Header) (x : FI)
  /-- MINI (R164), opcode 0x039. -/
  | mini (h : Header) (x : FI)
  /-- MAXI (R164), opcode 0x03A. -/
  | maxi (h : Header) (x : FI)
  /-- MOVI (R174), opcode 0x03C. -/
  | movi (h : Header) (x : FL)
  /-- MOVS (R174), opcode 0x03D. -/
  | movs (h : Header) (x : FL)
  /-- MOVHS (R174), opcode 0x03E. -/
  | movhs (h : Header) (x : FL)
  /-- DIV (R175), opcode 0x040. -/
  | div (h : Header) (x : F3)
  /-- SQRT (R175), opcode 0x041. -/
  | sqrt (h : Header) (x : F3)
  /-- RSQRT (R176), opcode 0x042. -/
  | rsqrt (h : Header) (x : F3)
  /-- RCP (R176), opcode 0x043. -/
  | rcp (h : Header) (x : F3)
  /-- EXP2 (R176), opcode 0x044. -/
  | exp2 (h : Header) (x : F3)
  /-- LOG2 (R176), opcode 0x045. -/
  | log2 (h : Header) (x : F3)
  /-- SIN (R176), opcode 0x046. -/
  | sin (h : Header) (x : F3)
  /-- COS (R176), opcode 0x047. -/
  | cos (h : Header) (x : F3)
  /-- TANH (R176), opcode 0x048. -/
  | tanh (h : Header) (x : F3)
  /-- CLASS (R178), opcode 0x049. -/
  | fclass (h : Header) (x : F3)
  /-- RINT (R175), opcode 0x04A. -/
  | rint (h : Header) (x : F3)
  /-- LDEXP (R175), opcode 0x04B. -/
  | ldexp (h : Header) (x : F3)
  /-- SGNJ (R179), opcode 0x04C. -/
  | sgnj (h : Header) (x : F3)
  /-- CVT (R180), opcode 0x080. -/
  | cvt (h : Header) (x : F3)
  /-- TAG (R181), opcode 0x081. -/
  | tag (h : Header) (x : F3)
  /-- PACK (R182), opcode 0x082. -/
  | pack (h : Header) (x : F3)
  /-- UNPK (R182), opcode 0x083. -/
  | unpk (h : Header) (x : F3)
  /-- SHFL (R184), opcode 0x090. -/
  | shfl (h : Header) (x : F3)
  /-- BCAST (R185), opcode 0x091. -/
  | bcast (h : Header) (x : F3)
  /-- VOTE (R187), opcode 0x092. -/
  | vote (h : Header) (x : F3)
  /-- BALLOT (R187), opcode 0x093. -/
  | ballot (h : Header) (x : F3)
  /-- HRED (R188), opcode 0x094. -/
  | hred (h : Header) (x : F3)
  /-- HSCAN (R189), opcode 0x095. -/
  | hscan (h : Header) (x : F3)
  /-- RDLANE (R185), opcode 0x096. -/
  | rdlane (h : Header) (x : F3)
  /-- SPLAT (R186), opcode 0x097. -/
  | splat (h : Header) (x : F3)
  /-- SADD (R191), opcode 0x0A0. -/
  | sadd (h : Header) (x : F3)
  /-- SSUB (R191), opcode 0x0A1. -/
  | ssub (h : Header) (x : F3)
  /-- SMUL (R191), opcode 0x0A2. -/
  | smul (h : Header) (x : F3)
  /-- SAND (R191), opcode 0x0A3. -/
  | sand (h : Header) (x : F3)
  /-- SOR (R191), opcode 0x0A4. -/
  | sor (h : Header) (x : F3)
  /-- SXOR (R191), opcode 0x0A5. -/
  | sxor (h : Header) (x : F3)
  /-- SSHL (R191), opcode 0x0A6. -/
  | sshl (h : Header) (x : F3)
  /-- SSHR (R191), opcode 0x0A7. -/
  | sshr (h : Header) (x : F3)
  /-- SSAR (R191), opcode 0x0A8. -/
  | ssar (h : Header) (x : F3)
  /-- SMIN (R191), opcode 0x0A9. -/
  | smin (h : Header) (x : F3)
  /-- SMAX (R191), opcode 0x0AA. -/
  | smax (h : Header) (x : F3)
  /-- SCMP (R191), opcode 0x0AB. -/
  | scmp (h : Header) (x : F3)
  /-- SSEL (R191), opcode 0x0AC. -/
  | ssel (h : Header) (x : F4)
  /-- SMOV (R191), opcode 0x0AD. -/
  | smov (h : Header) (x : F3)
  /-- SADDI (R191), opcode 0x0AE. -/
  | saddi (h : Header) (x : FI)
  /-- SANDI (R191), opcode 0x0AF. -/
  | sandi (h : Header) (x : FI)
  /-- SORI (R191), opcode 0x0B0. -/
  | sori (h : Header) (x : FI)
  /-- SSHLI (R191), opcode 0x0B1. -/
  | sshli (h : Header) (x : FI)
  /-- NOP (R192), opcode 0x0C0. -/
  | nop (h : Header) (x : FS)
  /-- BR (R195), opcode 0x0C1. -/
  | br (h : Header) (x : FB)
  /-- JMPI (R197), opcode 0x0C2. -/
  | jmpi (h : Header) (x : F3)
  /-- CALL (R196), opcode 0x0C3. -/
  | call (h : Header) (x : FB)
  /-- CALLI (R197), opcode 0x0C4. -/
  | calli (h : Header) (x : F3)
  /-- RET (R198), opcode 0x0C5. -/
  | ret (h : Header) (x : F3)
  /-- HEAD (R41), opcode 0x0C6. -/
  | head (h : Header) (x : FB)
  /-- EXIT (R201), opcode 0x0C7. -/
  | exit (h : Header) (x : FS)
  /-- YIELD (R203), opcode 0x0C8. -/
  | yield (h : Header) (x : FS)
  /-- BARW (R205), opcode 0x0C9. -/
  | barw (h : Header) (x : FS)
  /-- BARS (R205), opcode 0x0CA. -/
  | bars (h : Header) (x : FS)
  /-- FENCE (R209), opcode 0x0CB. -/
  | fence (h : Header) (x : FS)
  /-- SOW (R212), opcode 0x0CC. -/
  | sow (h : Header) (x : FE)
  /-- TRAP (R216), opcode 0x0CD. -/
  | trap (h : Header) (x : FS)
  /-- RFT (R361), opcode 0x0CE. -/
  | rft (h : Header) (x : FS)
  /-- SGET (R218), opcode 0x0CF. -/
  | sget (h : Header) (x : FS)
  /-- SSET (R220), opcode 0x0D0. -/
  | sset (h : Header) (x : FS)
  /-- DQK (R221), opcode 0x0D1. -/
  | dqk (h : Header) (x : FS)
  /-- DQK_ALL (R221), opcode 0x0D1. -/
  | dqkAll (h : Header) (x : FS)
  /-- BRK (R216), opcode 0x0D2. -/
  | brk (h : Header) (x : FS)
  /-- LD (R227), opcode 0x100. -/
  | ld (h : Header) (nib : BitVec 4) (x : FM)
  /-- ST (R228), opcode 0x110. -/
  | st (h : Header) (nib : BitVec 4) (x : FM)
  /-- AADD_I32 (R234), opcode 0x120. -/
  | aaddI32 (h : Header) (x : FM)
  /-- AADD_F32 (R235), opcode 0x121. -/
  | aaddF32 (h : Header) (x : FM)
  /-- AMIN_I32 (R234), opcode 0x122. -/
  | aminI32 (h : Header) (x : FM)
  /-- AMIN_N32 (R234), opcode 0x123. -/
  | aminN32 (h : Header) (x : FM)
  /-- AMIN_F32 (R235), opcode 0x124. -/
  | aminF32 (h : Header) (x : FM)
  /-- AMAX_I32 (R234), opcode 0x125. -/
  | amaxI32 (h : Header) (x : FM)
  /-- AMAX_N32 (R234), opcode 0x126. -/
  | amaxN32 (h : Header) (x : FM)
  /-- AMAX_F32 (R235), opcode 0x127. -/
  | amaxF32 (h : Header) (x : FM)
  /-- AAND (R234), opcode 0x128. -/
  | aand (h : Header) (x : FM)
  /-- AOR (R234), opcode 0x129. -/
  | aor (h : Header) (x : FM)
  /-- AXOR (R234), opcode 0x12A. -/
  | axor (h : Header) (x : FM)
  /-- AXCH (R234), opcode 0x12B. -/
  | axch (h : Header) (x : FM)
  /-- ACAS (R237), opcode 0x12C. -/
  | acas (h : Header) (x : FM)
  /-- RADD_I32 (R238), opcode 0x130. -/
  | raddI32 (h : Header) (x : FM)
  /-- RADD_F32 (R238), opcode 0x131. -/
  | raddF32 (h : Header) (x : FM)
  /-- RMIN_I32 (R238), opcode 0x132. -/
  | rminI32 (h : Header) (x : FM)
  /-- RMIN_N32 (R238), opcode 0x133. -/
  | rminN32 (h : Header) (x : FM)
  /-- RMIN_F32 (R238), opcode 0x134. -/
  | rminF32 (h : Header) (x : FM)
  /-- RMAX_I32 (R238), opcode 0x135. -/
  | rmaxI32 (h : Header) (x : FM)
  /-- RMAX_N32 (R238), opcode 0x136. -/
  | rmaxN32 (h : Header) (x : FM)
  /-- RMAX_F32 (R238), opcode 0x137. -/
  | rmaxF32 (h : Header) (x : FM)
  /-- RAND (R238), opcode 0x138. -/
  | rand (h : Header) (x : FM)
  /-- ROR (R238), opcode 0x139. -/
  | ror (h : Header) (x : FM)
  /-- RXOR (R238), opcode 0x13A. -/
  | rxor (h : Header) (x : FM)
  /-- CPY (R241), opcode 0x140. -/
  | cpy (h : Header) (x : FE)
  /-- CPYG (R241), opcode 0x141. -/
  | cpyg (h : Header) (x : FE)
  /-- CWAIT (R245), opcode 0x142. -/
  | cwait (h : Header) (x : FE)
  /-- SMAP (R246), opcode 0x143. -/
  | smap (h : Header) (x : FE)
  /-- SUNMAP (R247), opcode 0x144. -/
  | sunmap (h : Header) (x : FE)
  /-- PF (R249), opcode 0x145. -/
  | pf (h : Header) (x : FM)
  /-- CINV (R250), opcode 0x146. -/
  | cinv (h : Header) (x : FM)
  /-- CWB (R251), opcode 0x147. -/
  | cwb (h : Header) (x : FM)
  /-- TLBI_PAGE (R252), opcode 0x148. -/
  | tlbiPage (h : Header) (x : FS)
  /-- TLBI_ALL (R252), opcode 0x148. -/
  | tlbiAll (h : Header) (x : FS)
  /-- TLBI_PID (R252), opcode 0x148. -/
  | tlbiPid (h : Header) (x : FS)
  /-- MMA (R293), opcode 0x180. -/
  | mma (h : Header) (x : FE)
  /-- MZERO (R294), opcode 0x181. -/
  | mzero (h : Header) (x : FE)
  /-- MLD (R294), opcode 0x182. -/
  | mld (h : Header) (x : FE)
  /-- MST (R295), opcode 0x183. -/
  | mst (h : Header) (x : FE)
  /-- MABS (R296), opcode 0x184. -/
  | mabs (h : Header) (x : FE)
  /-- MMOV (R294), opcode 0x185. -/
  | mmov (h : Header) (x : FE)
  /-- MRD (R296), opcode 0x186. -/
  | mrd (h : Header) (x : FE)
  /-- BOARD (R319), opcode 0x1C0. -/
  | board (h : Header) (x : FE)
  /-- RTILE (R322), opcode 0x1C1. -/
  | rtile (h : Header) (x : FE)
  /-- RFREE (R323), opcode 0x1C2. -/
  | rfree (h : Header) (x : FE)
  /-- ALIGHT (R324), opcode 0x1C3. -/
  | alight (h : Header) (x : FE)
  /-- RPOS (R326), opcode 0x1C4. -/
  | rpos (h : Header) (x : FE)
  /-- RPACE (R328), opcode 0x1C5. -/
  | rpace (h : Header) (x : FE)
  /-- RINST (R310), opcode 0x1C6. -/
  | rinst (h : Header) (x : FE)
  /-- RSTAT (R326), opcode 0x1C7. -/
  | rstat (h : Header) (x : FE)
  /-- DADD (R346), opcode 0x200. -/
  | dadd (h : Header) (x : F3)
  /-- DSUB (R346), opcode 0x201. -/
  | dsub (h : Header) (x : F3)
  /-- DMUL (R346), opcode 0x202. -/
  | dmul (h : Header) (x : F3)
  /-- DMIN (R346), opcode 0x203. -/
  | dmin (h : Header) (x : F3)
  /-- DMAX (R346), opcode 0x204. -/
  | dmax (h : Header) (x : F3)
  /-- DNEG (R348), opcode 0x205. -/
  | dneg (h : Header) (x : F3)
  /-- DSCL (R348), opcode 0x206. -/
  | dscl (h : Header) (x : F3)
  /-- DMIX (R347), opcode 0x207. -/
  | dmix (h : Header) (x : F3)
  /-- DPT (R349), opcode 0x208. -/
  | dpt (h : Header) (x : F3)
  /-- DATM (R349), opcode 0x209. -/
  | datm (h : Header) (x : F3)
  /-- DGET (R350), opcode 0x20A. -/
  | dget (h : Header) (x : F3)
  /-- DTAG (R350), opcode 0x20B. -/
  | dtag (h : Header) (x : FI)
  /-- DMOM (R351), opcode 0x20C. -/
  | dmom (h : Header) (x : F3)
  /-- DQNT (R352), opcode 0x20D. -/
  | dqnt (h : Header) (x : F3)
  /-- DCDF (R352), opcode 0x20E. -/
  | dcdf (h : Header) (x : F3)
  /-- TREC (R378), opcode 0x240. -/
  | trec (h : Header) (x : F3)
  /-- TRBR (R378), opcode 0x241. -/
  | trbr (h : Header) (x : F3)
  /-- TMARK (R378), opcode 0x242. -/
  | tmark (h : Header) (x : FI)
  /-- TPLY (R380), opcode 0x243. -/
  | tply (h : Header) (x : F3)
  /-- TPLB (R380), opcode 0x244. -/
  | tplb (h : Header) (x : F3)
  /-- TPMK (R380), opcode 0x245. -/
  | tpmk (h : Header) (x : F3)
  /-- TBGN (R383), opcode 0x246. -/
  | tbgn (h : Header) (x : FE)
  /-- TEND (R385), opcode 0x247. -/
  | tend (h : Header) (x : FS)
  /-- TSEG (R384), opcode 0x248. -/
  | tseg (h : Header) (x : FE)
  /-- PATIENCE_EXPIRY (R46). -/
  | patienceExpiry (k : HerdKey) (f : Nat)
  /-- CREW_RELEASE (R202). -/
  | crewRelease (c : CrewKey)
  /-- YIELD_EXPIRY (R203). -/
  | yieldExpiry (k : HerdKey) (f : Nat)
  /-- SOW_STALLED_POST (R212). -/
  | sowStalledPost (k : HerdKey) (f : Nat)
  /-- SITE_REWRITE (R274). -/
  | siteRewrite (k : HerdKey) (f : Nat)
  /-- REMOTE_ANSWER (R231). -/
  | remoteAnswer (k : HerdKey) (f : Nat) (ans : List LaneAnswer)
  /-- PEER_TIMEOUT (R417). -/
  | peerTimeout (k : HerdKey) (f : Nat)
  /-- COPY_START (R243). -/
  | copyStart (k : HerdKey) (f : Nat)
  /-- COPY_RETIRE (R244). -/
  | copyRetire (k : HerdKey) (ticket : Nat) (env : CopyEnv)
  /-- WINDOW_SECTOR_RECALL (R108). -/
  | windowSectorRecall (c : CrewKey) (w n : Nat)
  /-- LEAVE_GRANT (R20). -/
  | leaveGrant (core slice : Nat)
  /-- MATRIX_READ_PHASE_END (R300). -/
  | matrixReadPhaseEnd (core slice : Nat)
  /-- MATRIX_COMMAND_RETIRE (R289). -/
  | matrixCommandRetire (core slice : Nat)
  /-- TIMETABLE_INSTALL (R311). -/
  | timetableInstall
  /-- TILE_INJECTION (R315). -/
  | tileInjection
  /-- TILE_ARRIVAL (R321). -/
  | tileArrival (stop : Nat) (crcBad : Bool)
  /-- HOLD_LIMIT_EXPIRY (R321). -/
  | holdLimitExpiry (k : HerdKey)
  /-- TILE_PASSED (R318). -/
  | tilePassed (stop : Nat)
  /-- CONDENSER_COMPLETE (R353). -/
  | condenserComplete (core slice : Nat)
  /-- TAPE_BLOCK_WRITE (R388). -/
  | tapeBlockWrite (k : HerdKey)
  /-- PENNING (R57). -/
  | penning (k : HerdKey)
  /-- HERD_RESIDENCY (R58). -/
  | herdResidency (k : HerdKey)
  /-- ADMISSION (R400). -/
  | admission (core : Nat)
  /-- CREW_SAVE_AREA_GRANT (R365). -/
  | crewSaveAreaGrant (c : CrewKey)
  /-- PREEMPT_HERD_SAVE (R365). -/
  | preemptHerdSave (k : HerdKey)
  /-- PREEMPT_TIMEOUT (R366). -/
  | preemptTimeout (c : CrewKey)
  /-- CREW_SAVE_COMPLETE (R367). -/
  | crewSaveComplete (c : CrewKey)
  /-- CREW_RESTORE (R369). -/
  | crewRestore (c : CrewKey)
  /-- LQTAIL (R396). -/
  | lqtail (p : Nat) (v : BitVec 64)
  /-- LAUNCH_QUEUE_ENTRY_READ (R396). -/
  | launchQueueEntryRead (p : Nat)
  /-- COMPLETION_RECORD_WRITE (R412). -/
  | completionRecordWrite (p : Nat)
  /-- FAULT_RECORD_WRITE (R414). -/
  | faultRecordWrite (p : Nat)
  /-- FRESP (R414). -/
  | fresp (p : Nat) (v : BitVec 64)
  /-- REGGO (R415). -/
  | reggo (p : Nat) (v : BitVec 64)
  /-- REGISTRATION_COMPLETE (R284). -/
  | registrationComplete (p : Nat) (err : Bool)
  /-- PREEMPT (R416). -/
  | preempt (p : Nat) (v : BitVec 64)
  /-- ATTEST (R421). -/
  | attest (p : Nat) (v : BitVec 64)
  /-- ATTESTATION_WRITTEN (R421). -/
  | attestationWritten (p : Nat)
  /-- HOST_REGISTER_WRITE (R410). -/
  | hostRegisterWrite (p off : Nat) (v : BitVec 64)
  /-- LEND (R418). -/
  | lend (acre p deadline : Nat)
  /-- RECALL (R418). -/
  | recallAcre (acre : Nat)
  /-- RECALL_COMPLETE (R418). -/
  | recallComplete (acre : Nat)
  /-- BOOT (R420). -/
  | boot (x : BootInput)
  /-- RECOVERY_IMAGE_REPLACE (R420). -/
  | recoveryImageReplace (x : BootInput)
  /-- UNASSIGNED_OPCODE (R140). -/
  | unassignedOpcode (w : BitVec 64)
  /-- PEER_ACCESS_REQUEST (R417). -/
  | peerAccessRequest (r : PeerRequest)
  /-- POLJOR_LINK_DOWN (R417). -/
  | poljorLinkDown (l : Nat)
  /-- POLJOR_LINK_UP (R417). -/
  | poljorLinkUp (l : Nat)
  /-- L1_SECTOR_EVICTION (R258). -/
  | l1SectorEviction (core sector : Nat)
  deriving DecidableEq, Repr

end Sys2Proof
end

