-- ==== Sys2Proof/WellFormed.lean ====
section
/-! DEFINITION. Which terms of Instr are images of a 64-bit word (R139, R140, R142, R192, R252), and which events name
units that the module has (R9, R10, R408). A legal word satisfies more: R137 is judged at issue, in Machine/Legality.lean. -/

namespace Sys2Proof

/-- R140: the opcodes that R139 does not assign. -/
def unassignedOp (n : Nat) : Bool :=
  n == 0 || (0x019 ≤ n && n ≤ 0x01F) || (0x025 ≤ n && n ≤ 0x02F) || n == 0x03B || n == 0x03F
    || (0x04D ≤ n && n ≤ 0x07F) || (0x084 ≤ n && n ≤ 0x08F) || (0x098 ≤ n && n ≤ 0x09F) || (0x0B2 ≤ n && n ≤ 0x0BF)
    || (0x0D3 ≤ n && n ≤ 0x0FF) || (0x10C ≤ n && n ≤ 0x10F) || (0x11C ≤ n && n ≤ 0x11F) || (0x12D ≤ n && n ≤ 0x12F)
    || (0x13B ≤ n && n ≤ 0x13F) || (0x149 ≤ n && n ≤ 0x17F) || (0x187 ≤ n && n ≤ 0x1BF) || (0x1C8 ≤ n && n ≤ 0x1FF)
    || (0x20F ≤ n && n ≤ 0x23F) || (0x249 ≤ n && n ≤ 0x3FF)

/-- The primary opcode of a word, bits [63:54] (R126). -/
def opOf (w : Word) : Nat := (w.extractLsb' 54 10).toNat

/-- Well-formed terms: an instruction that some word stands for, or an event of a unit that exists. Partitions are
numbered 0 to 14 (R408), cores 0 to 191 and acres 0 to 23 (R10), slices 0 to 3 (R12), stops 0 to 11 (R11). -/
def Instr.wf : Instr → Bool
  | .add _ _ => true
  | .sub _ _ => true
  | .mul _ _ => true
  | .mulhi _ _ => true
  | .min _ _ => true
  | .max _ _ => true
  | .abs _ _ => true
  | .neg _ _ => true
  | .and _ _ => true
  | .or _ _ => true
  | .xor _ _ => true
  | .andn _ _ => true
  | .not _ _ => true
  | .shl _ _ => true
  | .shr _ _ => true
  | .sar _ _ => true
  | .rot _ _ => true
  | .popc _ _ => true
  | .clz _ _ => true
  | .ctz _ _ => true
  | .brev _ _ => true
  | .bfe _ _ => true
  | .mov _ _ => true
  | .cmp _ _ => true
  | .fma _ _ => true
  | .mad _ _ => true
  | .sel _ _ => true
  | .bfi _ _ => true
  | .dot4 _ _ => true
  | .addi _ _ => true
  | .muli _ _ => true
  | .andi _ _ => true
  | .ori _ _ => true
  | .xori _ _ => true
  | .shli _ _ => true
  | .shri _ _ => true
  | .sari _ _ => true
  | .cmpi _ _ => true
  | .mini _ _ => true
  | .maxi _ _ => true
  | .movi _ _ => true
  | .movs _ _ => true
  | .movhs _ _ => true
  | .div _ _ => true
  | .sqrt _ _ => true
  | .rsqrt _ _ => true
  | .rcp _ _ => true
  | .exp2 _ _ => true
  | .log2 _ _ => true
  | .sin _ _ => true
  | .cos _ _ => true
  | .tanh _ _ => true
  | .fclass _ _ => true
  | .rint _ _ => true
  | .ldexp _ _ => true
  | .sgnj _ _ => true
  | .cvt _ _ => true
  | .tag _ _ => true
  | .pack _ _ => true
  | .unpk _ _ => true
  | .shfl _ _ => true
  | .bcast _ _ => true
  | .vote _ _ => true
  | .ballot _ _ => true
  | .hred _ _ => true
  | .hscan _ _ => true
  | .rdlane _ _ => true
  | .splat _ _ => true
  | .sadd _ _ => true
  | .ssub _ _ => true
  | .smul _ _ => true
  | .sand _ _ => true
  | .sor _ _ => true
  | .sxor _ _ => true
  | .sshl _ _ => true
  | .sshr _ _ => true
  | .ssar _ _ => true
  | .smin _ _ => true
  | .smax _ _ => true
  | .scmp _ _ => true
  | .ssel _ _ => true
  | .smov _ _ => true
  | .saddi _ _ => true
  | .sandi _ _ => true
  | .sori _ _ => true
  | .sshli _ _ => true
  | .nop _ _ => true
  | .br _ _ => true
  | .jmpi _ _ => true
  | .call _ _ => true
  | .calli _ _ => true
  | .ret _ _ => true
  | .head _ _ => true
  | .exit _ _ => true
  | .yield _ _ => true
  | .barw _ _ => true
  | .bars _ _ => true
  | .fence _ _ => true
  | .sow _ _ => true
  | .trap _ _ => true
  | .rft _ _ => true
  | .sget _ _ => true
  | .sset _ _ => true
  | .dqk _ x => x.x.getLsbD 0 == false
  | .dqkAll _ x => x.x.getLsbD 0 == true
  | .brk _ _ => true
  | .ld _ nib _ => nib.toNat < 12
  | .st _ nib _ => nib.toNat < 12
  | .aaddI32 _ _ => true
  | .aaddF32 _ _ => true
  | .aminI32 _ _ => true
  | .aminN32 _ _ => true
  | .aminF32 _ _ => true
  | .amaxI32 _ _ => true
  | .amaxN32 _ _ => true
  | .amaxF32 _ _ => true
  | .aand _ _ => true
  | .aor _ _ => true
  | .axor _ _ => true
  | .axch _ _ => true
  | .acas _ _ => true
  | .raddI32 _ _ => true
  | .raddF32 _ _ => true
  | .rminI32 _ _ => true
  | .rminN32 _ _ => true
  | .rminF32 _ _ => true
  | .rmaxI32 _ _ => true
  | .rmaxN32 _ _ => true
  | .rmaxF32 _ _ => true
  | .rand _ _ => true
  | .ror _ _ => true
  | .rxor _ _ => true
  | .cpy _ _ => true
  | .cpyg _ _ => true
  | .cwait _ _ => true
  | .smap _ _ => true
  | .sunmap _ _ => true
  | .pf _ _ => true
  | .cinv _ _ => true
  | .cwb _ _ => true
  | .tlbiPage _ x => x.sel.extractLsb' 0 2 != 1#2 && x.sel.extractLsb' 0 2 != 2#2
  | .tlbiAll _ x => x.sel.extractLsb' 0 2 == 1#2
  | .tlbiPid _ x => x.sel.extractLsb' 0 2 == 2#2
  | .mma _ _ => true
  | .mzero _ _ => true
  | .mld _ _ => true
  | .mst _ _ => true
  | .mabs _ _ => true
  | .mmov _ _ => true
  | .mrd _ _ => true
  | .board _ _ => true
  | .rtile _ _ => true
  | .rfree _ _ => true
  | .alight _ _ => true
  | .rpos _ _ => true
  | .rpace _ _ => true
  | .rinst _ _ => true
  | .rstat _ _ => true
  | .dadd _ _ => true
  | .dsub _ _ => true
  | .dmul _ _ => true
  | .dmin _ _ => true
  | .dmax _ _ => true
  | .dneg _ _ => true
  | .dscl _ _ => true
  | .dmix _ _ => true
  | .dpt _ _ => true
  | .datm _ _ => true
  | .dget _ _ => true
  | .dtag _ _ => true
  | .dmom _ _ => true
  | .dqnt _ _ => true
  | .dcdf _ _ => true
  | .trec _ _ => true
  | .trbr _ _ => true
  | .tmark _ _ => true
  | .tply _ _ => true
  | .tplb _ _ => true
  | .tpmk _ _ => true
  | .tbgn _ _ => true
  | .tend _ _ => true
  | .tseg _ _ => true
  | .patienceExpiry k f => k.crew.part < 15 && f < 8
  | .crewRelease c => c.part < 15
  | .yieldExpiry k f => k.crew.part < 15 && f < 8
  | .sowStalledPost k f => k.crew.part < 15 && f < 8
  | .siteRewrite k f => k.crew.part < 15 && f < 8
  | .remoteAnswer k f _ => k.crew.part < 15 && f < 8
  | .peerTimeout k f => k.crew.part < 15 && f < 8
  | .copyStart k f => k.crew.part < 15 && f < 8
  | .copyRetire k _ _ => k.crew.part < 15
  | .windowSectorRecall c w _ => c.part < 15 && w < 8
  | .leaveGrant core slice => core < 192 && slice < 4
  | .matrixReadPhaseEnd core slice => core < 192 && slice < 4
  | .matrixCommandRetire core slice => core < 192 && slice < 4
  | .timetableInstall => true
  | .tileInjection => true
  | .tileArrival stop _ => stop < 12
  | .holdLimitExpiry k => k.crew.part < 15
  | .tilePassed stop => stop < 12
  | .condenserComplete core slice => core < 192 && slice < 4
  | .tapeBlockWrite k => k.crew.part < 15
  | .penning k => k.crew.part < 15
  | .herdResidency k => k.crew.part < 15
  | .admission core => core < 192
  | .crewSaveAreaGrant c => c.part < 15
  | .preemptHerdSave k => k.crew.part < 15
  | .preemptTimeout c => c.part < 15
  | .crewSaveComplete c => c.part < 15
  | .crewRestore c => c.part < 15
  | .lqtail p _ => p < 15
  | .launchQueueEntryRead p => p < 15
  | .completionRecordWrite p => p < 15
  | .faultRecordWrite p => p < 15
  | .fresp p _ => p < 15
  | .reggo p _ => p < 15
  | .registrationComplete p _ => p < 15
  | .preempt p _ => p < 15
  | .attest p _ => p < 15
  | .attestationWritten p => p < 15
  | .hostRegisterWrite p _ _ => p < 15
  | .lend acre p deadline => acre < 24 && p < 15 && 1 ≤ deadline && deadline < 65536
  | .recallAcre acre => acre < 24
  | .recallComplete acre => acre < 24
  | .boot _ => true
  | .recoveryImageReplace _ => true
  | .unassignedOpcode w => unassignedOp (opOf w)
  | .peerAccessRequest r => r.index < 4096
  | .poljorLinkDown l => l < 16
  | .poljorLinkUp l => l < 16
  | .l1SectorEviction core _ => core < 192

end Sys2Proof
end

