-- ==== Sys2Proof/Decode.lean ====
section
/-! DEFINITION. Decoding a 64-bit word into its instruction (R125 to R131, R139 to R142) and encoding one back. Decoding is
total on any bytes: fewer than eight bytes are rejected by name, and a word whose opcode R139 does not assign is the row
UNASSIGNED_OPCODE (R140). -/

namespace Sys2Proof

/-- Why bytes decode to no word. -/
inductive DecodeError where
  /-- Fewer than eight bytes are left (R125). -/
  | shortWord
  deriving DecidableEq, Repr

/-- The header fields, bits [53:40] (R126). -/
def hdrOf (w : Word) : Header where
  ss := w.extractLsb' 52 2
  wc := w.extractLsb' 49 3
  u := w.getLsbD 48
  pe := w.getLsbD 47
  pn := w.getLsbD 46
  pk := w.getLsbD 45
  pr := w.extractLsb' 40 5

/-- Format F3 (R127). -/
def f3Of (w : Word) : F3 where
  d := w.extractLsb' 32 8
  a := w.extractLsb' 24 8
  b := w.extractLsb' 16 8
  fn := w.extractLsb' 8 8
  mb := w.extractLsb' 0 8

/-- Format F4 (R127). -/
def f4Of (w : Word) : F4 where
  d := w.extractLsb' 32 8
  a := w.extractLsb' 24 8
  b := w.extractLsb' 16 8
  c := w.extractLsb' 8 8
  mb := w.extractLsb' 0 8

/-- Format FI (R127). -/
def fiOf (w : Word) : FI where
  d := w.extractLsb' 32 8
  a := w.extractLsb' 24 8
  imm := w.extractLsb' 8 16
  mb := w.extractLsb' 0 8

/-- Format FL (R127). -/
def flOf (w : Word) : FL where
  d := w.extractLsb' 32 8
  imm := w.extractLsb' 0 32

/-- Format FM (R127, R129). -/
def fmOf (w : Word) : FM where
  d := w.extractLsb' 32 8
  sb := w.extractLsb' 26 6
  vo := w.extractLsb' 18 8
  imm := w.extractLsb' 6 12
  spc := w.extractLsb' 3 3
  wid := w.extractLsb' 0 3

/-- Format FB (R127, R130). -/
def fbOf (w : Word) : FB where
  off := w.extractLsb' 16 24
  ck := w.extractLsb' 14 2
  cn := w.getLsbD 13
  cr := w.extractLsb' 8 5
  hid := w.extractLsb' 4 4
  rsv := w.extractLsb' 0 4

/-- Format FE (R127). -/
def feOf (w : Word) : FE where
  d := w.extractLsb' 32 8
  sa := w.extractLsb' 26 6
  sb := w.extractLsb' 20 6
  sf := w.extractLsb' 14 6
  x := w.extractLsb' 0 14

/-- Format FS (R127, R131). -/
def fsOf (w : Word) : FS where
  d := w.extractLsb' 32 8
  a := w.extractLsb' 24 8
  sel := w.extractLsb' 8 16
  x := w.extractLsb' 0 8

/-- The instruction that a word of primary opcode `op` stands for (R139, R142, R192, R252). -/
def decodeOp (op : Nat) (w : Word) : Instr :=
  match op with
  | 0x001 => .add (hdrOf w) (f3Of w)
  | 0x002 => .sub (hdrOf w) (f3Of w)
  | 0x003 => .mul (hdrOf w) (f3Of w)
  | 0x004 => .mulhi (hdrOf w) (f3Of w)
  | 0x005 => .min (hdrOf w) (f3Of w)
  | 0x006 => .max (hdrOf w) (f3Of w)
  | 0x007 => .abs (hdrOf w) (f3Of w)
  | 0x008 => .neg (hdrOf w) (f3Of w)
  | 0x009 => .and (hdrOf w) (f3Of w)
  | 0x00A => .or (hdrOf w) (f3Of w)
  | 0x00B => .xor (hdrOf w) (f3Of w)
  | 0x00C => .andn (hdrOf w) (f3Of w)
  | 0x00D => .not (hdrOf w) (f3Of w)
  | 0x00E => .shl (hdrOf w) (f3Of w)
  | 0x00F => .shr (hdrOf w) (f3Of w)
  | 0x010 => .sar (hdrOf w) (f3Of w)
  | 0x011 => .rot (hdrOf w) (f3Of w)
  | 0x012 => .popc (hdrOf w) (f3Of w)
  | 0x013 => .clz (hdrOf w) (f3Of w)
  | 0x014 => .ctz (hdrOf w) (f3Of w)
  | 0x015 => .brev (hdrOf w) (f3Of w)
  | 0x016 => .bfe (hdrOf w) (f3Of w)
  | 0x017 => .mov (hdrOf w) (f3Of w)
  | 0x018 => .cmp (hdrOf w) (f3Of w)
  | 0x020 => .fma (hdrOf w) (f4Of w)
  | 0x021 => .mad (hdrOf w) (f4Of w)
  | 0x022 => .sel (hdrOf w) (f4Of w)
  | 0x023 => .bfi (hdrOf w) (f4Of w)
  | 0x024 => .dot4 (hdrOf w) (f4Of w)
  | 0x030 => .addi (hdrOf w) (fiOf w)
  | 0x031 => .muli (hdrOf w) (fiOf w)
  | 0x032 => .andi (hdrOf w) (fiOf w)
  | 0x033 => .ori (hdrOf w) (fiOf w)
  | 0x034 => .xori (hdrOf w) (fiOf w)
  | 0x035 => .shli (hdrOf w) (fiOf w)
  | 0x036 => .shri (hdrOf w) (fiOf w)
  | 0x037 => .sari (hdrOf w) (fiOf w)
  | 0x038 => .cmpi (hdrOf w) (fiOf w)
  | 0x039 => .mini (hdrOf w) (fiOf w)
  | 0x03A => .maxi (hdrOf w) (fiOf w)
  | 0x03C => .movi (hdrOf w) (flOf w)
  | 0x03D => .movs (hdrOf w) (flOf w)
  | 0x03E => .movhs (hdrOf w) (flOf w)
  | 0x040 => .div (hdrOf w) (f3Of w)
  | 0x041 => .sqrt (hdrOf w) (f3Of w)
  | 0x042 => .rsqrt (hdrOf w) (f3Of w)
  | 0x043 => .rcp (hdrOf w) (f3Of w)
  | 0x044 => .exp2 (hdrOf w) (f3Of w)
  | 0x045 => .log2 (hdrOf w) (f3Of w)
  | 0x046 => .sin (hdrOf w) (f3Of w)
  | 0x047 => .cos (hdrOf w) (f3Of w)
  | 0x048 => .tanh (hdrOf w) (f3Of w)
  | 0x049 => .fclass (hdrOf w) (f3Of w)
  | 0x04A => .rint (hdrOf w) (f3Of w)
  | 0x04B => .ldexp (hdrOf w) (f3Of w)
  | 0x04C => .sgnj (hdrOf w) (f3Of w)
  | 0x080 => .cvt (hdrOf w) (f3Of w)
  | 0x081 => .tag (hdrOf w) (f3Of w)
  | 0x082 => .pack (hdrOf w) (f3Of w)
  | 0x083 => .unpk (hdrOf w) (f3Of w)
  | 0x090 => .shfl (hdrOf w) (f3Of w)
  | 0x091 => .bcast (hdrOf w) (f3Of w)
  | 0x092 => .vote (hdrOf w) (f3Of w)
  | 0x093 => .ballot (hdrOf w) (f3Of w)
  | 0x094 => .hred (hdrOf w) (f3Of w)
  | 0x095 => .hscan (hdrOf w) (f3Of w)
  | 0x096 => .rdlane (hdrOf w) (f3Of w)
  | 0x097 => .splat (hdrOf w) (f3Of w)
  | 0x0A0 => .sadd (hdrOf w) (f3Of w)
  | 0x0A1 => .ssub (hdrOf w) (f3Of w)
  | 0x0A2 => .smul (hdrOf w) (f3Of w)
  | 0x0A3 => .sand (hdrOf w) (f3Of w)
  | 0x0A4 => .sor (hdrOf w) (f3Of w)
  | 0x0A5 => .sxor (hdrOf w) (f3Of w)
  | 0x0A6 => .sshl (hdrOf w) (f3Of w)
  | 0x0A7 => .sshr (hdrOf w) (f3Of w)
  | 0x0A8 => .ssar (hdrOf w) (f3Of w)
  | 0x0A9 => .smin (hdrOf w) (f3Of w)
  | 0x0AA => .smax (hdrOf w) (f3Of w)
  | 0x0AB => .scmp (hdrOf w) (f3Of w)
  | 0x0AC => .ssel (hdrOf w) (f4Of w)
  | 0x0AD => .smov (hdrOf w) (f3Of w)
  | 0x0AE => .saddi (hdrOf w) (fiOf w)
  | 0x0AF => .sandi (hdrOf w) (fiOf w)
  | 0x0B0 => .sori (hdrOf w) (fiOf w)
  | 0x0B1 => .sshli (hdrOf w) (fiOf w)
  | 0x0C0 => .nop (hdrOf w) (fsOf w)
  | 0x0C1 => .br (hdrOf w) (fbOf w)
  | 0x0C2 => .jmpi (hdrOf w) (f3Of w)
  | 0x0C3 => .call (hdrOf w) (fbOf w)
  | 0x0C4 => .calli (hdrOf w) (f3Of w)
  | 0x0C5 => .ret (hdrOf w) (f3Of w)
  | 0x0C6 => .head (hdrOf w) (fbOf w)
  | 0x0C7 => .exit (hdrOf w) (fsOf w)
  | 0x0C8 => .yield (hdrOf w) (fsOf w)
  | 0x0C9 => .barw (hdrOf w) (fsOf w)
  | 0x0CA => .bars (hdrOf w) (fsOf w)
  | 0x0CB => .fence (hdrOf w) (fsOf w)
  | 0x0CC => .sow (hdrOf w) (feOf w)
  | 0x0CD => .trap (hdrOf w) (fsOf w)
  | 0x0CE => .rft (hdrOf w) (fsOf w)
  | 0x0CF => .sget (hdrOf w) (fsOf w)
  | 0x0D0 => .sset (hdrOf w) (fsOf w)
  | 0x0D1 => if w.getLsbD 0 then .dqkAll (hdrOf w) (fsOf w) else .dqk (hdrOf w) (fsOf w)
  | 0x0D2 => .brk (hdrOf w) (fsOf w)
  | 0x100 => .ld (hdrOf w) 0#4 (fmOf w)
  | 0x101 => .ld (hdrOf w) 1#4 (fmOf w)
  | 0x102 => .ld (hdrOf w) 2#4 (fmOf w)
  | 0x103 => .ld (hdrOf w) 3#4 (fmOf w)
  | 0x104 => .ld (hdrOf w) 4#4 (fmOf w)
  | 0x105 => .ld (hdrOf w) 5#4 (fmOf w)
  | 0x106 => .ld (hdrOf w) 6#4 (fmOf w)
  | 0x107 => .ld (hdrOf w) 7#4 (fmOf w)
  | 0x108 => .ld (hdrOf w) 8#4 (fmOf w)
  | 0x109 => .ld (hdrOf w) 9#4 (fmOf w)
  | 0x10A => .ld (hdrOf w) 10#4 (fmOf w)
  | 0x10B => .ld (hdrOf w) 11#4 (fmOf w)
  | 0x110 => .st (hdrOf w) 0#4 (fmOf w)
  | 0x111 => .st (hdrOf w) 1#4 (fmOf w)
  | 0x112 => .st (hdrOf w) 2#4 (fmOf w)
  | 0x113 => .st (hdrOf w) 3#4 (fmOf w)
  | 0x114 => .st (hdrOf w) 4#4 (fmOf w)
  | 0x115 => .st (hdrOf w) 5#4 (fmOf w)
  | 0x116 => .st (hdrOf w) 6#4 (fmOf w)
  | 0x117 => .st (hdrOf w) 7#4 (fmOf w)
  | 0x118 => .st (hdrOf w) 8#4 (fmOf w)
  | 0x119 => .st (hdrOf w) 9#4 (fmOf w)
  | 0x11A => .st (hdrOf w) 10#4 (fmOf w)
  | 0x11B => .st (hdrOf w) 11#4 (fmOf w)
  | 0x120 => .aaddI32 (hdrOf w) (fmOf w)
  | 0x121 => .aaddF32 (hdrOf w) (fmOf w)
  | 0x122 => .aminI32 (hdrOf w) (fmOf w)
  | 0x123 => .aminN32 (hdrOf w) (fmOf w)
  | 0x124 => .aminF32 (hdrOf w) (fmOf w)
  | 0x125 => .amaxI32 (hdrOf w) (fmOf w)
  | 0x126 => .amaxN32 (hdrOf w) (fmOf w)
  | 0x127 => .amaxF32 (hdrOf w) (fmOf w)
  | 0x128 => .aand (hdrOf w) (fmOf w)
  | 0x129 => .aor (hdrOf w) (fmOf w)
  | 0x12A => .axor (hdrOf w) (fmOf w)
  | 0x12B => .axch (hdrOf w) (fmOf w)
  | 0x12C => .acas (hdrOf w) (fmOf w)
  | 0x130 => .raddI32 (hdrOf w) (fmOf w)
  | 0x131 => .raddF32 (hdrOf w) (fmOf w)
  | 0x132 => .rminI32 (hdrOf w) (fmOf w)
  | 0x133 => .rminN32 (hdrOf w) (fmOf w)
  | 0x134 => .rminF32 (hdrOf w) (fmOf w)
  | 0x135 => .rmaxI32 (hdrOf w) (fmOf w)
  | 0x136 => .rmaxN32 (hdrOf w) (fmOf w)
  | 0x137 => .rmaxF32 (hdrOf w) (fmOf w)
  | 0x138 => .rand (hdrOf w) (fmOf w)
  | 0x139 => .ror (hdrOf w) (fmOf w)
  | 0x13A => .rxor (hdrOf w) (fmOf w)
  | 0x140 => .cpy (hdrOf w) (feOf w)
  | 0x141 => .cpyg (hdrOf w) (feOf w)
  | 0x142 => .cwait (hdrOf w) (feOf w)
  | 0x143 => .smap (hdrOf w) (feOf w)
  | 0x144 => .sunmap (hdrOf w) (feOf w)
  | 0x145 => .pf (hdrOf w) (fmOf w)
  | 0x146 => .cinv (hdrOf w) (fmOf w)
  | 0x147 => .cwb (hdrOf w) (fmOf w)
  | 0x148 =>
    if w.extractLsb' 8 2 = 1#2 then .tlbiAll (hdrOf w) (fsOf w)
    else if w.extractLsb' 8 2 = 2#2 then .tlbiPid (hdrOf w) (fsOf w)
    else .tlbiPage (hdrOf w) (fsOf w)
  | 0x180 => .mma (hdrOf w) (feOf w)
  | 0x181 => .mzero (hdrOf w) (feOf w)
  | 0x182 => .mld (hdrOf w) (feOf w)
  | 0x183 => .mst (hdrOf w) (feOf w)
  | 0x184 => .mabs (hdrOf w) (feOf w)
  | 0x185 => .mmov (hdrOf w) (feOf w)
  | 0x186 => .mrd (hdrOf w) (feOf w)
  | 0x1C0 => .board (hdrOf w) (feOf w)
  | 0x1C1 => .rtile (hdrOf w) (feOf w)
  | 0x1C2 => .rfree (hdrOf w) (feOf w)
  | 0x1C3 => .alight (hdrOf w) (feOf w)
  | 0x1C4 => .rpos (hdrOf w) (feOf w)
  | 0x1C5 => .rpace (hdrOf w) (feOf w)
  | 0x1C6 => .rinst (hdrOf w) (feOf w)
  | 0x1C7 => .rstat (hdrOf w) (feOf w)
  | 0x200 => .dadd (hdrOf w) (f3Of w)
  | 0x201 => .dsub (hdrOf w) (f3Of w)
  | 0x202 => .dmul (hdrOf w) (f3Of w)
  | 0x203 => .dmin (hdrOf w) (f3Of w)
  | 0x204 => .dmax (hdrOf w) (f3Of w)
  | 0x205 => .dneg (hdrOf w) (f3Of w)
  | 0x206 => .dscl (hdrOf w) (f3Of w)
  | 0x207 => .dmix (hdrOf w) (f3Of w)
  | 0x208 => .dpt (hdrOf w) (f3Of w)
  | 0x209 => .datm (hdrOf w) (f3Of w)
  | 0x20A => .dget (hdrOf w) (f3Of w)
  | 0x20B => .dtag (hdrOf w) (fiOf w)
  | 0x20C => .dmom (hdrOf w) (f3Of w)
  | 0x20D => .dqnt (hdrOf w) (f3Of w)
  | 0x20E => .dcdf (hdrOf w) (f3Of w)
  | 0x240 => .trec (hdrOf w) (f3Of w)
  | 0x241 => .trbr (hdrOf w) (f3Of w)
  | 0x242 => .tmark (hdrOf w) (fiOf w)
  | 0x243 => .tply (hdrOf w) (f3Of w)
  | 0x244 => .tplb (hdrOf w) (f3Of w)
  | 0x245 => .tpmk (hdrOf w) (f3Of w)
  | 0x246 => .tbgn (hdrOf w) (feOf w)
  | 0x247 => .tend (hdrOf w) (fsOf w)
  | 0x248 => .tseg (hdrOf w) (feOf w)
  | _ => .unassignedOpcode w

/-- The instruction that a word stands for. -/
def decodeWord (w : Word) : Instr := decodeOp (opOf w) w

/-- The little-endian number of a list of bytes (R1). -/
def leNat : List Byte → Nat
  | [] => 0
  | b :: bs => b.toNat + 256 * leNat bs

/-- The n little-endian bytes of a number (R1). -/
def leBytes : Nat → Nat → List Byte
  | 0, _ => []
  | n + 1, v => BitVec.ofNat 8 v :: leBytes n (v / 256)

/-- One instruction from the front of a list of bytes, with the rest (R125). -/
def decodeBytes (bs : List Byte) : Except DecodeError (Instr × List Byte) :=
  if bs.length < 8 then .error .shortWord
  else .ok (decodeWord (BitVec.ofNat 64 (leNat (bs.take 8))), bs.drop 8)

/-- Bits [63:40] of a word: opcode and header (R126). -/
def headBits (op : Nat) (h : Header) : BitVec 24 :=
  BitVec.ofNat 10 op ++ h.ss ++ h.wc ++ BitVec.ofBool h.u ++ BitVec.ofBool h.pe ++ BitVec.ofBool h.pn
    ++ BitVec.ofBool h.pk ++ h.pr

/-- A word from its opcode, header and bits [39:0]. -/
def wordOf (op : Nat) (h : Header) (body : BitVec 40) : Word := headBits op h ++ body

def F3.bits (x : F3) : BitVec 40 := x.d ++ x.a ++ x.b ++ x.fn ++ x.mb
def F4.bits (x : F4) : BitVec 40 := x.d ++ x.a ++ x.b ++ x.c ++ x.mb
def FI.bits (x : FI) : BitVec 40 := x.d ++ x.a ++ x.imm ++ x.mb
def FL.bits (x : FL) : BitVec 40 := x.d ++ x.imm
def FM.bits (x : FM) : BitVec 40 := x.d ++ x.sb ++ x.vo ++ x.imm ++ x.spc ++ x.wid
def FB.bits (x : FB) : BitVec 40 := x.off ++ x.ck ++ BitVec.ofBool x.cn ++ x.cr ++ x.hid ++ x.rsv
def FE.bits (x : FE) : BitVec 40 := x.d ++ x.sa ++ x.sb ++ x.sf ++ x.x
def FS.bits (x : FS) : BitVec 40 := x.d ++ x.a ++ x.sel ++ x.x

/-- The word of an instruction (R126, R127, R139); none for an event, which no word stands for. -/
def encode : Instr → Option Word
  | .add h x => some (wordOf 0x001 h x.bits)
  | .sub h x => some (wordOf 0x002 h x.bits)
  | .mul h x => some (wordOf 0x003 h x.bits)
  | .mulhi h x => some (wordOf 0x004 h x.bits)
  | .min h x => some (wordOf 0x005 h x.bits)
  | .max h x => some (wordOf 0x006 h x.bits)
  | .abs h x => some (wordOf 0x007 h x.bits)
  | .neg h x => some (wordOf 0x008 h x.bits)
  | .and h x => some (wordOf 0x009 h x.bits)
  | .or h x => some (wordOf 0x00A h x.bits)
  | .xor h x => some (wordOf 0x00B h x.bits)
  | .andn h x => some (wordOf 0x00C h x.bits)
  | .not h x => some (wordOf 0x00D h x.bits)
  | .shl h x => some (wordOf 0x00E h x.bits)
  | .shr h x => some (wordOf 0x00F h x.bits)
  | .sar h x => some (wordOf 0x010 h x.bits)
  | .rot h x => some (wordOf 0x011 h x.bits)
  | .popc h x => some (wordOf 0x012 h x.bits)
  | .clz h x => some (wordOf 0x013 h x.bits)
  | .ctz h x => some (wordOf 0x014 h x.bits)
  | .brev h x => some (wordOf 0x015 h x.bits)
  | .bfe h x => some (wordOf 0x016 h x.bits)
  | .mov h x => some (wordOf 0x017 h x.bits)
  | .cmp h x => some (wordOf 0x018 h x.bits)
  | .fma h x => some (wordOf 0x020 h x.bits)
  | .mad h x => some (wordOf 0x021 h x.bits)
  | .sel h x => some (wordOf 0x022 h x.bits)
  | .bfi h x => some (wordOf 0x023 h x.bits)
  | .dot4 h x => some (wordOf 0x024 h x.bits)
  | .addi h x => some (wordOf 0x030 h x.bits)
  | .muli h x => some (wordOf 0x031 h x.bits)
  | .andi h x => some (wordOf 0x032 h x.bits)
  | .ori h x => some (wordOf 0x033 h x.bits)
  | .xori h x => some (wordOf 0x034 h x.bits)
  | .shli h x => some (wordOf 0x035 h x.bits)
  | .shri h x => some (wordOf 0x036 h x.bits)
  | .sari h x => some (wordOf 0x037 h x.bits)
  | .cmpi h x => some (wordOf 0x038 h x.bits)
  | .mini h x => some (wordOf 0x039 h x.bits)
  | .maxi h x => some (wordOf 0x03A h x.bits)
  | .movi h x => some (wordOf 0x03C h x.bits)
  | .movs h x => some (wordOf 0x03D h x.bits)
  | .movhs h x => some (wordOf 0x03E h x.bits)
  | .div h x => some (wordOf 0x040 h x.bits)
  | .sqrt h x => some (wordOf 0x041 h x.bits)
  | .rsqrt h x => some (wordOf 0x042 h x.bits)
  | .rcp h x => some (wordOf 0x043 h x.bits)
  | .exp2 h x => some (wordOf 0x044 h x.bits)
  | .log2 h x => some (wordOf 0x045 h x.bits)
  | .sin h x => some (wordOf 0x046 h x.bits)
  | .cos h x => some (wordOf 0x047 h x.bits)
  | .tanh h x => some (wordOf 0x048 h x.bits)
  | .fclass h x => some (wordOf 0x049 h x.bits)
  | .rint h x => some (wordOf 0x04A h x.bits)
  | .ldexp h x => some (wordOf 0x04B h x.bits)
  | .sgnj h x => some (wordOf 0x04C h x.bits)
  | .cvt h x => some (wordOf 0x080 h x.bits)
  | .tag h x => some (wordOf 0x081 h x.bits)
  | .pack h x => some (wordOf 0x082 h x.bits)
  | .unpk h x => some (wordOf 0x083 h x.bits)
  | .shfl h x => some (wordOf 0x090 h x.bits)
  | .bcast h x => some (wordOf 0x091 h x.bits)
  | .vote h x => some (wordOf 0x092 h x.bits)
  | .ballot h x => some (wordOf 0x093 h x.bits)
  | .hred h x => some (wordOf 0x094 h x.bits)
  | .hscan h x => some (wordOf 0x095 h x.bits)
  | .rdlane h x => some (wordOf 0x096 h x.bits)
  | .splat h x => some (wordOf 0x097 h x.bits)
  | .sadd h x => some (wordOf 0x0A0 h x.bits)
  | .ssub h x => some (wordOf 0x0A1 h x.bits)
  | .smul h x => some (wordOf 0x0A2 h x.bits)
  | .sand h x => some (wordOf 0x0A3 h x.bits)
  | .sor h x => some (wordOf 0x0A4 h x.bits)
  | .sxor h x => some (wordOf 0x0A5 h x.bits)
  | .sshl h x => some (wordOf 0x0A6 h x.bits)
  | .sshr h x => some (wordOf 0x0A7 h x.bits)
  | .ssar h x => some (wordOf 0x0A8 h x.bits)
  | .smin h x => some (wordOf 0x0A9 h x.bits)
  | .smax h x => some (wordOf 0x0AA h x.bits)
  | .scmp h x => some (wordOf 0x0AB h x.bits)
  | .ssel h x => some (wordOf 0x0AC h x.bits)
  | .smov h x => some (wordOf 0x0AD h x.bits)
  | .saddi h x => some (wordOf 0x0AE h x.bits)
  | .sandi h x => some (wordOf 0x0AF h x.bits)
  | .sori h x => some (wordOf 0x0B0 h x.bits)
  | .sshli h x => some (wordOf 0x0B1 h x.bits)
  | .nop h x => some (wordOf 0x0C0 h x.bits)
  | .br h x => some (wordOf 0x0C1 h x.bits)
  | .jmpi h x => some (wordOf 0x0C2 h x.bits)
  | .call h x => some (wordOf 0x0C3 h x.bits)
  | .calli h x => some (wordOf 0x0C4 h x.bits)
  | .ret h x => some (wordOf 0x0C5 h x.bits)
  | .head h x => some (wordOf 0x0C6 h x.bits)
  | .exit h x => some (wordOf 0x0C7 h x.bits)
  | .yield h x => some (wordOf 0x0C8 h x.bits)
  | .barw h x => some (wordOf 0x0C9 h x.bits)
  | .bars h x => some (wordOf 0x0CA h x.bits)
  | .fence h x => some (wordOf 0x0CB h x.bits)
  | .sow h x => some (wordOf 0x0CC h x.bits)
  | .trap h x => some (wordOf 0x0CD h x.bits)
  | .rft h x => some (wordOf 0x0CE h x.bits)
  | .sget h x => some (wordOf 0x0CF h x.bits)
  | .sset h x => some (wordOf 0x0D0 h x.bits)
  | .dqk h x => some (wordOf 0x0D1 h x.bits)
  | .dqkAll h x => some (wordOf 0x0D1 h x.bits)
  | .brk h x => some (wordOf 0x0D2 h x.bits)
  | .ld h nib x => some (wordOf (0x100 + nib.toNat) h x.bits)
  | .st h nib x => some (wordOf (0x110 + nib.toNat) h x.bits)
  | .aaddI32 h x => some (wordOf 0x120 h x.bits)
  | .aaddF32 h x => some (wordOf 0x121 h x.bits)
  | .aminI32 h x => some (wordOf 0x122 h x.bits)
  | .aminN32 h x => some (wordOf 0x123 h x.bits)
  | .aminF32 h x => some (wordOf 0x124 h x.bits)
  | .amaxI32 h x => some (wordOf 0x125 h x.bits)
  | .amaxN32 h x => some (wordOf 0x126 h x.bits)
  | .amaxF32 h x => some (wordOf 0x127 h x.bits)
  | .aand h x => some (wordOf 0x128 h x.bits)
  | .aor h x => some (wordOf 0x129 h x.bits)
  | .axor h x => some (wordOf 0x12A h x.bits)
  | .axch h x => some (wordOf 0x12B h x.bits)
  | .acas h x => some (wordOf 0x12C h x.bits)
  | .raddI32 h x => some (wordOf 0x130 h x.bits)
  | .raddF32 h x => some (wordOf 0x131 h x.bits)
  | .rminI32 h x => some (wordOf 0x132 h x.bits)
  | .rminN32 h x => some (wordOf 0x133 h x.bits)
  | .rminF32 h x => some (wordOf 0x134 h x.bits)
  | .rmaxI32 h x => some (wordOf 0x135 h x.bits)
  | .rmaxN32 h x => some (wordOf 0x136 h x.bits)
  | .rmaxF32 h x => some (wordOf 0x137 h x.bits)
  | .rand h x => some (wordOf 0x138 h x.bits)
  | .ror h x => some (wordOf 0x139 h x.bits)
  | .rxor h x => some (wordOf 0x13A h x.bits)
  | .cpy h x => some (wordOf 0x140 h x.bits)
  | .cpyg h x => some (wordOf 0x141 h x.bits)
  | .cwait h x => some (wordOf 0x142 h x.bits)
  | .smap h x => some (wordOf 0x143 h x.bits)
  | .sunmap h x => some (wordOf 0x144 h x.bits)
  | .pf h x => some (wordOf 0x145 h x.bits)
  | .cinv h x => some (wordOf 0x146 h x.bits)
  | .cwb h x => some (wordOf 0x147 h x.bits)
  | .tlbiPage h x => some (wordOf 0x148 h x.bits)
  | .tlbiAll h x => some (wordOf 0x148 h x.bits)
  | .tlbiPid h x => some (wordOf 0x148 h x.bits)
  | .mma h x => some (wordOf 0x180 h x.bits)
  | .mzero h x => some (wordOf 0x181 h x.bits)
  | .mld h x => some (wordOf 0x182 h x.bits)
  | .mst h x => some (wordOf 0x183 h x.bits)
  | .mabs h x => some (wordOf 0x184 h x.bits)
  | .mmov h x => some (wordOf 0x185 h x.bits)
  | .mrd h x => some (wordOf 0x186 h x.bits)
  | .board h x => some (wordOf 0x1C0 h x.bits)
  | .rtile h x => some (wordOf 0x1C1 h x.bits)
  | .rfree h x => some (wordOf 0x1C2 h x.bits)
  | .alight h x => some (wordOf 0x1C3 h x.bits)
  | .rpos h x => some (wordOf 0x1C4 h x.bits)
  | .rpace h x => some (wordOf 0x1C5 h x.bits)
  | .rinst h x => some (wordOf 0x1C6 h x.bits)
  | .rstat h x => some (wordOf 0x1C7 h x.bits)
  | .dadd h x => some (wordOf 0x200 h x.bits)
  | .dsub h x => some (wordOf 0x201 h x.bits)
  | .dmul h x => some (wordOf 0x202 h x.bits)
  | .dmin h x => some (wordOf 0x203 h x.bits)
  | .dmax h x => some (wordOf 0x204 h x.bits)
  | .dneg h x => some (wordOf 0x205 h x.bits)
  | .dscl h x => some (wordOf 0x206 h x.bits)
  | .dmix h x => some (wordOf 0x207 h x.bits)
  | .dpt h x => some (wordOf 0x208 h x.bits)
  | .datm h x => some (wordOf 0x209 h x.bits)
  | .dget h x => some (wordOf 0x20A h x.bits)
  | .dtag h x => some (wordOf 0x20B h x.bits)
  | .dmom h x => some (wordOf 0x20C h x.bits)
  | .dqnt h x => some (wordOf 0x20D h x.bits)
  | .dcdf h x => some (wordOf 0x20E h x.bits)
  | .trec h x => some (wordOf 0x240 h x.bits)
  | .trbr h x => some (wordOf 0x241 h x.bits)
  | .tmark h x => some (wordOf 0x242 h x.bits)
  | .tply h x => some (wordOf 0x243 h x.bits)
  | .tplb h x => some (wordOf 0x244 h x.bits)
  | .tpmk h x => some (wordOf 0x245 h x.bits)
  | .tbgn h x => some (wordOf 0x246 h x.bits)
  | .tend h x => some (wordOf 0x247 h x.bits)
  | .tseg h x => some (wordOf 0x248 h x.bits)
  | .patienceExpiry _ _ => none
  | .crewRelease _ => none
  | .yieldExpiry _ _ => none
  | .sowStalledPost _ _ => none
  | .siteRewrite _ _ => none
  | .remoteAnswer _ _ _ => none
  | .peerTimeout _ _ => none
  | .copyStart _ _ => none
  | .copyRetire _ _ _ => none
  | .windowSectorRecall _ _ _ => none
  | .leaveGrant _ _ => none
  | .matrixReadPhaseEnd _ _ => none
  | .matrixCommandRetire _ _ => none
  | .timetableInstall => none
  | .tileInjection => none
  | .tileArrival _ _ => none
  | .holdLimitExpiry _ => none
  | .tilePassed _ => none
  | .condenserComplete _ _ => none
  | .tapeBlockWrite _ => none
  | .penning _ => none
  | .herdResidency _ => none
  | .admission _ => none
  | .crewSaveAreaGrant _ => none
  | .preemptHerdSave _ => none
  | .preemptTimeout _ => none
  | .crewSaveComplete _ => none
  | .crewRestore _ => none
  | .lqtail _ _ => none
  | .launchQueueEntryRead _ => none
  | .completionRecordWrite _ => none
  | .faultRecordWrite _ => none
  | .fresp _ _ => none
  | .reggo _ _ => none
  | .registrationComplete _ _ => none
  | .preempt _ _ => none
  | .attest _ _ => none
  | .attestationWritten _ => none
  | .hostRegisterWrite _ _ _ => none
  | .lend _ _ _ => none
  | .recallAcre _ => none
  | .recallComplete _ => none
  | .boot _ => none
  | .recoveryImageReplace _ => none
  | .unassignedOpcode w => some w
  | .peerAccessRequest _ => none
  | .poljorLinkDown _ => none
  | .poljorLinkUp _ => none
  | .l1SectorEviction _ _ => none

/-- The header of an instruction word; events have none. -/
def Instr.header : Instr → Option Header
  | .add h _ => some h
  | .sub h _ => some h
  | .mul h _ => some h
  | .mulhi h _ => some h
  | .min h _ => some h
  | .max h _ => some h
  | .abs h _ => some h
  | .neg h _ => some h
  | .and h _ => some h
  | .or h _ => some h
  | .xor h _ => some h
  | .andn h _ => some h
  | .not h _ => some h
  | .shl h _ => some h
  | .shr h _ => some h
  | .sar h _ => some h
  | .rot h _ => some h
  | .popc h _ => some h
  | .clz h _ => some h
  | .ctz h _ => some h
  | .brev h _ => some h
  | .bfe h _ => some h
  | .mov h _ => some h
  | .cmp h _ => some h
  | .fma h _ => some h
  | .mad h _ => some h
  | .sel h _ => some h
  | .bfi h _ => some h
  | .dot4 h _ => some h
  | .addi h _ => some h
  | .muli h _ => some h
  | .andi h _ => some h
  | .ori h _ => some h
  | .xori h _ => some h
  | .shli h _ => some h
  | .shri h _ => some h
  | .sari h _ => some h
  | .cmpi h _ => some h
  | .mini h _ => some h
  | .maxi h _ => some h
  | .movi h _ => some h
  | .movs h _ => some h
  | .movhs h _ => some h
  | .div h _ => some h
  | .sqrt h _ => some h
  | .rsqrt h _ => some h
  | .rcp h _ => some h
  | .exp2 h _ => some h
  | .log2 h _ => some h
  | .sin h _ => some h
  | .cos h _ => some h
  | .tanh h _ => some h
  | .fclass h _ => some h
  | .rint h _ => some h
  | .ldexp h _ => some h
  | .sgnj h _ => some h
  | .cvt h _ => some h
  | .tag h _ => some h
  | .pack h _ => some h
  | .unpk h _ => some h
  | .shfl h _ => some h
  | .bcast h _ => some h
  | .vote h _ => some h
  | .ballot h _ => some h
  | .hred h _ => some h
  | .hscan h _ => some h
  | .rdlane h _ => some h
  | .splat h _ => some h
  | .sadd h _ => some h
  | .ssub h _ => some h
  | .smul h _ => some h
  | .sand h _ => some h
  | .sor h _ => some h
  | .sxor h _ => some h
  | .sshl h _ => some h
  | .sshr h _ => some h
  | .ssar h _ => some h
  | .smin h _ => some h
  | .smax h _ => some h
  | .scmp h _ => some h
  | .ssel h _ => some h
  | .smov h _ => some h
  | .saddi h _ => some h
  | .sandi h _ => some h
  | .sori h _ => some h
  | .sshli h _ => some h
  | .nop h _ => some h
  | .br h _ => some h
  | .jmpi h _ => some h
  | .call h _ => some h
  | .calli h _ => some h
  | .ret h _ => some h
  | .head h _ => some h
  | .exit h _ => some h
  | .yield h _ => some h
  | .barw h _ => some h
  | .bars h _ => some h
  | .fence h _ => some h
  | .sow h _ => some h
  | .trap h _ => some h
  | .rft h _ => some h
  | .sget h _ => some h
  | .sset h _ => some h
  | .dqk h _ => some h
  | .dqkAll h _ => some h
  | .brk h _ => some h
  | .ld h _ _ => some h
  | .st h _ _ => some h
  | .aaddI32 h _ => some h
  | .aaddF32 h _ => some h
  | .aminI32 h _ => some h
  | .aminN32 h _ => some h
  | .aminF32 h _ => some h
  | .amaxI32 h _ => some h
  | .amaxN32 h _ => some h
  | .amaxF32 h _ => some h
  | .aand h _ => some h
  | .aor h _ => some h
  | .axor h _ => some h
  | .axch h _ => some h
  | .acas h _ => some h
  | .raddI32 h _ => some h
  | .raddF32 h _ => some h
  | .rminI32 h _ => some h
  | .rminN32 h _ => some h
  | .rminF32 h _ => some h
  | .rmaxI32 h _ => some h
  | .rmaxN32 h _ => some h
  | .rmaxF32 h _ => some h
  | .rand h _ => some h
  | .ror h _ => some h
  | .rxor h _ => some h
  | .cpy h _ => some h
  | .cpyg h _ => some h
  | .cwait h _ => some h
  | .smap h _ => some h
  | .sunmap h _ => some h
  | .pf h _ => some h
  | .cinv h _ => some h
  | .cwb h _ => some h
  | .tlbiPage h _ => some h
  | .tlbiAll h _ => some h
  | .tlbiPid h _ => some h
  | .mma h _ => some h
  | .mzero h _ => some h
  | .mld h _ => some h
  | .mst h _ => some h
  | .mabs h _ => some h
  | .mmov h _ => some h
  | .mrd h _ => some h
  | .board h _ => some h
  | .rtile h _ => some h
  | .rfree h _ => some h
  | .alight h _ => some h
  | .rpos h _ => some h
  | .rpace h _ => some h
  | .rinst h _ => some h
  | .rstat h _ => some h
  | .dadd h _ => some h
  | .dsub h _ => some h
  | .dmul h _ => some h
  | .dmin h _ => some h
  | .dmax h _ => some h
  | .dneg h _ => some h
  | .dscl h _ => some h
  | .dmix h _ => some h
  | .dpt h _ => some h
  | .datm h _ => some h
  | .dget h _ => some h
  | .dtag h _ => some h
  | .dmom h _ => some h
  | .dqnt h _ => some h
  | .dcdf h _ => some h
  | .trec h _ => some h
  | .trbr h _ => some h
  | .tmark h _ => some h
  | .tply h _ => some h
  | .tplb h _ => some h
  | .tpmk h _ => some h
  | .tbgn h _ => some h
  | .tend h _ => some h
  | .tseg h _ => some h
  | .patienceExpiry _ _ => none
  | .crewRelease _ => none
  | .yieldExpiry _ _ => none
  | .sowStalledPost _ _ => none
  | .siteRewrite _ _ => none
  | .remoteAnswer _ _ _ => none
  | .peerTimeout _ _ => none
  | .copyStart _ _ => none
  | .copyRetire _ _ _ => none
  | .windowSectorRecall _ _ _ => none
  | .leaveGrant _ _ => none
  | .matrixReadPhaseEnd _ _ => none
  | .matrixCommandRetire _ _ => none
  | .timetableInstall => none
  | .tileInjection => none
  | .tileArrival _ _ => none
  | .holdLimitExpiry _ => none
  | .tilePassed _ => none
  | .condenserComplete _ _ => none
  | .tapeBlockWrite _ => none
  | .penning _ => none
  | .herdResidency _ => none
  | .admission _ => none
  | .crewSaveAreaGrant _ => none
  | .preemptHerdSave _ => none
  | .preemptTimeout _ => none
  | .crewSaveComplete _ => none
  | .crewRestore _ => none
  | .lqtail _ _ => none
  | .launchQueueEntryRead _ => none
  | .completionRecordWrite _ => none
  | .faultRecordWrite _ => none
  | .fresp _ _ => none
  | .reggo _ _ => none
  | .registrationComplete _ _ => none
  | .preempt _ _ => none
  | .attest _ _ => none
  | .attestationWritten _ => none
  | .hostRegisterWrite _ _ _ => none
  | .lend _ _ _ => none
  | .recallAcre _ => none
  | .recallComplete _ => none
  | .boot _ => none
  | .recoveryImageReplace _ => none
  | .unassignedOpcode w => some (hdrOf w)
  | .peerAccessRequest _ => none
  | .poljorLinkDown _ => none
  | .poljorLinkUp _ => none
  | .l1SectorEviction _ _ => none

/-- The primary opcode of an instruction (R139); none for an event. -/
def Instr.opcode (i : Instr) : Option Nat := (encode i).map opOf

/-- The instruction the decoder reads from a table row's bits, laid out in memory as R1 and R125 say. -/
def decodeTableWord (nbits w : Nat) : Option Instr :=
  if nbits ≤ 64 then
    match decodeBytes (leBytes 8 (w % 2 ^ nbits)) with
    | .ok (i, _) => some i
    | .error _ => none
  else none

end Sys2Proof
end

