-- ==== Sys2Proof/Machine/Bits.lean ====
section
/-! DEFINITION. Sparse canonical stores (memory, register files, counters), byte order (R1) and CRC-32C (R308). -/

namespace Sys2Proof.Machine

/-- A store from keys to n-bit values: keys strictly rising, no entry equal to what an unlisted key reads as. -/
abbrev Sparse (n : Nat) := List (Nat × BitVec n)

/-- What key `k` reads as; `dflt` gives the value of an unlisted key. -/
def Sparse.get {n : Nat} (dflt : Nat → BitVec n) : Sparse n → Nat → BitVec n
  | [], k => dflt k
  | (j, v) :: r, k => if j = k then v else Sparse.get dflt r k

/-- The cells of consecutive values from key `lo`, those that equal the unlisted reading left out. -/
def Sparse.cells {n : Nat} (dflt : Nat → BitVec n) : Nat → List (BitVec n) → Sparse n
  | _, [] => []
  | lo, v :: vs =>
    if v = dflt lo then Sparse.cells dflt (lo + 1) vs else (lo, v) :: Sparse.cells dflt (lo + 1) vs

/-- Writes consecutive values from key `lo`, keeping the canonical form. -/
def Sparse.write {n : Nat} (dflt : Nat → BitVec n) (m : Sparse n) (lo : Nat) (vs : List (BitVec n)) : Sparse n :=
  m.filter (fun c => decide (c.1 < lo)) ++ Sparse.cells dflt lo vs
    ++ m.filter (fun c => decide (lo + vs.length ≤ c.1))

/-- Writes one value. -/
def Sparse.set {n : Nat} (dflt : Nat → BitVec n) (m : Sparse n) (k : Nat) (v : BitVec n) : Sparse n :=
  Sparse.write dflt m k [v]

/-- Returns keys `lo` to `hi - 1` to their unlisted reading. -/
def Sparse.clear {n : Nat} (m : Sparse n) (lo hi : Nat) : Sparse n :=
  m.filter (fun c => decide (c.1 < lo) || decide (hi ≤ c.1))

/-- The canonical form. -/
abbrev Sparse.wf {n : Nat} (dflt : Nat → BitVec n) (m : Sparse n) : Prop :=
  m.Pairwise (fun a b => a.1 < b.1) ∧ ∀ c ∈ m, c.2 ≠ dflt c.1

/-- Every unlisted key reads as zero. -/
def zeros {n : Nat} (_ : Nat) : BitVec n := 0#n

/-- Bytes by address; an unlisted byte reads as zero (assumption 3). -/
abbrev Memory := List Host.Cell

/-- The canonical form of memory. -/
abbrev Memory.wf (m : Memory) : Prop := Sparse.wf zeros m

/-- One byte. -/
def Memory.byte (m : Memory) (a : Nat) : Byte := Sparse.get zeros m a

/-- `n` bytes from address `a`. -/
def Memory.bytes (m : Memory) (a : Nat) : Nat → List Byte
  | 0 => []
  | n + 1 => m.byte a :: Memory.bytes m (a + 1) n

/-- The little-endian number at `a` of `n` bytes (R1). -/
def Memory.num (m : Memory) (a n : Nat) : Nat := leNat (m.bytes a n)

/-- Writes bytes from address `a`. -/
def Memory.put (m : Memory) (a : Nat) (bs : List Byte) : Memory := Sparse.write zeros m a bs

/-- The cells of a range, moved so that `lo` becomes `base`. -/
def Memory.slice (m : Memory) (lo n base : Nat) : Memory :=
  (m.filter (fun c => decide (lo ≤ c.1) && decide (c.1 < lo + n))).map (fun c => (c.1 - lo + base, c.2))

/-- One step of the reflected Castagnoli CRC on one bit. -/
def crcBit (c : BitVec 32) : BitVec 32 :=
  if c.getLsbD 0 then (c >>> 1) ^^^ 0x82F63B78#32 else c >>> 1

/-- One byte into the CRC. -/
def crcByte (c : BitVec 32) (b : Byte) : BitVec 32 :=
  crcBit (crcBit (crcBit (crcBit (crcBit (crcBit (crcBit (crcBit (c ^^^ b.setWidth 32))))))))

/-- CRC-32C: initial value and final exclusive-or of 0xFFFF_FFFF (R308). -/
def crc32c (bs : List Byte) : BitVec 32 := bs.foldl crcByte 0xFFFFFFFF#32 ^^^ 0xFFFFFFFF#32

/-- Bits [hi:lo] of a 64-bit word as a number (R123 field). -/
def fld (w : Word) (hi lo : Nat) : Nat := (w >>> lo).toNat % 2 ^ (hi + 1 - lo)

/-- The two's-complement reading of the low `n` bits (R123 sign_extend). -/
def sext (v n : Nat) : Int :=
  if v % 2 ^ n < 2 ^ (n - 1) then (v % 2 ^ n : Nat) else ((v % 2 ^ n : Nat) : Int) - (2 ^ n : Nat)

/-- An integer modulo 2^n (R123 wrap). -/
def wrapN (z : Int) (n : Nat) : Nat := (z % ((2 ^ n : Nat) : Int)).toNat

/-- Inserts before the first element of a greater key. -/
def insertBy {α : Type} (key : α → Nat) (a : α) : List α → List α
  | [] => [a]
  | b :: r => if key b ≤ key a then b :: insertBy key a r else a :: b :: r

/-- Sorts by ascending key; equal keys keep their order. -/
def sortBy {α : Type} (key : α → Nat) (l : List α) : List α := l.foldl (fun acc a => insertBy key a acc) []

/-- The indices of the set bits below `n`, ascending. -/
def bitsOf {w : Nat} (b : BitVec w) (n : Nat) : List Nat := (List.range n).filter (fun i => b.getLsbD i)

/-- The bit mask with exactly the given bits set. -/
def maskOf (w : Nat) (is : List Nat) : BitVec w := is.foldl (fun m i => m ||| BitVec.ofNat w (2 ^ i)) 0#w

end Sys2Proof.Machine
end

