-- ==== Sys2Proof/Machine/Format.lean ====
section
/-! DEFINITION. Number formats (R68 to R83): exact values, decoding, rounding and encoding. A value is kept exactly, as a
sign, a natural significand and a power of two; `sticky` says that the true magnitude lies strictly between m and m + 1
units, which is all that a rounding needs to know. -/

namespace Sys2Proof.Machine

/-- The rounding modes of R76, by their code in MB.RM (R128). -/
inductive RMode where
  | rn | rz | ru | rd
  deriving DecidableEq, Repr

/-- MB.RM (R128). -/
def rmodeOf (b : BitVec 2) : RMode :=
  if b = 0#2 then .rn else if b = 1#2 then .rz else if b = 2#2 then .ru else .rd

/-- A value before rounding: NaN with a sign, an infinity, or (-1)^neg × m × 2^e, the magnitude just above that when
`sticky`. A zero keeps its sign. -/
inductive Val where
  | nan (neg : Bool)
  | inf (neg : Bool)
  | num (neg : Bool) (m : Nat) (e : Int) (sticky : Bool)
  deriving DecidableEq, Repr

/-- The parameters of an IEEE-style format (R71, R72): precision with the hidden bit, exponent of the least subnormal,
largest finite magnitude pattern, position of the sign bit, canonical NaN and infinity patterns. -/
structure FFmt where
  p : Nat
  qmin : Int
  maxPat : Nat
  sbit : Nat
  nanPat : Nat
  infPat : Option Nat
  deriving DecidableEq, Repr

def ffmtF32 : FFmt := ⟨24, -149, 0x7F7FFFFF, 31, 0x7FC00000, some 0x7F800000⟩
def ffmtF16 : FFmt := ⟨11, -24, 0x7BFF, 15, 0x7E00, some 0x7C00⟩
def ffmtBf16 : FFmt := ⟨8, -133, 0x7F7F, 15, 0x7FC0, some 0x7F80⟩
def ffmtE5m2 : FFmt := ⟨3, -16, 0x7B, 7, 0x7E, some 0x7C⟩
def ffmtE4m3 : FFmt := ⟨4, -9, 0x7E, 7, 0x7F, none⟩
def ffmtF64 : FFmt := ⟨53, -1074, 0x7FEFFFFFFFFFFFFF, 63, 0x7FF8000000000000, some 0x7FF0000000000000⟩

/-- The IEEE-style format of a format code (R68), none for the others. -/
def ffmtOf (c : Nat) : Option FFmt :=
  if c = 3 then some ffmtF32 else if c = 4 then some ffmtF16 else if c = 5 then some ffmtBf16
  else if c = 6 then some ffmtE4m3 else if c = 7 then some ffmtE5m2 else none

/-- Elements per lane word (R68); raw counts as one. -/
def elemCount (c : Nat) : Nat :=
  if c = 4 || c = 5 || c = 11 then 2 else if c = 6 || c = 7 || c = 8 || c = 10 then 4 else if c = 9 then 5 else 1

/-- Element width in bits (R68). -/
def elemWidth (c : Nat) : Nat :=
  if c = 4 || c = 5 || c = 11 then 16 else if c = 6 || c = 7 || c = 8 || c = 10 then 8 else if c = 9 then 6 else 32

/-- R123 element: the pattern of element i. -/
def element (w : Lane) (c i : Nat) : Nat := (w.toNat / 2 ^ (elemWidth c * i)) % 2 ^ elemWidth c

/-- R123 with_element: the word with element i replaced. -/
def withElement (w : Lane) (c i p : Nat) : Lane :=
  BitVec.ofNat 32
    (w.toNat - element w c i * 2 ^ (elemWidth c * i) + (p % 2 ^ elemWidth c) * 2 ^ (elemWidth c * i))

/-- The formats read as signed integers (R70). -/
def isSignedInt (c : Nat) : Bool := c = 1 || c = 10 || c = 11

/-- The integer formats (R70). -/
def isInt (c : Nat) : Bool := isSignedInt c || c = 2

/-- The tapered formats (R74). -/
def isTap (c : Nat) : Bool := c = 8 || c = 9

/-- The integer that an element of an integer format holds (R70). -/
def intOf (p c : Nat) : Int := if isSignedInt c then sext p (elemWidth c) else (p : Int)

/-- An exact integer as a value. -/
def valOfInt (z : Int) : Val := .num (decide (z < 0)) z.natAbs 0 false

/-- The number of bits equal to b from bit i downward (R74). -/
def runLen (m : Nat) (b : Bool) : Nat → Nat
  | 0 => 0
  | i + 1 => if m.testBit i = b then runLen m b i + 1 else 0

/-- The magnitude of a tapered field M of w bits, M ≠ 0, as significand and exponent (R74). -/
def tapMag (w m : Nat) : Nat × Int :=
  let b := m.testBit (w - 1)
  let n := runLen m b w
  let k : Int := if b then (n : Int) - 1 else -(n : Int)
  -- bits left after the run and its terminating bit
  let left := w - n - 1
  let e : Int := if left = 0 then 0 else if m.testBit (left - 1) then 1 else 0
  let fb := left - 1
  let f := m % 2 ^ fb
  (2 ^ fb + f, 2 * k + e - (fb : Int))

/-- The exact value of a tapered pattern (R74, R75). -/
def decodeTap (w p : Nat) : Val :=
  let m := p % 2 ^ w
  let s := p.testBit w
  if m = 0 then (if s then .nan false else .num false 0 0 false)
  else let (g, e) := tapMag w m; .num s g e false

/-- The exact value of an IEEE-style pattern (R71). -/
def decodeF (f : FFmt) (p : Nat) : Val :=
  let s := p.testBit f.sbit
  let m := p % 2 ^ f.sbit
  if f.infPat = some m then .inf s
  else if f.maxPat < m then .nan s
  else
    let ex := m / 2 ^ (f.p - 1)
    let fr := m % 2 ^ (f.p - 1)
    if ex = 0 then .num s fr f.qmin false
    else .num s (2 ^ (f.p - 1) + fr) (f.qmin + (ex : Int) - 1) false

/-- R123 decode: the exact value of pattern p in format c. -/
def decodeVal (p c : Nat) : Val :=
  match ffmtOf c with
  | some f => decodeF f p
  | none => if isTap c then decodeTap (elemWidth c - 1) p else valOfInt (intOf p c)

/-- Whether a magnitude just below a unit boundary rounds up: `n` units, remainder compared with half by (low, sticky). -/
def roundsUp (rm : RMode) (neg : Bool) (odd : Bool) (above half : Bool) (exact : Bool) : Bool :=
  match rm with
  | .rn => above || (half && odd)
  | .rz => false
  | .ru => !exact && !neg
  | .rd => !exact && neg

/-- m × 2^e (just above when sticky) rounded to whole units of 2^q, as a natural number. -/
def roundUnits (rm : RMode) (neg : Bool) (m : Nat) (e : Int) (sticky : Bool) (q : Int) : Nat :=
  if q ≤ e then
    let n := m * 2 ^ (e - q).toNat
    if roundsUp rm neg (n % 2 = 1) false false (!sticky) then n + 1 else n
  else
    let d := (q - e).toNat
    let n := m / 2 ^ d
    let r := m % 2 ^ d
    let h := 2 ^ (d - 1)
    let up := roundsUp rm neg (n % 2 = 1) (decide (h < r) || (decide (r = h) && sticky)) (decide (r = h) && !sticky)
      (decide (r = 0) && !sticky)
    if up then n + 1 else n

/-- The exponent of the unit in the last place at magnitude m × 2^e (m ≠ 0) in format f. -/
def ulpExp (f : FFmt) (m : Nat) (e : Int) : Int :=
  max f.qmin (e + (Nat.log2 m : Int) - ((f.p : Int) - 1))

/-- The magnitude pattern of m × 2^e in f, as though the exponent range had no upper bound (R77). -/
def magPat (f : FFmt) (rm : RMode) (neg : Bool) (m : Nat) (e : Int) (sticky : Bool) : Nat :=
  if m = 0 then (if sticky && roundsUp rm neg false false false false then 1 else 0)
  else
    let q := ulpExp f m e
    roundUnits rm neg m e sticky q + (q - f.qmin).toNat * 2 ^ (f.p - 1)

/-- What an overflow gives without .sat: an infinity, else the largest finite value (R78). -/
def overflowsToInf (rm : RMode) (neg : Bool) : Bool :=
  match rm with
  | .rn => true
  | .rz => false
  | .ru => !neg
  | .rd => neg

/-- The sign bit of an IEEE-style pattern. -/
def signPat (f : FFmt) (neg : Bool) : Nat := if neg then 2 ^ f.sbit else 0

/-- Encoding into an IEEE-style format (R76 to R81), with whether the result was clamped by .sat. Under .sat an infinite source
is clamped in every format, also in a conversion that R83 calls exact without .sat (assumption 65). -/
def encodeF (f : FFmt) (rm : RMode) (sat : Bool) : Val → Nat × Bool
  | .nan neg => (f.nanPat + signPat f neg, false)
  | .inf neg =>
    if sat then (f.maxPat + signPat f neg, true)
    else ((f.infPat.getD f.nanPat) + signPat f neg, false)
  | .num neg m e st =>
    let p := magPat f rm neg m e st
    if f.maxPat < p then
      if sat then (f.maxPat + signPat f neg, true)
      else if overflowsToInf rm neg then ((f.infPat.getD f.nanPat) + signPat f neg, false)
      else (f.maxPat + signPat f neg, false)
    else (p + signPat f neg, false)

/-- Compares a × 2^ea with b × 2^eb. -/
def cmpMag (a : Nat) (ea : Int) (b : Nat) (eb : Int) : Ordering :=
  let lo := min ea eb
  compare (a * 2 ^ (ea - lo).toNat) (b * 2 ^ (eb - lo).toNat)

/-- The greatest magnitude field not above m × 2^e, searched bit by bit (magnitude rises with M, R75). -/
def tapFloor (w m : Nat) (e : Int) : Nat → Nat → Nat
  | 0, acc => acc
  | i + 1, acc =>
    let c := acc + 2 ^ i
    let (g, ge) := tapMag w c
    if cmpMag g ge m e = .gt then tapFloor w m e i acc else tapFloor w m e i c

/-- The magnitude of a tapered field, zero included. -/
def tapMag0 (w m : Nat) : Nat × Int := if m = 0 then (0, 0) else tapMag w m

/-- Encoding into a tapered format of magnitude width w (R76 to R80). -/
def encodeTap (w : Nat) (rm : RMode) (sat : Bool) : Val → Nat × Bool
  | .nan _ => (2 ^ w, false)
  | .inf neg => if sat then (2 ^ w - 1 + (if neg then 2 ^ w else 0), true) else (2 ^ w, false)
  | .num neg m e st =>
    let top := tapMag w (2 ^ w - 1)
    let sgn := if neg then 2 ^ w else 0
    let c := cmpMag m e top.1 top.2
    if c = .gt || (c = .eq && st) then
      if sat then (2 ^ w - 1 + sgn, true)
      else if overflowsToInf rm neg then (2 ^ w, false) else (2 ^ w - 1 + sgn, false)
    else
      let lo := if m = 0 then 0 else tapFloor w m e w 0
      let gl := tapMag0 w lo
      let exact := cmpMag m e gl.1 gl.2 = .eq && !st
      let r := if exact then lo else
        let gh := tapMag0 w (lo + 1)
        -- the midpoint of the two neighbours, in half units
        let base := min gl.2 gh.2
        let mid := gl.1 * 2 ^ (gl.2 - base).toNat + gh.1 * 2 ^ (gh.2 - base).toNat
        let cm := cmpMag m e mid (base - 1)
        if roundsUp rm neg (lo % 2 = 1) (cm = .gt || (cm = .eq && st)) (cm = .eq && !st) false then lo + 1 else lo
      if r = 0 then (0, false) else (r + sgn, false)

/-- The range of an integer format (R70). -/
def intRange (c : Nat) : Int × Int :=
  if isSignedInt c then (-((2 ^ (elemWidth c - 1) : Nat) : Int), ((2 ^ (elemWidth c - 1) : Nat) : Int) - 1)
  else (0, ((2 ^ elemWidth c : Nat) : Int) - 1)

/-- Rounding to an integer format, saturating (R82), with whether the result was clamped. -/
def encodeInt (c : Nat) (rm : RMode) : Val → Nat × Bool
  | .nan _ => (0, true)
  | .inf neg => (wrapN (if neg then (intRange c).1 else (intRange c).2) (elemWidth c), true)
  | .num neg m e st =>
    let n : Int := (roundUnits rm neg m e st 0 : Nat)
    let z := if neg then -n else n
    if z < (intRange c).1 then (wrapN (intRange c).1 (elemWidth c), true)
    else if (intRange c).2 < z then (wrapN (intRange c).2 (elemWidth c), true)
    else (wrapN z (elemWidth c), false)

/-- R123 encode, with whether the result was clamped (R78, R82). -/
def encodeVal (v : Val) (c : Nat) (rm : RMode) (sat : Bool) : Nat × Bool :=
  match ffmtOf c with
  | some f => encodeF f rm sat v
  | none => if isTap c then encodeTap (elemWidth c - 1) rm sat v else encodeInt c rm v

/-- R72: the canonical NaN of a float format. -/
def canonicalNan (c : Nat) : Nat :=
  match ffmtOf c with
  | some f => f.nanPat
  | none => if c = 8 then 0x80 else if c = 9 then 0x20 else 0

/-- Whether a value is NaN. -/
def Val.isNan : Val → Bool
  | .nan _ => true
  | _ => false

/-- Whether a value is zero. -/
def Val.isZero : Val → Bool
  | .num _ 0 _ false => true
  | _ => false

/-- The sign bit. -/
def Val.neg : Val → Bool
  | .nan s => s
  | .inf s => s
  | .num s _ _ _ => s

/-- A value as an exact signed significand and exponent; specials as zero. -/
def Val.dy : Val → Int × Int
  | .num s m e _ => (if s then -(m : Int) else (m : Int), e)
  | _ => (0, 0)

/-- A signed dyadic as a value; zero takes the sign given. -/
def valOfDy (z e : Int) (zneg : Bool) : Val :=
  if z = 0 then .num zneg 0 0 false else .num (decide (z < 0)) z.natAbs e false

/-- Exact sum of two dyadics. -/
def dyAdd (a b : Int × Int) : Int × Int :=
  let lo := min a.2 b.2
  (a.1 * ((2 ^ (a.2 - lo).toNat : Nat) : Int) + b.1 * ((2 ^ (b.2 - lo).toNat : Nat) : Int), lo)

/-- Exact sum as IEEE 754-2019 gives it in mode rm (R155, R166): the sign of an exact zero sum of the terms is negative
when every term is negative, and under .rd when the terms are not all +0. -/
def vsum (rm : RMode) (ts : List Val) : Val :=
  if ts.any Val.isNan then .nan false
  else
    let pinf := ts.any (fun t => t = .inf false)
    let ninf := ts.any (fun t => t = .inf true)
    if pinf && ninf then .nan false
    else if pinf then .inf false
    else if ninf then .inf true
    else
      let z := ts.foldl (fun acc t => dyAdd acc t.dy) (0, 0)
      let allNeg := !ts.isEmpty && ts.all Val.neg
      let allPosZero := ts.all (fun t => t.isZero && !t.neg)
      valOfDy z.1 z.2 (allNeg || (rm = .rd && !allPosZero))

/-- The sum of two values. -/
def vadd (rm : RMode) (x y : Val) : Val := vsum rm [x, y]

/-- Negation. -/
def vneg : Val → Val
  | .nan s => .nan s
  | .inf s => .inf (!s)
  | .num s m e st => .num (!s) m e st

/-- Magnitude. -/
def vabs : Val → Val
  | .nan s => .nan s
  | .inf _ => .inf false
  | .num _ m e st => .num false m e st

/-- The exact product (R155): infinity times zero is NaN. -/
def vmul (x y : Val) : Val :=
  match x, y with
  | .nan _, _ => .nan false
  | _, .nan _ => .nan false
  | .inf s, .inf t => .inf (s != t)
  | .inf s, .num t m _ st => if m = 0 && !st then .nan false else .inf (s != t)
  | .num s m _ st, .inf t => if m = 0 && !st then .nan false else .inf (s != t)
  | .num s m e _, .num t n g _ => .num (s != t) (m * n) (if m * n = 0 then 0 else e + g) false

/-- x × y + c, exact (R165). -/
def vfma (rm : RMode) (x y c : Val) : Val := vadd rm (vmul x y) c

/-- x / y to 300 significant bits with a sticky remainder (R175). -/
def vdiv (x y : Val) : Val :=
  match x, y with
  | .nan _, _ => .nan false
  | _, .nan _ => .nan false
  | .inf _, .inf _ => .nan false
  | .inf s, .num t _ _ _ => .inf (s != t)
  | .num s _ _ _, .inf t => .num (s != t) 0 0 false
  | .num s m e _, .num t n g _ =>
    if n = 0 then (if m = 0 then .nan false else .inf (s != t))
    else if m = 0 then .num (s != t) 0 0 false
    else
      let l := Nat.log2 n
      let a := m * 2 ^ (300 + l)
      .num (s != t) (a / n) (e - g - ((300 + l : Nat) : Int)) (a % n != 0)

/-- The integer square root by bits: the greatest r with r² ≤ n, r below 2^i more than acc. -/
def isqrtAux (n : Nat) : Nat → Nat → Nat
  | 0, acc => acc
  | i + 1, acc => let c := acc + 2 ^ i; if c * c ≤ n then isqrtAux n i c else isqrtAux n i acc

/-- The integer square root. -/
def isqrt (n : Nat) : Nat := isqrtAux n (Nat.log2 n / 2 + 1) 0

/-- The square root with a sticky remainder (R175): √−0 is −0 and a negative argument gives NaN. -/
def vsqrt : Val → Val
  | .nan _ => .nan false
  | .inf s => if s then .nan false else .inf false
  | .num s m e _ =>
    if m = 0 then .num s 0 0 false
    else if s then .nan false
    else
      let k : Nat := if e % 2 = 0 then 128 else 129
      let a := m * 2 ^ k
      let r := isqrt a
      .num false r ((e - (k : Int)) / 2) (r * r != a)

/-- Rounding to an integer in mode rm; a zero result keeps the sign (R175). -/
def vrint (rm : RMode) : Val → Val
  | .num s m e st => .num s (roundUnits rm s m e st 0) 0 false
  | v => v

/-- x × 2^k (R175). -/
def vldexp (k : Int) : Val → Val
  | .num s m e st => .num s m (if m = 0 then e else e + k) st
  | .nan _ => .nan false
  | v => v

/-- Compares two values that are not NaN; zeros are equal. -/
def vcmp (x y : Val) : Ordering :=
  match x, y with
  | .inf s, .inf t => if s = t then .eq else if s then .lt else .gt
  | .inf s, _ => if s then .lt else .gt
  | _, .inf t => if t then .gt else .lt
  | _, _ =>
    let a := x.dy
    let b := y.dy
    let lo := min a.2 b.2
    compare (a.1 * ((2 ^ (a.2 - lo).toNat : Nat) : Int)) (b.1 * ((2 ^ (b.2 - lo).toNat : Nat) : Int))

/-- R155's last step for a float format: a NaN is canonical, every other value is rounded once. Under .sat an infinite result
is clamped, whatever made it infinite (assumption 66). -/
def encodeArith (v : Val) (c : Nat) (rm : RMode) (sat : Bool) : Nat :=
  if v.isNan then canonicalNan c else (encodeVal v c rm sat).1

/-- R155's last step for an integer format. -/
def encodeIntArith (z : Int) (c : Nat) (sat : Bool) : Nat :=
  if sat then (encodeInt c .rn (valOfInt z)).1 else wrapN z (elemWidth c)

/-- The pattern of smaller value (R162); equal values and patterns give that pattern, −0 is below +0. -/
def minPat (c p q : Nat) : Nat :=
  let x := decodeVal p c
  let y := decodeVal q c
  if x.isNan then (if y.isNan then canonicalNan c else q)
  else if y.isNan then p
  else match vcmp x y with
    | .lt => p
    | .gt => q
    | .eq => if x.neg then p else q

/-- The pattern of larger value (R162). -/
def maxPat (c p q : Nat) : Nat :=
  let x := decodeVal p c
  let y := decodeVal q c
  if x.isNan then (if y.isNan then canonicalNan c else q)
  else if y.isNan then p
  else match vcmp x y with
    | .lt => q
    | .gt => p
    | .eq => if x.neg then q else p

/-- One rounding to FP64, to nearest even (R342 fl64): the result decoded back to a value. -/
def fl64 (v : Val) : Val := decodeF ffmtF64 (if v.isNan then ffmtF64.nanPat else (encodeF ffmtF64 .rn false v).1)

end Sys2Proof.Machine
end

