-- ==== Sys2Proof/Machine/Transcend.lean ====
section
/-! DEFINITION. The approximations of R176 and R177. The exact result is enclosed by fixed-point series (error below 2^-150
of the unit used), and the implementation's free candidate (Config.approx) is taken only where it meets the bound of R176;
elsewhere the correctly rounded value, which meets every bound, stands. -/

namespace Sys2Proof.Machine

/-- 2π × 2^480. -/
def twoPi480 : Int := 19614524624054616419340866377837671015996484697558570003879575565505682389380456376724823085706553583240030006000927409775225872465222683522083690

/-- ln 2 × 2^400. -/
def ln2At400 : Int := 1789879222497203190815761498240779176894896805856420935579692301363062920687047601279850318367644315849030039181347319086

/-- Fixed-point product at 2^400. -/
def fx (a b : Int) : Int := (a * b) / ((2 ^ 400 : Nat) : Int)

/-- 1 at 2^400. -/
def fx1 : Int := ((2 ^ 400 : Nat) : Int)

/-- A dyadic at 2^400, truncated. -/
def toFx (m : Int) (e : Int) : Int :=
  if 0 ≤ e + 400 then m * ((2 ^ (e + 400).toNat : Nat) : Int) else m / ((2 ^ (-(e + 400)).toNat : Nat) : Int)

/-- Σ y^k / k! from the term t = y^(k-1)/(k-1)! on, for `fuel` more terms. -/
def expSeries (y : Int) : Nat → Nat → Int → Int
  | 0, _, _ => 0
  | fuel + 1, k, t => let t' := fx t y / (k : Int); t' + expSeries y fuel (k + 1) t'

/-- e^y - 1 at 2^400 for |y| ≤ 1. -/
def expm1Small (y : Int) : Int := expSeries y 90 1 fx1

/-- From e^y - 1 to e^(2y) - 1, n times. -/
def expm1Double : Nat → Int → Int
  | 0, a => a
  | n + 1, a => expm1Double n (2 * a + fx a a)

/-- e^y - 1 at 2^400 for |y| ≤ 64. -/
def expm1 (y : Int) : Int := expm1Double 6 (expm1Small (y / 64))

/-- Σ ± z^(2k+1) / c, the odd power series with denominators given by `den`. -/
def atanhSeries (z2 : Int) : Nat → Nat → Int → Int
  | 0, _, _ => 0
  | fuel + 1, k, t => t / (k : Int) + atanhSeries z2 fuel (k + 2) (fx t z2)

/-- ln of m / 2^l, 1 ≤ m / 2^l < 2, at 2^400. -/
def lnUnit (m l : Nat) : Int :=
  let num : Int := (m : Int) - ((2 ^ l : Nat) : Int)
  let den : Int := (m : Int) + ((2 ^ l : Nat) : Int)
  let z := num * fx1 / den
  2 * atanhSeries (fx z z) 130 1 z

/-- The alternating series of sine (k = 2) or cosine (k = 1) after its first term t. -/
def trigSeries (y2 : Int) : Nat → Nat → Int → Int
  | 0, _, t => t
  | fuel + 1, k, t => t + trigSeries y2 fuel (k + 2) (-(fx t y2) / ((k * (k + 1) : Nat) : Int))

/-- A finite argument modulo 2π, at 2^400, in [0, 2π). -/
def reduce2pi (m e : Int) : Int :=
  let x : Int := if 0 ≤ e + 480 then m * ((2 ^ (e + 480).toNat : Nat) : Int) else m / ((2 ^ (-(e + 480)).toNat : Nat) : Int)
  (x % twoPi480) / ((2 ^ 80 : Nat) : Int)

/-- The seven approximated functions (R176). -/
inductive Fn where
  | rcp | rsqrt | exp2 | log2 | sin | cos | tanh
  deriving DecidableEq, Repr

/-- A fixed-point number at 2^400 as a value; the exact result is irrational, so the magnitude is marked inexact. -/
def valOfFx (z : Int) (sh : Int) : Val := .num (decide (z < 0)) z.natAbs (sh - 400) true

/-- R177's special arguments; none for the finite arguments that R176 judges. -/
def fnSpecial (f : Fn) (x : Val) : Option Val :=
  match f, x with
  | _, .nan _ => some (.nan false)
  | .rcp, .inf s => some (.num s 0 0 false)
  | .rsqrt, .inf s => some (if s then .nan false else .num false 0 0 false)
  | .exp2, .inf s => some (if s then .num false 0 0 false else .inf false)
  | .log2, .inf s => some (if s then .nan false else .inf false)
  | .sin, .inf _ => some (.nan false)
  | .cos, .inf _ => some (.nan false)
  | .tanh, .inf s => some (.num s 1 0 false)
  | f, .num s m _ _ =>
    if m = 0 then
      match f with
      | .rcp => some (.inf s)
      | .rsqrt => some (.inf s)
      | .exp2 => some (.num false 1 0 false)
      | .log2 => some (.inf true)
      | .sin => some (.num s 0 0 false)
      | .cos => some (.num false 1 0 false)
      | .tanh => some (.num s 0 0 false)
    else if s && (f = .rsqrt || f = .log2) then some (.nan false)
    else none

/-- The exact result on a finite nonzero argument, enclosed to far below a unit in the last place. -/
def fnValue (f : Fn) (x : Val) : Val :=
  match x with
  | .num s m e _ =>
    let z : Int := if s then -(m : Int) else (m : Int)
    match f with
    | .rcp => vdiv (.num false 1 0 false) x
    | .rsqrt =>
      -- 1 / √(m 2^e): the integer square root of 2^k / m
      let k : Nat := if e % 2 = 0 then 400 else 401
      let a := 2 ^ k * 2 ^ 200 / m
      let r := isqrt a
      .num false r (-((e + (k : Int) + 200) / 2)) (r * r * m != 2 ^ k * 2 ^ 200)
    | .exp2 =>
      if 0 ≤ e && 4096 ≤ m * 2 ^ (min e 4096).toNat then (if s then .num false 1 (-4096) true else .num false 1 4096 true)
      else
        let xs := toFx z e
        let n := xs / fx1
        let fr := xs - n * fx1
        if fr = 0 then .num false 1 n false else valOfFx (expm1 (fx fr ln2At400) + fx1) n
    | .log2 =>
      let l := Nat.log2 m
      let k : Int := e + (l : Int)
      if m = 2 ^ l then valOfInt k
      else valOfFx (k * fx1 + lnUnit m l * fx1 / ln2At400) 0
    | .sin =>
      let y := reduce2pi z e
      valOfFx (trigSeries (fx y y) 110 2 y) 0
    | .cos =>
      let y := reduce2pi z e
      valOfFx (trigSeries (fx y y) 110 1 fx1) 0
    | .tanh =>
      if cmpMag m e 19 (-1) ≠ .lt then .num s 1 0 false
      else
        let a := expm1 (toFx (2 * m) e)
        let t := a * fx1 / (a + 2 * fx1)
        valOfFx (if s then -t else t) 0
  | v => v

/-- Whether |c − v| ≤ k × 2^q, allowing the enclosure's own error. -/
def within (c v : Val) (k : Nat) (q : Int) : Bool :=
  match c, v with
  | .num .., .num _ _ ve _ =>
    let d := dyAdd c.dy ((fun p : Int × Int => (-p.1, p.2)) v.dy)
    let lo := min d.2 (min q ve)
    decide (d.1.natAbs * 2 ^ (d.2 - lo).toNat ≤ k * 2 ^ (q - lo).toNat + 2 ^ (ve - lo).toNat * 2 ^ 100)
  | _, _ => false

/-- Whether a candidate pattern of a binary32 approximation meets R176, or a 16-bit one of sin and cos. -/
def meetsBound (fn : Fn) (c : Nat) (x v : Val) (cand : Nat) : Bool :=
  let cv := decodeVal cand c
  match ffmtOf c, v with
  | some f, .num s m e st =>
    let u := ulpExp f m e
    match fn with
    | .rcp => cand = (encodeVal v c .ru false).1 || cand = (encodeVal v c .rd false).1
    | .rsqrt => cand = (encodeVal v c .ru false).1 || cand = (encodeVal v c .rd false).1
    | .exp2 => if !st && m = 1 then cand = (encodeVal v c .rn false).1 || (decide (e < f.qmin) && within cv v 2 u) else within cv v 2 u
    | .log2 =>
      if !st then cand = (encodeVal v c .rn false).1
      else if vcmp x (.num false 1 (-1) false) = .lt || vcmp x (.num false 2 0 false) = .gt then within cv v 2 u
      else within cv v 1 (-22)
    | .sin => within cv v 1 (if c = 3 then -22 else if c = 4 then -10 else -7)
    | .cos => within cv v 1 (if c = 3 then -22 else if c = 4 then -10 else -7)
    | .tanh => if !st then cand = (encodeVal (.num s m e st) c .rn false).1 else within cv v 2 u
  | _, _ => false

/-- Whether the result is one that R176 wants exactly, so that no candidate is looked at: an exact reciprocal or reciprocal
square root, a power of two that the format holds, a whole logarithm, a `tanh` of ±1. -/
def wantsExact (fn : Fn) (c : Nat) (v : Val) : Bool :=
  match ffmtOf c, v with
  | some f, .num _ _ e st => !st && (fn ≠ .exp2 || decide (f.qmin ≤ e))
  | _, _ => false

/-- R176 and R177: the pattern that an approximation writes for one element. Under .sat the infinities of R177's table are
clamped as every infinite result is (assumption 66). -/
def fnPat (op : Nat) (fn : Fn) (c : Nat) (sat : Bool) (p : Nat) : Nat :=
  let x := decodeVal p c
  match fnSpecial fn x with
  | some v => encodeArith v c .rn sat
  | none =>
    let v := fnValue fn x
    let best := encodeArith v c .rn sat
    -- R176: an exact result that overflows gives an infinity, or the largest finite value under .sat
    if (decodeVal (encodeArith v c .rn false) c).isNan || decodeVal (encodeArith v c .rn false) c = .inf v.neg then best
    else if wantsExact fn c v then best
    else if c = 3 || fn = .sin || fn = .cos then
      let cand := (Config.approx op c (BitVec.ofNat 32 p)).toNat % 2 ^ elemWidth c
      if meetsBound fn c x v cand then cand else best
    else best

end Sys2Proof.Machine
end

