-- ==== Sys2Proof/Machine/State.lean ====
section
/-! DEFINITION. The whole state of an Aqpin A12 module as plain data, its state after reset, and why a step can stop. -/

namespace Sys2Proof.Machine

/-- Why a step stops. -/
inductive Fault where
  /-- Raised by exec when it is asked to issue an instruction word while State.issuer names no resident, live, unheld
  group: no hardware step corresponds to it. Safe: the step function never asks. -/
  | noIssuer
  deriving DecidableEq, Repr

/-- Why a step is refused. -/
inductive Refusal where
  /-- Raised by an arm of exec whose instruction has no meaning yet. Safe: nothing can be proved of such a step. -/
  | notModelled (mnemonic : String)
  deriving DecidableEq, Repr

/-- What a trap records (R355, R362). -/
structure TrapInfo where
  cls : Nat
  cause : Nat
  code : Nat
  lane : Nat
  addr : Word
  tile : Word
  /-- furrows of the trapping group -/
  group : BitVec 8
  pc : Word
  resume : Word
  deriving DecidableEq, Repr

/-- What a furrow in a long wait waits for (R56). -/
inductive WaitOn where
  | barrier (lv idx : Nat)
  /-- a missed `board`, whose status goes to S[d] (R319) -/
  | board (d : Nat)
  | rtile
  /-- parked on the page fault of that SEQ (R120, R414) -/
  | fault (seq : Nat)
  deriving DecidableEq, Repr

/-- The state of a furrow (R50, R363); `held` is STATE 4, outside the handler group with its wait resolved. -/
inductive FState where
  | notLive
  | running
  | standing (hid : Nat)
  | waiting (w : WaitOn)
  | held
  deriving DecidableEq, Repr

/-- An entry of the path stack (R38): deferred, or parked at headland `hid` with the count it arrived with. -/
structure PathEntry where
  pc : Word
  mask : BitVec 8
  parked : Bool
  hid : Nat
  cnt : BitVec 16
  deriving DecidableEq, Repr

/-- How a long wait ended while its furrow could not run (R58, R361): whether the waiting word completed, and the
uniform register it writes. -/
structure Resolution where
  completed : Bool
  wr : Option (Nat × Word)
  /-- the page-fault trap that the host asked for (R120) -/
  bad : Option TrapInfo
  deriving DecidableEq, Repr

/-- A furrow (R22, R38, R363). The stack's head is its top. Its group is named by the lowest furrow index in it. -/
structure Furrow where
  pc : Word
  path : BitVec 8
  stack : List PathEntry
  grp : Nat
  st : FState
  hcnt : List (BitVec 16)
  /-- issue rank: its herd's admission order until a yield makes it young (R203, R403) -/
  rank : Nat
  resolved : Option Resolution
  deriving DecidableEq, Repr

/-- The state of a herd for one barrier (R205). -/
inductive BarSt where
  | idle | signalled | waiting | passed
  deriving DecidableEq, Repr

/-- A copy as it was issued (R241, R242): rows of bytes between two generic addresses. -/
structure CopyReq where
  d : Nat
  dst : Word
  src : Word
  rows : Nat
  len : Nat
  dpitch : Nat
  spitch : Nat
  /-- issued at supervisor level -/
  sup : Bool
  deriving DecidableEq, Repr

/-- What the site of a generic-capable memory word needs for its resolution or guard (R269, R272, R277). -/
structure Site where
  /-- the word as fetched -/
  word : Word
  ss : Nat
  /-- the opcode resolves a format -/
  fmtDim : Bool
  /-- the spaces of the active lanes -/
  spaces : List Nat
  /-- the uniformity sources hold one value -/
  one : Bool
  /-- resolution finds the operands uniform -/
  uniform : Bool
  deriving DecidableEq, Repr

/-- Where a lane's access goes. -/
inductive Loc where
  /-- device memory, by physical address -/
  | mem (pa : Nat)
  /-- device memory through a stash window, at a tile offset (R108) -/
  | win (c : CrewKey) (id sec pa off : Nat)
  | tile (c : CrewKey) (off : Nat)
  /-- the tile store of a crew that a pre-emption has saved: the access waits for its restore (R369) -/
  | saved (c : CrewKey)
  /-- a landing slot of the core -/
  | slot (i off : Nat)
  /-- the host (space 6) or a peer (space 5) -/
  | remote (sp : Nat)
  deriving DecidableEq, Repr

/-- The host and peer lanes of a memory instruction that has not completed (R231). -/
structure RemoteOp where
  /-- 0 load, 1 store or reduction, 2 atomic -/
  kind : Nat
  d : Nat
  wid : Nat
  nib : Nat
  op : Option AtomOp
  uni : Bool
  /-- the space that a native word names, whatever its lanes' bits [63:60] say (R98) -/
  spc : Option Nat
  active : List Nat
  /-- what the other lanes have obtained -/
  vals : List (Nat × BitVec 128)
  /-- the formats that the other lanes have found -/
  fmts : List (Nat × Nat)
  /-- the local lanes of a store that wait for the formats of its peers: lane, place and operand (R230) -/
  later : List (Nat × Loc × BitVec 128)
  /-- the places that a load whose peers' formats are still to come has read: their traces come with the answers (R230) -/
  seen : List (Nat × Word × Loc)
  /-- the first of those places with an uncorrectable error (R230, R232) -/
  spoilt : Option (Nat × Word)
  /-- lane, address and operand of the lanes still to be answered -/
  waiting : List (Nat × Word × BitVec 128)
  /-- the site of a generic word, settled when the answers return (R277); none for a native one -/
  site : Option Site
  /-- physical address of the word (R274) -/
  pa : Nat
  deriving DecidableEq, Repr

/-- What a posted access does when it is performed (R227, R228, R234). -/
inductive PostOp where
  /-- its bytes go to V[reg] of its lanes, with the tag `nib` -/
  | load (reg nib : Nat)
  | store (bs : List Byte)
  /-- `ret` is the destination register of an atomic; a reduction has none -/
  | atomic (op : AtomOp) (x y : Lane) (ret : Option Nat)
  deriving DecidableEq, Repr

/-- An access that its agent has issued and that is still to be performed: of one lane, or of one for all with U, and within one aligned
word (R253, R255, R257; assumption 71). -/
structure Posted where
  key : HerdKey
  /-- the furrows whose accesses come after it in program order (R253) -/
  group : BitVec 8
  core : Nat
  loc : Loc
  /-- its bytes: 2^wid -/
  wid : Nat
  op : PostOp
  /-- the lanes that take what it finds -/
  lanes : List Nat
  /-- a release fence stands between it and the agent's later stores (R259) -/
  fenced : Bool
  deriving DecidableEq, Repr

/-- A seed card, as eight words (R393). -/
structure Card where
  w0 : Word
  w1 : Word
  w2 : Word
  w3 : Word
  w4 : Word
  w5 : Word
  w6 : Word
  w7 : Word
  deriving DecidableEq, Repr

/-- Why a group with a word issued does not issue its next one. -/
inductive HoldWhy where
  /-- R203 -/
  | yield (n : Nat)
  /-- the compare-and-swap of R274, not yet answered -/
  | rewrite (pa : Nat) (old new : Word) (widen : Bool)
  /-- R231 -/
  | remote (r : RemoteOp)
  /-- a `sow` stalled on a full queue (R212, R213) -/
  | sow (card : Card) (core d : Nat)
  /-- a copy stalled on the range scoreboard (R116) -/
  | copy (r : CopyReq)
  /-- a matrix command that its group waits for (R289) -/
  | matrix (id : Nat)
  /-- a headland that a ganged herd has passed with a pre-emption asked for: its save comes next (R365) -/
  | save
  /-- stopped by a pre-emption's timeout: its forced save comes next (R366) -/
  | stop
  deriving DecidableEq, Repr

/-- A hold on the furrows of one group. -/
structure Hold where
  group : BitVec 8
  why : HoldWhy
  deriving DecidableEq, Repr

/-- The first error latched for a herd's copies (R244). -/
structure Latch where
  ticket : Nat
  cause : Nat
  addr : Word
  deriving DecidableEq, Repr

/-- One furrow's tape stream (R371, R375, R390). -/
structure Stream where
  cur : Word
  used : Nat
  count : Nat
  seq : BitVec 16
  /-- how many blocks of the stream stand below the current one: SEQ without its wrap (R372, R382; DEDUCED, assumption 36) -/
  below : Nat
  prev : Word
  /-- payload bytes of the current block as the engine holds them -/
  payload : List Byte
  /-- the current block is still to be read from memory (R382, R389) -/
  unread : Bool
  /-- after a restore: how many records and bytes of the image count; none keeps the image's own (R389) -/
  keep : Option (Nat × Nat)
  /-- how many of the current block's payload bytes its memory image holds as its first ones (R388, R392) -/
  img : Nat
  mref : BitVec 8
  ref : List Lane
  cutp : Bool
  depth : Nat
  deriving DecidableEq, Repr

/-- A herd's tape context (R371, R384, R390). -/
structure TapeCtx where
  active : Bool
  sbase : Word
  slim : Word
  next : Word
  obase : Word
  olim : Word
  /-- physical address of each 64 KiB page translated by `tbgn` or `tseg` (R383), by virtual page number -/
  pages : List (Nat × Nat)
  streams : List Stream
  /-- closed dirty blocks not yet written: address, header and used payload (R388) -/
  closed : List (Word × List Byte)
  /-- COUNT and USED of blocks that closed clean after pops, whose image still holds popped records (R392) -/
  kept : List (Word × Nat × Nat)
  deriving DecidableEq, Repr

/-- State of a boarding (R320); `cut` carries its ring-tile cause. -/
inductive BoardSt where
  | registered
  | boarded
  | cut (cause : Nat)
  deriving DecidableEq, Repr

/-- A herd's boarding (R317 to R320); None is the absence of one. -/
structure Boarding where
  st : BoardSt
  quota : Nat
  track : Nat
  layer : Nat
  first : Nat
  /-- COUNT as `board` gave it; once Boarded, the tiles that the shard has under the timetable's T (R317) -/
  count : Nat
  lap : BitVec 32
  /-- slots landed and not yet taken, earliest first -/
  landed : List Nat
  taken : Nat
  /-- tiles of the shard taken or removed by R325 -/
  gone : Nat
  deriving DecidableEq, Repr

/-- A uniform register that a word in a long wait of the ring is still to write (R158, R319, R322): the furrow that waits, and whether
the write stands, no word issued later having written the register. -/
structure LateWrite where
  fur : Nat
  reg : Nat
  stands : Bool
  deriving DecidableEq, Repr

/-- A herd: registers, tags, furrows and everything else its context holds (R22, R33, R362). -/
structure Herd where
  key : HerdKey
  core : Nat
  slice : Nat
  base : Nat
  /-- admission slot on its core, 0 to 255 (R362) -/
  slot : Nat
  width : Nat
  nregs : Nat
  nacc : Nat
  sup : Bool
  resident : Bool
  /-- the save area at `saveAt` holds its context (R27, R419) -/
  stored : Bool
  saveAt : Nat
  /-- order of admission (R403) -/
  order : Nat
  /-- when it last became ready while not resident, by the same count (R58, R401) -/
  readyAt : Nat
  /-- when a furrow of it last entered a long wait or left the herd, by the same count (R57) -/
  waitAt : Nat
  s : Sparse 64
  v : Sparse 32
  vtag : Sparse 4
  d : Sparse 64
  dtag : Sparse 16
  /-- elements of d registers with an uncorrectable error, by 64 × register + lane (R354) -/
  derr : List Nat
  acc : List (Sparse 32)
  accPoison : BitVec 8
  /-- accumulator elements with an uncorrectable error, by 4096 × tile + 64 × row + column (R297) -/
  accErr : List Nat
  cvsat : BitVec 32
  cvflush : BitVec 32
  cvnan : BitVec 32
  cvlim : Word
  copies : Word
  latch : Option Latch
  more : BitVec 16
  furrows : List Furrow
  holds : List Hold
  tape : TapeCtx
  boarding : Option Boarding
  /-- states other than Idle, by level and index (R204, R205) -/
  bars : List ((Nat × Nat) × BarSt)
  /-- furrows of the handler group while a trap is in progress (R356, R357) -/
  handler : Option (BitVec 8)
  /-- traps not yet taken, by their groups (R356, R357) -/
  pend : List (BitVec 8 × TrapInfo)
  /-- the groups that have issued since the first of them completed -/
  pendSeen : BitVec 8
  /-- the furrow below which groups no longer complete a word in that cycle (R87, R356) -/
  pendTop : Nat
  /-- what the words of a missed `board` and of a waiting `rtile` are still to write (R158) -/
  late : List LateWrite
  deriving DecidableEq, Repr

/-- A stash window (R106, R107): the physical 64 KiB pages behind it are kept from the map on. `secs` are its filled
sectors, by number within the window, and whether each is dirty (R108). The bytes of a filled sector are those of hbm,
which is the coherent image that L2 and its owners present (R111; assumption 5). -/
structure Window where
  id : Nat
  tile : Nat
  va : Word
  len : Nat
  pages : List Nat
  secs : List (Nat × Bool)
  deriving DecidableEq, Repr

/-- A request to pre-empt a crew (R364, R365): its save area once one is free. -/
structure PreReq where
  area : Option Nat
  /-- requested by a PREEMPT write, which reports when the field is saved (R416) -/
  host : Bool
  /-- the core whose waiting head requested it, if one did (R402) -/
  core : Option Nat
  deriving DecidableEq, Repr

/-- An admitted crew (R22, R54). -/
structure Crew where
  key : CrewKey
  core : Nat
  /-- the acre of its launch, which names its acre barriers (R59) -/
  acre : Nat
  herds : Nat
  tileLen : Nat
  tile : Memory
  tileErr : List Nat
  windows : List Window
  order : Nat
  pre : Option PreReq
  /-- saved by a pre-emption in that crew save area (R367) -/
  saved : Option Nat
  /-- herds saved so far by the pre-emption under way, by index -/
  savedHerds : List Nat
  deriving DecidableEq, Repr

/-- A posted field (R411). -/
structure FieldRec where
  part : Nat
  id : Nat
  card : Card
  home : Nat
  admitted : Nat
  ended : Nat
  /-- aborted by a double trap (R360) -/
  aborted : Bool
  /-- phases completed by each barrier: scope (crew or acre index, 0 for a field barrier), level, index (R368) -/
  phases : List ((Nat × Nat × Nat) × BitVec 32)
  deriving DecidableEq, Repr

/-- A card waiting in a seed queue (R397). -/
structure Seed where
  core : Nat
  prio : Nat
  part : Nat
  field : Nat
  deriving DecidableEq, Repr

/-- An entry of a core's range scoreboard (R116, R300): bytes [lo, hi) of a crew's tile store, written when `dst`. -/
structure ScoreEnt where
  core : Nat
  crew : CrewKey
  lo : Nat
  hi : Nat
  dst : Bool
  deriving DecidableEq, Repr

/-- A page of 64 KiB of a copy's global destination as the engine translated it at the start: its number, and the physical address of its
first byte or the fault that a store there meets (R116, R121). -/
structure DestPage where
  page : Nat
  base : Nat
  flt : Option (Nat × Nat)
  deriving DecidableEq, Repr

/-- A piece of a copy's source that the engine has read: the number of its first byte, its bytes, and the error that it met (R116). -/
structure CopyRead where
  lin : Nat
  data : List Byte
  err : Option (Nat × Word)
  deriving DecidableEq, Repr

/-- A started copy (R116, R239, R244). -/
structure Copy where
  key : HerdKey
  /-- the furrows whose group issued it (R210, R253) -/
  group : BitVec 8
  ticket : Nat
  core : Nat
  req : CopyReq
  ents : List ScoreEnt
  /-- physical ranges of whole 256-byte lines that the engine owns (R116) -/
  lines : List (Nat × Nat)
  /-- the pages of a global destination -/
  pages : List DestPage
  /-- the pieces of the source that have been read before the retirement -/
  got : List CopyRead
  deriving DecidableEq, Repr

/-- A matrix command in a slice's queue (R289): its word's fields and what it read at issue. -/
structure MCmd where
  id : Nat
  key : HerdKey
  /-- the furrows whose group issued it (R210, R253) -/
  group : BitVec 8
  core : Nat
  slice : Nat
  op : Nat
  d : Nat
  x : BitVec 14
  a0 : Word
  a1 : Word
  b0 : Word
  b1 : Word
  sf : Word
  useSf : Bool
  /-- words of a KIND 0xF operand, word w of line t at 64w + t (R291, R299) -/
  regs : Sparse 32
  cost : Nat
  ents : List ScoreEnt
  /-- landing slots that it reads (R301) -/
  slots : List Nat
  /-- 0 in the queue, 1 begun with its leave granted, 2 read phase ended -/
  phase : Nat
  /-- result elements or bytes, computed when the read phase ends -/
  result : List (BitVec 32)
  bad : Bool
  deriving DecidableEq, Repr

/-- An operand-cache entry (R303). -/
structure OcEntry where
  core : Nat
  slice : Nat
  crew : CrewKey
  /-- the landing slot that it was read from; none for the tile store -/
  slot : Option Nat
  addr : Word
  shape : Word
  cls : Nat
  gen : Nat
  /-- the bytes that it covers: no tag of R303 -/
  lo : Nat
  hi : Nat
  deriving DecidableEq, Repr

/-- A condenser operation whose result is not yet written (R353). -/
structure CondOp where
  core : Nat
  slice : Nat
  key : HerdKey
  d : Nat
  lanes : List (Nat × List Word)
  deriving DecidableEq, Repr

/-- A landing slot in use (R101, R321 to R325). -/
structure Slot where
  core : Nat
  idx : Nat
  /-- the boarding it landed for, until that boarding ends -/
  board : Option HerdKey
  /-- the crew that holds it once taken -/
  crew : Option CrewKey
  track : Nat
  layer : Nat
  tile : Nat
  payload : Memory
  crcBad : Bool
  poison : Bool
  /-- its 64-byte sectors with an uncorrectable error (R232) -/
  errs : List Nat
  /-- released by `rfree`, its readers still running -/
  freeing : Bool
  deriving DecidableEq, Repr

/-- A registered code object and its pristine image (R284, R285); `pages` holds the physical base of each 64 KiB page of
its range, as they translated at registration. -/
structure CodeObj where
  part : Nat
  va : Word
  words : List Word
  pages : List Nat
  digest : BitVec 384
  deriving DecidableEq, Repr

/-- A parked page fault awaiting FRESP (R120, R414). `key` is none for the launch queue's read (R396). -/
structure Parked where
  part : Nat
  seq : Nat
  key : Option HerdKey
  group : BitVec 8
  cause : Nat
  addr : Word
  lane : Nat
  deriving DecidableEq, Repr

/-- A completion event of the host queue (R412). -/
structure Comp where
  part : Nat
  typ : Nat
  status : Nat
  tag : Nat
  field : Nat
  detail : Word
  deriving DecidableEq, Repr

/-- A fault event of the host queue (R414). -/
structure FaultRec where
  part : Nat
  seq : Nat
  kind : Nat
  cause : Nat
  core : Nat
  slot : Nat
  addr : Word
  field : Nat
  lane : Nat
  cls : Nat
  deriving DecidableEq, Repr

/-- A registration under way (R415). -/
structure RegReq where
  part : Nat
  va : Word
  /-- where the image lies in host memory: REGSRC -/
  src : Word
  len : Nat
  tag : Nat
  deriving DecidableEq, Repr

/-- A report asked for (R421): the nonce's address and the objects registered when the request was received, by arena
address, which is the global address that names an object (R284), and measurement. -/
structure AttestReq where
  part : Nat
  addr : Word
  objs : List (Word × BitVec 384)
  deriving DecidableEq, Repr

/-- A held translation of a core's or a die's TLB (R119): `level` is the leaf's level. -/
structure TlbEntry where
  die : Bool
  unit : Nat
  part : Nat
  level : Nat
  vpn : Nat
  leaf : Word
  deriving DecidableEq, Repr

/-- A 64-byte sector in a core's L1 (R110). -/
structure L1Sector where
  core : Nat
  sec : Nat
  data : List Byte
  deriving DecidableEq, Repr

/-- An acre on loan (R418, R419); once `done` it is back with its owner, and the lending slot is still held while a crew of
`saved` waits to be readmitted. -/
structure Lend where
  acre : Nat
  borrower : Nat
  deadline : Nat
  slot : Nat
  recalling : Bool
  done : Bool
  /-- the crews that its recall left saved -/
  saved : List CrewKey
  deriving DecidableEq, Repr

/-- A timetable entry (R308). -/
structure TEntry where
  addr : Nat
  track : Nat
  die : Nat
  layer : Nat
  first : Nat
  count : Nat
  deriving DecidableEq, Repr

/-- A timetable (R308): generation, the 16 grants, the entries. -/
structure Timetable where
  gen : BitVec 32
  grants : List (BitVec 16)
  ents : List TEntry
  deriving DecidableEq, Repr

/-- A tile on the ring, or one that a stop still reads, with the fields of its 64-byte header (R312): `stop` is the stop it last reached,
`passed` whether it has passed it. -/
structure RTile where
  track : Nat
  layer : Nat
  tile : Nat
  die : Nat
  lap : BitVec 32
  ent : Nat
  poison : Bool
  gen : BitVec 32
  /-- the CRC-32C that the injecting stop put into the header -/
  crc : BitVec 32
  crcBad : Bool
  payload : Memory
  /-- the sectors of its payload that the owning stop has still to read, one bit each (R266) -/
  left : Nat
  stop : Nat
  passed : Bool
  /-- it is on its way to the next stop, and completes that hop under a hold too (R321) -/
  sent : Bool
  /-- it waits at its stop to land: it asserts a hold (R321) -/
  held : Bool
  /-- boardings whose missing slot asserts a hold at this stop, with their cores (R321) -/
  blocked : List (HerdKey × Nat)
  deriving DecidableEq, Repr

/-- The sowing ring (R311 to R321). -/
structure Ring where
  installed : Option Timetable
  pending : Option Timetable
  /-- a lap is under way; false at a seam -/
  inLap : Bool
  ent : Nat
  tile : Nat
  laps : Sparse 32
  /-- the stops' injection buffers: tiles read ahead, each stop's next one first, at most two of a stop; their LAP and CRC are
  still to be filled in (R315) -/
  buffer : List RTile
  tiles : List RTile
  /-- stop, track, layer of each closed window (R318) -/
  closed : List (Nat × Nat × Nat)
  lastEnt : Sparse 32
  deriving DecidableEq, Repr

/-- The group whose word issues, the physical address its word was fetched from (R125, R274), and whether the accesses of the word are
posted, to be performed later (R257). -/
structure Issuer where
  key : HerdKey
  f : Nat
  pa : Nat
  post : Bool := false
  deriving DecidableEq, Repr

/-- Where an uncorrectable error appears (R232, R297, R354). -/
inductive ErrSite where
  /-- a 64-byte sector of device memory -/
  | hbm (sec : Nat)
  /-- a 64-byte sector of a crew's tile store -/
  | tile (c : CrewKey) (sec : Nat)
  /-- a 64-byte sector of a landing slot -/
  | slot (core idx sec : Nat)
  /-- an element of a d register, as Herd.derr numbers it -/
  | dist (k : HerdKey) (i : Nat)
  /-- an element of an accumulator tile, as Herd.accErr numbers it -/
  | acc (k : HerdKey) (i : Nat)
  deriving DecidableEq, Repr

/-- What comes from outside the table's steps: the host's accesses to memory (R253, R396), faults of the storage, the reads of a copy
before its retirement (R116), and the performance of posted accesses (R257). -/
inductive Outside where
  /-- the host of partition `p` writes device memory inside the partition's data frames -/
  | device (p pa : Nat) (bs : List Byte)
  /-- the host writes its own memory -/
  | host (a : Nat) (bs : List Byte)
  | error (e : ErrSite)
  /-- a running copy reads some of its source sectors -/
  | copyReads (k : HerdKey) (ticket : Nat)
  /-- posted access `i` is performed -/
  | perform (i : Nat)
  deriving DecidableEq, Repr

/-- One turn of the machine: a group issues, an event of the table comes about, or something from outside does. -/
inductive Turn where
  | issue (k : HerdKey) (f : Nat)
  /-- the group issues, and its word's accesses are posted (R257) -/
  | post (k : HerdKey) (f : Nat)
  | event (e : Instr)
  | outside (o : Outside)
  deriving DecidableEq, Repr

/-- Where boot stands (R420). -/
inductive BootSt where
  | reset | failed | enabled
  deriving DecidableEq, Repr

/-- The module. -/
structure State where
  /-- the model's own: which turns come next; when empty a free value picks (assumption 1) -/
  schedule : List Turn
  /-- the model's own: how many free values have been drawn (assumption 2) -/
  freeCtr : Nat
  issuer : Option Issuer
  boot : BootSt
  cfg : Option Blob
  /-- sys.time (R218) -/
  time : Word
  hbm : Memory
  hbmErr : List Nat
  hostMem : Memory
  /-- core counters and core registers by 4096 × core + number (R218, R307, R332, R370, R391, R407) -/
  coreRegs : Sparse 64
  /-- partition registers by 4096 × partition + number -/
  partRegs : Sparse 64
  /-- the register pages by 4096 × partition + offset (R410) -/
  hostRegs : Sparse 64
  /-- field ids and fault SEQ numbers handed out: 2 × partition, 2 × partition + 1 (R411, R414) -/
  counts : Sparse 32
  l1 : List L1Sector
  tlb : List TlbEntry
  /-- the accesses still to be performed, in the order of their issue (R253, R257) -/
  posted : List Posted
  herds : List Herd
  crews : List Crew
  fields : List FieldRec
  seeds : List Seed
  copies : List Copy
  cmds : List MCmd
  nextCmd : Nat
  ocache : List OcEntry
  ocLast : List ((Nat × Nat) × HerdKey)
  /-- slices whose head command waits for leave, in order of request (R20) -/
  leaveQ : List (Nat × Nat)
  conds : List CondOp
  slots : List Slot
  slotGen : Sparse 32
  ring : Ring
  objs : List CodeObj
  parked : List Parked
  comps : List Comp
  faults : List FaultRec
  regs : List RegReq
  attests : List AttestReq
  lends : List Lend
  linksDown : List Nat
  nextOrder : Nat
  /-- SHA-384 digests of the firmware image and of the blob in force (R421) -/
  fwDigest : BitVec 384
  blobDigest : BitVec 384
  deriving DecidableEq, Repr

/-- Reset values of the core registers (R46, R57, R407); every counter is 0. -/
def coreReset (k : Nat) : Word :=
  if k % 4096 = 0x080 then 2048#64 else if k % 4096 = 0x081 then 50#64 else if k % 4096 = 0x083 then 0x48#64 else 0#64

/-- Reset values of the partition registers (R327, R369): pretime 20, pace 256, the five of R409 zero before boot
(assumption 4). -/
def partReset (k : Nat) : Word :=
  if k % 4096 = 0x105 then 20#64 else if k % 4096 = 0x0D2 then 256#64 else 0#64

/-- An unwritten distribution register (R33): atom 0 is +0.0 with weight 2^24, the others +0.0 with weight 0. -/
def atomReset (k : Nat) : Word := if k % 8 = 0 then 0x0100000000000000#64 else 0#64

/-- An idle ring with no timetable (R311). The manual gives the lap counters no reset value: they are 0 (DESIGN CHOICE, assumption 88). -/
def Ring.reset : Ring :=
  { installed := none, pending := none, inLap := false, ent := 0, tile := 0, laps := [], buffer := [], tiles := [], closed := [],
    lastEnt := [] }

/-- The module right after reset: nothing booted, no partition, no herd, no card (R409, R420). -/
def State.reset : State :=
  { schedule := [], freeCtr := 0, issuer := none, boot := .reset, cfg := none, time := 0, hbm := [],
    hbmErr := [], hostMem := [], coreRegs := [], partRegs := [], hostRegs := [], counts := [], l1 := [], tlb := [], posted := [],
    herds := [], crews := [], fields := [], seeds := [], copies := [], cmds := [], nextCmd := 0, ocache := [],
    ocLast := [], leaveQ := [], conds := [], slots := [], slotGen := [], ring := Ring.reset, objs := [], parked := [],
    comps := [], faults := [], regs := [], attests := [], lends := [], linksDown := [], nextOrder := 0,
    fwDigest := 0, blobDigest := 0 }

end Sys2Proof.Machine
end

