-- ==== Sys2Proof/Machine/Acts.lean ====
section
/-! DEFINITION. Effects as data. Every meaning answers a list of acts, and `run` applies them in order: so what a meaning
can change is read off its list, and a law about the machine is proved once for each act. -/

namespace Sys2Proof.Machine

/-- What an effect can change in one herd (R22, R362). -/
inductive HAct where
  /-- an instruction's write of a uniform register; one to s0 is discarded (R33) -/
  | s (n : Nat) (x : Word)
  /-- a uniform register written by no word issued now: a saved one reloaded, or the late write of a wait (R158, R357, R361) -/
  | reload (n : Nat) (x : Word)
  /-- a word that is to write these registers late begins its wait (R158) -/
  | await (fs regs : List Nat)
  /-- the late writes of these furrows are over -/
  | lateDone (fs : List Nat)
  /-- vector words from key 64 × register + lane on -/
  | v (lo : Nat) (xs : List Lane)
  | vtag (n : Nat) (c : BitVec 4)
  /-- atoms from key 8 × (64 × register + lane) on -/
  | d (lo : Nat) (xs : List Word)
  | dtag (n : Nat) (m : BitVec 16)
  /-- elements of an accumulator tile from 64 × row + column on -/
  | acc (t lo : Nat) (xs : List Lane)
  | accPoison (m : BitVec 8)
  | accErr (l : List Nat)
  | derr (l : List Nat)
  | conv (sat flush nan : BitVec 32)
  | cvlim (x : Word)
  | copies (n : Word)
  | latch (l : Option Latch)
  | more (m : BitVec 16)
  | furrow (f : Nat) (r : Furrow)
  | holds (hs : List Hold)
  | tape (t : TapeCtx)
  | boarding (b : Option Boarding)
  | bar (lv idx : Nat) (st : BarSt)
  | handler (g : Option (BitVec 8))
  | sup (b : Bool)
  /-- becomes resident at a base position -/
  | reside (base : Nat)
  /-- leaves its slice: its context stands in the save area at `addr` -/
  | leave (addr : Nat)
  /-- leaves its slice for good; the accesses that it has issued are still performed (R202) -/
  | gone
  /-- becomes ready while not resident (R58) -/
  | ready (n : Nat)
  /-- enters a long wait, or loses a furrow (R57) -/
  | waitAt (n : Nat)
  /-- the traps not yet taken, the groups that have issued since the first, and the furrow below which none completes (R356) -/
  | pend (l : List (BitVec 8 × TrapInfo)) (seen : BitVec 8) (top : Nat)
  /-- moves to another core, slice and admission slot (R369, R419) -/
  | place (core slice slot : Nat)
  deriving DecidableEq, Repr

/-- What an effect can change in one crew. -/
inductive CAct where
  | tile (lo : Nat) (bs : List Byte)
  | tileErr (l : List Nat)
  | windows (ws : List Window)
  /-- fills a sector of a window, and makes it dirty when written (R108) -/
  | touch (id sec : Nat) (dirty : Bool)
  | pre (p : Option PreReq)
  | saved (a : Option Nat)
  | savedHerds (l : List Nat)
  | place (core order : Nat)
  deriving DecidableEq, Repr

/-- What an admission gives a herd (R30, R33, R401). -/
structure HerdInit where
  key : HerdKey
  core : Nat
  slice : Nat
  slot : Nat
  width : Nat
  nregs : Nat
  nacc : Nat
  sup : Bool
  order : Nat
  entry : Word
  args : Word
  deriving DecidableEq, Repr

/-- What an admission gives a crew. -/
structure CrewInit where
  key : CrewKey
  core : Nat
  herds : Nat
  tileLen : Nat
  order : Nat
  deriving DecidableEq, Repr

/-- What an effect can change in the module. -/
inductive Act where
  | herd (k : HerdKey) (a : HAct)
  | crew (c : CrewKey) (a : CAct)
  | addHerd (i : HerdInit)
  | dropHerd (k : HerdKey)
  | addCrew (i : CrewInit)
  | dropCrew (c : CrewKey)
  /-- bytes of device memory; `own` names the stash window that writes, if one does (R108) -/
  | mem (pa : Nat) (bs : List Byte) (own : Option (CrewKey × Nat))
  /-- zeroes bytes of device memory -/
  | memZero (pa n : Nat)
  | memErr (l : List Nat)
  | hostMem (a : Nat) (bs : List Byte)
  | coreReg (k : Nat) (x : Word)
  /-- adds to a counter that stops at 2^64 - 1 (R218) -/
  | bump (k n : Nat)
  | partReg (k : Nat) (x : Word)
  | hostReg (k : Nat) (x : Word)
  | count (k : Nat) (x : BitVec 32)
  /-- filled sectors enter an L1 -/
  | l1add (l : List L1Sector)
  /-- a store of n bytes of a core updates any sector of the line that its L1 holds (R110) -/
  | l1put (core pa n : Nat)
  /-- discards every sector, or one, from the L1 of a core (R110, R209) -/
  | l1drop (core : Nat)
  | l1dropSec (core sec : Nat)
  | tlb (l : List TlbEntry)
  /-- translations enter the TLBs -/
  | tlbAdd (l : List TlbEntry)
  | posted (l : List Posted)
  | fields (l : List FieldRec)
  | seeds (l : List Seed)
  | copies (l : List Copy)
  | cmds (l : List MCmd)
  | nextCmd (n : Nat)
  | ocache (l : List OcEntry)
  | ocLast (l : List ((Nat × Nat) × HerdKey))
  | leaveQ (l : List (Nat × Nat))
  | conds (l : List CondOp)
  | slots (l : List Slot)
  | slotGen (k : Nat) (x : BitVec 32)
  | ring (r : Ring)
  | objs (l : List CodeObj)
  | parked (l : List Parked)
  | comps (l : List Comp)
  | faults (l : List FaultRec)
  | regs (l : List RegReq)
  | attests (l : List AttestReq)
  | lends (l : List Lend)
  | linksDown (l : List Nat)
  | nextOrder (n : Nat)
  | boot (b : BootSt) (c : Option Blob)
  /-- the measurements of the firmware image and of the blob (R421) -/
  | digests (fw bl : BitVec 384)
  | time (x : Word)
  /-- free values drawn -/
  | free (n : Nat)
  deriving DecidableEq, Repr

/-- A tape context with no tape (R33). -/
def TapeCtx.none : TapeCtx :=
  { active := false, sbase := 0, slim := 0, next := 0, obase := 0, olim := 0, pages := [], streams := [], closed := [], kept := [] }

/-- A furrow of a newly admitted herd (R33, R403): all furrows form one group at the entry with every lane active, at the
rank of the herd's admission. -/
def Furrow.fresh (entry : Word) (order : Nat) : Furrow :=
  { pc := entry, path := 0xFF#8, stack := [], grp := 0, st := .running, hcnt := List.replicate 16 0#16, rank := order,
    resolved := .none }

/-- A herd as R33 launches it; R22 gives it at most eight furrows. -/
def Herd.fresh (i : HerdInit) : Herd :=
  { key := i.key, core := i.core, slice := i.slice, base := 0, slot := i.slot, width := i.width, nregs := i.nregs,
    nacc := i.nacc, sup := i.sup, resident := false, stored := false, saveAt := 0, order := i.order, readyAt := i.order,
    waitAt := i.order,
    s := Sparse.write zeros [] 1
      [i.args, BitVec.ofNat 64 i.key.herd, BitVec.ofNat 64 i.key.crew.crew, BitVec.ofNat 64 i.core]
    v := Sparse.write zeros [] 64 ((List.range i.width).map (BitVec.ofNat 32))
    vtag := Sparse.write zeros [] 1 [2#4]
    d := [], dtag := [], derr := [], acc := List.replicate i.nacc [], accPoison := 0, accErr := []
    cvsat := 0, cvflush := 0, cvnan := 0, cvlim := 0, copies := 0, latch := .none, more := 0
    furrows := List.replicate (min 8 (i.width / 8)) (Furrow.fresh i.entry i.order)
    holds := [], tape := TapeCtx.none, boarding := .none, bars := [], handler := .none,
    pend := [], pendSeen := 0, pendTop := 0, late := [] }

/-- A crew at its admission: a tile store of zeros (R104). -/
def Crew.fresh (i : CrewInit) : Crew :=
  { key := i.key, core := i.core, acre := i.core / 8, herds := i.herds, tileLen := i.tileLen, tile := [], tileErr := [], windows := [],
    order := i.order, pre := .none, saved := .none, savedHerds := [] }

/-- Replaces the entry of a key, or adds one; the neutral value is not kept. -/
def assocSet {α β : Type} [DecidableEq α] [DecidableEq β] (dflt : β) (l : List (α × β)) (a : α) (b : β) : List (α × β) :=
  let r := l.filter (fun p => decide (p.1 ≠ a))
  if b = dflt then r else r ++ [(a, b)]

/-- Reads an entry. -/
def assocGet {α β : Type} [DecidableEq α] (dflt : β) : List (α × β) → α → β
  | [], _ => dflt
  | (x, b) :: r, a => if x = a then b else assocGet dflt r a

/-- Whether a hold outlives its herd: an access to memory that was issued is performed although the herd has ended meanwhile (R202). -/
def HoldWhy.outlives : HoldWhy → Bool
  | .rewrite _ _ _ _ => true
  | .remote r => decide (r.kind = 1)
  | _ => false

/-- R158: the late writes once an instruction writes register n: none of it stands any more. What a handler writes to s56 to s63 goes
at its `rft`, and sets no late write from outside it aside (R361). -/
def Herd.overrule (h : Herd) (n : Nat) : List LateWrite :=
  h.late.map (fun w =>
    if w.reg = n && !(decide (56 ≤ n) && (match h.handler with | some g => !g.getLsbD w.fur | none => false)) then
      { w with stands := false }
    else w)

/-- The late writes once an instruction writes several registers. -/
def Herd.overrules (h : Herd) (regs : List Nat) : List LateWrite :=
  regs.foldl (fun l n => ({ h with late := l } : Herd).overrule n) h.late

/-- R158: the late writes of a word that begins to wait, which sets aside those of words issued earlier. A word that waits again keeps
its own, and s0 is never written. -/
def Herd.awaited (h : Herd) (fs regs : List Nat) : List LateWrite :=
  if h.late.any (fun w => fs.contains w.fur) then h.late
  else h.overrules regs
    ++ fs.flatMap (fun f => regs.map (fun n => { fur := f, reg := n, stands := decide (n ≠ 0) }))

/-- One act on a herd. -/
def Herd.act (h : Herd) : HAct → Herd
  | .s n x => { h with s := if n = 0 then h.s else Sparse.set zeros h.s n x, late := h.overrule n }
  | .reload n x => { h with s := if n = 0 then h.s else Sparse.set zeros h.s n x }
  | .await fs regs => { h with late := h.awaited fs regs }
  | .lateDone fs => { h with late := h.late.filter (fun w => !fs.contains w.fur) }
  | .v lo xs => { h with v := Sparse.write zeros h.v lo xs }
  | .vtag n c => { h with vtag := Sparse.set zeros h.vtag n c }
  | .d lo xs => { h with
      d := Sparse.write atomReset h.d lo xs
      derr := h.derr.filter (fun k => !(decide (lo ≤ 8 * k) && decide (8 * k + 8 ≤ lo + xs.length))) }
  | .dtag n m => { h with dtag := Sparse.set zeros h.dtag n m }
  | .acc t lo xs => { h with
      acc := h.acc.set t (Sparse.write zeros (h.acc.getD t []) lo xs)
      accErr := h.accErr.filter (fun k => !(decide (4096 * t + lo ≤ k) && decide (k < 4096 * t + lo + xs.length))) }
  | .accPoison m => { h with accPoison := m }
  | .accErr l => { h with accErr := l }
  | .derr l => { h with derr := l }
  | .conv sat flush nan => { h with cvsat := sat, cvflush := flush, cvnan := nan }
  | .cvlim x => { h with cvlim := x }
  | .copies n => { h with copies := n }
  | .latch l => { h with latch := l }
  | .more m => { h with more := m }
  | .furrow f r => { h with furrows := h.furrows.set f r }
  | .holds hs => { h with holds := hs }
  | .tape t => { h with tape := t }
  | .boarding b => { h with boarding := b }
  | .bar lv idx st => { h with bars := assocSet .idle h.bars (lv, idx) st }
  | .handler g => { h with handler := g }
  | .sup b => { h with sup := b }
  | .reside base => { h with resident := true, base := base, stored := false }
  | .leave addr => { h with resident := false, stored := true, saveAt := addr }
  | .gone => { h with
      resident := false, stored := false, holds := h.holds.filter (fun x => x.why.outlives), boarding := .none, handler := .none, pend := []
      pendSeen := 0, pendTop := 0, late := [] }
  | .ready n => { h with readyAt := n }
  | .waitAt n => { h with waitAt := n }
  | .pend l seen top => { h with pend := l, pendSeen := seen, pendTop := top }
  | .place core slice slot => { h with core := core, slice := slice, slot := slot }

/-- Marks a sector of the window of that id filled, and dirty when written (R108). -/
def touchWindow (id sec : Nat) (dirty : Bool) (w : Window) : Window :=
  if w.id = id then
    { w with secs := w.secs.filter (fun x => decide (x.1 ≠ sec))
        ++ [(sec, dirty || w.secs.any (fun x => decide (x.1 = sec) && x.2))] }
  else w

/-- The physical address behind byte `o` of a window (R107); `pages` holds the base of each 64 KiB page. -/
def Window.pa (w : Window) (o : Nat) : Nat :=
  w.pages.getD ((w.va.toNat % 65536 + o) / 65536) 0 + (w.va.toNat + o) % 65536

/-- The marks of a tile store's sectors once a sector of a window is touched: a fill writes the sector anew, with the error that the
memory behind it has; `errs` are the marks of device memory (R108, R232). -/
def touchErrs (errs : List Nat) (c : Crew) (id sec : Nat) : List Nat :=
  match c.windows.find? (fun w => decide (w.id = id)) with
  | some w =>
    if w.secs.any (fun x => decide (x.1 = sec)) then c.tileErr
    else c.tileErr.filter (fun q => decide (q ≠ w.tile / 64 + sec))
      ++ (if errs.contains (w.pa (64 * sec) / 64) then [w.tile / 64 + sec] else [])
  | none => c.tileErr

/-- One act on a crew; `errs` are the marks of device memory. -/
def Crew.act (c : Crew) (errs : List Nat) : CAct → Crew
  | .tile lo bs => { c with tile := Memory.put c.tile lo bs }
  | .tileErr l => { c with tileErr := l }
  | .windows ws => { c with windows := ws }
  | .touch id sec dirty => { c with windows := c.windows.map (touchWindow id sec dirty), tileErr := touchErrs errs c id sec }
  | .pre p => { c with pre := p }
  | .saved a => { c with saved := a }
  | .savedHerds l => { c with savedHerds := l }
  | .place core order => { c with core := core, order := order }

/-- What is left of a list, the oldest first, where `n a` elements of a's class can be held: the newest. -/
def keepLast {α : Type} (same : α → α → Bool) (n : α → Nat) : List α → List α
  | [] => []
  | a :: r => if n a ≤ (r.filter (same a)).length then keepLast same n r else a :: keepLast same n r

/-- Sectors of an L1: 256 KiB of 64 bytes (R13). -/
def l1Sectors : Nat := 4096

/-- R13: the sectors that the L1s can hold: a core's oldest leave it for its newest. -/
def capL1 (l : List L1Sector) : List L1Sector := keepLast (fun x y => decide (x.core = y.core)) (fun _ => l1Sectors) l

/-- R119: the translations that the TLBs can hold: 512 of a core, 16,384 of a die; the oldest leave. -/
def capTlb (l : List TlbEntry) : List TlbEntry :=
  keepLast (fun x y => decide (x.die = y.die) && decide (x.unit = y.unit)) (fun x => if x.die then 16384 else 512) l

/-- The herd of a name. -/
def State.herd? (s : State) (k : HerdKey) : Option Herd := s.herds.find? (fun h => decide (h.key = k))

/-- The crew of a name. -/
def State.crew? (s : State) (c : CrewKey) : Option Crew := s.crews.find? (fun x => decide (x.key = c))

/-- Whether [a, a + n) and [b, b + m) share a byte. -/
def overlaps (a n b m : Nat) : Bool := decide (max a b < min (a + n) (b + m))

/-- R108: a write by any other agent recalls the sectors of a window that it touches. -/
def recallSectors (pa n : Nat) (own : Option (CrewKey × Nat)) (c : Crew) : Crew :=
  { c with windows := c.windows.map (fun w =>
      if own = some (c.key, w.id) then w
      else { w with secs := w.secs.filter (fun x => overlaps (w.pa (64 * x.1)) 64 pa n == false) }) }

/-- R304: a write to tile-store bytes drops the operand-cache entries that cover them. -/
def dropCovered (c : CrewKey) (lo n : Nat) (l : List OcEntry) : List OcEntry :=
  l.filter (fun e => !(decide (e.crew = c) && e.slot.isNone && overlaps e.lo (e.hi - e.lo) lo n))

/-- The sectors of windows that such a write recalls, as crew and tile offset. -/
def recalled (pa n : Nat) (own : Option (CrewKey × Nat)) (c : Crew) : List (CrewKey × Nat) :=
  c.windows.flatMap (fun w =>
    if own = some (c.key, w.id) then []
    else (w.secs.filter (fun x => overlaps (w.pa (64 * x.1)) 64 pa n)).map (fun x => (c.key, w.tile + 64 * x.1)))

/-- R304: the operand-cache entries left once window sectors are recalled. -/
def dropRecalled (cs : List Crew) (pa n : Nat) (own : Option (CrewKey × Nat)) (l : List OcEntry) : List OcEntry :=
  (cs.flatMap (recalled pa n own)).foldl (fun l p => dropCovered p.1 p.2 64 l) l

/-- R304: the operand-cache entries left once a window sector is filled or written. -/
def dropTouched (cs : List Crew) (c : CrewKey) (id sec : Nat) (dirty : Bool) (l : List OcEntry) : List OcEntry :=
  match (cs.find? (fun x => decide (x.key = c))).bind (fun x => x.windows.find? (fun w => decide (w.id = id))) with
  | some w => if dirty || !w.secs.any (fun x => decide (x.1 = sec)) then dropCovered c (w.tile + 64 * sec) 64 l else l
  | none => l

/-- A sector of a core's L1 once that core has stored n bytes at `pa`: each aligned word that the store touches is as memory now
holds it, so that a load returns a word that stood in the coherence order (R110, R256). -/
def l1Refresh (m : Memory) (core pa n : Nat) (x : L1Sector) : L1Sector :=
  if x.core = core && overlaps (64 * x.sec) 64 pa n then
    { x with data := x.data.mapIdx (fun i b =>
        if overlaps (64 * x.sec + i / 4 * 4) 4 pa n then m.byte (64 * x.sec + i) else b) }
  else x

/-- One act on the module. -/
def State.act (s : State) : Act → State
  | .herd k a => { s with herds := s.herds.map (fun h => if h.key = k then h.act a else h) }
  | .crew c a =>
    let s' := { s with crews := s.crews.map (fun x => if x.key = c then x.act s.hbmErr a else x) }
    match a with
    | .tile lo bs => { s' with ocache := dropCovered c lo bs.length s'.ocache }
    | .touch id sec dirty => { s' with ocache := dropTouched s.crews c id sec dirty s'.ocache }
    | _ => s'
  | .addHerd i => { s with herds := s.herds ++ [Herd.fresh i] }
  | .dropHerd k => { s with herds := s.herds.filter (fun h => decide (h.key ≠ k)) }
  | .addCrew i => { s with crews := s.crews ++ [Crew.fresh i] }
  | .dropCrew c => { s with crews := s.crews.filter (fun x => decide (x.key ≠ c)) }
  | .mem pa bs own => { s with
      hbm := Memory.put s.hbm pa bs
      crews := s.crews.map (recallSectors pa bs.length own)
      ocache := dropRecalled s.crews pa bs.length own s.ocache }
  | .memZero pa n => { s with
      hbm := Sparse.clear s.hbm pa (pa + n)
      crews := s.crews.map (recallSectors pa n none)
      ocache := dropRecalled s.crews pa n none s.ocache }
  | .memErr l => { s with hbmErr := l }
  | .l1drop core => { s with l1 := s.l1.filter (fun x => decide (x.core ≠ core)) }
  | .l1dropSec core sec => { s with l1 := s.l1.filter (fun x => decide (x.core ≠ core ∨ x.sec ≠ sec)) }
  | .hostMem a bs => { s with hostMem := Memory.put s.hostMem a bs }
  | .coreReg k x => { s with coreRegs := Sparse.set coreReset s.coreRegs k x }
  | .bump k n =>
    let x := BitVec.ofNat 64 (min ((Sparse.get coreReset s.coreRegs k).toNat + n) (2 ^ 64 - 1))
    { s with coreRegs := Sparse.set coreReset s.coreRegs k x }
  | .partReg k x => { s with partRegs := Sparse.set partReset s.partRegs k x }
  | .hostReg k x => { s with hostRegs := Sparse.set zeros s.hostRegs k x }
  | .count k x => { s with counts := Sparse.set zeros s.counts k x }
  | .l1add l => { s with l1 := capL1 (s.l1 ++ l) }
  | .l1put core pa n => { s with l1 := s.l1.map (l1Refresh s.hbm core pa n) }
  | .tlb l => { s with tlb := l }
  | .tlbAdd l => { s with tlb := capTlb (s.tlb ++ l) }
  | .posted l => { s with posted := l }
  | .fields l => { s with fields := l }
  | .seeds l => { s with seeds := l }
  | .copies l => { s with copies := l }
  | .cmds l => { s with cmds := l }
  | .nextCmd n => { s with nextCmd := n }
  | .ocache l => { s with ocache := l }
  | .ocLast l => { s with ocLast := l }
  | .leaveQ l => { s with leaveQ := l }
  | .conds l => { s with conds := l }
  | .slots l => { s with slots := l }
  | .slotGen k x => { s with slotGen := Sparse.set zeros s.slotGen k x }
  | .ring r => { s with ring := r }
  | .objs l => { s with objs := l }
  | .parked l => { s with parked := l }
  | .comps l => { s with comps := l }
  | .faults l => { s with faults := l }
  | .regs l => { s with regs := l }
  | .attests l => { s with attests := l }
  | .lends l => { s with lends := l }
  | .linksDown l => { s with linksDown := l }
  | .nextOrder n => { s with nextOrder := n }
  | .boot b c => { s with boot := b, cfg := c }
  | .digests fw bl => { s with fwDigest := fw, blobDigest := bl }
  | .time x => { s with time := x }
  | .free n => { s with freeCtr := s.freeCtr + n }

/-- Applies acts in order. -/
def run (s : State) (l : List Act) : State := l.foldl State.act s

/-- The acts of a second part, judged in the state that the first part leaves. -/
def andThen (s : State) (a : List Act) (g : State → List Act) : List Act := a ++ g (run s a)

end Sys2Proof.Machine
end

