-- ==== Sys2Proof/Machine/Operands.lean ====
section
/-! DEFINITION. Registers by number, the issuing group and its active lanes (R33, R34, R126, R136), and the registers of
cores and partitions. -/

namespace Sys2Proof.Machine

/-- S[n]; s0 reads as zero (R33). -/
def Herd.sreg (h : Herd) (n : Nat) : Word := if n = 0 then 0#64 else Sparse.get zeros h.s n

/-- V[n][l] (R122). -/
def Herd.vreg (h : Herd) (n l : Nat) : Lane := Sparse.get zeros h.v (64 * n + l)

/-- tag_of(n) (R123). -/
def Herd.tagOf (h : Herd) (n : Nat) : Nat := (Sparse.get zeros h.vtag n).toNat

/-- Atom i of lane l of d register n (R333). -/
def Herd.datom (h : Herd) (n l i : Nat) : Word := Sparse.get atomReset h.d (8 * (64 * n + l) + i)

/-- The dependence-tag mask of d register n (R334). -/
def Herd.dmask (h : Herd) (n : Nat) : BitVec 16 := Sparse.get zeros h.dtag n

/-- Element (i, j) of accumulator tile t (R88). -/
def Herd.accEl (h : Herd) (t i j : Nat) : Lane := Sparse.get zeros (h.acc.getD t []) (64 * i + j)

/-- The key of V[n][l] in a register file. -/
def vkey (n l : Nat) : Nat := 64 * n + l

/-- Furrow f of a herd; a furrow that does not exist is not live. -/
def Herd.fur (h : Herd) (f : Nat) : Furrow :=
  h.furrows.getD f { pc := 0, path := 0, stack := [], grp := 0, st := .notLive, hcnt := [], rank := 0, resolved := .none }

/-- Whether furrow f is live (R34). -/
def Herd.live (h : Herd) (f : Nat) : Bool := decide ((h.fur f).st ≠ .notLive)

/-- The furrows of the herd, by index. -/
def Herd.idxs (h : Herd) : List Nat := List.range h.furrows.length

/-- The live furrows, ascending. -/
def Herd.liveFurs (h : Herd) : List Nat := h.idxs.filter h.live

/-- Whether a herd has ended (R37). -/
def Herd.ended (h : Herd) : Bool := h.liveFurs.isEmpty

/-- The acre whose barriers a herd belongs to: that of its crew's launch, whatever a recall does to the crew (R59, R419). -/
def barAcre (s : State) (h : Herd) : Nat :=
  match s.crew? h.key.crew with | some c => c.acre | none => h.core / 8

/-- Whether each herd of a crew has ended, and the crew with them (R37). -/
def crewOver (s : State) (c : Crew) : Bool := (s.herds.filter (fun h => decide (h.key.crew = c.key))).all Herd.ended

/-- The live furrows of the group named f (R34). -/
def Herd.group (h : Herd) (f : Nat) : List Nat := h.idxs.filter (fun i => h.live i && decide ((h.fur i).grp = f))

/-- The herd lanes of furrow f's current path, ascending (R23, R38). -/
def Herd.pathLanes (h : Herd) (f : Nat) : List Nat := (bitsOf (h.fur f).path 8).map (fun b => 8 * f + b)

/-- The lanes of the current paths of some furrows, ascending. -/
def Herd.lanesOf (h : Herd) (fs : List Nat) : List Nat := fs.flatMap h.pathLanes

/-- A furrow mask. -/
def furMask (fs : List Nat) : BitVec 8 := maskOf 8 fs

/-- Whether a hold covers one of the furrows. -/
def Herd.heldBy (h : Herd) (fs : List Nat) : Option Hold :=
  h.holds.find? (fun x => fs.any (fun f => x.group.getLsbD f))

/-- R34: all live furrows form one group and every path stack among them is empty. -/
def Herd.ganged (h : Herd) : Bool :=
  match h.liveFurs with
  | [] => false
  | f :: r => r.all (fun i => decide ((h.fur i).grp = (h.fur f).grp)) && (f :: r).all (fun i => (h.fur i).stack.isEmpty)

/-- R126: pred(l). -/
def Herd.pred (h : Herd) (hd : Header) (l : Nat) : Bool :=
  if hd.pe then
    if hd.pk then (h.sreg hd.pr.toNat).getLsbD 0 != hd.pn else (h.vreg hd.pr.toNat l).getLsbD 0 != hd.pn
  else true

/-- The issue of one word by one group. -/
structure Ctx where
  key : HerdKey
  h : Herd
  /-- the group's lowest furrow, which names it -/
  f : Nat
  furs : List Nat
  pc : Word
  hdr : Header
  /-- lanes of the group's current paths -/
  lanes : List Nat
  /-- active lanes (R126) -/
  act : List Nat
  /-- physical address of the word (R274) -/
  pa : Nat
  /-- the accesses of the word are posted (R257) -/
  post : Bool
  deriving DecidableEq, Repr

/-- lowest_active() (R123). -/
def Ctx.low (c : Ctx) : Nat := c.act.headD 0

/-- The issuing core. -/
def Ctx.core (c : Ctx) : Nat := c.h.core

/-- The issuing partition. -/
def Ctx.part (c : Ctx) : Nat := c.key.crew.part

/-- R356: whether a trap of a group is pending, to be taken before the group issues anything else. -/
def Herd.pending (h : Herd) (f : Nat) : Bool := h.handler.isNone && h.pend.any (fun p => p.1.getLsbD f)

/-- Whether group f of the herd may issue: resident, Running, not held, with no pending trap (R50, R356, R403). -/
def Herd.canIssue (h : Herd) (f : Nat) : Bool :=
  h.resident && decide ((h.fur f).st = .running) && decide ((h.fur f).grp = f) && (h.heldBy (h.group f)).isNone
    && !h.pending f

/-- The issue that State.issuer names, for a word with this header; none when no such group may issue. -/
def ctxOf (hd : Header) (s : State) : Option Ctx :=
  match s.issuer with
  | none => none
  | some i =>
    match s.herd? i.key with
    | none => none
    | some h =>
      if h.canIssue i.f then
        let fs := h.group i.f
        let ls := h.lanesOf fs
        some { key := i.key, h := h, f := i.f, furs := fs, pc := (h.fur i.f).pc, hdr := hd, lanes := ls
               act := ls.filter (h.pred hd), pa := i.pa, post := i.post }
      else none

/-- A core register (R218). -/
def State.coreReg (s : State) (core n : Nat) : Word := Sparse.get coreReset s.coreRegs (4096 * core + n)

/-- A partition register (R218). -/
def State.partReg (s : State) (p n : Nat) : Word := Sparse.get partReset s.partRegs (4096 * p + n)

/-- A register of a partition's page (R410). -/
def State.hostReg (s : State) (p off : Nat) : Word := Sparse.get zeros s.hostRegs (4096 * p + off)

/-- What the blob gives a partition (R408). -/
def State.partCfg (s : State) (p : Nat) : Option PartCfg :=
  match s.cfg with
  | none => none
  | some b => b.parts.find? (fun x => decide (x.pid = p))

/-- The common pool's id (R408); none with PB = 0. -/
def State.commonPid (s : State) : Option Nat :=
  match s.cfg with
  | none => none
  | some b => if b.pb = 0 then none else some (2 ^ b.pb - 1)

/-- The leave pool that a blob sets for a die, or the default of 300 W: 30,000 units (R19). -/
def blobPool (b : Blob) (die : Nat) : Nat := (b.pools.getD die none).getD 30000

/-- The die of a core: eight cores an acre, two acres a die (R10). -/
def dieOf (core : Nat) : Nat := core / 16

/-- The acre of a core (R10). -/
def acreOf (core : Nat) : Nat := core / 8

/-- Acts on the issuing herd. -/
def Ctx.acts (c : Ctx) (l : List HAct) : List Act := l.map (Act.herd c.key)

/-- Adds 1 to a core counter (R218). -/
def bumpCore (core n : Nat) : Act := .bump (4096 * core + n) 1

end Sys2Proof.Machine
end

