-- ==== Sys2Proof/Machine/Access.lean ====
section
/-! DEFINITION. Addresses, translation and memory access (R97 to R119, R225 to R238, R422): where a lane's access goes, the
first fault it meets, and what reading and writing there does. -/

namespace Sys2Proof.Machine

/-- The kinds of access that R118 and R422 tell apart. `map` is the check of a stash window's pages and `seg` that of a
tape segment's (R246, R383). -/
inductive AKind where
  | load | store | atomic | fetch | map | seg
  deriving DecidableEq, Repr

/-- Whether the kind needs permission to write (R226). -/
def AKind.writes : AKind → Bool
  | .store => true
  | .atomic => true
  | _ => false

/-- Capacity of device memory: 1,920 GB, decimal (R4, R112). -/
def hbmTop : Nat := 1920000000000

/-- Bytes that a leaf of a level maps (R117). -/
def leafSize (level : Nat) : Nat := if level = 1 then 2 ^ 30 else if level = 2 then 2 ^ 21 else 2 ^ 16

/-- How a walk ends: a leaf with its level, or a page-fault cause. -/
inductive Walk where
  | leaf (level : Nat) (e : Word)
  | bad (cause : Nat)
  deriving DecidableEq, Repr

/-- The index of a virtual address at a level (R117). -/
def vaIndex (va level : Nat) : Nat :=
  if level = 0 then va / 2 ^ 39 % 512 else if level = 1 then va / 2 ^ 30 % 512
  else if level = 2 then va / 2 ^ 21 % 512 else va / 2 ^ 16 % 32

/-- One entry's fault of step 4 of R422: cause 1, then cause 5; none for a sound pointer or leaf. -/
def entryFault (e : Word) (level : Nat) : Option Nat :=
  let lf := e.getLsbD 1
  if !e.getLsbD 0 then some 1
  else if lf && level = 0 then some 1
  else if !lf && level = 3 then some 1
  else if lf then
    if fld e 55 48 ≠ 0 || fld e 15 8 ≠ 0 || e.getLsbD 6 || fld e 3 2 ≠ 0
      || (fld e 47 16 * 2 ^ 16) % leafSize level ≠ 0 then some 5 else none
  else if fld e 63 48 ≠ 0 || fld e 7 2 ≠ 0 || (level < 2 && fld e 11 8 ≠ 0) then some 5
  else none

/-- The walk from a table at `tab`, `fuel` levels left (R117, R422). -/
def walkFrom (m : Memory) (va : Nat) : Nat → Nat → Nat → Walk
  | 0, _, _ => .bad 1
  | fuel + 1, level, tab =>
    let e := BitVec.ofNat 64 (m.num (tab + 8 * vaIndex va level) 8)
    match entryFault e level with
    | some c => .bad c
    | none => if e.getLsbD 1 then .leaf level e else walkFrom m va fuel (level + 1) (fld e 47 8 * 256)

/-- Whether [lo, hi) lies in a union of ranges that are listed in ascending order. -/
def insideRanges (hi : Nat) : Nat → List PRange → Bool
  | lo, [] => decide (hi ≤ lo)
  | lo, r :: rs => insideRanges hi (if r.lo ≤ lo ∧ lo < r.hi then r.hi else lo) rs

/-- Whether [lo, hi) lies in the union of the ranges. -/
def inside (lo hi : Nat) (rs : List PRange) : Bool :=
  insideRanges hi lo (sortBy (fun r => r.lo) rs)

/-- Whether [lo, hi) meets a range. -/
def meetsRange (lo hi : Nat) (r : PRange) : Bool := decide (lo < r.hi) && decide (r.lo < hi)

/-- Bytes of one HBM stack: 80 GB (R112). -/
def stackBytes : Nat := 80000000000

/-- The faults of a sound leaf in step 4 of R422: causes 7, 6 and 4, in that order. -/
def leafFault (s : State) (p level : Nat) (e : Word) : Option Nat :=
  let pid := fld e 59 56
  let lo := fld e 47 16 * 2 ^ 16
  let hi := lo + leafSize level
  let ca := e.getLsbD 7
  match s.partCfg p with
  | none => some 7
  | some c =>
    if pid ≠ p && s.commonPid ≠ some pid then some 7
    else
      let okHome :=
        if pid = p then inside lo hi (c.frames ++ [c.arena, c.pen, c.pool])
          && c.hbmStacks.contains (lo / stackBytes) && c.hbmStacks.contains ((hi - 1) / stackBytes)
        else (match s.cfg with
          | some b => inside lo hi b.common && b.commonStacks.contains (lo / stackBytes)
              && b.commonStacks.contains ((hi - 1) / stackBytes)
          | none => false)
      if hbmTop ≤ lo || !okHome || meetsRange lo hi c.pristine
        || (e.getLsbD 5 && (meetsRange lo hi c.pen || meetsRange lo hi c.pool))
        || (!ca && meetsRange lo hi c.arena) || (ca && !inside lo hi [c.arena]) then some 6
      else if 12 ≤ fld e 63 60 then some 4
      else none

/-- The walk of a partition's table and step 4 of R422. -/
def walk (s : State) (p va : Nat) : Walk :=
  match walkFrom s.hbm va 4 0 (fld (s.partReg p 0x082) 47 12 * 4096) with
  | .bad c => .bad c
  | .leaf l e => match leafFault s p l e with | some c => .bad c | none => .leaf l e

/-- Steps 5 and 6 of R422: the fault that a leaf's permission bits give, as class and cause. -/
def permFault (kind : AKind) (sup : Bool) (e : Word) : Option (Nat × Nat) :=
  let ca := e.getLsbD 7
  let us := e.getLsbD 5
  let wr := e.getLsbD 4
  let needW := decide (kind = .map) || decide (kind = .seg)
  if ca && (kind.writes || decide (kind = .map) || decide (kind = .seg)) then some (2, 4)
  else if !ca && decide (kind = .fetch) then some (2, 9)
  else if needW && (!wr || (!us && !sup)) then some (2, 11)
  else if !us && !sup then some (4, 3)
  else if kind.writes && !wr then some (4, 2)
  else none

/-- The physical address that a leaf gives. -/
def leafPA (level : Nat) (e : Word) (va : Nat) : Nat := fld e 47 16 * 2 ^ 16 + va % leafSize level

/-- A translation: its walk's answer or the held leaf that is used instead, whether a free choice was drawn, and the
entries that the TLBs gain (R119). -/
structure Xlate where
  res : Walk
  drew : Bool
  fill : List TlbEntry
  deriving DecidableEq, Repr

/-- Whether a held translation serves a core of a partition for an address. -/
def TlbEntry.serves (t : TlbEntry) (core p va : Nat) : Bool :=
  decide (t.unit = if t.die then dieOf core else core) && decide (t.part = p) && decide (t.vpn = va / leafSize t.level)

/-- The held translations that serve an address and differ from what the walk gives now. -/
def staleLeaves (s : State) (core p va : Nat) (w : Walk) : List Walk :=
  ((s.tlb.filter (fun t => t.serves core p va)).map (fun t => Walk.leaf t.level t.leaf)).filter (fun x => decide (x ≠ w))

/-- R119: an address is translated by the walk, or by a translation that a TLB still holds; where some differ a free value
chooses among them all. All the lanes of a word, pages of a mapping and pieces of a copy share that one choice (DESIGN CHOICE,
assumption 17). -/
def xlate (s : State) (core p va : Nat) : Xlate :=
  let w := walk s p va
  let fill : List TlbEntry := match w with
    | .leaf l e =>
      [{ die := false, unit := core, part := p, level := l, vpn := va / leafSize l, leaf := e },
       { die := true, unit := dieOf core, part := p, level := l, vpn := va / leafSize l, leaf := e }].filter
        (fun t => !s.tlb.contains t)
    | .bad _ => []
  let old := staleLeaves s core p va w
  if old.isEmpty then { res := w, drew := false, fill := fill }
  else match old[Config.freeNat s.freeCtr % (old.length + 1)]? with
    | some x => { res := x, drew := true, fill := [] }
    | none => { res := w, drew := true, fill := fill }

/-- One lane's access after the checks of R422. -/
structure LaneAcc where
  lane : Nat
  addr : Word
  flt : Option (Nat × Nat)
  loc : Loc
  /-- the page's format attribute (R230) -/
  fmt : Nat
  drew : Bool
  fill : List TlbEntry
  deriving DecidableEq, Repr

/-- R97: whether an address breaks a zero field of its space. -/
def zeroFieldBad (sp : Nat) (a : Word) : Bool :=
  if sp = 0 || sp = 3 || sp = 6 then fld a 59 48 ≠ 0
  else if sp = 1 then fld a 59 21 ≠ 0
  else if sp = 2 then fld a 59 44 ≠ 0 || fld a 27 21 ≠ 0
  else if sp = 4 then fld a 59 20 ≠ 0
  else false

/-- R99: the protection cause of an operation that a space does not permit. -/
def spaceRefuses (sp : Nat) (kind : AKind) (sup : Bool) : Option Nat :=
  if kind = .atomic then (if sp = 3 || sp = 4 || sp = 6 then some 7 else none)
  else if kind = .store then (if sp = 4 || (sp = 3 && !sup) then some 3 else none)
  else none

/-- The crew that an acre-space address reaches (R100): of the same field, admitted and not ended, placed on a core of the
accessing crew's acre, or saved by a pre-emption off one; none for cause 5. -/
def acreTarget (s : State) (h : Herd) (a : Word) : Option Crew :=
  match s.crew? { h.key.crew with crew := fld a 43 28 } with
  | none => none
  | some c => if !crewOver s c && acreOf c.core = acreOf h.core then some c else none

/-- The landing slot of a core that a crew holds under an index (R101). -/
def heldSlot (s : State) (core i : Nat) (c : CrewKey) : Option Slot :=
  s.slots.find? (fun x => decide (x.core = core) && decide (x.idx = i) && decide (x.crew = some c) && !x.freeing)

/-- Where byte `off` of a crew's tile store stands: in a window or in the plain tile store (R108). -/
def tileLoc (c : Crew) (off : Nat) : Loc :=
  match c.windows.find? (fun w => decide (w.tile ≤ off) && decide (off < w.tile + w.len)) with
  | some w => .win c.key w.id ((off - w.tile) / 64) (w.pa (off - w.tile)) off
  | none => .tile c.key off

/-- The checks of R422 for one lane of an access. -/
def checkLane (s : State) (h : Herd) (kind : AKind) (w : Nat) (spc : Option Nat) (lane : Nat) (a : Word) : LaneAcc :=
  let bad (cls cause : Nat) : LaneAcc :=
    { lane := lane, addr := a, flt := some (cls, cause), loc := .remote 0, fmt := 0, drew := false, fill := [] }
  let good (l : Loc) (fmt : Nat) : LaneAcc :=
    { lane := lane, addr := a, flt := none, loc := l, fmt := fmt, drew := false, fill := [] }
  let sp := spc.getD (fld a 63 60)
  if a.toNat % w ≠ 0 then bad 1 0
  else if 7 ≤ sp then bad 2 1
  else if zeroFieldBad sp a then bad 2 2
  else match spaceRefuses sp kind h.sup with
  | some c => bad 2 c
  | none =>
    if sp = 1 then
      match s.crew? h.key.crew with
      | none => bad 3 0
      | some c => if c.tileLen < fld a 20 0 + w then bad 3 0 else good (tileLoc c (fld a 20 0)) 0
    else if sp = 2 then
      match acreTarget s h a with
      | none => bad 2 5
      | some c =>
        if c.tileLen < fld a 20 0 + w then bad 3 0
        else good (if c.saved.isSome then .saved c.key else tileLoc c (fld a 20 0)) 0
    else if sp = 4 then
      match heldSlot s h.core (fld a 19 16) h.key.crew with
      | none => bad 2 6
      | some _ => good (.slot (fld a 19 16) (fld a 15 0)) 0
    else if sp = 5 then good (.remote 5) 0
    else if sp = 6 then good (.remote 6) 0
    else
      let x := xlate s h.core h.key.crew.part (fld a 47 0)
      match x.res with
      | .bad c => { bad 4 c with drew := x.drew, fill := x.fill }
      | .leaf l e =>
        match permFault kind h.sup e with
        | some (cls, c) => { bad cls c with drew := x.drew, fill := x.fill }
        | none => { good (.mem (leafPA l e (fld a 47 0))) (fld e 63 60) with drew := x.drew, fill := x.fill }

/-- R102: the effective address. -/
def effAddr (base : Word) (vo : Lane) (imm : BitVec 12) (w : Nat) : Word :=
  base + BitVec.ofInt 64 ((sext vo.toNat 32 + sext imm.toNat 12) * (w : Int))

/-- The class rank of R103. -/
def firstOfClass (as : List LaneAcc) (cls : Nat) : Option LaneAcc :=
  as.find? (fun a => match a.flt with | some (k, _) => k = cls | none => false)

/-- R103: the one fault that an instruction takes over its lanes: the first class, then the lowest lane. -/
def worstFault (as : List LaneAcc) : Option LaneAcc :=
  ((firstOfClass as 1).or (firstOfClass as 2)).or ((firstOfClass as 3).or (firstOfClass as 4))

/-- The sector of device memory that holds an address. -/
def sectorOf (pa : Nat) : Nat := pa / 64

/-- The L1 sector of a core, if it holds it (R110). -/
def l1Get (s : State) (core sec : Nat) : Option L1Sector :=
  s.l1.find? (fun x => decide (x.core = core) && decide (x.sec = sec))

/-- Whether a window of a crew holds a sector filled (R108). -/
def winFilled (s : State) (c : CrewKey) (id sec : Nat) : Bool :=
  match s.crew? c with
  | some x => x.windows.any (fun w => decide (w.id = id) && w.secs.any (fun y => decide (y.1 = sec)))
  | none => false

/-- Whether a sector of a crew's tile store is marked (R232). -/
def tileMarked (s : State) (c : CrewKey) (off : Nat) : Bool :=
  match s.crew? c with | some x => x.tileErr.contains (sectorOf off) | none => false

/-- R232: whether a read there meets an uncorrectable error; through a window, that of the filled sector's copy, or of the memory that
would fill it (R108). -/
def poisoned (s : State) (core : Nat) (viaL1 : Bool) : Loc → Bool
  | .mem pa => s.hbmErr.contains (sectorOf pa) && !(viaL1 && (l1Get s core (sectorOf pa)).isSome)
  | .win c id sec pa off => if winFilled s c id sec then tileMarked s c off else s.hbmErr.contains (sectorOf pa)
  | .tile c off => tileMarked s c off
  | .slot i off => s.slots.any (fun x => decide (x.core = core) && decide (x.idx = i) && x.errs.contains (sectorOf off))
  | .saved _ => false
  | .remote _ => false

/-- Bytes of device memory as core `core` loads them: its L1 first (R110). -/
def readMem (s : State) (core pa n : Nat) (viaL1 : Bool) : List Byte :=
  match (if viaL1 then l1Get s core (sectorOf pa) else none) with
  | some x => (x.data.drop (pa % 64)).take n
  | none => s.hbm.bytes pa n

/-- The bytes that a load of `n` bytes reads. -/
def readLoc (s : State) (core n : Nat) (viaL1 : Bool) : Loc → List Byte
  | .mem pa => readMem s core pa n viaL1
  | .win _ _ _ pa _ => s.hbm.bytes pa n
  | .tile c off => match s.crew? c with | some x => Memory.bytes x.tile off n | none => List.replicate n 0#8
  | .slot i off =>
    match s.slots.find? (fun x => decide (x.core = core) && decide (x.idx = i)) with
    | some x => Memory.bytes x.payload off n
    | none => List.replicate n 0#8
  | .saved _ => List.replicate n 0#8
  | .remote _ => List.replicate n 0#8

/-- The physical address of a lane's bytes in device memory. -/
def Loc.hbm? : Loc → Option Nat
  | .mem pa => some pa
  | .win _ _ _ pa _ => some pa
  | _ => none

/-- A sector of device memory as a core's L1 takes it (R110). -/
def l1Fill (s : State) (core sec : Nat) : L1Sector := { core := core, sec := sec, data := s.hbm.bytes (64 * sec) 64 }

/-- What an engine's read leaves behind: a filled window sector (R108). -/
def fillTrace : Loc → List Act
  | .win c id sec _ _ => [.crew c (.touch id sec false)]
  | _ => []

/-- What the loads of some lanes leave behind: new L1 sectors, each once; filled window sectors, which the core's L1 does not
hold (R108, R110, R256, R265). -/
def loadTraces (s : State) (core : Nat) (as : List LaneAcc) : List Act :=
  let secs := ((as.filterMap (fun a => match a.loc with | .mem pa => some (sectorOf pa) | _ => none)).eraseDups).filter
    (fun x => (l1Get s core x).isNone)
  (if secs.isEmpty then [] else [.l1add (secs.map (l1Fill s core))])
  ++ (as.flatMap (fun a => match a.loc with
      | .win c id sec pa _ => [Act.crew c (.touch id sec false), Act.l1dropSec core (sectorOf pa)]
      | _ => [])).eraseDups

/-- The sectors of a list that byte ranges do not cover whole. -/
def uncovered (l : List (Nat × Nat)) (errs : List Nat) : List Nat :=
  errs.filter (fun x => !(List.range 64).all (fun i => l.any (fun r => r.1 ≤ 64 * x + i && 64 * x + i < r.1 + r.2)))

/-- Byte ranges of a crew's plain tile store that writes cover, by offset and length. -/
def tileRanges (l : List (Loc × Nat)) (c : CrewKey) : List (Nat × Nat) :=
  l.filterMap (fun x => match x.1 with | .tile c' off => if c' = c then some (off, x.2) else none | _ => none)

/-- The sectors that writes touch through windows of a crew: window, sector of it, sector of device memory, sector of the tile store. -/
def winSectors (l : List (Loc × Nat)) (c : CrewKey) : List (Nat × Nat × Nat × Nat) :=
  (l.filterMap (fun x => match x.1 with
    | .win c' id sec pa off => if c' = c then some (id, sec, sectorOf pa, sectorOf off) else none
    | _ => none)).eraseDups

/-- The marks of device memory as writes find them: a filled sector of a window that they touch stands for the memory behind it, since
the write makes it the only current copy (R108, R232). -/
def marksBefore (s : State) (l : List (Loc × Nat)) : List Nat :=
  let filled := (s.crews.flatMap (fun c => (winSectors l c.key).filterMap (fun q =>
    if winFilled s c.key q.1 q.2.1 then some (q.2.2.1, c.tileErr.contains q.2.2.2) else none)))
  s.hbmErr.filter (fun q => !filled.contains (q, false))
    ++ ((filled.filter (fun p => p.2 && !s.hbmErr.contains p.1)).map (fun p => p.1)).eraseDups

/-- The marks of device memory once such writes are done: whole sectors have lost theirs. -/
def marksAfter (s : State) (l : List (Loc × Nat)) : List Nat :=
  uncovered (l.filterMap (fun x => (x.1.hbm?).map (fun pa => (pa, x.2)))) (marksBefore s l)

/-- The marks of a crew's tile store once such writes are done: a sector of a window has the mark of the memory behind it. -/
def tileHealed (s : State) (l : List (Loc × Nat)) (c : Crew) : List Nat :=
  let ws := winSectors l c.key
  (uncovered (tileRanges l c.key) c.tileErr).filter (fun q => !ws.any (fun w => decide (w.2.2.2 = q)))
    ++ (ws.filter (fun w => (marksAfter s l).contains w.2.2.1)).map (fun w => w.2.2.2)

/-- R232: writes of whole sectors, by location and length, clear their poison; a write of part of one leaves it. -/
def healed (s : State) (l : List (Loc × Nat)) : List Act :=
  (if marksAfter s l = s.hbmErr then [] else [.memErr (marksAfter s l)])
  ++ (s.crews.filter (fun c => tileHealed s l c ≠ c.tileErr || (winSectors l c.key).any (fun w => s.hbmErr.contains w.2.2.1))).map
      (fun c => Act.crew c.key (.tileErr (tileHealed s l c)))

/-- Writing bytes there, by core `core` (R108, R110, R228). -/
def writeLoc (core : Nat) (bs : List Byte) : Loc → List Act
  | .mem pa => [.mem pa bs none, .l1put core pa bs.length]
  | .win c id sec pa _ => [.mem pa bs (some (c, id)), .crew c (.touch id sec true), .l1put core pa bs.length]
  | .tile c off => [.crew c (.tile off bs)]
  | _ => []

/-- Writing bytes there, by an engine: no L1 is brought up to date (R110, R258). -/
def engineWrite (bs : List Byte) : Loc → List Act
  | .mem pa => [.mem pa bs none]
  | .win c id sec pa _ => [.mem pa bs (some (c, id)), .crew c (.touch id sec true)]
  | .tile c off => [.crew c (.tile off bs)]
  | _ => []

/-- Whether an access to bytes of a crew's tile store waits for a command in flight (R116, R300). -/
def scoreHit (s : State) (c : CrewKey) (off n : Nat) (write : Bool) : Bool :=
  (s.copies.flatMap (fun x => x.ents) ++ s.cmds.flatMap (fun x => x.ents)).any
    (fun e => decide (e.crew = c) && overlaps e.lo (e.hi - e.lo) off n && (e.dst || write))

/-- R116: whether an access to device memory waits for a line that a copy owns. -/
def lineOwned (s : State) (pa n : Nat) : Bool :=
  s.copies.any (fun x => x.lines.any (fun r => overlaps r.1 (r.2 - r.1) pa n))

/-- Whether a window maps tile-store bytes [lo, hi) onto a physical range (R107). -/
def windowMeets (w : Window) (lo hi : Nat) (l : Nat × Nat) : Bool :=
  (List.range (w.len / 64)).any (fun i => overlaps (w.tile + 64 * i) 64 lo (hi - lo) && overlaps (w.pa (64 * i)) 64 l.1 (l.2 - l.1))

/-- R256, R299: whether bytes of device memory are to be read through a window by a matrix command that this herd issued earlier. The
command's read stands first in program order, so that a later access of the herd waits for it (assumption 85). -/
def mxReads (s : State) (k : HerdKey) (pa n : Nat) : Bool :=
  s.cmds.any (fun m => decide (m.key = k) && m.ents.any (fun e => !e.dst && (match s.crew? e.crew with
    | some c => c.windows.any (fun w => windowMeets w e.lo e.hi (pa, pa + n))
    | none => false)))

/-- One place for every name of a word: device memory by its physical address. -/
def Loc.word : Loc → Loc
  | .win _ _ _ pa _ => .mem pa
  | l => l

/-- The place `o` bytes further on in the same sector. -/
def Loc.shift (o : Nat) : Loc → Loc
  | .mem pa => .mem (pa + o)
  | .win c id sec pa off => .win c id sec (pa + o) (off + o)
  | .tile c off => .tile c (off + o)
  | .saved c => .saved c
  | .slot i off => .slot i (off + o)
  | .remote sp => .remote sp

/-- Whether n bytes at `a` and m bytes at `b` touch one aligned 4-byte word (R256). -/
def sameWord (a n b m : Nat) : Bool := decide (a / 4 ≤ (b + m - 1) / 4) && decide (b / 4 ≤ (a + n - 1) / 4)

/-- Whether two accesses, of n and of m bytes, touch one aligned word, whatever names they use for it. -/
def Loc.meets (n m : Nat) (a b : Loc) : Bool :=
  match a.word, b.word with
  | .mem p, .mem q => sameWord p n q m
  | .tile c p, .tile d q => decide (c = d) && sameWord p n q m
  | _, _ => false

/-- The bytes of a posted access. -/
def Posted.size (p : Posted) : Nat := 2 ^ p.wid

/-- Whether it reads, or writes, memory: an atomic counts as both, a reduction as a store (R259). -/
def Posted.reads (p : Posted) : Bool := match p.op with | .load _ _ => true | .store _ => false | .atomic _ _ _ r => r.isSome
def Posted.writes (p : Posted) : Bool := match p.op with | .load _ _ => false | .store _ => true | .atomic _ _ _ _ => true

/-- Whether a posted access precedes, in program order, what group g of herd k does now (R253). -/
def Posted.own (p : Posted) (k : HerdKey) (g : BitVec 8) : Bool := decide (p.key = k) && decide (p.group &&& g ≠ 0#8)

/-- Whether a posted access must be performed before an access that group g of herd k issues after it: one to the same word (R256), and a
write behind a release fence (R259). -/
def Posted.before (p : Posted) (k : HerdKey) (g : BitVec 8) (n : Nat) (write : Bool) (l : Loc) : Bool :=
  p.own k g && (p.loc.meets p.size n l || (p.fenced && write))

/-- Whether an access is still to be performed that must be performed before this one. -/
def behindPosted (ps : List Posted) (k : HerdKey) (g : BitVec 8) (n : Nat) (write : Bool) (l : Loc) : Bool :=
  ps.any (fun p => p.before k g n write l)

/-- Whether an access of a herd stalls for an engine or for the restore of a crew (R116, R264, R299, R300, R369). -/
def locHeld (s : State) (k : HerdKey) (core n : Nat) (write viaL1 : Bool) : Loc → Bool
  | .mem pa => (lineOwned s pa n && !(viaL1 && (l1Get s core (sectorOf pa)).isSome)) || mxReads s k pa n
  | .win c _ _ pa off => lineOwned s pa n || scoreHit s c off n write || mxReads s k pa n
  | .tile c off => scoreHit s c off n write
  | .saved _ => true
  | _ => false

/-- Whether an access that group g of a herd performs at once stalls. -/
def locWaits (s : State) (k : HerdKey) (g : BitVec 8) (core n : Nat) (write viaL1 : Bool) (l : Loc) : Bool :=
  locHeld s k core n write viaL1 l || behindPosted s.posted k g n write l

/-- Whether an access there may be posted: to storage of the module that herds write, with no uncorrectable error (R232). -/
def Loc.postable (s : State) : Loc → Bool
  | .mem pa => !s.hbmErr.contains (sectorOf pa)
  | .win c _ _ pa off => !s.hbmErr.contains (sectorOf pa) && !tileMarked s c off
  | .tile c off => !tileMarked s c off
  | _ => false

/-- R257: whether the accesses of a word are posted. -/
def Ctx.posts (c : Ctx) (s : State) (as : List LaneAcc) : Bool := c.post && as.all (fun a => a.loc.postable s)

/-- The mask of the issuing group. -/
def Ctx.mask (c : Ctx) : BitVec 8 := furMask c.furs

/-- A posted access of the issuing group. -/
def Ctx.posted (c : Ctx) (l : Loc) (wid : Nat) (op : PostOp) (lanes : List Nat) : Posted :=
  { key := c.key, group := c.mask, core := c.core, loc := l, wid := wid, op := op, lanes := lanes, fenced := false }

/-- Whether a posted access of a herd is still to be performed in bytes of a crew's tile store. -/
def postedTile (s : State) (c : CrewKey) (lo n : Nat) : Bool :=
  s.posted.any (fun p => match p.loc with
    | .win c' _ _ _ off => decide (c' = c) && overlaps off p.size lo n
    | .tile c' off => decide (c' = c) && overlaps off p.size lo n
    | _ => false)

/-- Whether a peer address reaches no module: its index is not in the table, or every link of its set is down (R417). -/
def peerDead (s : State) (a : Word) : Bool :=
  match s.cfg.bind (fun b => b.peers.find? (fun e => decide (e.index = fld a 59 48))) with
  | none => true
  | some e => e.links.all (fun l => s.linksDown.contains l)

/-- The TLB entries and free values that a set of accesses leaves behind. -/
def xlateActs (as : List LaneAcc) : List Act :=
  let fills := (as.flatMap (fun a => a.fill)).eraseDups
  (if fills.isEmpty then [] else [.tlbAdd fills]) ++ (if as.any (fun a => a.drew) then [.free 1] else [])

/-- A little-endian number as bytes (R1). -/
def bytesOf (x n : Nat) : List Byte := leBytes n x

end Sys2Proof.Machine
end

