-- ==== Sys2Proof/Machine/TapeBlock.lean ====
section
/-! DEFINITION. The tape engine's streams (R371 to R382, R388 to R392): blocks, records, the reference, appending and
popping, as functions of a herd's tape context and of memory. -/

namespace Sys2Proof.Machine

/-- A stream with nothing recorded (R383). -/
def Stream.fresh : Stream :=
  { cur := 0, used := 0, count := 0, seq := 0, below := 0, prev := 0, payload := [], unread := false, keep := none, img := 0
    mref := 0, ref := List.replicate 8 0#32, cutp := false, depth := 0 }

/-- A block is dirty when it holds a record that its memory image does not (R388, R392; assumption 35). -/
def Stream.dirty (x : Stream) : Bool := decide (x.img < x.used)

/-- A stream whose current block has just been written. -/
def Stream.clean (x : Stream) : Stream := { x with img := x.used }

/-- Furrow f's stream. -/
def TapeCtx.stream (t : TapeCtx) (f : Nat) : Stream := t.streams.getD f Stream.fresh

/-- The physical address of a tape address, through the translations kept at `tbgn` or `tseg` (R383). -/
def TapeCtx.pa (t : TapeCtx) (a : Word) : Nat := assocGet 0 t.pages (fld a 47 0 / 65536) + fld a 47 0 % 65536

/-- The header's first twelve bytes and the used payload of a block (R373). -/
def blockBody (f : Nat) (x : Stream) : List Byte :=
  leBytes 6 (fld x.prev 47 0) ++ [BitVec.ofNat 8 x.count, BitVec.ofNat 8 x.used, BitVec.ofNat 8 f, 0#8]
    ++ leBytes 2 x.seq.toNat

/-- A block's header with its CRC, followed by its used payload (R373). -/
def blockBytes (f : Nat) (x : Stream) : List Byte :=
  blockBody f x ++ leBytes 4 (crc32c (blockBody f x ++ x.payload)).toNat ++ x.payload

/-- Arbitrary payload bytes beyond USED (R373). -/
def padBytes (n : Nat) : Nat → List Byte
  | 0 => []
  | k + 1 => BitVec.ofNat 8 (Config.freeNat (n + k)) :: padBytes n k

/-- Writing a block of 256 bytes at a tape address, the n-th of one effect; bytes beyond USED hold no defined value
(R373, R388). -/
def writeBlock (s : State) (core : Nat) (t : TapeCtx) (n : Nat) (a : Word) (bs : List Byte) : List Act :=
  let all := bs ++ padBytes (s.freeCtr + 256 * n) (256 - bs.length)
  [.mem (t.pa a) all none, .l1put core (t.pa a) all.length]

/-- Writes blocks in order, each of four whole sectors, whose poison goes (R232). -/
def writeBlocks (s : State) (core : Nat) (t : TapeCtx) (bl : List (Word × List Byte)) : List Act :=
  (bl.mapIdx (fun n c => writeBlock s core t n c.1 c.2)).flatten
    ++ healed s (bl.map (fun c => (Loc.mem (t.pa c.1), 256)))
    ++ (if bl.isEmpty then [] else [.free (256 * bl.length)])

/-- A trap of the tape instructions, as class, cause and address (R381, R382). -/
abbrev TapeTrap := Nat × Nat × Word

/-- The memory image of a block: its bytes that are still to be written, else memory's. -/
def blockImage (s : State) (t : TapeCtx) (a : Word) : List Byte :=
  match t.closed.find? (fun c => decide (c.1 = a)) with
  | some c => c.2 ++ List.replicate (256 - c.2.length) 0#8
  | none => s.hbm.bytes (t.pa a) 256

/-- The tape address of the previous block that a header gives (R372, R373); the first block of a stream has PREV 0, as has one whose
previous block stands at tape address 0. -/
def prevAddr (img : List Byte) : Word := BitVec.ofNat 64 (3 * 2 ^ 60 + leNat (img.take 6))

/-- Whether the current block is the first of its stream: none stands below it, and PREV is 0 (R372, R379, R382; assumption 36). -/
def Stream.first (x : Stream) : Bool := decide (x.below = 0) && decide (fld x.prev 47 0 = 0)

/-- Reads back and checks the current block, keeping the records that count (R382, R389, R392). -/
def readBack (s : State) (t : TapeCtx) (f : Nat) (x : Stream) : Except TapeTrap Stream :=
  if !x.unread then .ok x
  else
    let img := blockImage s t x.cur
    let used := (img.getD 7 0#8).toNat
    let body := img.take 12 ++ (img.drop 16).take used
    if !t.closed.any (fun c => decide (c.1 = x.cur))
      && (List.range 4).any (fun i => s.hbmErr.contains (sectorOf (t.pa x.cur) + i)) then .error (2, 10, x.cur)
    else if 240 < used || leNat ((img.drop 12).take 4) ≠ (crc32c body).toNat || (img.getD 8 0#8).toNat ≠ f
      || BitVec.ofNat 16 (leNat ((img.drop 10).take 2)) ≠ x.seq then .error (9, 2, 0)
    else
      let keep := match x.keep with
        | some k => k
        | none => assocGet ((img.getD 6 0#8).toNat, used) t.kept x.cur
      .ok { x with count := keep.1, used := keep.2, payload := ((img.drop 16).take used).take keep.2
                   prev := prevAddr img, unread := false, keep := none, img := keep.2 }

/-- A record from the top of a payload: kind, MX, body bytes and length (R374). -/
structure TRec where
  kind : Nat
  mx : Bool
  body : List Byte
  len : Nat
  deriving DecidableEq, Repr

/-- Parses the top record backward (R374); none when it does not parse. -/
def topRec (x : Stream) : Option TRec :=
  let len := (x.payload.getLastD 0#8).toNat
  if len < 3 || x.used < len then none
  else
    let r := x.payload.drop (x.used - len)
    let typ := (r.getD (len - 2) 0#8).toNat
    if 8 ≤ typ then none
    else some { kind := typ % 4, mx := typ / 4 = 1, body := r.take (len - 2), len := len }

/-- Removes the top record of `len` bytes; a block that it empties is discarded and the previous one becomes current, to
be read when it is needed (R382, R392). The memory of a discarded block that was never written keeps what stood there (DESIGN CHOICE,
assumption 101). -/
def dropRec (x : Stream) (len : Nat) : Stream :=
  let y := { x with used := x.used - len, count := x.count - 1, payload := x.payload.take (x.used - len)
                    img := min x.img (x.used - len) }
  if y.used ≠ 0 then y
  else if x.first then
    { y with cur := 0, used := 0, count := 0, seq := 0, payload := [], unread := false }
  else { y with cur := x.prev, prev := 0, seq := x.seq - 1, below := x.below - 1, payload := [], unread := true, keep := none }

/-- The stream with its top record in sight, cut records removed (R379, R381, R382). -/
def settle (s : State) (t : TapeCtx) (f : Nat) : Nat → Stream → Except TapeTrap (Stream × TRec)
  | 0, _ => .error (9, 2, 0)
  | fuel + 1, x =>
    match readBack s t f x with
    | .error e => .error e
    | .ok y =>
      match topRec y with
      | none => .error (9, 2, 0)
      | some r => if r.kind = 3 then settle s t f fuel (dropRec y r.len) else .ok (y, r)

/-- Cut records that one stream can hold: 2^40 blocks of tape space, each taken once, of fewer than 2^5 cut records (R372, R374). -/
def maxRecords : Nat := 2 ^ 45

/-- What a pop finds in furrow f's stream: the stream before the record is undone, and the record (R381). -/
def popCheck (s : State) (t : TapeCtx) (f kind : Nat) : Except TapeTrap (Stream × TRec) :=
  let x := t.stream f
  if x.depth = 0 then .error (9, 0, 0)
  else
    match settle s t f maxRecords x with
    | .error e => .error e
    | .ok (y, r) => if r.kind = kind then .ok (y, r) else .error (8, r.kind, 0)

/-- The words of a record's body after a presence byte, lane by lane (R374). -/
def presentWords : List Nat → List Byte → List (Nat × Lane)
  | [], _ => []
  | j :: js, bs => (j, BitVec.ofNat 32 (leNat (bs.take 4))) :: presentWords js (bs.drop 4)

/-- Undoes a record (R380). -/
def undo (x : Stream) (r : TRec) : Stream :=
  let body := if r.mx then r.body.drop 1 else r.body
  let mref := if r.mx then x.mref ^^^ r.body.getD 0 0#8 else x.mref
  let ref :=
    if r.kind = 0 then
      (presentWords (bitsOf (body.getD 0 0#8) 8) (body.drop 1)).foldl
        (fun l p => l.set p.1 (l.getD p.1 0#32 ^^^ p.2)) x.ref
    else x.ref
  { dropRec x r.len with mref := mref, ref := ref, depth := x.depth - 1 }

/-- The bytes of a record (R374). -/
def recBytes (kind : Nat) (mx : Bool) (body : List Byte) : List Byte :=
  body ++ [BitVec.ofNat 8 (kind + if mx then 4 else 0), BitVec.ofNat 8 (body.length + 2)]

/-- A value record and the reference after it (R375); `m` is the lane mask and `v` gives the words. -/
def valueRec (x : Stream) (m : BitVec 8) (v : Nat → Lane) : List Byte × Stream :=
  let mx := m ≠ x.mref
  let pres := (bitsOf m 8).filter (fun j => v j ≠ x.ref.getD j 0#32)
  let body := (if mx then [m ^^^ x.mref] else []) ++ [maskOf 8 pres]
    ++ pres.flatMap (fun j => leBytes 4 (v j ^^^ x.ref.getD j 0#32).toNat)
  (recBytes 0 mx body, { x with mref := m, ref := x.ref.mapIdx (fun j w => if m.getLsbD j then v j else w) })

/-- A mask record (R378). -/
def maskRec (x : Stream) (m bits : BitVec 8) : List Byte × Stream :=
  let mx := m ≠ x.mref
  (recBytes 1 mx ((if mx then [m ^^^ x.mref] else []) ++ [bits]), { x with mref := m })

/-- A marker record (R378). -/
def markRec (x : Stream) (imm : BitVec 16) : List Byte × Stream := (recBytes 2 false (leBytes 2 imm.toNat), x)

/-- The cut record for the segment that `tseg` replaced (R379). -/
def cutRec (t : TapeCtx) : List Byte := recBytes 3 false (leBytes 6 (fld t.obase 47 0) ++ leBytes 6 (fld t.olim 47 0))

/-- Whether a record of `len` bytes fits in the current block (R378). -/
def fits (x : Stream) (len : Nat) : Bool := x.cur ≠ 0#64 && decide (16 + x.used + len ≤ 256)

/-- The blocks that a furrow must take for a record of `len` bytes (R378). -/
def needBlocks (x : Stream) (len : Nat) : Nat :=
  let (n, used) := if x.cutp then (if fits x 14 then (0, x.used + 14) else (1, 14)) else (0, x.used)
  let has := x.cur ≠ 0#64 || x.cutp
  if has && 16 + used + len ≤ 256 then n else n + 1

/-- Appends a record to furrow f's stream, taking a block at NEXT when it does not fit (R372, R378). -/
def append (t : TapeCtx) (f : Nat) (x : Stream) (bs : List Byte) : TapeCtx × Stream :=
  if fits x bs.length then
    (t, { x with payload := x.payload ++ bs, used := x.used + bs.length, count := x.count + 1 })
  else
    let t' :=
      if x.cur = 0#64 then t
      else
        let kept := t.kept.filter (fun k => decide (k.1 ≠ x.cur))
        if x.dirty then { t with closed := t.closed ++ [(x.cur, blockBytes f x)], kept := kept }
        else { t with kept := kept ++ [(x.cur, x.count, x.used)] }
    ({ t' with next := t.next + 256#64 },
     { x with cur := t.next, prev := x.cur, seq := if x.cur = 0#64 then 0#16 else x.seq + 1
              below := if x.cur = 0#64 then 0 else x.below + 1, payload := bs
              used := bs.length, count := 1, img := 0, unread := false, keep := none })

/-- Appends a pending cut record and then a record (R378, R379). -/
def appendRec (t : TapeCtx) (f : Nat) (x : Stream) (bs : List Byte) : TapeCtx × Stream :=
  if x.cutp then
    let (t1, x1) := append t f { x with cutp := false } (cutRec t)
    append t1 f x1 bs
  else append t f x bs

/-- Stores furrow f's stream. -/
def TapeCtx.put (t : TapeCtx) (f : Nat) (x : Stream) : TapeCtx := { t with streams := t.streams.set f x }

/-- Marks every open block clean and forgets the closed ones, once they are written. -/
def TapeCtx.cleaned (t : TapeCtx) : TapeCtx :=
  { t with closed := [], streams := t.streams.map Stream.clean }

/-- The dirty blocks of a context, closed ones first: address, header and used payload. -/
def dirtyBlocks (t : TapeCtx) : List (Word × List Byte) :=
  t.closed ++ (List.range t.streams.length).flatMap (fun f =>
    if (t.stream f).dirty then [((t.stream f).cur, blockBytes f (t.stream f))] else [])

/-- Writes every dirty block of a context (R385, R388). -/
def flushTape (s : State) (core : Nat) (t : TapeCtx) : List Act := writeBlocks s core t (dirtyBlocks t)

/-- Whether a copy owns a line of a block at a tape address (R116). -/
def blockOwned (s : State) (t : TapeCtx) (a : Word) : Bool := lineOwned s (t.pa a) 256

/-- Whether reading a block back waits: a copy owns a line of it, or of a closed block that is written first (R116,
R382). -/
def readWaits (s : State) (t : TapeCtx) (a : Word) : Bool :=
  blockOwned s t a || t.closed.any (fun b => blockOwned s t b.1)

/-- Whether a copy owns a line of a block that a flush would write. -/
def flushOwned (s : State) (t : TapeCtx) : Bool := (dirtyBlocks t).any (fun b => blockOwned s t b.1)

end Sys2Proof.Machine
end

