-- ==== Sys2Proof/Machine/Cards.lean ====
section
/-! DEFINITION. Seed cards, seed queues and placement (R393 to R399, R411, R418). -/

namespace Sys2Proof.Machine

/-- The fields of R393. -/
def Card.crews (c : Card) : Nat := fld c.w2 47 32
def Card.placeSet (c : Card) : Nat := fld c.w2 29 28
def Card.prio (c : Card) : Nat := fld c.w2 27 26
def Card.level (c : Card) : Bool := c.w2.getLsbD 25
def Card.notify (c : Card) : Bool := c.w2.getLsbD 24
def Card.herds (c : Card) : Nat := fld c.w2 21 16
def Card.width (c : Card) : Nat := 8 * 2 ^ fld c.w2 13 12
def Card.regs (c : Card) : Nat := fld c.w2 8 0
def Card.tilek (c : Card) : Nat := fld c.w3 31 20
def Card.acc (c : Card) : Nat := fld c.w3 19 16
def Card.ab (c : Card) : Nat := fld c.w3 15 12
def Card.fb (c : Card) : Nat := fld c.w3 11 9
def Card.cb (c : Card) : Nat := fld c.w3 4 0
def Card.bound (c : Card) : Nat := fld c.w4 47 32
def Card.home (c : Card) : Nat := fld c.w4 7 0
def Card.tag (c : Card) : Nat := fld c.w5 31 0

/-- A card from 64 bytes (R393). -/
def cardOf (bs : List Byte) : Card :=
  let w (i : Nat) : Word := BitVec.ofNat 64 (leNat ((bs.drop (8 * i)).take 8))
  { w0 := w 0, w1 := w 1, w2 := w 2, w3 := w 3, w4 := w 4, w5 := w 5, w6 := w 6, w7 := w 7 }

/-- Whether a reserved field of a card is not zero (R394). -/
def Card.reservedBad (c : Card) : Bool :=
  fld c.w2 63 48 ≠ 0 || fld c.w2 31 30 ≠ 0 || fld c.w2 23 22 ≠ 0 || fld c.w2 15 14 ≠ 0 || fld c.w2 11 9 ≠ 0
    || fld c.w3 63 32 ≠ 0 || fld c.w3 8 5 ≠ 0 || fld c.w4 63 48 ≠ 0 || fld c.w4 31 8 ≠ 0 || fld c.w5 63 32 ≠ 0
    || c.w6 ≠ 0#64 || c.w7 ≠ 0#64

/-- Whether a field of a card lies outside its range, HOME apart (R30, R393, R394). -/
def Card.rangeBad (c : Card) : Bool :=
  c.crews = 0 || c.placeSet = 3 || c.herds = 0 || 32 < c.herds || c.regs < 16 || 256 < c.regs || c.regs % 8 ≠ 0
    || 2048 < c.tilek || 8 < c.acc || 8 < c.ab || 4 < c.fb || 16 < c.cb

/-- Whether an address lies inside a code object registered to a partition (R284). -/
def inObject (s : State) (p : Nat) (a : Word) : Bool :=
  s.objs.any (fun o => decide (o.part = p) && decide (o.va.toNat ≤ a.toNat)
    && decide (a.toNat < o.va.toNat + 8 * o.words.length))

/-- Whether a card breaks the rules of its chapter (R394). `sow` ignores HOME. -/
def cardBad (s : State) (p : Nat) (c : Card) (bySow userSow : Bool) : Bool :=
  c.reservedBad || c.rangeBad || c.w0.toNat % 8 ≠ 0 || !inObject s p c.w0 || (userSow && c.level)
    || (!bySow && 191 < c.home)

/-- The acre's lending, if it is lent (R418). -/
def lendOf (s : State) (acre : Nat) : Option Lend := s.lends.find? (fun l => decide (l.acre = acre) && !l.done)

/-- Whether a partition owns an acre by the blob (R408). -/
def ownsAcre (s : State) (p acre : Nat) : Bool :=
  match s.partCfg p with | some c => c.acres.contains acre | none => false

/-- Whether a core runs for a partition: on its own acre, or on one lent to it (R418). -/
def coreInPart (s : State) (p core : Nat) : Bool :=
  match lendOf s (acreOf core) with
  | some l => l.borrower = p
  | none => ownsAcre s p (acreOf core)

/-- R394, R398: whether a bound lets a card stand on a core; a bound of 0 is infinite. -/
def boundFits (s : State) (c : Card) (core : Nat) : Bool :=
  match lendOf s (acreOf core) with
  | some l => c.bound ≠ 0 && decide (c.bound ≤ l.deadline)
  | none => true

/-- The 192 cores from one on, wrapping (R10, R398). -/
def coresFrom (home : Nat) : List Nat := (List.range 192).map (fun i => (home + i) % 192)

/-- The placement set in placement order (R398). -/
def placement (s : State) (p : Nat) (c : Card) (home : Nat) : List Nat :=
  (coresFrom home).filter (fun k =>
    coreInPart s p k && boundFits s c k
      && (if c.placeSet = 0 then decide (k = home) else if c.placeSet = 1 then acreOf k = acreOf home else true))

/-- Crews that a core with these free resources can take (R399). -/
def quotient (c : Card) (herds tile bars : Nat) : Nat :=
  let q := herds / c.herds
  let q := if c.tilek = 0 then q else min q (tile / (1024 * c.tilek))
  if c.cb = 0 then q else min q (bars / c.cb)

/-- Bytes of one core's tile store: 2 MiB (R104, R399). -/
def tileBytes : Nat := 2 ^ 21

/-- The capacity of a field (R399). -/
def capacity (s : State) (p : Nat) (c : Card) (home : Nat) : Nat :=
  let fbp := match s.partCfg p with | some x => x.fbp | none => 0
  if fbp < c.fb then 0
  else ((placement s p c home).map (fun _ => quotient c 256 tileBytes 256)).sum

/-- The first status of R212 that holds for a card posted to core `k`, a full queue apart; 0 when none does. -/
def cardStatus (s : State) (p : Nat) (c : Card) (k : Nat) (bySow userSow : Bool) : Nat :=
  if 192 ≤ k || !coreInPart s p k then 4
  else if !boundFits s c k then 5
  else if cardBad s p c bySow userSow then 2
  else if (0 < c.ab || 0 < c.fb) && capacity s p c k < c.crews then 3
  else if c.ab = 0 && c.fb = 0 && quotient c 256 tileBytes 256 = 0 then 3
  else 0

/-- The cards in a core's queue of a priority, first in first (R397). -/
def seedQueue (s : State) (core prio : Nat) : List Seed :=
  s.seeds.filter (fun q => decide (q.core = core) && decide (q.prio = prio))

/-- R397: a queue holds 64 cards. -/
def queueFull (s : State) (core prio : Nat) : Bool := 64 ≤ (seedQueue s core prio).length

/-- R411: the partition's next field id. -/
def nextFieldId (s : State) (p : Nat) : BitVec 32 :=
  let n := Sparse.get zeros s.counts (2 * p) + 1#32
  if n = 0#32 then 1#32 else n

/-- Posting a card to a queue that has room (R212, R411). -/
def postCard (s : State) (p : Nat) (c : Card) (core : Nat) : List Act :=
  let id := nextFieldId s p
  [.count (2 * p) id,
   .fields (s.fields ++ [{ part := p, id := id.toNat, card := c, home := core, admitted := 0, ended := 0
                           aborted := false, phases := [] }]),
   .seeds (s.seeds ++ [{ core := core, prio := c.prio, part := p, field := id.toNat }])]

/-- The record of a field. -/
def State.field? (s : State) (p id : Nat) : Option FieldRec :=
  s.fields.find? (fun f => decide (f.part = p) && decide (f.id = id))

/-- The field's records with one replaced. -/
def setField (s : State) (f : FieldRec) : Act :=
  .fields (s.fields.map (fun x => if x.part = f.part ∧ x.id = f.id then f else x))

end Sys2Proof.Machine
end

