-- ==== Sys2Proof/Machine/Ops.lean ====
section
/-! DEFINITION. The named operations that meanings share: ending a herd, barriers, waits and their resolution, parking on a
page fault, taking a trap and returning from one (R37, R56, R60 to R63, R120, R205, R355 to R363). -/

namespace Sys2Proof.Machine

/-- An act on furrow f of a herd. -/
def furAct (h : Herd) (f : Nat) (g : Furrow → Furrow) : HAct := .furrow f (g (h.fur f))

/-- Acts on a herd. -/
def herdActs (k : HerdKey) (l : List HAct) : List Act := l.map (Act.herd k)

/-- The group's furrows continue at a PC. -/
def moveTo (h : Herd) (fs : List Nat) (pc : Word) : List HAct := fs.map (fun f => furAct h f (fun r => { r with pc := pc }))

/-- A group takes the youngest rank (R203, R403). -/
def youngest (s : State) (h : Herd) (fs : List Nat) : List Act :=
  herdActs h.key (fs.map (fun f => furAct h f (fun r => { r with rank := s.nextOrder }))) ++ [.nextOrder (s.nextOrder + 1)]

/-- The cores of a partition's own acres, ascending (R419). -/
def ownCores (s : State) (p : Nat) : List Nat := (List.range 192).filter (fun k => ownsAcre s p (acreOf k))

/-- The rank of a core among those of a partition (R419). -/
def coreRank (s : State) (p core : Nat) : Nat :=
  let own := ownCores s p
  match lendOf s (acreOf core) with
  | some l => if l.borrower = p then own.length + 8 * l.slot + core % 8 else own.idxOf core
  | none => own.idxOf core

/-- The address of the save area of an admission slot of a core (R362). Supervisor code may set sys.penbase anywhere, and saves and trap
entries write where it points, over the arena too, as crew saves do with sys.crewbase (R283, R369; DESIGN CHOICE, assumption 84). -/
def slotArea (s : State) (p core slot : Nat) : Nat :=
  fld (s.partReg p 0x102) 47 12 * 4096 + 0x44000 * (256 * coreRank s p core + slot)

/-- The address of a herd's save area (R362). -/
def saveArea (s : State) (h : Herd) : Nat := slotArea s h.key.crew.part h.core h.slot

/-- STATE and WAIT of a furrow record (R363). -/
def stateCode : FState → Nat × Nat
  | .notLive => (0, 0)
  | .running => (1, 0)
  | .standing _ => (2, 0)
  | .waiting (.barrier _ _) => (3, 1)
  | .waiting (.board _) => (3, 2)
  | .waiting .rtile => (3, 2)
  | .waiting (.fault _) => (3, 3)
  | .held => (4, 0)

/-- HID of a furrow record (R363). -/
def hidCode : FState → Nat
  | .standing n => n
  | _ => 0

/-- A furrow record: 512 bytes (R363). -/
def furrowRec (r : Furrow) : List Byte :=
  let sc := stateCode r.st
  let d := r.stack.length
  leBytes 8 r.pc.toNat
    ++ leBytes 8 (r.path.toNat + 2 ^ 8 * r.grp + 2 ^ 16 * (d % 16) + 2 ^ 20 * (d / 16) + 2 ^ 21 * sc.1
        + 2 ^ 24 * hidCode r.st + 2 ^ 28 * sc.2)
    ++ List.replicate 16 0#8 ++ (List.range 16).flatMap (fun n => leBytes 2 (r.hcnt.getD n 0#16).toNat)
    ++ r.stack.reverse.flatMap (fun e => leBytes 8 e.pc.toNat
        ++ leBytes 8 (e.mask.toNat + (if e.parked then 2 ^ 8 else 0) + 2 ^ 12 * e.hid + 2 ^ 16 * e.cnt.toNat))
    ++ List.replicate (448 - 16 * d) 0#8

/-- The eight furrow records of a herd; a furrow that the herd does not have is not live (R363). -/
def furrowRecs (h : Herd) : List Byte := (List.range 8).flatMap (fun f => furrowRec (h.fur f))

/-- The trap record word with PROG = 1 (R362). -/
def trapWord (h : Herd) (t : TrapInfo) : Word :=
  BitVec.ofNat 64 (t.lane % 256 * 2 ^ 48 + t.code % 65536 * 2 ^ 32 + t.cause % 256 * 2 ^ 16 + t.group.toNat * 2 ^ 8
    + 2 ^ 7 + (if h.sup then 2 ^ 6 else 0) + t.cls % 16)

/-- The trap record, 64 bytes (R362). -/
def trapRec (h : Herd) (t : TrapInfo) : List Byte :=
  leBytes 8 (trapWord h t).toNat ++ leBytes 8 t.pc.toNat ++ leBytes 8 t.resume.toNat ++ leBytes 8 t.addr.toNat
    ++ leBytes 8 t.tile.toNat ++ List.replicate 24 0#8

/-- Every lane of a furrow that has not exited: its current path and its path stack (R38). -/
def Furrow.lanes (r : Furrow) : BitVec 8 := r.stack.foldl (fun m e => m ||| e.mask) r.path

/-- Whether a herd lane has exited (R201): it stands in no path of its furrow. -/
def Herd.exited (h : Herd) (l : Nat) : Bool := !(h.fur (l / 8)).lanes.getLsbD (l % 8)

/-- The address of the handler of a trap class (R357). -/
def trapVector (s : State) (p cls : Nat) : Word := BitVec.ofNat 64 (fld (s.partReg p 0x100) 47 12 * 4096 + 128 * cls)

/-- The furrows that form the handler group: those Running or Standing (R357). -/
def handlerGroup (h : Herd) : List Nat :=
  h.idxs.filter (fun f => match (h.fur f).st with | .running => true | .standing _ => true | _ => false)

/-- R304: a trap, a penning or a save drops the operand-cache entries of the slice. -/
def dropSlice (s : State) (core slice : Nat) : Act :=
  .ocache (s.ocache.filter (fun e => decide (e.core ≠ core ∨ e.slice ≠ slice)))

/-- R356: the pending traps that stay so at the entry of a trap: a *before* trap does not, and its word issues again. -/
def pendAfter (h : Herd) (t : TrapInfo) : List (BitVec 8 × TrapInfo) :=
  h.pend.filter (fun p => decide (p.1 ≠ t.group) && decide (p.2.resume ≠ p.2.pc))

/-- R357: trap entry. The writes into the save area are none of the agents' of R253: they go to device memory, and what the L1 of the
core holds of it stays as it is (DESIGN CHOICE, assumption 97). A word of the handler group whose wait has ended issues anew after `rft`. -/
def trapEntry (s : State) (h : Herd) (t : TrapInfo) : List Act :=
  let base := saveArea s h
  let hg := handlerGroup h
  let vec := trapVector s h.key.crew.part t.cls
  [Act.mem base (trapRec h t) none,
   .mem (base + 0x40) ((List.range 8).flatMap (fun i => leBytes 8 (h.sreg (56 + i)).toNat)) none,
   .mem (base + 0x400) (furrowRecs h) none]
  ++ herdActs h.key (hg.map (fun f => furAct h f (fun r =>
      { r with pc := vec, path := r.lanes, stack := [], grp := hg.headD 0, st := .running }))
    ++ [.holds [], .handler (some (furMask hg)), .pend (pendAfter h t) 0 0, .lateDone hg, .sup true,
        .reload 56 (BitVec.ofNat 64 base), .reload 57 (trapWord h t), .reload 58 t.pc])
  ++ [dropSlice s h.core h.slice, bumpCore h.core 0x106]

/-- The next fault SEQ of a partition (R414). -/
def nextSeq (s : State) (p : Nat) : BitVec 32 := Sparse.get zeros s.counts (2 * p + 1) + 1#32

/-- Queues a fault event (R414). -/
def queueFault (s : State) (p : Nat) (r : FaultRec) : List Act :=
  [.count (2 * p + 1) (nextSeq s p), .faults (s.faults ++ [{ r with part := p, seq := (nextSeq s p).toNat }])]

/-- Queues a completion event (R412). -/
def queueComp (s : State) (c : Comp) : Act := .comps (s.comps ++ [c])

/-- The herds that are members of a barrier of a field (R59): of one crew, of one acre, or all; `scope` is the crew index,
the acre of its launch, or unused. -/
def members (s : State) (p field lv scope : Nat) : List Herd :=
  s.herds.filter (fun h => decide (h.key.crew.part = p) && decide (h.key.crew.field = field)
    && (if lv = 0 then decide (h.key.crew.crew = scope) else if lv = 1 then decide (barAcre s h = scope) else true))

/-- The state of a herd for a barrier (R205). -/
def Herd.barSt (h : Herd) (lv idx : Nat) : BarSt := assocGet .idle h.bars (lv, idx)

/-- A wait of furrow f ends (R50, R58, R357): at once, held until `rft` outside a handler, or kept for a penned herd. -/
def endWait (h : Herd) (f : Nat) (r : Resolution) : HAct :=
  furAct h f (fun x =>
    if !h.resident then { x with resolved := some r }
    else if (match h.handler with | some g => !g.getLsbD f | none => false) then { x with st := .held, resolved := some r }
    else { x with st := .running, pc := if r.completed then x.pc + 8#64 else x.pc })

/-- R158: whether the late write of register n by a word of these furrows stands. -/
def Herd.lateStands (h : Herd) (fs : List Nat) (n : Nat) : Bool :=
  !h.late.any (fun w => decide (w.reg = n) && fs.contains w.fur && !w.stands)

/-- The late write of a word of these furrows, unless a word issued later has written the register (R158, R319). -/
def lateActs (h : Herd) (fs : List Nat) (n : Nat) (x : Word) : List HAct :=
  (if h.lateStands fs n then [.reload n x] else []) ++ [.lateDone fs]

/-- Ends the waits of furrows, with the uniform register that the waiting word writes when it completes at once. -/
def endWaits (h : Herd) (fs : List Nat) (r : Resolution) : List HAct :=
  fs.map (fun f => endWait h f r)
    ++ (match r.wr with
        | some (n, x) =>
          if h.resident && (match h.handler with | some g => fs.any (fun f => g.getLsbD f) | none => true) then lateActs h fs n x else []
        | none => [])

/-- The furrows of a herd in a long wait of some kind that has not resolved (R56, R58). -/
def Herd.unresolved (h : Herd) (p : WaitOn → Bool) : List Nat :=
  h.idxs.filter (fun f => match (h.fur f).st with | .waiting w => p w && (h.fur f).resolved.isNone | _ => false)

/-- The furrows of a herd that wait for something. -/
def Herd.waitingOn (h : Herd) (w : WaitOn) : List Nat := h.unresolved (fun x => decide (x = w))

/-- The wait of a missed `board` (R319). -/
def WaitOn.isBoard : WaitOn → Bool
  | .board _ => true
  | _ => false

/-- The wait of `rtile` (R322). -/
def WaitOn.isRtile : WaitOn → Bool
  | .rtile => true
  | _ => false

/-- R58: a herd that is not resident becomes ready when waits of the kinds `w` end and no other is left. -/
def readyStamp (s : State) (h : Herd) (w : WaitOn → Bool) : List Act :=
  if !h.resident && h.stored && !(h.unresolved w).isEmpty && (h.unresolved (fun x => !w x)).isEmpty then
    [.herd h.key (.ready s.nextOrder), .nextOrder (s.nextOrder + 1)]
  else []

/-- R57: the moment from which a herd may count as waiting. -/
def waitStamp (s : State) (k : HerdKey) : List Act := [.herd k (.waitAt s.nextOrder), .nextOrder (s.nextOrder + 1)]

/-- R56: a herd is waiting. -/
def isWaiting (h : Herd) : Bool :=
  h.idxs.any (fun f => match (h.fur f).st with | .waiting _ => true | _ => false)
    && h.idxs.all (fun f => match (h.fur f).st with | .running => false | .standing _ => false | _ => true)

/-- R209: an acquire of scope acre or wider discards the core's L1. -/
def acquireActs (core lv : Nat) : List Act := if lv = 0 then [] else [.l1drop core]

/-- What the completion of a phase does to one member (R205, R207). -/
def wakeMember (lv idx : Nat) (h : Herd) : List Act :=
  match h.barSt lv idx with
  | .waiting =>
    herdActs h.key (.bar lv idx .idle
      :: endWaits h (h.waitingOn (.barrier lv idx)) { completed := true, wr := none, bad := none })
      ++ acquireActs h.core lv
  | .signalled => herdActs h.key [.bar lv idx .passed]
  | _ => []

/-- The phase count of a barrier (R368). -/
def FieldRec.phase (f : FieldRec) (scope lv idx : Nat) : BitVec 32 := assocGet 0#32 f.phases (scope, lv, idx)

/-- R60: completes the phase of a barrier when every live member has arrived in it. -/
def completePhase (s : State) (p field lv idx scope : Nat) : List Act :=
  let ms := (members s p field lv scope).filter (fun h => !h.ended)
  if ms.isEmpty || !ms.all (fun h => decide (h.barSt lv idx = .signalled ∨ h.barSt lv idx = .waiting)) then []
  else
    (match s.field? p field with
     | some f => [setField s { f with phases := assocSet 0#32 f.phases (scope, lv, idx) (f.phase scope lv idx + 1) }]
     | none => [])
    ++ ms.flatMap (fun h => wakeMember lv idx h
      ++ (if h.barSt lv idx = .waiting then readyStamp s h (fun w => w = .barrier lv idx) else []))

/-- The scope that names a herd's barrier of a level: its crew, the acre of its launch, or none. -/
def barScope (s : State) (h : Herd) (lv : Nat) : Nat := if lv = 0 then h.key.crew.crew else if lv = 1 then barAcre s h else 0

/-- The barriers that a field declares at a level (R59). -/
def declared (c : Card) (lv : Nat) : Nat := if lv = 0 then c.cb else if lv = 1 then c.ab else c.fb

/-- Acts in sequence, each part judged in the state that the parts before it leave. -/
def chain (s : State) : List (State → List Act) → List Act
  | [] => []
  | g :: gs => let a := g s; a ++ chain (run s a) gs

/-- R62: an ended herd leaves each of its barriers, whose phases may then complete. -/
def leaveBarriers (s : State) (h : Herd) : List Act :=
  match s.field? h.key.crew.part h.key.crew.field with
  | none => []
  | some f =>
    chain s ((List.range 3).flatMap (fun lv => (List.range (declared f.card lv)).map (fun i =>
      fun s' => completePhase s' h.key.crew.part h.key.crew.field lv i (barScope s h lv))))

/-- A slot that landed for a herd's boarding and was neither taken nor released (R324). -/
def Slot.untaken (x : Slot) (k : HerdKey) : Bool := decide (x.board = some k) && x.crew.isNone && !x.freeing

/-- R320: releases the slots that landed for a herd's boarding and were not taken. -/
def dropLanded (s : State) (k : HerdKey) : Act := .slots (s.slots.filter (fun x => !x.untaken k))

/-- The slots once a herd's boarding has ended: those not taken are released, and the others count against no boarding (R319,
R324). -/
def leaveSlots (s : State) (k : HerdKey) : Act :=
  .slots ((s.slots.filter (fun x => !x.untaken k)).map (fun x => if x.board = some k then { x with board := none } else x))

/-- R321, R332: a hold of a tile ends for some cores: the cycles that it was asserted for each are a free value. -/
def holdEnds (cores : List Nat) (s : State) : List Act :=
  if cores.isEmpty then []
  else cores.map (fun c => .bump (4096 * c + 0x0D5) (Config.freeNat s.freeCtr)) ++ [.free 1]

/-- The cores of a list of waiting boardings that another list no longer has. -/
def coresLeft (old new : List (HerdKey × Nat)) : List Nat :=
  ((old.map (fun p => p.2)).eraseDups).filter (fun c => !new.any (fun p => decide (p.2 = c)))

/-- R321: a boarding that is over, or Cut, waits for no tile: its part of each hold is over. The tile itself lands, or moves on,
at its next TILE_ARRIVAL. -/
def unhold (k : HerdKey) (s : State) : List Act :=
  let rest (t : RTile) : List (HerdKey × Nat) := t.blocked.filter (fun p => decide (p.1 ≠ k))
  let ts := s.ring.tiles.filter (fun t => t.blocked.any (fun p => decide (p.1 = k)))
  if ts.isEmpty then []
  else .ring { s.ring with tiles := s.ring.tiles.map (fun t => { t with blocked := rest t }) }
    :: holdEnds (ts.flatMap (fun t => coresLeft t.blocked (rest t))) s

/-- The tape context of a herd that has ended: inactive, with the dirty blocks that are still to be written (R385). -/
def TapeCtx.ended (t : TapeCtx) : TapeCtx := { TapeCtx.none with pages := t.pages, closed := dirtyBlocks t }

/-- R37, R62, R324, R385: a herd ends: its furrows are not live, its tape's dirty blocks are left to the engine, its boarding
ends, its barriers lose a member. -/
def endHerd (s : State) (k : HerdKey) : List Act :=
  match s.herd? k with
  | none => []
  | some h =>
    chain s [
      fun s => leaveSlots s k :: unhold k s,
      fun _ => herdActs k (h.idxs.map (fun f => furAct h f (fun r =>
        { r with st := .notLive, path := 0, stack := [], resolved := none })) ++ [.tape h.tape.ended, .gone]),
      fun s => [.parked (s.parked.filter (fun x => decide (x.key ≠ some k)))],
      fun s => leaveBarriers s h]

/-- R360: the field is aborted: its waiting card goes, with the crews not yet admitted (R397; DESIGN CHOICE, assumption 102), a completion
of type 3 is queued (R413), its herds end. -/
def abortField (s : State) (p field detail : Nat) : List Act :=
  match s.field? p field with
  | none => []
  | some f =>
    if f.aborted then [] else
    chain s ([
      fun s => [setField s { f with aborted := true },
        .seeds (s.seeds.filter (fun q => decide (q.part ≠ p ∨ q.field ≠ field))),
        queueComp s { part := p, typ := 3, status := 0, tag := f.card.tag, field := field, detail := BitVec.ofNat 64 detail }]]
      ++ (s.herds.filter (fun h => decide (h.key.crew.part = p) && decide (h.key.crew.field = field))).map
          (fun h => fun s => endHerd s h.key))

/-- R360, R414: a double trap: a KIND 2 fault record of the second event, and the field is aborted. The operand cache of the slice, which
a trap drops at its entry (R304), keeps its entries (DESIGN CHOICE, assumption 114). -/
def doubleTrap (s : State) (h : Herd) (cls cause lane : Nat) : List Act :=
  let p := h.key.crew.part
  let base := if h.stored then h.saveAt else saveArea s h
  chain s [
    fun s => queueFault s p { part := p, seq := 0, kind := 2, cause := cause, core := h.core, slot := h.slot
                              addr := BitVec.ofNat 64 base, field := h.key.crew.field, lane := lane, cls := cls },
    fun s => abortField s p h.key.crew.field base]

/-- Whether a hold is that of a word issued and not complete: one that a full queue or the scoreboard stalls at issue is not
(R116, R213). -/
def HoldWhy.issued : HoldWhy → Bool
  | .rewrite _ _ _ _ => true
  | .remote _ => true
  | .matrix _ => true
  | _ => false

/-- R357 step 1: whether another group of the herd has an instruction issued that is not complete, so that the trap waits. -/
def trapWaits (h : Herd) (g : BitVec 8) : Bool := h.holds.any (fun x => x.group &&& g = 0#8 && x.why.issued)

/-- The lowest furrow of a mask. -/
def lowFur (g : BitVec 8) : Nat := (bitsOf g 8).headD 8

/-- R356: an *after* trap of a lower group is pending, and is taken first. -/
def pendBefore (h : Herd) (g : BitVec 8) : Bool := h.handler.isNone && h.pend.any (fun p => decide (lowFur p.1 < lowFur g))

/-- Whether a hold is that of a `sow` stalled on one seed queue (R213). -/
def HoldWhy.sowTo (core prio : Nat) : HoldWhy → Bool
  | .sow c k _ => decide (k = core) && decide (c.prio = prio)
  | _ => false

/-- R214: the place of a group's post among those that reach a seed queue together: ascending core, slice and furrow position, and
of one herd ascending lowest furrow: a group of an eight-furrow herd does not stand behind a later one of its herd (R25; assumption
74). -/
def postRank (h : Herd) (core prio : Nat) (g : BitVec 8) : Nat :=
  let later := (h.holds.filter (fun x => x.why.sowTo core prio && decide (lowFur g ≤ lowFur x.group))).map
    (fun x => (h.base + lowFur x.group) % 4)
  ((4 * h.core + h.slice) * 4 + later.foldl Nat.min ((h.base + lowFur g) % 4)) * 16 + lowFur g

/-- The places of the `sow`s stalled on a seed queue (R213, R214). -/
def sowsStalled (s : State) (core prio : Nat) : List Nat :=
  s.herds.flatMap (fun h => (h.holds.filter (fun x => x.why.sowTo core prio)).map (fun x => postRank h core prio x.group))

/-- How many of them stand before a place. -/
def sowsBefore (s : State) (core prio n : Nat) : Nat := ((sowsStalled s core prio).filter (fun r => decide (r < n))).length

/-- Taking a trap: an entry, or a double trap while one is in progress (R356, R357, R360). -/
def takeTrap (s : State) (h : Herd) (t : TrapInfo) : List Act :=
  if h.handler.isSome then doubleTrap s h t.cls t.cause t.lane
  else if trapWaits h t.group || pendBefore h t.group then [] else trapEntry s h t

/-- R356: a herd with no trap in progress takes the pending *after* trap of its lowest group. -/
def takePending (k : HerdKey) (s : State) : List Act :=
  match s.herd? k with
  | none => []
  | some h =>
    if h.handler.isSome then []
    else match (sortBy (fun p => lowFur p.1) h.pend).head? with
      | some p => takeTrap s h p.2
      | none => []

/-- What a turn of group g leaves while traps pend: it has issued, and a group below its lowest furrow completes no word in that cycle any
more, since the groups that issue in one cycle do so in ascending order (R87, R158, R356). -/
def pendMark (h : Herd) (l : List (BitVec 8 × TrapInfo)) (g : BitVec 8) : Act :=
  .herd h.key (.pend l (h.pendSeen ||| g) (max h.pendTop (lowFur g)))

/-- R356: a trap stays pending until another group's trap or instruction lets it be taken. -/
def pendActs (h : Herd) (i : TrapInfo) : List Act := [pendMark h (h.pend ++ [(i.group, i)]) i.group]

/-- R356: while a trap pends, a group below one that has issued since can still meet a *before* trap of that cycle, and can do nothing
else in it: such a word has no effect, so that it does not matter whose turn came first. -/
def Herd.lateTurn (h : Herd) (f : Nat) : Bool := h.handler.isNone && !h.pend.isEmpty && decide (f < h.pendTop)

/-- The trap of a word that cannot issue again to meet it: it is taken, or pends while another group's instruction is not
complete, or behind the pending trap of a lower group (R356, R357). -/
def raiseTrap (s : State) (h : Herd) (t : TrapInfo) : List Act :=
  if h.handler.isNone && (trapWaits h t.group || pendBefore h t.group) then pendActs h t else takeTrap s h t

/-- R120, R414: a group parks on a page fault, in a long wait, and a fault record is queued. -/
def park (s : State) (h : Herd) (fs : List Nat) (cause lane : Nat) (addr : Word) : List Act :=
  let p := h.key.crew.part
  let seq := (nextSeq s p).toNat
  queueFault s p { part := p, seq := 0, kind := 1, cause := cause, core := h.core, slot := h.slot, addr := addr
                   field := h.key.crew.field, lane := lane, cls := 0 }
    ++ [.parked (s.parked ++ [{ part := p, seq := seq, key := some h.key, group := furMask fs, cause := cause
                                addr := addr, lane := lane }])]
    ++ herdActs h.key (fs.map (fun f => furAct h f (fun r => { r with st := .waiting (.fault seq) })))
    ++ waitStamp s h.key

/-- A furrow record read from memory: PC, path, group, stack, STATE, HID, WAIT, counts (R363). -/
structure RecView where
  pc : Word
  path : BitVec 8
  grp : Nat
  stack : List PathEntry
  st : Nat
  hid : Nat
  wait : Nat
  hcnt : List (BitVec 16)
  deriving DecidableEq, Repr

/-- Reads a furrow record (R363). -/
def readRec (m : Memory) (a : Nat) : RecView :=
  let w := BitVec.ofNat 64 (m.num (a + 8) 8)
  let depth := if w.getLsbD 20 then 16 else fld w 19 16
  { pc := BitVec.ofNat 64 (m.num a 8), path := BitVec.ofNat 8 (fld w 7 0), grp := fld w 15 8
    stack := ((List.range depth).map (fun e =>
      let x := BitVec.ofNat 64 (m.num (a + 0x48 + 16 * e) 8)
      { pc := BitVec.ofNat 64 (m.num (a + 0x40 + 16 * e) 8), mask := BitVec.ofNat 8 (fld x 7 0), parked := x.getLsbD 8
        hid := fld x 15 12, cnt := BitVec.ofNat 16 (fld x 31 16) })).reverse
    st := fld w 23 21, hid := fld w 27 24, wait := fld w 30 28
    hcnt := (List.range 16).map (fun i => BitVec.ofNat 16 (m.num (a + 0x20 + 2 * i) 2)) }

/-- Whether no lane stands in two of the masks. -/
def disjointMasks : BitVec 8 → List (BitVec 8) → Bool
  | _, [] => true
  | acc, m :: ms => acc &&& m = 0#8 && disjointMasks (acc ||| m) ms

/-- R363: an inconsistent furrow record; `live14` allows STATE 4, in a record at 0x1400 of a save with a trap in progress. -/
def RecView.bad (r : RecView) (live14 : Bool) : Bool :=
  !disjointMasks r.path (r.stack.map (fun e => e.mask)) || (r.st ≠ 0 && r.path = 0#8) || 4 < r.st
    || (r.st = 4 && !live14) || (r.wait ≠ 0 && r.st ≠ 3) || (r.st = 3 && r.wait = 0)

/-- The state that a record of a furrow of the handler group gives it: Running or Standing. -/
def recState (r : RecView) : FState := if r.st = 2 then .standing r.hid else .running

/-- R361: whether `rft` of a group may act. The records judged are those of the herd's own furrows (DESIGN CHOICE, assumption 108). -/
def rftOk (s : State) (h : Herd) (fs : List Nat) (hg : BitVec 8) : Bool :=
  let base := saveArea s h
  (bitsOf hg 8).all (fun f => !h.live f || fs.contains f)
    && fs.all (fun f => (h.fur f).stack.isEmpty)
    && h.idxs.all (fun f => !(readRec s.hbm (base + 0x400 + 512 * f)).bad false)
    && (bitsOf hg 8).all (fun f => !h.live f ||
        (let r := readRec s.hbm (base + 0x400 + 512 * f)
         (r.st = 1 || r.st = 2) && r.wait = 0))

/-- The furrow that `rft` leaves (R361 steps 3 to 5). -/
def rftFurrow (h : Herd) (m : Memory) (base : Nat) (hg trapG : BitVec 8) (resume : Word) (f : Nat) : Furrow :=
  let x := h.fur f
  let r := readRec m (base + 0x400 + 512 * f)
  if x.st = .notLive then x
  else if hg.getLsbD f then
    { x with pc := if trapG.getLsbD f then resume else r.pc, path := r.path, stack := r.stack, grp := r.grp
             hcnt := r.hcnt, st := recState r }
  else
    let y := { x with pc := r.pc, path := r.path, stack := r.stack, grp := r.grp, hcnt := r.hcnt }
    match x.resolved with
    | none => y
    | some q => { y with st := .running, resolved := none, pc := if q.completed then r.pc + 8#64 else r.pc }

/-- The herd lanes that an edited record brings back into a path: they had exited (R201). -/
def rejoined (h : Herd) (fs : List Furrow) : List Nat :=
  h.idxs.flatMap (fun f => (bitsOf ((fs.getD f (h.fur f)).lanes &&& ~~~(h.fur f).lanes) 8).map (fun b => 8 * f + b))

/-- A lane that had exited keeps no register state: its v and d words are free values, numbered from `n0` (R201; DESIGN CHOICE, assumption
80). -/
def freeLane (h : Herd) (n0 l : Nat) : List HAct :=
  (List.range h.nregs).map (fun n => HAct.v (vkey n l) [BitVec.ofNat 32 (Config.freeNat (n0 + vkey n l))])
    ++ (List.range 16).map (fun n => HAct.d (8 * vkey n l) ((List.range 8).map (fun i =>
        BitVec.ofNat 64 (Config.freeNat (n0 + 2 ^ 14 + 8 * vkey n l + i)))))

/-- What the lanes that an edit brings back read as. -/
def rejoinActs (s : State) (h : Herd) (fs : List Furrow) : List Act :=
  match rejoined h fs with
  | [] => []
  | l => herdActs h.key (l.flatMap (freeLane h s.freeCtr)) ++ [.free (2 ^ 14 + 2 ^ 13)]

/-- R361: what `rft` does when it acts. -/
def rftActs (s : State) (h : Herd) (hg : BitVec 8) : List Act :=
  let base := saveArea s h
  let w := BitVec.ofNat 64 (s.hbm.num base 8)
  let trapG := BitVec.ofNat 8 (fld w 15 8)
  let resume := BitVec.ofNat 64 (s.hbm.num (base + 0x10) 8)
  herdActs h.key
    ((List.range 8).map (fun i => HAct.reload (56 + i) (BitVec.ofNat 64 (s.hbm.num (base + 0x40 + 8 * i) 8)))
      ++ h.idxs.map (fun f => HAct.furrow f (rftFurrow h s.hbm base hg trapG resume f))
      ++ h.idxs.flatMap (fun f => match (h.fur f).resolved with
          | some { completed := _, wr := some (n, x), bad := _ } => if (h.fur f).st = .held then lateActs h [f] n x else []
          | _ => [])
      ++ [.sup (w.getLsbD 6), .handler none])
    ++ rejoinActs s h (h.idxs.map (rftFurrow h s.hbm base hg trapG resume))
    ++ [.mem base (leBytes 8 (w &&& ~~~(0x80#64)).toNat) none]

end Sys2Proof.Machine
end

