-- ==== Sys2Proof/Machine/Paths.lean ====
section
/-! DEFINITION. Groups, paths and headlands (R34 to R46, R194, R201). -/

namespace Sys2Proof.Machine

/-- The index of the topmost deferred entry. -/
def topDeferred (st : List PathEntry) : Option Nat := st.findIdx? (fun e => !e.parked)

/-- One more pass of headland n (R43). -/
def bumpHead (n : Nat) (r : Furrow) : Furrow := { r with hcnt := r.hcnt.set n (r.hcnt.getD n 0#16 + 1) }

/-- R42: a furrow whose path has ended resumes: the topmost deferred entry, else the topmost parked one, which passes its
headland; else it is not live. -/
def resumeFur (r : Furrow) : Furrow :=
  match topDeferred r.stack with
  | some i =>
    let e := r.stack.getD i { pc := 0, mask := 0, parked := false, hid := 0, cnt := 0 }
    { r with pc := e.pc, path := e.mask, stack := r.stack.eraseIdx i }
  | none =>
    match r.stack with
    | e :: rest => bumpHead e.hid { r with pc := e.pc + 8#64, path := e.mask, stack := rest }
    | [] => { r with path := 0, st := .notLive }

/-- Renames every group by its lowest live furrow (R34). -/
def regroup (l : List Furrow) : List Furrow :=
  l.map (fun r =>
    if r.st = .notLive then r
    else { r with grp := (l.findIdx? (fun x => decide (x.st ≠ .notLive) && decide (x.grp = r.grp))).getD r.grp })

/-- The acts that give a herd these furrows. -/
def setFurs (l : List Furrow) : List HAct := l.mapIdx (fun f r => .furrow f r)

/-- A herd with other furrows. -/
def Herd.withFurs (h : Herd) (l : List Furrow) : Herd := { h with furrows := l }

/-- Replaces some furrows. -/
def mapFurs (h : Herd) (fs : List Nat) (g : Nat → Furrow → Furrow) : List Furrow :=
  h.furrows.mapIdx (fun i r => if fs.contains i then g i r else r)

/-- Whether a pre-emption waits for this herd at a passed headland (R365): an area is granted, no trap is in progress and
no boarding delays the save (R330); a ganged herd whose boarding is Registered or Boarded runs on past the headland (DESIGN CHOICE,
assumption 109). -/
def saveNext (s : State) (h : Herd) : Bool :=
  (match s.crew? h.key.crew with
   | some c => (match c.pre with | some p => p.area.isSome | none => false)
   | none => false)
    && h.handler.isNone
    && (match h.boarding with
        | some b => (match b.st with | .cut _ => true | _ => false)
        | none => true)

/-- R365: a herd that some furrow leaves ganged by passing a headland with its last parked path (R42) is saved there too, when a
pre-emption waits for it; `l` are the furrows that the word leaves. -/
def resumeSave (s : State) (h : Herd) (l : List Furrow) : List HAct :=
  let h' := h.withFurs l
  if h'.ganged && saveNext s h && h.idxs.any (fun f => decide ((h'.fur f).hcnt ≠ (h.fur f).hcnt)) then
    [.holds (h.holds ++ [{ group := furMask h'.liveFurs, why := .save }])] else []

/-- R43, R46: a standing group passes its headland. -/
def passHead (s : State) (h : Herd) (fs : List Nat) : List HAct :=
  let l := mapFurs h fs (fun _ r => match r.st with
    | .standing n => bumpHead n { r with pc := r.pc + 8#64, st := .running }
    | _ => r)
  let h' := h.withFurs l
  setFurs l ++ (if h'.ganged && saveNext s h then [.holds (h.holds ++ [{ group := furMask fs, why := .save }])] else [])

/-- The standing groups of a herd that contain every live furrow, or all of them when the patience is 0 (R46). -/
def passable (s : State) (h : Herd) (f : Nat) : Bool :=
  let g := h.group f
  g ≠ [] && g.all (fun i => match (h.fur i).st with | .standing _ => true | _ => false)
    && (g = h.liveFurs || fld (s.coreReg h.core 0x080) 15 0 = 0)

/-- Passes the standing groups that may pass at once. -/
def passAll (s : State) (k : HerdKey) : List Act :=
  match s.herd? k with
  | none => []
  | some h => chain s (h.idxs.map (fun f => fun s' =>
      match s'.herd? k with
      | some h' => if passable s' h' f then herdActs k (passHead s' h' (h'.group f)) else []
      | none => []))

/-- R45: groups that stand at one PC with an equal count for the headland join: the group named f joins each such group. -/
def joinStanding (l : List Furrow) (f n : Nat) : List Furrow :=
  let mem := (l.filter (fun r => decide (r.st ≠ .notLive) && decide (r.grp = f)))
  let same (r : Furrow) : Bool := decide (r.st = .standing n) &&
    mem.any (fun x => decide (x.pc = r.pc) && decide (x.hcnt.getD n 0#16 = r.hcnt.getD n 0#16))
  let gs := (l.filter same).map (fun r => r.grp)
  regroup (l.map (fun r => if r.st ≠ .notLive && gs.contains r.grp then { r with grp := f } else r))

/-- R41: a path with entries beneath it reaches headland n: it merges with an equal parked entry or parks, and its furrow
resumes. None when the entry would be a seventeenth (R40). -/
def parkAt (r : Furrow) (n : Nat) : Option Furrow :=
  let c := r.hcnt.getD n 0#16
  match r.stack.findIdx? (fun e => e.parked && decide (e.pc = r.pc) && decide (e.hid = n) && decide (e.cnt = c)) with
  | some i => some (resumeFur { r with stack := r.stack.mapIdx (fun j e => if j = i then { e with mask := e.mask ||| r.path } else e) })
  | none =>
    if 16 ≤ r.stack.length then none
    else some (resumeFur { r with stack := { pc := r.pc, mask := r.path, parked := true, hid := n, cnt := c } :: r.stack })

/-- R41, R45: what `head n` does to the group's furrows; none on a path-stack overflow. -/
def headFurs (h : Herd) (fs : List Nat) (n : Nat) : Option (List Furrow) :=
  if fs.any (fun f => !(h.fur f).stack.isEmpty && (parkAt (h.fur f) n).isNone) then none
  else
    let stay := fs.filter (fun f => (h.fur f).stack.isEmpty)
    let l := mapFurs h fs (fun i r =>
      if r.stack.isEmpty then { r with st := .standing n, grp := stay.headD i }
      else { (parkAt r n).getD r with grp := i })
    let l := regroup l
    match stay with
    | [] => some l
    | f :: _ => some (joinStanding l (l.getD f (Furrow.fresh 0 0)).grp n)

/-- R37: the active lanes leave their paths; a furrow whose path ends resumes on its own. -/
def exitFurs (h : Herd) (fs : List Nat) (act : List Nat) : List Furrow :=
  regroup (mapFurs h fs (fun f r =>
    let gone := maskOf 8 ((act.filter (fun l => l / 8 = f)).map (fun l => l % 8))
    let left := r.path &&& ~~~gone
    if left = 0#8 then
      let r' := resumeFur r
      if r'.st = .notLive then r' else { r' with grp := f }
    else { r with path := left, pc := r.pc + 8#64
                  grp := ((fs.filter (fun i => (h.fur i).path &&& ~~~(maskOf 8 ((act.filter (fun l => l / 8 = i)).map (fun l => l % 8))) ≠ 0#8)).headD f) }))

/-- The herd lanes as furrow lanes of f. -/
def furLanes (f : Nat) (ls : List Nat) : List Nat := ls.filter (fun l => l / 8 = f)

/-- The mask of herd lanes of one furrow. -/
def laneMask (ls : List Nat) : BitVec 8 := maskOf 8 (ls.map (fun l => l % 8))

/-- R194, R39: one furrow of a dissolved group. `conds` says that the choice is a condition's, whose taken lanes continue
whatever their number. None when a push would be a seventeenth entry (R40). -/
def branchFur (conds : Option Word) (pc : Word) (t : Nat → Word) (act : List Nat) (r : Furrow) : Option Furrow :=
  match act with
  | [] => some { r with pc := pc + 8#64 }
  | l0 :: _ =>
    let targets := (act.map t).eraseDups
    match targets with
    | [_] => some { r with pc := t l0 }
    | _ =>
      let cur := match conds with | some tgt => tgt | none => t l0
      let rest := targets.filter (fun x => x ≠ cur)
      let moved := act.filter (fun l => t l ≠ cur)
      let pushed : List PathEntry := rest.map (fun x =>
        { pc := x, mask := laneMask (act.filter (fun l => t l = x)), parked := false, hid := 0, cnt := 0 })
      if 16 < r.stack.length + pushed.length then none
      else some { r with pc := cur, path := r.path &&& ~~~(laneMask moved), stack := pushed ++ r.stack }

/-- R194: where the furrows of the issuing group go; none on a path-stack overflow. The entries are pushed so that they pop
in ascending order of their lowest lane (R39). -/
def branchFurs (c : Ctx) (conds : Option Word) (t : Nat → Word) : Option (List Furrow) :=
  if c.act.all (fun l => decide (t l = t c.low)) then some (mapFurs c.h c.furs (fun _ r => { r with pc := t c.low }))
  else
    if c.furs.any (fun f => (branchFur conds c.pc t (furLanes f c.act) (c.h.fur f)).isNone) then none
    else some (mapFurs c.h c.furs (fun f r => { (branchFur conds c.pc t (furLanes f c.act) r).getD r with grp := f }))

end Sys2Proof.Machine
end

