-- ==== Sys2Proof/Machine/Issue.lean ====
section
/-! DEFINITION. The issue of one word (R136): predicate register, active lanes, legality, then the effect, and what its
outcome does to the issuing group. -/

namespace Sys2Proof.Machine

/-- A trap raised by an effect: class, cause, code, lane (255 when none applies), address and ring-tile word (R355, R362). -/
structure TrapReq where
  cls : Nat
  cause : Nat
  code : Nat
  lane : Nat
  addr : Word
  tile : Word
  deriving DecidableEq, Repr

/-- A trap with a class and a cause only. -/
def trapOf (cls cause : Nat) : TrapReq := { cls := cls, cause := cause, code := 0, lane := 255, addr := 0, tile := 0 }

/-- A trap at a lane and an address. -/
def trapAt (cls cause lane : Nat) (addr : Word) : TrapReq :=
  { cls := cls, cause := cause, code := 0, lane := lane, addr := addr, tile := 0 }

/-- The outcome of an effect. -/
inductive Res where
  /-- R136 step 2: no lane is active, so the word does nothing and is not counted -/
  | noop
  /-- completes; the group continues at PC + 8 -/
  | done (a : List Act)
  /-- completes; the acts place the group -/
  | jump (a : List Act)
  /-- not now: nothing happens, and the word issues again -/
  | stall
  /-- not now: the group waits as these acts say, and the word issues again; it is counted then -/
  | wait (a : List Act)
  /-- the effect is only these acts, and a *before* trap follows -/
  | trap (t : TrapReq) (pre : List Act)
  /-- completes at PC + 8, and an *after* trap follows (R355) -/
  | after (a : List Act) (t : TrapReq)
  /-- the group parks on a page fault (R120) -/
  | park (cause lane : Nat) (addr : Word) (pre : List Act)
  deriving DecidableEq, Repr

/-- The trap information of a request made by the issuing group. -/
def Ctx.info (c : Ctx) (t : TrapReq) (resume : Word) : TrapInfo :=
  { cls := t.cls, cause := t.cause, code := t.code, lane := t.lane, addr := t.addr, tile := t.tile
    group := furMask c.furs, pc := c.pc, resume := resume }

/-- R218: an instruction issued counts in sys.ctissue. -/
def Ctx.count (c : Ctx) : Act := bumpCore c.core 0x040

/-- The group continues at PC + 8. -/
def Ctx.advance (c : Ctx) : List Act := herdActs c.key (moveTo c.h c.furs (c.pc + 8#64))

/-- Acts, and then a trap taken by the herd as they leave it. -/
def thenTrap (c : Ctx) (s : State) (pre : List Act) (i : TrapInfo) : List Act :=
  chain s [fun _ => pre, fun s' => match s'.herd? c.key with | some h => takeTrap s' h i | none => []]

/-- R137: an illegal-instruction trap changes no counter; a word that takes any other trap has issued (assumption 10). -/
def Ctx.trapCount (c : Ctx) (cls : Nat) : List Act := if cls = 0 then [] else [c.count]

/-- R356: whether another group of the herd may still raise a trap in the same cycle as an *after* trap of this one. -/
def Ctx.mates (c : Ctx) : Bool :=
  c.h.handler.isNone && c.h.idxs.any (fun i => decide (i ≠ c.f) && c.h.canIssue i && !c.h.pendSeen.getLsbD i)

/-- A word that has completed by `a` takes its *after* trap: behind a pending trap of a lower group it pends; else it is taken at
once, or once the groups that issue in the same cycle have done so, which a free value decides (R356; assumption 70). -/
def afterTrap (c : Ctx) (s : State) (a : List Act) (i : TrapInfo) : List Act :=
  if pendBefore c.h i.group then a ++ pendActs c.h i
  else if c.mates then
    chain s [fun _ => a, fun s' =>
      if (Config.freeNat s'.freeCtr).testBit 0 then .free 1 :: pendActs c.h i
      else .free 1 :: (match s'.herd? c.key with | some h => takeTrap s' h i | none => [])]
  else thenTrap c s a i

/-- What the outcome of an effect does (R120, R136, R355). The count of a word precedes its effect, so that what an `sset` writes to
sys.ctissue stands (R218; DESIGN CHOICE, assumption 90). A trap that must wait for another group's instruction, or that
another group's trap precedes, leaves everything as it is (R356, R357). -/
def Ctx.finish (c : Ctx) (s : State) : Res → List Act
  | .noop => c.advance
  | .done a => c.count :: a ++ c.advance
  | .jump a => c.count :: a
  | .stall => []
  | .wait a => a
  | .trap t pre =>
    if trapWaits c.h (furMask c.furs) || pendBefore c.h (furMask c.furs) then []
    else thenTrap c s (c.trapCount t.cls ++ pre) (c.info t c.pc)
  | .after a t =>
    if trapWaits c.h (furMask c.furs) then []
    else afterTrap c s (c.count :: a ++ c.advance) (c.info t (c.pc + 8#64))
  | .park cause lane addr pre =>
    chain s [fun _ => c.count :: pre,
      fun s' => match s'.herd? c.key with | some h => park s' h c.furs cause lane addr | none => []]

/-- The outcome of a turn: that of the word, but that a group whose turn of the cycle has gone can only meet a *before* trap; otherwise the
pending trap is taken, and its word issues again after the handler (R356; assumption 70). -/
def Ctx.close (c : Ctx) (s : State) (r : Res) : List Act :=
  if c.h.lateTurn c.f then
    match r with
    | .trap t pre => c.finish s (.trap t pre)
    | _ => takePending c.key s
  else c.finish s r

/-- R136 step 1: the predicate register lies beyond the allocation. -/
def Ctx.predBad (c : Ctx) : Bool := c.hdr.pe && !c.hdr.pk && decide (c.h.nregs ≤ c.hdr.pr.toNat)

/-- The issue of a word in the order of R136, with its legality (R137) and its effect. -/
def issueRes (c : Ctx) (legal : Ctx → Option Nat) (eff : Ctx → State → Res) (s : State) : Res :=
  if c.predBad && !c.lanes.isEmpty then .trap (trapOf 0 3) []
  else if c.act.isEmpty then .noop
  else match legal c with
    | some cause => .trap (trapOf 0 cause) []
    | none => eff c s

/-- The meaning of an instruction word: the issue by the group that State.issuer names. -/
def issue (hd : Header) (legal : Ctx → Option Nat) (eff : Ctx → State → Res) (s : State) :
    Host.Outcome State Fault Refusal :=
  match ctxOf hd s with
  | none => .fault .noIssuer
  | some c => .next (run s (c.close s (issueRes c legal eff s)))

/-- The meaning of an event: its acts, none when it cannot come about. -/
def event (a : State → List Act) (s : State) : Host.Outcome State Fault Refusal := .next (run s (a s))

end Sys2Proof.Machine
end

