-- ==== Sys2Proof/Machine/Legality.lean ====
section
/-! DEFINITION. The legality of a word (R126 to R137, R153, R154): each use of a field gives the causes it breaks, and the
lowest cause is recorded. -/

namespace Sys2Proof.Machine

/-- A use of a field, for the checks of R132, R133 and R137. -/
inductive Use where
  /-- k consecutive vector registers from n -/
  | v (n k : Nat)
  /-- k consecutive uniform registers from an 8-bit or 6-bit field n -/
  | s (n k : Nat)
  | d (n : Nat)
  /-- an accumulator tile -/
  | a (n : Nat)
  /-- a reserved field, that must be zero -/
  | rsv (n : Nat)
  /-- a cause that holds when the condition does -/
  | cause (n : Nat) (b : Bool)
  deriving DecidableEq, Repr

/-- The causes that a use breaks. -/
def Use.causes (h : Herd) : Use → List Nat
  | .v n k => (if n % k ≠ 0 then [7] else []) ++ (if h.nregs ≤ n + k - 1 then [3] else [])
  | .s n k => (if 64 ≤ n then [4] else []) ++ (if n % k ≠ 0 then [7] else []) ++ (if 64 < n + k ∧ 1 < k then [3] else [])
  | .d n => if 16 ≤ n then [3] else []
  | .a n => if h.nacc ≤ n then [3] else []
  | .rsv n => if n ≠ 0 then [2] else []
  | .cause n b => if b then [n] else []

/-- The header of an opcode that is not generic-capable (R126, R134); `u` says that it accepts U = 1. -/
def hdrCauses (u : Bool) (hd : Header) : List Nat :=
  (if !hd.pe && (hd.pn || hd.pk || hd.pr ≠ 0#5) then [2] else [])
  ++ (if hd.ss ≠ 0#2 || hd.wc ≠ 0#3 then [5] else []) ++ (if hd.u && !u then [6] else [])

/-- The header of a generic-capable opcode (R126, R134). -/
def genHdrCauses (hd : Header) : List Nat :=
  (if !hd.pe && (hd.pn || hd.pk || hd.pr ≠ 0#5) then [2] else [])
  ++ (if (hd.ss = 0#2 && hd.wc ≠ 0#3) || (hd.ss = 1#2 && (hd.wc = 7#3 || hd.u)) || (hd.ss = 2#2 && hd.wc = 7#3)
        || (hd.ss = 3#2 && (hd.wc ≠ 7#3 || hd.u)) then [5] else [])

/-- R137: the lowest cause. -/
def lowest (l : List Nat) : Option Nat := l.min?

/-- Legality of a word of an opcode that is not generic-capable. -/
def legal (u : Bool) (uses : List Use) (c : Ctx) : Option Nat :=
  lowest (hdrCauses u c.hdr ++ uses.flatMap (fun x => x.causes c.h))

/-- Legality of a word of a generic-capable opcode. -/
def legalGen (uses : List Use) (c : Ctx) : Option Nat :=
  lowest (genHdrCauses c.hdr ++ uses.flatMap (fun x => x.causes c.h))

/-- The RM column of R153. -/
inductive RmRule where
  | no | float | any
  deriving DecidableEq, Repr

/-- A row of R153: the FMT values accepted, the RM rule, the FMT values with which SAT may be 1. -/
structure FmtRule where
  fmts : List Nat
  rm : RmRule
  sat : List Nat
  deriving DecidableEq, Repr

/-- MB.FMT, MB.RM and MB.SAT (R128). -/
def mbFmt (mb : BitVec 8) : Nat := (mb.extractLsb' 4 4).toNat
def mbRm (mb : BitVec 8) : RMode := rmodeOf (mb.extractLsb' 2 2)
def mbSat (mb : BitVec 8) : Bool := mb.getLsbD 1

/-- R154: whether a rule accepts a rounding mode with a format. -/
def RmRule.accepts (r : RmRule) (fmt : Nat) (rm : RMode) : Bool :=
  decide (rm = .rn) || (match r with | .no => false | .float => !isInt fmt | .any => true)

/-- R154: whether a rule accepts a format with the RM and SAT of a modifier byte. -/
def FmtRule.accepts (r : FmtRule) (fmt : Nat) (mb : BitVec 8) : Bool :=
  r.fmts.contains fmt && r.rm.accepts fmt (mbRm mb) && (!mbSat mb || r.sat.contains fmt)

/-- The modifier byte of a native-only opcode. -/
def mbUses (r : FmtRule) (mb : BitVec 8) : List Use :=
  [.rsv (mb.extractLsb' 0 1).toNat, .cause 7 (!r.accepts (mbFmt mb) mb)]

/-- The modifier byte of a generic-capable opcode, by site state (R134, R154). -/
def mbGenUses (r : FmtRule) (hd : Header) (mb : BitVec 8) : List Use :=
  [.rsv (mb.extractLsb' 0 1).toNat, .cause 7 (hd.ss = 0#2 && !r.accepts (mbFmt mb) mb),
   .cause 5 (hd.ss = 2#2 && !r.accepts (mbFmt mb) mb), .cause 5 ((hd.ss = 1#2 || hd.ss = 3#2) && mbFmt mb ≠ 0)]

end Sys2Proof.Machine
end

