-- ==== Sys2Proof/Machine/Quicken.lean ====
section
/-! DEFINITION. Quickening (R134, R157, R269 to R279): resolution, guards, widening and the rewrite, for arithmetic words;
Machine/Memory.lean has the memory words. -/

namespace Sys2Proof.Machine

/-- A word with bits [lo + n - 1 : lo] replaced. -/
def setBits (w : Word) (lo n v : Nat) : Word :=
  (w &&& ~~~(BitVec.ofNat 64 ((2 ^ n - 1) * 2 ^ lo))) ||| BitVec.ofNat 64 (v % 2 ^ n * 2 ^ lo)

/-- R272: the quickened word: SS = 0b10, U by uniformity, WC and every other bit kept. -/
def quickened (w : Word) (uni : Bool) : Word := setBits (setBits w 52 2 2) 48 1 (if uni then 1 else 0)

/-- R278: the widened or pinned word, its generic fields still to be cleared. -/
def widened (w : Word) : Word :=
  let wc := fld w 51 49 + 1
  setBits (setBits (setBits w 52 2 (if wc = 7 then 3 else 1)) 49 3 wc) 48 1 0

/-- R272, R277: the uniformity sources hold one value in every active lane. -/
def oneValue (c : Ctx) (srcs : List Nat) : Bool :=
  srcs.all (fun r => c.act.all (fun l => decide (c.h.vreg r l = c.h.vreg r c.low)))

/-- R272: the operands are uniform, with at least two active lanes. -/
def isUniform (c : Ctx) (srcs : List Nat) : Bool := 2 ≤ c.act.length && oneValue c srcs

/-- R274: the compare-and-swap, with its count (R275). -/
def casActs (s : State) (core pa : Nat) (old new : Word) (widen : Bool) : List Act :=
  if s.hbm.num pa 8 = old.toNat then
    [.mem pa (leBytes 8 new.toNat) none, bumpCore core (if widen then 0x044 else 0x043)]
  else []

/-- R274: the group waits for the answer of its compare-and-swap. -/
def rewriteHold (c : Ctx) (old new : Word) (widen : Bool) : Act :=
  .herd c.key (.holds (c.h.holds ++ [{ group := furMask c.furs, why := .rewrite c.pa old new widen }]))

/-- Adds a rewrite to an outcome. An outcome that ends in a trap makes its compare-and-swap before the entry, once no copy
owns the word's line (R116). -/
def withRewrite (c : Ctx) (s : State) (old new : Word) (widen : Bool) : Res → Res
  | .noop => .noop
  | .done a => .done (a ++ [rewriteHold c old new widen])
  | .jump a => .jump (a ++ [rewriteHold c old new widen])
  | .stall => .stall
  | .wait a => .wait a
  | .trap t pre => if lineOwned s c.pa 8 then .stall else .trap t (casActs s c.core c.pa old new widen ++ pre)
  | .after a t => if lineOwned s c.pa 8 then .stall else .after (a ++ casActs s c.core c.pa old new widen) t
  | .park cause lane addr pre => .park cause lane addr pre

/-- R157: the format that the tags of the sources give, when the rule accepts it with the word's RM and SAT. -/
def tagFormat (c : Ctx) (r : FmtRule) (ok : Nat → Bool) (mb : BitVec 8) (tags : List Nat) : Option Nat :=
  match tags with
  | [] => none
  | n :: ns =>
    let t := c.h.tagOf n
    if ns.all (fun m => c.h.tagOf m = t) && r.accepts t mb && ok t then some t else none

/-- An arithmetic word of a generic-capable opcode, by its site state (R134, R271): `eff` is the effect for a format and for
U, `tags` are the sources whose tags decide the format (R157), `srcs` those of uniformity (R269), `ok` a further condition
on the format (R180). -/
def genericArith (i : Instr) (r : FmtRule) (ok : Nat → Bool) (mb : BitVec 8) (tags : List Nat) (srcs : Nat → List Nat)
    (eff : Nat → Bool → Ctx → State → Res) (c : Ctx) (s : State) : Res :=
  let w := (encode i).getD 0
  let generic (c : Ctx) (s : State) : Res :=
    match tagFormat c r ok mb tags with
    | none => .trap (trapOf 0 7) []
    | some f => eff f false c s
  if c.hdr.ss = 0#2 then eff (mbFmt mb) c.hdr.u c s
  else if c.hdr.ss = 1#2 then
    match tagFormat c r ok mb tags with
    | none => .trap (trapOf 0 7) []
    | some f =>
      let u := isUniform c (srcs f)
      withRewrite c s w (setBits (quickened w u) 4 4 f) false (eff f u c s)
  else if c.hdr.ss = 2#2 then
    if tags.all (fun n => decide (c.h.tagOf n = mbFmt mb)) && (!c.hdr.u || oneValue c (srcs (mbFmt mb))) then
      eff (mbFmt mb) c.hdr.u c s
    else withRewrite c s w (setBits (widened w) 4 4 0) true (generic c s)
  else generic c s

/-- The lane whose operands lane l uses: with U the lowest active one (R51). -/
def useLane (c : Ctx) (u : Bool) (l : Nat) : Nat := if u then c.low else l

/-- A vector result: one word per active lane, and the tag (R51, R155). -/
def vecActs (c : Ctx) (u : Bool) (d tag : Nat) (f : Nat → Lane) : List Act :=
  herdActs c.key (c.act.map (fun l => HAct.v (vkey d l) [f (useLane c u l)]) ++ [.vtag d (BitVec.ofNat 4 tag)])

/-- A uniform result (R158, R174). -/
def uniActs (c : Ctx) (d : Nat) (x : Word) : List Act := herdActs c.key [.s d x]

end Sys2Proof.Machine
end

