-- ==== Sys2Proof/Machine/Memory.lean ====
section
/-! DEFINITION. Meanings of the loads, the stores and the cache and translation maintenance, opcodes 0x100 to 0x11B and 0x145
to 0x148 (R223 to R232, R249 to R252), with resolution and guards of memory words (R269 to R279) and the answers of remote
lanes (R231). -/

namespace Sys2Proof.Machine

/-- R225: whether a nibble stands with a WID. -/
def nibWidOk (nib wid : Nat) : Bool := if wid ≤ 1 then nib ≤ 2 else wid ≤ 4 && nib ≤ 11

/-- Registers of an operand of that width (R225). -/
def regCount (wid : Nat) : Nat := if wid = 3 then 2 else if wid = 4 then 4 else 1

/-- The legality of SPC, WID and nibble by site state (R134, R225). -/
def fmGenUses (hd : Header) (x : FM) (nib : Nat) : List Use :=
  let ok := nibWidOk nib x.wid.toNat
  if hd.ss = 0#2 then [.cause 7 (!ok)]
  else if hd.ss = 2#2 then [.cause 5 (x.spc = 7#3 || !ok)]
  else [.cause 5 (x.spc ≠ 7#3 || nib ≠ 0), .cause 7 (5 ≤ x.wid.toNat)]

/-- The effective address of lane l (R102). -/
def memEa (c : Ctx) (x : FM) (l : Nat) : Word :=
  effAddr (c.h.sreg x.sb.toNat) (c.h.vreg x.vo.toNat l) x.imm (2 ^ x.wid.toNat)

/-- What a site settles: the format, U, and the rewrite with whether it widens. -/
structure Plan where
  nib : Nat
  uni : Bool
  rw : Option (Word × Bool)
  deriving DecidableEq, Repr

/-- R272: the quickened memory word. -/
def quickenedMem (t : Site) (space fmt : Nat) : Word :=
  let w := setBits (quickened t.word t.uniform) 3 3 space
  if t.fmtDim then setBits w 54 4 fmt else w

/-- R278: the widened memory word. -/
def widenedMem (t : Site) : Word :=
  let w := setBits (widened t.word) 3 3 7
  if t.fmtDim then setBits w 54 4 0 else w

/-- Whether a list holds one value. -/
def allSame (l : List Nat) : Bool := l.all (fun x => x = l.headD 0)

/-- Resolution, guard or generic execution of a memory site; `fmts` are the formats of the active lanes, the lowest first
(R271 to R273, R277 to R279). -/
def sitePlan (t : Site) (fmts : List Nat) : Plan :=
  let generic : Plan := { nib := fmts.headD 0, uni := false, rw := none }
  if t.ss = 1 then
    if allSame t.spaces && (!t.fmtDim || allSame fmts) then
      { nib := fmts.headD 0, uni := t.uniform, rw := some (quickenedMem t (t.spaces.headD 0) (fmts.headD 0), false) }
    else { generic with rw := some (widenedMem t, true) }
  else if t.ss = 2 then
    if t.spaces.all (fun x => x = fld t.word 5 3) && (!t.fmtDim || fmts.all (fun x => x = fld t.word 57 54))
      && (!t.word.getLsbD 48 || t.one) then
      { nib := fld t.word 57 54, uni := t.word.getLsbD 48, rw := none }
    else { generic with rw := some (widenedMem t, true) }
  else generic

/-- Adds the plan's rewrite to an outcome. -/
def withPlan (c : Ctx) (s : State) (t : Option Site) (p : Plan) (r : Res) : Res :=
  match t, p.rw with
  | some t, some (w, widen) => withRewrite c s t.word w widen r
  | _, _ => r

/-- The bytes of a register operand as one number: V[D + j][l] at bits 32j (R228). -/
def operandOf (h : Herd) (d wid l : Nat) : BitVec 128 :=
  BitVec.ofNat 128 (((List.range (regCount wid)).map (fun j => (h.vreg (d + j) l).toNat * 2 ^ (32 * j))).sum)

/-- R227: the word that register D + j of a lane receives from the bytes loaded. -/
def loadWord (nib wid : Nat) (p : BitVec 128) (j : Nat) : Lane :=
  if 2 ≤ wid then BitVec.ofNat 32 (p.toNat / 2 ^ (32 * j))
  else if nib = 1 then BitVec.ofInt 32 (sext p.toNat (8 * 2 ^ wid))
  else BitVec.ofNat 32 (p.toNat % 2 ^ (8 * 2 ^ wid))

/-- The value that a lane obtained; with U every lane takes the lowest's (R229). -/
def obtained (vals : List (Nat × BitVec 128)) (uni : Bool) (l : Nat) : BitVec 128 :=
  assocGet 0#128 vals (if uni then (vals.headD (l, 0#128)).1 else l)

/-- The destination lanes and tags of a load (R227). -/
def loadWrites (d wid nib : Nat) (act : List Nat) (vals : List (Nat × BitVec 128)) (uni : Bool) : List HAct :=
  (List.range (regCount wid)).flatMap (fun j =>
    act.map (fun l => HAct.v (vkey (d + j) l) [loadWord nib wid (obtained vals uni l) j])
      ++ [.vtag (d + j) (BitVec.ofNat 4 nib)])

/-- Whether an access goes to the host or a peer. -/
def LaneAcc.remote (a : LaneAcc) : Bool := match a.loc with | .remote _ => true | _ => false

/-- R228: the bytes of the lanes' operands, lane by lane ascending, so that the highest lane's stand. -/
def storeActs (c : Ctx) (s : State) (d wid : Nat) (as : List LaneAcc) : List Act :=
  as.flatMap (fun a => writeLoc c.core (leBytes (2 ^ wid) (operandOf c.h d wid a.lane).toNat) a.loc)
    ++ healed s (as.map (fun a => (a.loc, 2 ^ wid)))

/-- R103: the fault that an instruction takes over its lanes, as an outcome. -/
def faultRes (as : List LaneAcc) : Option Res :=
  match worstFault as with
  | none => none
  | some a => match a.flt with
    | some (cls, cause) =>
      if cls = 4 then some (.park cause a.lane a.addr (xlateActs as))
      else some (.trap (trapAt cls cause a.lane a.addr) (xlateActs as))
    | none => none

/-- The site of a generic-capable memory word; none for a native one. -/
def siteOf (i : Instr) (c : Ctx) (fmtDim : Bool) (srcs : List Nat) (addr : Nat → Word) : Option Site :=
  if c.hdr.ss = 0#2 then none
  else some { word := (encode i).getD 0, ss := c.hdr.ss.toNat, fmtDim := fmtDim
              spaces := c.act.map (fun l => fld (addr l) 63 60), one := oneValue c srcs
              uniform := fmtDim && isUniform c srcs }

/-- The plan of a word whose formats are known. -/
def planOf (t : Option Site) (nib : Nat) (u : Bool) (fmts : List Nat) : Plan :=
  match t with
  | none => { nib := nib, uni := u, rw := none }
  | some t => sitePlan t fmts

/-- R230: a format that the word's WID refuses, met by a word that executes generically. -/
def fmtRefused (t : Option Site) (wid : Nat) (fmts : List Nat) (p : Plan) : Bool :=
  match t with
  | none => false
  | some t => t.fmtDim && !(t.ss = 2 && p.rw.isNone) && fmts.any (fun f => !nibWidOk f wid)

/-- The space that a native word fixes (R98, R226). -/
def fixedSpace (hd : Header) (x : FM) : Option Nat := if hd.ss = 0#2 && x.spc ≠ 7#3 then some x.spc.toNat else none

/-- The lanes' checked accesses of a memory word: with U of a native word the lowest lane's alone (R226, R229, R271). -/
def memAccs (c : Ctx) (s : State) (kind : AKind) (x : FM) : List LaneAcc :=
  let lanes := if c.hdr.ss = 0#2 && c.hdr.u then [c.low] else c.act
  lanes.map (fun l => checkLane s c.h kind (2 ^ x.wid.toNat) (fixedSpace c.hdr x) l (memEa c x l))

/-- Whether a word makes one access for its lanes, page formats apart (R229, R273, R277): its lanes then name one address. -/
def oneAccess (c : Ctx) (t : Option Site) : Bool :=
  match t with
  | none => c.hdr.u
  | some t =>
    if t.ss = 1 then t.uniform
    else t.ss = 2 && t.word.getLsbD 48 && t.one && t.spaces.all (fun x => x = fld t.word 5 3)

/-- The group waits for the answers of its remote lanes (R231). -/
def remoteHold (c : Ctx) (r : RemoteOp) : List Act :=
  herdActs c.key [.holds (c.h.holds ++ [{ group := furMask c.furs, why := .remote r }])]

/-- R230: whether a word's local lanes wait for the formats of its peers: a refused one leaves memory as it is. -/
def awaitsFormats (t : Option Site) (rem : List LaneAcc) : Bool := t.isSome && rem.any (fun a => a.loc = .remote 5)

/-- The parts of a load or store as posted accesses, one for each aligned word of each lane (R255); `all` are the lanes that take what the
one lane of a U = 1 word finds. -/
def postedParts (c : Ctx) (reads : Bool) (d wid nib : Nat) (all : List Nat) (as : List LaneAcc) : List Posted :=
  as.flatMap (fun a => (List.range (regCount wid)).map (fun j =>
    c.posted (a.loc.shift (4 * j)) (min wid 2)
      (if reads then .load (d + j) nib
       else .store (((leBytes (2 ^ wid) (operandOf c.h d wid a.lane).toNat).drop (4 * j)).take 4))
      (if all.isEmpty then [a.lane] else all)))

/-- A load or a store after its checks: `reads` says which. With `Ctx.posts` its accesses are performed later
(R257; assumption 71). R230's trap leaves an unresolved word as it is, and every other trap comes after the resolution, the guard and the widening (R270, R271, R278). With a peer whose format is still to come, a store's
local lanes are performed, and a load's leave their traces, when the answers return (R230). -/
def accessRes (i : Instr) (reads : Bool) (x : FM) (nib : Nat) (srcs : List Nat) (c : Ctx) (s : State) : Res :=
  let (d, wid) := (x.d.toNat, x.wid.toNat)
  let as := memAccs c s (if reads then .load else .store) x
  match faultRes as with
  | some r => r
  | none =>
    if as.any (fun a => locHeld s c.key c.core (2 ^ wid) (!reads) reads a.loc)
      || (!c.posts s as && as.any (fun a => behindPosted s.posted c.key c.mask (2 ^ wid) (!reads) a.loc)) then .stall
    else
      let t := siteOf i c true srcs (memEa c x)
      let loc := as.filter (fun a => !a.remote)
      let rem := as.filter (fun a => a.remote)
      let tr := xlateActs as
      let fmts := loc.map (fun a => a.fmt)
      let p := planOf t nib c.hdr.u (if rem.isEmpty then fmts else fmts ++ [0])
      let val (a : LaneAcc) : BitVec 128 := BitVec.ofNat 128 (leNat (readLoc s c.core (2 ^ wid) reads a.loc))
      let vals := if reads then loc.map (fun a => (a.lane, val a)) else []
      let did := if p.uni then loc.take 1 else loc
      let effect := if reads then loadTraces s c.core did else storeActs c s d wid did
      let bad := if reads then did.find? (fun a => poisoned s c.core true a.loc) else none
      let later := awaitsFormats t rem
      if fmtRefused t wid fmts p then (if c.hdr.ss = 2#2 then withPlan c s t p else id) (.trap (trapOf 0 7) tr)
      else match (if later then none else bad) with
        | some a => withPlan c s t p (.trap (trapAt 2 10 a.lane a.addr) tr)
        | none =>
          if c.posts s as then
            withPlan c s t p (.done (tr ++ [.posted (s.posted ++ postedParts c reads d wid p.nib (if p.uni then c.act else []) did)]))
          else if rem.isEmpty then
            withPlan c s t p (.done (tr ++ effect
              ++ (if reads then herdActs c.key (loadWrites d wid p.nib c.act vals p.uni) else [])))
          else
            let one := oneAccess c t
            .jump (tr ++ (if later then [] else effect) ++ remoteHold c
              { kind := if reads then 0 else 1, d := d, wid := wid, nib := nib, op := none, uni := one
                spc := fixedSpace c.hdr x, active := c.act, vals := vals
                fmts := loc.map (fun a => (a.lane, a.fmt))
                  ++ (rem.filter (fun a => a.loc = .remote 6)).map (fun a => (a.lane, 0))
                later := if later && !reads then did.map (fun a => (a.lane, a.loc, operandOf c.h d wid a.lane)) else []
                seen := if later && reads then did.map (fun a => (a.lane, a.addr, a.loc)) else []
                spoilt := if later then bad.map (fun a => (a.lane, a.addr)) else none
                waiting := (if one then rem.take 1 else rem).map (fun a => (a.lane, a.addr, operandOf c.h d wid a.lane))
                site := t, pa := c.pa })

/-- LD (R227, R229, R230). -/
def execLd (h : Header) (nib : BitVec 4) (x : FM) (s : State) : Host.Outcome State Fault Refusal :=
  issue h (legalGen ([.v x.d.toNat (regCount x.wid.toNat), .v x.vo.toNat 1] ++ fmGenUses h x nib.toNat))
    (accessRes (.ld h nib x) true x nib.toNat [x.vo.toNat]) s

/-- ST (R228 to R230). -/
def execSt (h : Header) (nib : BitVec 4) (x : FM) (s : State) : Host.Outcome State Fault Refusal :=
  let k := regCount x.wid.toNat
  issue h (legalGen ([.v x.d.toNat k, .v x.vo.toNat 1] ++ fmGenUses h x nib.toNat))
    (accessRes (.st h nib x) false x nib.toNat
      (x.vo.toNat :: (List.range k).map (fun j => x.d.toNat + j))) s

/-- The field uses of `pf`, `cinv` and `cwb` (R223). -/
def maintUses (x : FM) : List Use :=
  [.rsv x.d.toNat, .v x.vo.toNat 1, .cause 7 (5 ≤ x.wid.toNat)]

/-- The lanes' accesses of a maintenance word; `w` is the width that they are checked with. -/
def maintAccs (c : Ctx) (s : State) (x : FM) (w : Nat) : List LaneAcc :=
  c.act.map (fun l => checkLane s c.h .load w (fixedSpace c.hdr x) l (memEa c x l))

/-- The sectors that a `pf` may bring into L1: those of the lines named that L1 does not hold; none with an uncorrectable
error, and none whose line a copy owns, so that what a later load meets does not change (R116, R232, R249). -/
def pfSectors (s : State) (core : Nat) (as : List LaneAcc) : List Nat :=
  ((as.flatMap (fun a => match a.loc with
      | .mem pa => if lineOwned s pa 1 then [] else (List.range 4).map (fun i => 4 * (pa / 256) + i)
      | _ => [])).eraseDups).filter (fun q => (l1Get s core q).isNone && !s.hbmErr.contains q)

/-- PF (R249): whether the lines reach L1 is a free value, since only the age of what L1 holds depends on it. -/
def execPf (h : Header) (x : FM) (s : State) : Host.Outcome State Fault Refusal :=
  issue h (legal false (maintUses x))
    (fun c s =>
      let as := (maintAccs c s x (2 ^ x.wid.toNat)).filter (fun a => a.flt.isNone)
      let secs := pfSectors s c.core as
      let fill := (secs.mapIdx (fun i q => if (Config.freeNat (s.freeCtr + 1 + i)).testBit 0 then [q] else [])).flatten
      .done (xlateActs as ++ (if fill.isEmpty then [] else [.l1add (fill.map (l1Fill s c.core))])
        ++ [.free (secs.length + 1)])) s

/-- CINV (R250). A lane whose page's permissions refuse it counts as one that fails to translate (DESIGN CHOICE, assumption 111). -/
def execCinv (h : Header) (x : FM) (s : State) : Host.Outcome State Fault Refusal :=
  issue h (legal false (maintUses x))
    (fun c s =>
      let as := (maintAccs c s x 1).filter (fun a => a.flt.isNone)
      .done (xlateActs as ++ as.filterMap (fun a => match a.loc with
        | .mem pa => some (Act.l1dropSec c.core (sectorOf pa))
        | _ => none))) s

/-- R251: lanes in tile, acre and ring space do nothing, so their own faults do not count. -/
def cwbFault (a : LaneAcc) : LaneAcc :=
  if a.flt = some (2, 5) || a.flt = some (2, 6) || a.flt = some (3, 0) then { a with flt := none } else a

/-- CWB (R251): HBM and L2 are one image here, so the word is its checks. -/
def execCwb (h : Header) (x : FM) (s : State) : Host.Outcome State Fault Refusal :=
  issue h (legal false (maintUses x))
    (fun c s =>
      let as := (maintAccs c s x (2 ^ x.wid.toNat)).map cwbFault
      match faultRes as with
      | some r => r
      | none => .done (xlateActs as)) s

/-- The legality of `tlbi` (R223, R252). -/
def tlbiUses (x : FS) (a : Use) : List Use :=
  [.rsv x.d.toNat, a, .rsv (x.sel.toNat / 4), .rsv x.x.toNat, .cause 7 (x.sel.extractLsb' 0 2 = 3#2)]

/-- Keeps the held translations that a predicate does not choose. -/
def dropTlb (s : State) (f : TlbEntry → Bool) : Act := .tlb (s.tlb.filter (fun t => !f t))

/-- TLBI_PAGE (R252). Bits [63:48] of S[A] are ignored (DESIGN CHOICE, assumption 112). -/
def execTlbiPage (h : Header) (x : FS) (s : State) : Host.Outcome State Fault Refusal :=
  issue h (fun c => legal false (tlbiUses x (.s x.a.toNat 1) ++ [.cause 8 (!c.h.sup)]) c)
    (fun c s => .done [dropTlb s (fun t => decide (t.part = c.part)
      && decide (t.vpn = fld (c.h.sreg x.a.toNat) 47 0 / leafSize t.level))]) s

/-- TLBI_ALL (R252). -/
def execTlbiAll (h : Header) (x : FS) (s : State) : Host.Outcome State Fault Refusal :=
  issue h (fun c => legal false (tlbiUses x (.rsv x.a.toNat) ++ [.cause 8 (!c.h.sup)]) c)
    (fun c s => .done [dropTlb s (fun t => decide (t.part = c.part))]) s

/-- TLBI_PID (R252). -/
def execTlbiPid (h : Header) (x : FS) (s : State) : Host.Outcome State Fault Refusal :=
  issue h (fun c => legal false (tlbiUses x (.s x.a.toNat 1) ++ [.cause 8 (!c.h.sup)]) c)
    (fun c s => .done [dropTlb s (fun t => decide (t.part = c.part)
      && decide (fld t.leaf 59 56 = fld (c.h.sreg x.a.toNat) 3 0))]) s

/-- L1_SECTOR_EVICTION (R258). -/
def execL1SectorEviction (core sector : Nat) (s : State) : Host.Outcome State Fault Refusal :=
  event (fun _ => [.l1dropSec core sector]) s

end Sys2Proof.Machine
end

