-- ==== Sys2Proof/Machine/Atomics.lean ====
section
/-! DEFINITION. Meanings of the atomics and reductions, opcodes 0x120 to 0x13A (R114, R115, R233 to R238). -/

namespace Sys2Proof.Machine

/-- R234, R235: the word that an operation leaves; `acas` stores its second operand when it wins. -/
def atomOp (op : AtomOp) (old x : Lane) : Lane :=
  match op with
  | .addI32 => old + x
  | .addF32 => BitVec.ofNat 32 (encodeArith (vadd .rn (decodeVal old.toNat 3) (decodeVal x.toNat 3)) 3 .rn false)
  | .minI32 => if x.slt old then x else old
  | .minN32 => if x.ult old then x else old
  | .minF32 => BitVec.ofNat 32 (minPat 3 old.toNat x.toNat)
  | .maxI32 => if old.slt x then x else old
  | .maxN32 => if old.ult x then x else old
  | .maxF32 => BitVec.ofNat 32 (maxPat 3 old.toNat x.toNat)
  | .and => old &&& x
  | .or => old ||| x
  | .xor => old ^^^ x
  | .xch => x
  | .cas => x

/-- R234: the tag of an atomic's result. -/
def atomTag : AtomOp → Nat
  | .addI32 => 1
  | .addF32 => 3
  | .minI32 => 1
  | .minN32 => 2
  | .minF32 => 3
  | .maxI32 => 1
  | .maxN32 => 2
  | .maxF32 => 3
  | .and => 0
  | .or => 0
  | .xor => 0
  | .xch => 0
  | .cas => 0

/-- Registers of an atomic's operand. -/
def atomRegs (op : AtomOp) : Nat := if op = .cas then 2 else 1

/-- The progress of an atomic over its lanes: the words so far, the addresses at which a compare-and-swap has won, what
each lane found, and the effects. -/
structure AtomRun where
  words : List (Loc × Lane)
  won : List Word
  vals : List (Nat × BitVec 128)
  acts : List Act
  deriving DecidableEq, Repr

/-- The address that a lane names: where the word fixes the space, its bits [63:60] are ignored (R98). -/
def namedAddr (spc : Option Nat) (a : Word) : Word :=
  match spc with
  | some k => BitVec.ofNat 64 (k * 2 ^ 60 + fld a 59 0)
  | none => a

/-- What a lane of `acas` that does not succeed does: its access writes nothing, and recalls or fills a window's sector as any
atomic's does (R108). -/
def lookActs (old : Lane) : Loc → List Act
  | .mem pa => [.mem pa (leBytes 4 old.toNat) none]
  | .win c id sec pa _ => [.mem pa (leBytes 4 old.toNat) (some (c, id)), .crew c (.touch id sec false)]
  | _ => []

/-- One lane's turn (R234, R237): `x` is V[D] and `y` is V[D + 1]. Two lanes name one address when their effective addresses
are equal; two names of one word are two addresses (assumption 56). -/
def atomLane (s : State) (core : Nat) (op : AtomOp) (spc : Option Nat) (x y : Nat → Lane) (r : AtomRun) (a : LaneAcc) :
    AtomRun :=
  let old := match r.words.find? (fun p => decide (p.1 = a.loc.word)) with
    | some p => p.2
    | none => BitVec.ofNat 32 (leNat (readLoc s core 4 false a.loc))
  let wins := if op = .cas then old = x a.lane && !r.won.contains (namedAddr spc a.addr) else true
  let new := if op = .cas then y a.lane else atomOp op old (x a.lane)
  { words := if wins then (a.loc.word, new) :: r.words else r.words
    won := if op = .cas && wins then namedAddr spc a.addr :: r.won else r.won
    vals := r.vals ++ [(a.lane, (old.setWidth 128) ||| (if wins then (1#128 <<< 32) else 0#128))]
    acts := r.acts ++ (if wins then writeLoc core (leBytes 4 new.toNat) a.loc else lookActs old a.loc) }

/-- R233: an atomic bypasses the core's L1 and drops the sector that it touches. -/
def atomDrops (core : Nat) (as : List LaneAcc) : List Act :=
  ((as.filterMap (fun a => (a.loc.hbm?).map sectorOf)).eraseDups).map (fun q => Act.l1dropSec core q)

/-- What the atomic's lanes do, in ascending lane order. -/
def atomRun (c : Ctx) (s : State) (op : AtomOp) (spc : Option Nat) (d : Nat) (as : List LaneAcc) : AtomRun :=
  let r := as.foldl (atomLane s c.core op spc (fun l => c.h.vreg d l) (fun l => c.h.vreg (d + 1) l))
    { words := [], won := [], vals := [], acts := [] }
  { r with acts := r.acts ++ atomDrops c.core as }

/-- The destination of an atomic: the words found, and for `acas` whether each lane won (R234, R237). -/
def atomWrites (op : AtomOp) (d : Nat) (act : List Nat) (vals : List (Nat × BitVec 128)) (uni : Bool) : List HAct :=
  act.map (fun l => HAct.v (vkey d l) [(obtained vals uni l).setWidth 32]) ++ [.vtag d (BitVec.ofNat 4 (atomTag op))]
    ++ (if op = .cas then
          act.map (fun l => HAct.v (vkey (d + 1) l) [((obtained vals uni l) >>> 32).setWidth 32]) ++ [.vtag (d + 1) 2]
        else [])

/-- The site of an atomic: always resolved as not uniform (R269). A quickened word with U = 1, which only a loader writes, thus
passes its guard with one active lane alone, so that each lane makes its access (R280; assumption 57). -/
def atomSite (i : Instr) (c : Ctx) (x : FM) : Option Site :=
  (siteOf i c false [] (memEa c x)).map (fun t => { t with one := decide (c.act.length ≤ 1) })

/-- An atomic or a reduction after its checks; `ret` says that results are written. With `posts` its accesses are performed later (R257), but
not those of an `acas` two lanes of which name one word, for the one success of an address (R237). -/
def atomRes (i : Instr) (op : AtomOp) (ret : Bool) (x : FM) (c : Ctx) (s : State) : Res :=
  let d := x.d.toNat
  let as0 := memAccs c s .atomic x
  match faultRes as0 with
  | some r => r
  | none =>
    let t := atomSite i c x
    let p := planOf t 0 c.hdr.u []
    let as := if p.uni then as0.take 1 else as0
    let spc := fixedSpace c.hdr x
    let posts := c.posts s as && (decide (op ≠ .cas) || decide (as.map (fun a => a.loc.word)).Nodup)
    if as.any (fun a => locHeld s c.key c.core 4 true false a.loc)
      || (!posts && as.any (fun a => behindPosted s.posted c.key c.mask 4 true a.loc)) then .stall
    else
      let loc := as.filter (fun a => !a.remote)
      let rem := as.filter (fun a => a.remote)
      let tr := xlateActs as0
      match loc.find? (fun a => poisoned s c.core false a.loc) with
      | some a => withPlan c s t p (.trap (trapAt 2 10 a.lane a.addr) tr)
      | none =>
        let r := atomRun c s op spc d loc
        if posts then
          withPlan c s t p (.done (tr ++ [.posted (s.posted ++ as.map (fun a =>
            c.posted a.loc 2 (.atomic op (c.h.vreg d a.lane) (c.h.vreg (d + 1) a.lane) (if ret then some d else none))
              (if p.uni then c.act else [a.lane])))]))
        else if rem.isEmpty then
          withPlan c s t p (.done (tr ++ r.acts ++ (if ret then herdActs c.key (atomWrites op d c.act r.vals p.uni) else [])))
        else .jump (tr ++ r.acts ++ remoteHold c
          { kind := if ret then 2 else 1, d := d, wid := 2, nib := 0, op := some op, uni := p.uni, spc := spc
            active := c.act, vals := r.vals, fmts := [], later := [], seen := [], spoilt := none, site := t, pa := c.pa
            waiting := rem.map (fun a => (a.lane, a.addr, operandOf c.h d (if op = .cas then 3 else 2) a.lane)) })

/-- Shared shape of the atomics and reductions (R223, R233). -/
def atomic (i : Instr) (op : AtomOp) (ret : Bool) (h : Header) (x : FM) (s : State) :
    Host.Outcome State Fault Refusal :=
  let spcUse : Use := if h.ss = 0#2 then .cause 7 false
    else if h.ss = 2#2 then .cause 5 (x.spc = 7#3) else .cause 5 (x.spc ≠ 7#3)
  issue h (legalGen [.v x.d.toNat (atomRegs op), .v x.vo.toNat 1, .cause 7 (x.wid ≠ 2#3), spcUse])
    (atomRes i op ret x) s

/-- AADD_I32 (R234). -/
def execAaddI32 (h : Header) (x : FM) (s : State) : Host.Outcome State Fault Refusal :=
  atomic (.aaddI32 h x) .addI32 true h x s

/-- AADD_F32 (R235). -/
def execAaddF32 (h : Header) (x : FM) (s : State) : Host.Outcome State Fault Refusal :=
  atomic (.aaddF32 h x) .addF32 true h x s

/-- AMIN_I32 (R234). -/
def execAminI32 (h : Header) (x : FM) (s : State) : Host.Outcome State Fault Refusal :=
  atomic (.aminI32 h x) .minI32 true h x s

/-- AMIN_N32 (R234). -/
def execAminN32 (h : Header) (x : FM) (s : State) : Host.Outcome State Fault Refusal :=
  atomic (.aminN32 h x) .minN32 true h x s

/-- AMIN_F32 (R235). -/
def execAminF32 (h : Header) (x : FM) (s : State) : Host.Outcome State Fault Refusal :=
  atomic (.aminF32 h x) .minF32 true h x s

/-- AMAX_I32 (R234). -/
def execAmaxI32 (h : Header) (x : FM) (s : State) : Host.Outcome State Fault Refusal :=
  atomic (.amaxI32 h x) .maxI32 true h x s

/-- AMAX_N32 (R234). -/
def execAmaxN32 (h : Header) (x : FM) (s : State) : Host.Outcome State Fault Refusal :=
  atomic (.amaxN32 h x) .maxN32 true h x s

/-- AMAX_F32 (R235). -/
def execAmaxF32 (h : Header) (x : FM) (s : State) : Host.Outcome State Fault Refusal :=
  atomic (.amaxF32 h x) .maxF32 true h x s

/-- AAND (R234). -/
def execAand (h : Header) (x : FM) (s : State) : Host.Outcome State Fault Refusal :=
  atomic (.aand h x) .and true h x s

/-- AOR (R234). -/
def execAor (h : Header) (x : FM) (s : State) : Host.Outcome State Fault Refusal :=
  atomic (.aor h x) .or true h x s

/-- AXOR (R234). -/
def execAxor (h : Header) (x : FM) (s : State) : Host.Outcome State Fault Refusal :=
  atomic (.axor h x) .xor true h x s

/-- AXCH (R234). -/
def execAxch (h : Header) (x : FM) (s : State) : Host.Outcome State Fault Refusal :=
  atomic (.axch h x) .xch true h x s

/-- ACAS (R237). -/
def execAcas (h : Header) (x : FM) (s : State) : Host.Outcome State Fault Refusal :=
  atomic (.acas h x) .cas true h x s

/-- RADD_I32 (R238). -/
def execRaddI32 (h : Header) (x : FM) (s : State) : Host.Outcome State Fault Refusal :=
  atomic (.raddI32 h x) .addI32 false h x s

/-- RADD_F32 (R238). -/
def execRaddF32 (h : Header) (x : FM) (s : State) : Host.Outcome State Fault Refusal :=
  atomic (.raddF32 h x) .addF32 false h x s

/-- RMIN_I32 (R238). -/
def execRminI32 (h : Header) (x : FM) (s : State) : Host.Outcome State Fault Refusal :=
  atomic (.rminI32 h x) .minI32 false h x s

/-- RMIN_N32 (R238). -/
def execRminN32 (h : Header) (x : FM) (s : State) : Host.Outcome State Fault Refusal :=
  atomic (.rminN32 h x) .minN32 false h x s

/-- RMIN_F32 (R238). -/
def execRminF32 (h : Header) (x : FM) (s : State) : Host.Outcome State Fault Refusal :=
  atomic (.rminF32 h x) .minF32 false h x s

/-- RMAX_I32 (R238). -/
def execRmaxI32 (h : Header) (x : FM) (s : State) : Host.Outcome State Fault Refusal :=
  atomic (.rmaxI32 h x) .maxI32 false h x s

/-- RMAX_N32 (R238). -/
def execRmaxN32 (h : Header) (x : FM) (s : State) : Host.Outcome State Fault Refusal :=
  atomic (.rmaxN32 h x) .maxN32 false h x s

/-- RMAX_F32 (R238). -/
def execRmaxF32 (h : Header) (x : FM) (s : State) : Host.Outcome State Fault Refusal :=
  atomic (.rmaxF32 h x) .maxF32 false h x s

/-- RAND (R238). -/
def execRand (h : Header) (x : FM) (s : State) : Host.Outcome State Fault Refusal :=
  atomic (.rand h x) .and false h x s

/-- ROR (R238). -/
def execRor (h : Header) (x : FM) (s : State) : Host.Outcome State Fault Refusal :=
  atomic (.ror h x) .or false h x s

/-- RXOR (R238). -/
def execRxor (h : Header) (x : FM) (s : State) : Host.Outcome State Fault Refusal :=
  atomic (.rxor h x) .xor false h x s

end Sys2Proof.Machine
end

