-- ==== Sys2Proof/Machine/Posted.lean ====
section
/-! DEFINITION. Posted accesses: what a word of a group waits for that has accesses still to be performed, and their performance (R253,
R256, R257, R259 to R264): assumption 71. -/

namespace Sys2Proof.Machine

/-- The vector registers that a word names as sources or destinations: the first register of each operand and how many it may have (R126,
R127, R133, R196). -/
def namedRegs (w : Word) : List (Nat × Nat) :=
  let op := opOf w
  let fm := (decide (0x100 ≤ op) && decide (op ≤ 0x13A)) || (decide (0x145 ≤ op) && decide (op ≤ 0x147))
  let cond := if fld w 15 14 = 1 then [(fld w 12 8, 1)] else []
  (if w.getLsbD 47 && !w.getLsbD 45 then [(fld w 44 40, 1)] else [])
    ++ (if fm then [(fld w 39 32, 4), (fld w 25 18, 1)]
        else if op = 0x0C1 then cond
        else if op = 0x0C3 then (14, 2) :: cond
        else if 0x0C0 ≤ op && op ≤ 0x0D2 && op ≠ 0x0C2 && op ≠ 0x0C4 && op ≠ 0x0C5 then []
        else [(fld w 39 32, 2), (fld w 31 24, 2), (fld w 23 16, 2), (fld w 15 8, 2)])

/-- The vector registers that a posted access is still to write. -/
def Posted.regs (p : Posted) : List Nat :=
  match p.op with
  | .load r _ => [r]
  | .store _ => []
  | .atomic op _ _ (some d) => List.range' d (atomRegs op)
  | .atomic _ _ _ none => []

/-- Whether a word names a register that a posted access of its herd is still to write: it comes after that access (R158, R256, R257). -/
def postedBusy (ps : List Posted) (w : Word) : Bool :=
  ps.any (fun p => p.regs.any (fun r => (namedRegs w).any (fun n => decide (n.1 ≤ r) && decide (r < n.1 + n.2))))

/-- The words before whose effect every earlier access of their agent is performed: the barriers, `sow`, `rft`, `dqk`, the copies, `smap`,
`sunmap`, the matrix words, `rinst` and the tape words (R207, R215, R256, R264, R265, R299, R388). -/
def orderedOps : List (Nat × Nat) :=
  [(0x0C9, 0x0CA), (0x0CC, 0x0CC), (0x0CE, 0x0CE), (0x0D1, 0x0D1), (0x140, 0x141), (0x143, 0x144), (0x180, 0x186), (0x1C6, 0x1C6), (0x240, 0x248)]

/-- What a fence waits for, of the accesses `own` that its agent issued before it (R209, R210, R259): a full one, and one with `.eng`, for
all; an acquire for its loads and atomics; a release for all, unless its group issues on before it completes, which `post` says. -/
def fenceWaits (post : Bool) (x : FS) (own : List Posted) : Bool :=
  let kind := (x.sel.extractLsb' 4 2).toNat
  if x.sel.getLsbD 8 || kind = 0 || (kind = 2 && !post) then !own.isEmpty
  else if kind = 1 then own.any Posted.reads
  else false

/-- Whether `head` by group g may pass as a regang: every other live furrow stands (R46). -/
def mayRegang (h : Herd) (g : BitVec 8) : Bool :=
  h.liveFurs.all (fun j => g.getLsbD j || (match (h.fur j).st with | .standing _ => true | _ => false))

/-- Whether a word of group f must wait for posted accesses: its turn passes. The last word of a herd and a regang wait for all of the herd's
(R263, R413). -/
def postedWaits (s : State) (h : Herd) (f : Nat) (post : Bool) (w : Word) : Bool :=
  let mine := s.posted.filter (fun p => decide (p.key = h.key))
  let g := furMask (h.group f)
  let own := mine.filter (fun p => p.own h.key g)
  !mine.isEmpty && (postedBusy mine w
    || (!own.isEmpty && orderedOps.any (fun r => decide (r.1 ≤ opOf w) && decide (opOf w ≤ r.2)))
    || (match decodeWord w with
        | .fence _ x => fenceWaits post x own
        | .exit _ _ => true
        | .head _ _ => mayRegang h g
        | _ => false))

/-- R253: what a group issues comes after each access that one of its furrows has issued, for every furrow that is in the group now. -/
def joinActs (s : State) (h : Herd) (f : Nat) : List Act :=
  let g := furMask (h.group f)
  if s.posted.any (fun p => p.own h.key g) then
    [.posted (s.posted.map (fun p => if p.own h.key g then { p with group := p.group ||| g } else p))] else []

/-- Whether posted access `i` still waits: for one before it in program order (R256, R259), or for an engine (R116). -/
def performWaits (s : State) (i : Nat) (p : Posted) : Bool :=
  behindPosted (s.posted.take i) p.key p.group p.size p.writes p.loc
    || locHeld s p.key p.core p.size p.writes (match p.op with | .load _ _ => true | _ => false) p.loc

/-- The access of a posted one's lanes. -/
def Posted.acc (p : Posted) : LaneAcc :=
  { lane := p.lanes.headD 0, addr := 0, flt := none, loc := p.loc, fmt := 0, drew := false, fill := [] }

/-- What the performance of a posted access does (R227, R228, R233, R234). -/
def Posted.effect (s : State) (p : Posted) : List Act :=
  let a := p.acc
  match p.op with
  | .load reg nib =>
    loadTraces s p.core [a] ++ herdActs p.key (loadWrites reg p.wid nib p.lanes
      [(a.lane, BitVec.ofNat 128 (leNat (readLoc s p.core p.size true p.loc)))] true)
  | .store bs => writeLoc p.core bs p.loc
  | .atomic op x y ret =>
    let r := atomLane s p.core op none (fun _ => x) (fun _ => y) { words := [], won := [], vals := [], acts := [] } a
    r.acts ++ atomDrops p.core [a] ++ (match ret with | some d => herdActs p.key (atomWrites op d p.lanes r.vals true) | none => [])

/-- Posted access `i` is performed, once nothing before it waits (R256, R257). -/
def performActs (i : Nat) (s : State) : List Act :=
  match s.posted[i]? with
  | none => []
  | some p => if performWaits s i p then [] else p.effect s ++ [.posted (s.posted.eraseIdx i)]

end Sys2Proof.Machine
end

