-- ==== Sys2Proof/Machine/CopyEngine.lean ====
section
/-! DEFINITION. The copy engine: meanings of `cpy`, `cpyg` and `cwait`, opcodes 0x140 to 0x142, and of COPY_START and
COPY_RETIRE (R116, R121, R239 to R245). -/

namespace Sys2Proof.Machine

/-- Bytes from the first to the last byte of a range of rows. -/
def rowSpan (rows len pitch : Nat) : Nat := if rows = 0 || len = 0 then 0 else (rows - 1) * pitch + len

/-- Bytes that a copy moves. -/
def CopyReq.total (r : CopyReq) : Nat := r.rows * r.len

/-- R241: whether the shape of `cpy` or `cpyg` is in range. -/
def CopyReq.shapeOk (r : CopyReq) (rowsForm : Bool) : Bool :=
  r.len % 4 = 0 && r.total ≤ 2 ^ 32 - 4
    && (!rowsForm || (1 ≤ r.rows && r.rows ≤ 65535 && 4 ≤ r.len && r.dpitch % 4 = 0 && r.len ≤ r.dpitch && r.spitch % 4 = 0))

/-- R242: the fault of one range, after alignment: the protection causes, then the tile bound. A peer range that runs past
virtual address 2^48 is refused like a global one (DESIGN CHOICE, assumption 75). -/
def rangeFault (s : State) (h : Herd) (a : Word) (n : Nat) (dst : Bool) : Option (Nat × Nat) :=
  let sp := fld a 63 60
  if 7 ≤ sp then some (2, 1)
  else if zeroFieldBad sp a then some (2, 2)
  else if (sp = 0 || sp = 5 || sp = 6) && decide (2 ^ 48 < fld a 47 0 + n) then some (2, 2)
  else if sp = 3 then some (2, 7)
  else if sp = 4 then
    if dst then some (2, 3)
    else if (heldSlot s h.core (fld a 19 16) h.key.crew).isNone || 65536 < fld a 15 0 + n then some (2, 6) else none
  else if sp = 2 then
    match acreTarget s h a with
    | none => some (2, 5)
    | some c => if c.tileLen < fld a 20 0 + n then some (3, 0) else none
  else if sp = 1 then
    match s.crew? h.key.crew with
    | none => some (3, 0)
    | some c =>
      if n ≠ 0 && c.windows.any (fun w => overlaps w.tile w.len (fld a 20 0) n) then some (2, 5)
      else if c.tileLen < fld a 20 0 + n then some (3, 0) else none
  else none

/-- The crew whose tile store a tile or acre range lies in. -/
def rangeCrew (s : State) (h : Herd) (a : Word) : Option Crew :=
  if fld a 63 60 = 1 then s.crew? h.key.crew else if fld a 63 60 = 2 then acreTarget s h a else none

/-- The scoreboard entries that a copy needs (R116). -/
def copyEnts (s : State) (h : Herd) (r : CopyReq) : List ScoreEnt :=
  let ent (a : Word) (n : Nat) (dst : Bool) : List ScoreEnt :=
    match rangeCrew s h a with
    | none => []
    | some c => [{ core := c.core, crew := c.key, lo := fld a 20 0, hi := fld a 20 0 + n, dst := dst }]
  ent r.dst (rowSpan r.rows r.len r.dpitch) true ++ ent r.src (rowSpan r.rows r.len r.spitch) false

/-- Entries in use on a core's scoreboard. -/
def scoreUsed (s : State) (core : Nat) : Nat :=
  ((s.copies.flatMap (fun x => x.ents) ++ s.cmds.flatMap (fun x => x.ents)).filter (fun e => decide (e.core = core))).length

/-- R300: whether a range of a copy overlaps a range of a matrix command issued earlier. -/
def matrixHit (s : State) (e : ScoreEnt) : Bool :=
  (s.cmds.flatMap (fun m => m.ents)).any (fun x => decide (x.crew = e.crew) && overlaps x.lo (x.hi - x.lo) e.lo (e.hi - e.lo))

/-- R116: whether every entry is free on each core concerned. -/
def scoreFree (s : State) (es : List ScoreEnt) : Bool :=
  es.all (fun e => decide (scoreUsed s e.core + (es.filter (fun x => decide (x.core = e.core))).length ≤ 32)
    && !scoreHit s e.crew e.lo (e.hi - e.lo) e.dst)

/-- R116, R300: whether every entry is free for a copy: a range of a matrix command of any kind keeps it waiting. -/
def entsFree (s : State) (es : List ScoreEnt) : Bool := scoreFree s es && es.all (fun e => !matrixHit s e)

/-- The 256-byte lines that rows touch, as virtual addresses. -/
def rowLines (base rows len pitch : Nat) : List Nat :=
  (List.range rows).flatMap (fun r =>
    let lo := base + r * pitch
    (List.range ((lo + len - 1) / 256 + 1 - lo / 256)).map (fun i => 256 * (lo / 256 + i)))

/-- The translation for a store of each page of a copy's global destination; none for another destination (R116, R121). -/
def destAccs (s : State) (h : Herd) (r : CopyReq) : List LaneAcc :=
  if fld r.dst 63 60 ≠ 0 then []
  else (((rowLines (fld r.dst 47 0) r.rows r.len r.dpitch).map (fun va => va / 65536)).eraseDups).map (fun p =>
    checkLane s h .store 1 none 0 (BitVec.ofNat 64 (65536 * p)))

/-- What the engine keeps of a page's translation. -/
def LaneAcc.destPage (x : LaneAcc) : DestPage :=
  { page := fld x.addr 47 0 / 65536, base := (match x.loc with | .mem pa => pa | _ => 0), flt := x.flt }

/-- The pages of a copy's global destination as they translate now. -/
def destPages (s : State) (h : Herd) (r : CopyReq) : List DestPage := (destAccs s h r).map LaneAcc.destPage

/-- The physical lines that a copy owns: those of a global destination that translate for a store (R116). -/
def copyLines (s : State) (h : Herd) (r : CopyReq) : List (Nat × Nat) :=
  if fld r.dst 63 60 ≠ 0 then []
  else (rowLines (fld r.dst 47 0) r.rows r.len r.dpitch).filterMap (fun va =>
    match (destPages s h r).find? (fun p => decide (p.page = va / 65536)) with
    | some p => if p.flt.isNone then some (p.base + va % 65536, p.base + va % 65536 + 256) else none
    | none => none)

/-- The physical ranges that a copy may write: the lines that it owns, and the sectors behind the windows that its tile or acre
destination meets. -/
def destLines (s : State) (h : Herd) (r : CopyReq) : List (Nat × Nat) :=
  copyLines s h r ++ (match rangeCrew s h r.dst with
    | none => []
    | some c =>
      let n := rowSpan r.rows r.len r.dpitch
      c.windows.flatMap (fun w => ((List.range (w.len / 64)).filter (fun i => overlaps (w.tile + 64 * i) 64 (fld r.dst 20 0) n)).map
        (fun i => (w.pa (64 * i), w.pa (64 * i) + 64))))

/-- R264, R299: whether a matrix command in flight reads or writes, through a window, a place that a copy may write: it was issued
earlier, so that the copy stalls. -/
def matrixAhead (s : State) (ls : List (Nat × Nat)) : Bool :=
  s.cmds.any (fun m => m.ents.any (fun e => match s.crew? e.crew with
    | some c => c.windows.any (fun w => ls.any (windowMeets w e.lo e.hi))
    | none => false))

/-- R369: whether a copy names the tile store of a crew that a pre-emption has saved. -/
def namesSaved (s : State) (h : Herd) (r : CopyReq) : Bool :=
  [r.dst, r.src].any (fun a => match rangeCrew s h a with | some c => c.saved.isSome | none => false)

/-- Whether a copy can start: its entries are free, no crew that it names is saved, and no matrix command issued earlier is still to
read or write what it writes (R116, R243, R264, R300, R369). -/
def copyMayStart (s : State) (h : Herd) (r : CopyReq) : Bool :=
  entsFree s (copyEnts s h r) && !namesSaved s h r && !matrixAhead s (destLines s h r)

/-- The copy that starts with the next ticket of its herd. -/
def newCopy (s : State) (h : Herd) (g : BitVec 8) (r : CopyReq) : Copy :=
  { key := h.key, group := g, ticket := (h.copies + 1#64).toNat, core := h.core, req := r, ents := copyEnts s h r
    lines := copyLines s { h with sup := r.sup } r, pages := destPages s { h with sup := r.sup } r, got := [] }

/-- A copy starts: its ticket, and nothing more when it copies zero bytes (R242 to R244). The engine translates a global destination now,
for the lines that it owns until it retires (R116; DEDUCED, assumption 95). Window sectors filled on those lines stay filled until the
copy's write (R108; DESIGN CHOICE, assumption 110). -/
def copyStartActs (s : State) (h : Herd) (g : BitVec 8) (r : CopyReq) : List Act :=
  let t := h.copies + 1#64
  herdActs h.key [.copies t, .s r.d t]
    ++ (if r.total = 0 then [] else xlateActs (destAccs s { h with sup := r.sup } r) ++ [.copies (s.copies ++ [newCopy s h g r])])

/-- The issue of a copy (R242, R243). Which of two faults of one class is taken, of the destination or of the source, is a
free value (assumption 47); of a misaligned source and a shape out of range the source is named (assumption 60). -/
def copyRes (r : CopyReq) (rowsForm : Bool) (c : Ctx) (s : State) : Res :=
  if r.dst.toNat % 4 ≠ 0 then .trap (trapAt 1 0 255 r.dst) []
  else if r.src.toNat % 4 ≠ 0 then .trap (trapAt 1 0 255 r.src) []
  else if !r.shapeOk rowsForm then .trap (trapAt 1 0 255 r.dst) []
  else
    let fd := rangeFault s c.h r.dst (rowSpan r.rows r.len r.dpitch) true
    let fs := rangeFault s c.h r.src (rowSpan r.rows r.len r.spitch) false
    match fd, fs with
    | some (k, x), none => .trap (trapAt k x 255 r.dst) []
    | none, some (k, x) => .trap (trapAt k x 255 r.src) []
    | some (k, x), some (k', x') =>
      if k < k' then .trap (trapAt k x 255 r.dst) []
      else if k' < k then .trap (trapAt k' x' 255 r.src) []
      else if (Config.freeNat s.freeCtr).testBit 0 then .trap (trapAt k x 255 r.dst) [.free 1]
      else .trap (trapAt k' x' 255 r.src) [.free 1]
    | none, none =>
      if r.total = 0 || copyMayStart s c.h r then .done (copyStartActs s c.h (furMask c.furs) r)
      else .jump (herdActs c.key [.holds (c.h.holds ++ [{ group := furMask c.furs, why := .copy r }])])

/-- CPY (R241). -/
def execCpy (h : Header) (x : FE) (s : State) : Host.Outcome State Fault Refusal :=
  let (d, sa, sb, sf) := (x.d.toNat, x.sa.toNat, x.sb.toNat, x.sf.toNat)
  issue h (legal false [.s d 1, .rsv x.x.toNat])
    (fun c s => copyRes { d := d, dst := c.h.sreg sa, src := c.h.sreg sb, rows := 1, len := (c.h.sreg sf).toNat
                          dpitch := 0, spitch := 0, sup := c.h.sup } false c s) s

/-- CPYG (R241). -/
def execCpyg (h : Header) (x : FE) (s : State) : Host.Outcome State Fault Refusal :=
  let (d, sa, sb, sf) := (x.d.toNat, x.sa.toNat, x.sb.toNat, x.sf.toNat)
  issue h (legal false [.s d 1, .s sf 2, .rsv x.x.toNat])
    (fun c s => copyRes { d := d, dst := c.h.sreg sa, src := c.h.sreg sb, rows := fld (c.h.sreg sf) 63 32
                          len := fld (c.h.sreg sf) 31 0, dpitch := fld (c.h.sreg (sf + 1)) 63 32
                          spitch := fld (c.h.sreg (sf + 1)) 31 0, sup := c.h.sup } true c s) s

/-- R245: the two words that `cwait` writes with a status, and the latch that it leaves. -/
def cwaitWords (h : Herd) (t st : Nat) : Word × Word × List HAct :=
  match (if st = 0 then h.latch else none) with
  | some l =>
    if l.ticket ≤ t then
      (BitVec.ofNat 64 (1 + 2 ^ 8 * l.cause + 2 ^ 16 * h.more.toNat), l.addr, [.latch none, .more 0])
    else (0#64, 0#64, [])
  | none => (BitVec.ofNat 64 st, 0#64, [])

/-- CWAIT (R245). -/
def execCwait (h : Header) (x : FE) (s : State) : Host.Outcome State Fault Refusal :=
  let (d, sa) := (x.d.toNat, x.sa.toNat)
  issue h (legal false [.s d 2, .rsv x.sb.toNat, .rsv x.sf.toNat, .rsv (x.x.toNat / 2)])
    (fun c s =>
      let t := (c.h.sreg sa).toNat
      let open' := s.copies.any (fun y => decide (y.key = c.key) && decide (y.ticket ≤ t))
      let write (st : Nat) : Res :=
        let r := cwaitWords c.h t st
        .done (herdActs c.key (r.2.2 ++ [.s d r.1, .s (d + 1) r.2.1]))
      if c.h.copies.toNat < t then write 3
      else if !open' then write 0
      else if x.x.getLsbD 0 then write 2
      else .stall) s

/-- COPY_START (R116, R243): the stalled copy takes its entries once all are free. Its checks of R242 were made at its issue and
are not made again (DESIGN CHOICE, assumption 76). -/
def copyStart (k : HerdKey) (f : Nat) (s : State) : List Act :=
  match s.herd? k with
  | none => []
  | some h =>
    match h.heldBy [f] with
    | some x => match x.why with
      | .copy r =>
        if copyMayStart s { h with sup := r.sup } r then
          let fs := bitsOf x.group 8
          copyStartActs s h x.group r ++ herdActs k (moveTo h fs ((h.fur (fs.headD 0)).pc + 8#64)
            ++ [.holds (h.holds.filter (fun y => decide (y ≠ x)))])
        else []
      | _ => []
    | none => []

/-- COPY_START (R116, R243). -/
def execCopyStart (k : HerdKey) (f : Nat) (s : State) : Host.Outcome State Fault Refusal := event (copyStart k f) s

/-- A piece of a copy that crosses no 64-byte sector of either side: offsets from the two addresses, length, and the
number of its first byte among those copied. -/
structure Chunk where
  so : Nat
  do' : Nat
  n : Nat
  lin : Nat
  deriving DecidableEq, Repr

/-- The pieces of one row; `s` and `d` are the low bits of the two addresses. -/
def rowChunks (s d : Nat) : Nat → Nat → Nat → Nat → Nat → List Chunk
  | 0, _, _, _, _ => []
  | fuel + 1, so, dO, lin, left =>
    if left = 0 then []
    else
      let n := min (64 - (s + so) % 64) (min (64 - (d + dO) % 64) left)
      { so := so, do' := dO, n := n, lin := lin } :: rowChunks s d fuel (so + n) (dO + n) (lin + n) (left - n)

/-- The pieces of a copy, row by row. -/
def CopyReq.chunks (r : CopyReq) : List Chunk :=
  (List.range r.rows).flatMap (fun i =>
    rowChunks (r.src.toNat % 64) (r.dst.toNat % 64) r.len (i * r.spitch) (i * r.dpitch) (i * r.len) r.len)

/-- The rows of a range as half-open intervals. -/
def rowRanges (base rows len pitch : Nat) : List (Nat × Nat) :=
  (List.range rows).map (fun i => (base + i * pitch, len))

/-- The crew whose tile store an address names, by tile or acre space (R97). -/
def namedCrew (h : Herd) (a : Word) : Option CrewKey :=
  if fld a 63 60 = 1 then some h.key.crew
  else if fld a 63 60 = 2 then some { h.key.crew with crew := fld a 43 28 }
  else none

/-- R243: whether source and destination overlap as named. The byte ranges of a `cpyg` are its rows, so that interleaved rows that share no
byte do not overlap (DESIGN CHOICE, assumption 93). -/
def namedOverlap (h : Herd) (r : CopyReq) : Bool :=
  let meet (mask : Nat) : Bool :=
    (rowRanges (r.dst.toNat % mask) r.rows r.len r.dpitch).any (fun x =>
      (rowRanges (r.src.toNat % mask) r.rows r.len r.spitch).any (fun y => overlaps x.1 x.2 y.1 y.2))
  let sd := fld r.dst 63 60
  let ss := fld r.src 63 60
  match namedCrew h r.dst, namedCrew h r.src with
  | some a, some b => a = b && meet (2 ^ 21)
  | _, _ =>
    if sd = ss && (sd = 0 || sd = 6) then meet (2 ^ 48)
    else if sd = 5 && ss = 5 then fld r.dst 59 48 = fld r.src 59 48 && meet (2 ^ 48)
    else false

/-- One piece as the engine finds it: the two places, the data, and the error of either side (R121, R244, R283). -/
structure ChunkRun where
  ch : Chunk
  src : LaneAcc
  dst : LaneAcc
  data : List Byte
  srcErr : Option (Nat × Word)
  dstErr : Option (Nat × Word)
  deriving DecidableEq, Repr

/-- The error cause of a destination fault (R244, R283). -/
def dstCause (p : Nat × Nat) : Nat := if p = (2, 4) then 17 else p.2

/-- The bytes of a remote source (R121). -/
def envBytes (env : CopyEnv) (lo n : Nat) : List Byte := (List.range n).map (fun i => assocGet 0#8 env.bytes (lo + i))

/-- Whether a remote access of a piece failed: the answer was an error, or the peer cannot be reached (R121, R417). -/
def envFailed (s : State) (env : CopyEnv) (c : Chunk) (a : Word) : Bool :=
  (fld a 63 60 = 5 && peerDead s a) || env.failed.any (fun x => decide (c.lin ≤ x) && decide (x < c.lin + c.n))

/-- The check of one place of a running copy: an acre address names the crew that it named at issue, whatever has become of that
crew's herds since (R121, R239). -/
def copyLane (s : State) (h : Herd) (kind : AKind) (a : Word) : LaneAcc :=
  match (if fld a 63 60 = 2 then s.crew? { h.key.crew with crew := fld a 43 28 } else none) with
  | some c => { lane := 0, addr := a, flt := none, loc := tileLoc c (fld a 20 0), fmt := 0, drew := false, fill := [] }
  | none => checkLane s h kind 1 none 0 a

/-- The place of a source piece. -/
def srcLane (s : State) (h : Herd) (sa : Word) : LaneAcc :=
  if fld sa 63 60 = 4 then
    { lane := 0, addr := sa, flt := none, loc := .slot (fld sa 19 16) (fld sa 15 0), fmt := 0, drew := false, fill := [] }
  else copyLane s h .load sa

/-- The place of a destination piece: a global one where its page lay at the start (R116; assumption 95). -/
def dstLane (s : State) (h : Herd) (pages : List DestPage) (da : Word) : LaneAcc :=
  match (if fld da 63 60 = 0 then pages.find? (fun p => decide (p.page = fld da 47 0 / 65536)) else none) with
  | some p =>
    { lane := 0, addr := da, flt := p.flt, loc := .mem (p.base + fld da 47 0 % 65536), fmt := 0, drew := false, fill := [] }
  | none => copyLane s h .store da

/-- Whether an address lies in a peer or in the host. -/
def farAddr (a : Word) : Bool := fld a 63 60 = 5 || fld a 63 60 = 6

/-- What a read of a source piece gives: its bytes and its error (R121, R244). -/
def readPiece (s : State) (core : Nat) (r : CopyReq) (env : CopyEnv) (c : Chunk) (src : LaneAcc) : CopyRead :=
  let sa := r.src + BitVec.ofNat 64 c.so
  { lin := c.lin
    data := if farAddr sa then envBytes env c.lin c.n else readLoc s core c.n false src.loc
    err := match src.flt with
      | some p => some (p.2, sa)
      | none =>
        if farAddr sa && envFailed s env c sa then some (8, sa) else if poisoned s core false src.loc then some (10, sa) else none }

/-- What the engine finds of one piece; an error names the byte at which it meets it (R121; assumption 58). A source piece that has been
read already is not read again, and leaves no trace now (R116). -/
def chunkRun (s : State) (h : Herd) (cp : Copy) (env : CopyEnv) (c : Chunk) : ChunkRun :=
  let da := cp.req.dst + BitVec.ofNat 64 c.do'
  let sa := cp.req.src + BitVec.ofNat 64 c.so
  let dst := dstLane s h cp.pages da
  let src : LaneAcc × CopyRead := match cp.got.find? (fun g => decide (g.lin = c.lin)) with
    | some g => ({ lane := 0, addr := sa, flt := none, loc := .remote 0, fmt := 0, drew := false, fill := [] }, g)
    | none => (srcLane s h sa, readPiece s cp.core cp.req env c (srcLane s h sa))
  let dstErr : Option (Nat × Word) :=
    match dst.flt with
    | some p => some (dstCause p, da)
    | none => if farAddr da && envFailed s env c da then some (8, da) else none
  { ch := c, src := src.1, dst := dst, srcErr := src.2.err, dstErr := dstErr, data := src.2.data }

/-- Whether a piece met an error. -/
def ChunkRun.failed (x : ChunkRun) : Bool := x.srcErr.isSome || x.dstErr.isSome

/-- The 64-byte sector of a piece's destination, by its generic address. -/
def ChunkRun.sector (x : ChunkRun) : Nat := x.dst.addr.toNat / 64

/-- R121: the error of the lowest destination sector that is not written: the first of its source's errors where the source
failed, and the first of its destination's otherwise. -/
def firstError (xs : List ChunkRun) : Option (Nat × Word) :=
  match ((xs.filter ChunkRun.failed).map ChunkRun.sector).min? with
  | none => none
  | some q =>
    let mine := xs.filter (fun x => decide (x.sector = q))
    (mine.findSome? (fun x => x.srcErr)).or (mine.findSome? (fun x => x.dstErr))

/-- The writes of a copy: the pieces of every sector that met no error (R121); no L1 is brought up to date (R258). -/
def chunkWrites (s : State) (r : CopyReq) (xs : List ChunkRun) : List Act :=
  let bad := (xs.filter ChunkRun.failed).map ChunkRun.sector
  let good := xs.filter (fun x => !bad.contains x.sector)
  good.flatMap (fun x =>
    if fld r.dst 63 60 = 6 then [Act.hostMem (fld x.dst.addr 47 0) x.data]
    else engineWrite x.data x.dst.loc)
  ++ healed s (good.map (fun x => (x.dst.loc, x.ch.n)))

/-- R244: an error enters the latch or is counted in MORE. -/
def latchActs (h : Herd) (ticket cause : Nat) (addr : Word) : List HAct :=
  let more := if h.more = 0xFFFF#16 then h.more else h.more + 1
  match h.latch with
  | none => [.latch (some { ticket := ticket, cause := cause, addr := addr })]
  | some l =>
    if ticket < l.ticket then [.latch (some { ticket := ticket, cause := cause, addr := addr }), .more more]
    else [.more more]

/-- The copy count and the latch as a save area holds them (R362). -/
def latchBytes (h : Herd) : List Byte :=
  leBytes 8 h.copies.toNat
    ++ (match h.latch with
        | some l => leBytes 8 l.ticket ++ leBytes 8 (2 ^ 8 * l.cause + 2 ^ 16 * h.more.toNat) ++ leBytes 8 l.addr.toNat
        | none => leBytes 8 0 ++ leBytes 8 (2 ^ 16 * h.more.toNat) ++ leBytes 8 0)

/-- A copy or a matrix command that has not retired reads this landing slot (R240, R301, R323). -/
def slotRead (s : State) (core i : Nat) : Bool :=
  s.copies.any (fun x => decide (x.core = core) && decide (fld x.req.src 63 60 = 4) && decide (fld x.req.src 19 16 = i))
    || s.cmds.any (fun m => decide (m.core = core) && m.slots.contains i)

/-- Whether such a reader is still to read it: a command whose read phase has ended is not (R301; assumption 59). -/
def slotReading (s : State) (core i : Nat) : Bool := slotRead { s with cmds := s.cmds.filter (fun m => decide (m.phase ≠ 2)) } core i

/-- Whether a slot released by `rfree` has no reader left (R323). -/
def Slot.over (s : State) (x : Slot) : Bool := x.freeing && !slotRead s x.core x.idx

/-- R323: slots released by `rfree` go when their last reader has retired. Their operand-cache entries go when nothing is to read them
any more (R301, R304; assumption 59). -/
def dropFreed (s : State) : List Act :=
  let l := s.slots.filter (fun x => x.freeing && !slotReading s x.core x.idx)
  if l.isEmpty then []
  else [.slots (s.slots.filter (fun x => !x.over s)),
    .ocache (s.ocache.filter (fun e => !l.any (fun x => decide (e.core = x.core) && decide (e.slot = some x.idx))))]

/-- Whether a place lies on a physical range. -/
def Loc.onLine (l : Nat × Nat) (n : Nat) (x : Loc) : Bool :=
  match x.hbm? with | some pa => overlaps l.1 (l.2 - l.1) pa n | none => false

/-- The lines that copies started before one own. -/
def linesAhead (s : State) (cp : Copy) : List (Nat × Nat) := (s.copies.takeWhile (fun y => decide (y ≠ cp))).flatMap (fun y => y.lines)

/-- Whether an earlier copy owns a line that this one reads or writes, through a window too (R116, R264). -/
def behindOwner (s : State) (cp : Copy) (xs : List ChunkRun) : Bool :=
  (linesAhead s cp).any (fun l =>
    cp.lines.contains l || xs.any (fun x => x.src.loc.onLine l x.ch.n || x.dst.loc.onLine l x.ch.n))

/-- R116: a running copy reads some of its source sectors before its retirement, which ones a free value says; a source in a peer or in
the host answers at the retirement (assumption 12). -/
def copyReadActs (k : HerdKey) (ticket : Nat) (s : State) : List Act :=
  match s.copies.find? (fun x => decide (x.key = k) && decide (x.ticket = ticket)), s.herd? k with
  | some cp, some h =>
    let h' := { h with core := cp.core, sup := cp.req.sup }
    let pick := Config.freeNat (s.freeCtr + 1)
    let cs := if farAddr cp.req.src || namedOverlap h' cp.req then []
      else cp.req.chunks.filter (fun c => pick.testBit ((cp.req.src.toNat % 64 + c.so) / 64) && !cp.got.any (fun g => decide (g.lin = c.lin)))
    let xs := cs.map (fun c => (c, srcLane s h' (cp.req.src + BitVec.ofNat 64 c.so)))
    if xs.any (fun x => (linesAhead s cp).any (fun l => x.2.loc.onLine l x.1.n)) then [.free 2]
    else
      let got := xs.map (fun x => readPiece s cp.core cp.req { bytes := [], failed := [] } x.1 x.2)
      xlateActs (xs.map (fun x => x.2)) ++ (xs.flatMap (fun x => fillTrace x.2.loc)).eraseDups
        ++ [.free 2, .copies (s.copies.map (fun y => if y = cp then { cp with got := cp.got ++ got } else y))]
  | _, _ => []

/-- COPY_RETIRE: the engine reads, writes, releases its entries and latches an error (R116, R121, R243, R244). -/
def copyRetire (k : HerdKey) (ticket : Nat) (env : CopyEnv) (s : State) : List Act :=
  match s.copies.find? (fun x => decide (x.key = k) && decide (x.ticket = ticket)), s.herd? k with
  | some cp, some h =>
    let h' := { h with core := cp.core, sup := cp.req.sup }
    let named := namedOverlap h' cp.req
    let xs := if named then [] else cp.req.chunks.map (chunkRun s h' cp env)
    if behindOwner s cp xs then []
    else
      let err := if named then some (16, cp.req.dst) else firstError xs
      chain s [
        fun s => xlateActs (xs.flatMap (fun x => [x.src, x.dst])) ++ (xs.flatMap (fun x => fillTrace x.src.loc)).eraseDups
          ++ chunkWrites s cp.req xs
          ++ [.copies (s.copies.filter (fun y => decide (y ≠ cp)))],
        fun _ => match err with | some (c, a) => herdActs k (latchActs h ticket c a) | none => [],
        fun s => match s.herd? k with
          | some h => if h.stored then [.mem (h.saveAt + 0xA0) (latchBytes h) none] else []
          | none => [],
        dropFreed]
  | _, _ => []

/-- COPY_RETIRE (R116, R121, R244). -/
def execCopyRetire (k : HerdKey) (ticket : Nat) (env : CopyEnv) (s : State) : Host.Outcome State Fault Refusal :=
  event (copyRetire k ticket env) s

end Sys2Proof.Machine
end

