-- ==== Sys2Proof/Machine/Stash.lean ====
section
/-! DEFINITION. Stash windows: meanings of `smap` and `sunmap`, opcodes 0x143 and 0x144, and of WINDOW_SECTOR_RECALL (R106 to
R109, R246 to R248). -/

namespace Sys2Proof.Machine

/-- The protection cause of an address that must lie in one space (R97, R246). -/
def spaceCause (sp : Nat) (a : Word) : Option Nat :=
  if 7 ≤ fld a 63 60 then some 1
  else if fld a 63 60 ≠ sp || zeroFieldBad sp a then some 2
  else none

/-- The fault of `smap` before translation (R104, R106, R246): its class and cause, and the address that it names. The tile address is
judged before the global one, and a breach of R104 or R106 names the tile address, whatever breaks it (DESIGN CHOICE, assumption 86).
A window of length zero is accepted (assumption 68). -/
def smapFault (cr : Crew) (t g : Word) (n : Nat) : Option (Nat × Nat × Word) :=
  match spaceCause 1 t with
  | some c => some (2, c, t)
  | none =>
    match spaceCause 0 g with
    | some c => some (2, c, g)
    | none =>
      if 2 ^ 48 < fld g 47 0 + n then some (2, 2, g)
      else if t.toNat % 256 ≠ 0 || g.toNat % 256 ≠ 0 || n % 256 ≠ 0 || 2 ^ 20 < n || 8 ≤ cr.windows.length
        || cr.windows.any (fun w => overlaps w.tile w.len (fld t 20 0) n) then some (2, 5, t)
      else if cr.tileLen < fld t 20 0 + n then some (3, 0, t)
      else none

/-- The first byte of a global range on each 64 KiB page that it touches (R246, R383). -/
def pageStarts (a n : Nat) : List Nat :=
  if n = 0 then [] else (List.range ((a + n - 1) / 65536 + 1 - a / 65536)).map (fun i => max a (65536 * (a / 65536 + i)))

/-- The translations of a range's pages, lowest first, for a kind of access. -/
def pageAccs (s : State) (h : Herd) (kind : AKind) (a : Word) (n : Nat) : List LaneAcc :=
  (pageStarts (fld a 47 0) n).map (fun va => checkLane s h kind 1 none 255 (a - BitVec.ofNat 64 (fld a 47 0) + BitVec.ofNat 64 va))

/-- The first page that meets a fault. -/
def pageFault (as : List LaneAcc) : Option LaneAcc := as.find? (fun a => a.flt.isSome)

/-- The physical base of the page that an access reached. -/
def pageBase (a : LaneAcc) : Nat := match a.loc with | .mem pa => pa - a.addr.toNat % 65536 | _ => 0

/-- The lowest window id that a crew has free (R246). -/
def freeWindow (cr : Crew) : Nat := ((List.range 8).find? (fun i => cr.windows.all (fun w => w.id ≠ i))).getD 0

/-- R230, R247: whether a store or load that waits for the formats of its peers is still to be performed, or to leave its trace, in bytes
of a crew's tile store. -/
def heldAccess (s : State) (c : CrewKey) (lo n : Nat) : Bool :=
  s.herds.any (fun h => h.holds.any (fun x => match x.why with
    | .remote r => (r.later.map (fun w => w.2.1) ++ r.seen.map (fun w => w.2.2)).any (fun l => match l with
      | .win c' _ _ _ off => decide (c' = c) && overlaps off (2 ^ r.wid) lo n
      | .tile c' off => decide (c' = c) && overlaps off (2 ^ r.wid) lo n
      | _ => false)
    | _ => false))

/-- R246, R247: whether the map or unmap of a tile range waits for an access issued earlier that is still to be performed there. -/
def mapWaits (s : State) (c : CrewKey) (lo n : Nat) : Bool := scoreHit s c lo n true || heldAccess s c lo n || postedTile s c lo n

/-- SMAP (R246). -/
def execSmap (h : Header) (x : FE) (s : State) : Host.Outcome State Fault Refusal :=
  let (d, sa, sb, sf) := (x.d.toNat, x.sa.toNat, x.sb.toNat, x.sf.toNat)
  issue h (legal false [.s d 1, .rsv x.x.toNat])
    (fun c s =>
      let (t, g, n) := (c.h.sreg sa, c.h.sreg sb, (c.h.sreg sf).toNat)
      match s.crew? c.key.crew with
      | none => .stall
      | some cr =>
        match smapFault cr t g n with
        | some (cls, cause, a) => .trap (trapAt cls cause 255 a) []
        | none =>
          if mapWaits s cr.key (fld t 20 0) n then .stall
          else
            let as := pageAccs s c.h .map g n
            match pageFault as with
            | some a =>
              (match a.flt with
               | some (4, cause) => .park cause 255 a.addr (xlateActs as)
               | some (cls, cause) => .trap (trapAt cls cause 255 a.addr) (xlateActs as)
               | none => .stall)
            | none =>
              .done (xlateActs as ++ [.crew cr.key (.windows (cr.windows ++
                  [{ id := freeWindow cr, tile := fld t 20 0, va := g, len := n, pages := as.map pageBase, secs := [] }]))]
                ++ uniActs c d (BitVec.ofNat 64 (freeWindow cr)))) s

/-- The bytes that an unmapped window leaves in the tile store (R248). -/
def windowBytes (s : State) (w : Window) : List Byte :=
  (List.range (w.len / 64)).flatMap (fun i =>
    if w.secs.any (fun x => decide (x.1 = i)) then s.hbm.bytes (w.pa (64 * i)) 64 else List.replicate 64 0#8)

/-- The poisoned sectors of the tile store once a window is unmapped: of those behind it, the filled ones whose copy has an error (R232,
R248). -/
def windowErrs (cr : Crew) (w : Window) : List Nat :=
  cr.tileErr.filter (fun e => !(w.tile ≤ 64 * e && 64 * e < w.tile + w.len))
    ++ (w.secs.filter (fun x => cr.tileErr.contains (w.tile / 64 + x.1))).map
      (fun x => w.tile / 64 + x.1)

/-- Unmaps a window: its filled sectors' bytes and zeros elsewhere (R109, R247, R248). -/
def unmapActs (s : State) (cr : Crew) (w : Window) : List Act :=
  [.crew cr.key (.windows (cr.windows.filter (fun y => decide (y.id ≠ w.id)))),
   .crew cr.key (.tile w.tile (windowBytes s w)), .crew cr.key (.tileErr (windowErrs cr w))]

/-- SUNMAP (R247, R248). -/
def execSunmap (h : Header) (x : FE) (s : State) : Host.Outcome State Fault Refusal :=
  let (d, sa) := (x.d.toNat, x.sa.toNat)
  issue h (legal false [.s d 1, .rsv x.sb.toNat, .rsv x.sf.toNat, .rsv x.x.toNat])
    (fun c s =>
      match s.crew? c.key.crew with
      | none => .stall
      | some cr =>
        match cr.windows.find? (fun w => decide (w.id = (c.h.sreg sa).toNat)) with
        | none => .done (uniActs c d 1#64)
        | some w =>
          if mapWaits s cr.key w.tile w.len then .stall
          else .done (unmapActs s cr w ++ uniActs c d 0#64)) s

/-- WINDOW_SECTOR_RECALL (R108): the sector returns to unfilled; what it held is in memory. -/
def windowSectorRecall (c : CrewKey) (w n : Nat) (s : State) : List Act :=
  match s.crew? c with
  | none => []
  | some cr =>
    (match cr.windows.find? (fun x => decide (x.id = w)) with
     | some x => [Act.ocache (dropCovered c (x.tile + 64 * n) 64 s.ocache)]
     | none => [])
    ++ [.crew c (.windows (cr.windows.map (fun x =>
      if x.id = w then { x with secs := x.secs.filter (fun y => decide (y.1 ≠ n)) } else x)))]

/-- WINDOW_SECTOR_RECALL (R108). -/
def execWindowSectorRecall (c : CrewKey) (w n : Nat) (s : State) : Host.Outcome State Fault Refusal :=
  event (windowSectorRecall c w n) s

end Sys2Proof.Machine
end

