-- ==== Sys2Proof/Machine/RingOps.lean ====
section
/-! DEFINITION. Boardings, landing slots and the ring instructions, opcodes 0x1C0 to 0x1C7 (R308 to R310, R316 to R329). -/

namespace Sys2Proof.Machine

/-- Whether a timetable grants a track to a partition (R308). -/
def Timetable.grants? (t : Timetable) (track p : Nat) : Bool := (t.grants.getD track 0#16).getLsbD p

/-- The entries of a track and layer. -/
def Timetable.layerEnts (t : Timetable) (track layer : Nat) : List TEntry :=
  t.ents.filter (fun e => decide (e.track = track) && decide (e.layer = layer))

/-- R309: the tile count T of a layer; 0 when the layer is not in the track. -/
def Timetable.tileCount (t : Timetable) (track layer : Nat) : Nat := ((t.layerEnts track layer).map (fun e => e.count)).sum

/-- The layer descriptor and shard of `board` (R317). -/
def ldQuota (a : Word) : Nat := fld a 55 52 + 1
def ldTrack (a : Word) : Nat := fld a 51 48
def ldLayer (a : Word) : Nat := fld a 47 32
def shFirst (b : Word) : Nat := fld b 55 32
def shCount (b : Word) : Nat := fld b 23 0

/-- Tiles of a shard that a layer of T tiles has (R317). -/
def shardTiles (first count t : Nat) : Nat := min (first + count) t - first

/-- Whether the window of a layer is closed at a stop (R318). -/
def windowClosed (r : Ring) (stop track layer : Nat) : Bool := r.closed.contains (stop, track, layer)

/-- R319: the core's free quota. -/
def freeQuota (s : State) (core : Nat) : Nat :=
  16 - ((s.herds.filterMap (fun h => if h.core = core then h.boarding.map (fun b => b.quota) else none)).sum
    + (s.slots.filter (fun x => decide (x.core = core) && x.board.isNone)).length)

/-- R319: the status of `board`, a miss apart. -/
def boardStatus (s : State) (h : Herd) (a b : Word) : Nat :=
  if fld a 63 56 ≠ 0 || fld a 31 0 ≠ 0 || fld b 63 56 ≠ 0 || fld b 31 24 ≠ 0 || shCount b = 0 then 5
  else if h.boarding.isSome then 4
  else match s.ring.installed with
    | none => 2
    | some t =>
      if !t.grants? (ldTrack a) h.key.crew.part || shardTiles (shFirst b) (shCount b) (t.tileCount (ldTrack a) (ldLayer a)) = 0
      then 2
      else if freeQuota s h.core < ldQuota a then 3
      else 0

/-- The boarding that `board` registers (R317, R320). -/
def newBoarding (a b : Word) : Boarding :=
  { st := .registered, quota := ldQuota a, track := ldTrack a, layer := ldLayer a, first := shFirst b, count := shCount b
    lap := 0, landed := [], taken := 0, gone := 0 }

/-- BOARD (R317 to R320). -/
def execBoard (h : Header) (x : FE) (s : State) : Host.Outcome State Fault Refusal :=
  let (d, sa, sb) := (x.d.toNat, x.sa.toNat, x.sb.toNat)
  issue h (legal false [.s d 1, .rsv x.sf.toNat, .rsv (x.x.toNat / 2)])
    (fun c s =>
      let (a, b) := (c.h.sreg sa, c.h.sreg sb)
      let st := boardStatus s c.h a b
      if st ≠ 0 then .done (uniActs c d (BitVec.ofNat 64 st))
      else if !windowClosed s.ring (dieOf c.core) (ldTrack a) (ldLayer a) then
        .done (herdActs c.key [.boarding (some (newBoarding a b))] ++ uniActs c d 0#64)
      else if x.x.getLsbD 0 then .done (bumpCore c.core 0x0D6 :: uniActs c d 1#64)
      else .jump (bumpCore c.core 0x0D6 :: herdActs c.key (.boarding (some (newBoarding a b)) :: .lateDone c.furs :: .await c.furs [d]
        :: c.furs.map (fun f => furAct c.h f (fun r => { r with st := .waiting (.board d) }))) ++ waitStamp s c.key)) s

/-- The boarding ends: its untaken slots go, its taken ones count against no boarding, and no hold waits for it (R320, R321, R324). -/
def endBoarding (s : State) (k : HerdKey) : List Act :=
  [leaveSlots s k, .herd k (.boarding none)] ++ unhold k s

/-- The waits of `rtile` end; the words issue again (R322). -/
def endRtiles (h : Herd) : List HAct :=
  endWaits h (h.unresolved WaitOn.isRtile) { completed := false, wr := none, bad := none }

/-- Wakes the groups of a herd that wait for a tile (R322). -/
def wakeRtile (s : State) (h : Herd) : List Act := herdActs h.key (endRtiles h) ++ readyStamp s h WaitOn.isRtile

/-- Wakes the groups that wait in a missed `board` whose registration is gone; the word issues again, and writes then. -/
def wakeBoard (h : Herd) : List Act :=
  herdActs h.key (endWaits h (h.unresolved WaitOn.isBoard) { completed := false, wr := none, bad := none }
    ++ [.lateDone (h.unresolved WaitOn.isBoard)])

/-- Whether the issuing group has waited in its `rtile`, whose first issue is still to write (R158, R322). -/
def Ctx.waited (c : Ctx) : Bool := c.h.late.any (fun w => c.furs.contains w.fur)

/-- What an `rtile` writes: one that has waited writes the registers that no word issued after it has written (R158, R322). -/
def rtileWrites (c : Ctx) (d : Nat) (a b : Word) : List Act :=
  if c.waited then
    herdActs c.key ((if c.h.lateStands c.furs d then [.reload d a] else [])
      ++ (if c.h.lateStands c.furs (d + 1) then [.reload (d + 1) b] else []) ++ [.lateDone c.furs])
  else herdActs c.key [.s d a, .s (d + 1) b]

/-- R320: a Boarded boarding is None once every tile of its shard is taken or removed. -/
def settleBoarding (s : State) (k : HerdKey) : List Act :=
  match s.herd? k with
  | none => []
  | some h =>
    match h.boarding with
    | some b => if b.st = .boarded && decide (b.count ≤ b.taken + b.gone) then endBoarding s k else []
    | none => []

/-- The word of S[D + 1] that names a slot's tile (R322). -/
def tileWord (x : Slot) : Word := BitVec.ofNat 64 (x.track * 2 ^ 48 + x.layer * 2 ^ 32 + x.tile)

/-- A slot of the core by index. -/
def slotAt (s : State) (core i : Nat) : Option Slot :=
  s.slots.find? (fun x => decide (x.core = core) && decide (x.idx = i))

/-- A ring-tile trap (R325). -/
def ringTrap (cause : Nat) (w : Word) : TrapReq := { trapOf 10 cause with tile := w }

/-- The operand-cache entries of a slot (R304). -/
def dropSlotCache (s : State) (core i : Nat) : Act :=
  .ocache (s.ocache.filter (fun e => !(decide (e.core = core) && decide (e.slot = some i))))

/-- The slot in which a tile landed for a herd's boarding. -/
def landedSlot (s : State) (k : HerdKey) (core i : Nat) : Option Slot :=
  s.slots.find? (fun x => decide (x.core = core) && decide (x.idx = i) && decide (x.board = some k))

/-- R322 with a landed tile in slot i. -/
def takeTile (c : Ctx) (b : Boarding) (i d : Nat) (s : State) : Res :=
  match landedSlot s c.key c.core i with
  | none => .stall
  | some x =>
    let rest := b.landed.filter (fun j => j ≠ i)
    if x.crcBad || x.poison then
      .trap (ringTrap (if x.crcBad then 1 else 2) (tileWord x)) (chain s [
        fun s => [.slots (s.slots.filter (fun y => decide (y ≠ x))), dropSlotCache s c.core i,
          .herd c.key (.boarding (some { b with landed := rest, gone := b.gone + 1 })), bumpCore c.core 0x0D7],
        fun s => settleBoarding s c.key])
    else
      .done (chain s [
        fun s => [.slots (s.slots.map (fun y => if y = x then { y with crew := some c.key.crew } else y)),
          .slotGen (16 * c.core + i) (Sparse.get zeros s.slotGen (16 * c.core + i) + 1#32),
          .herd c.key (.boarding (some { b with landed := rest, taken := b.taken + 1 }))]
          ++ rtileWrites c d (BitVec.ofNat 64 (4 * 2 ^ 60 + i * 2 ^ 16)) (tileWord x),
        fun s => settleBoarding s c.key])

/-- What `rtile` does (R322). A fault of causes 3 to 5 names no tile, and its trap record's TILE is 0 (DESIGN CHOICE, assumption 89). -/
def rtileRes (d : Nat) (try' : Bool) (c : Ctx) (s : State) : Res :=
  match c.h.boarding with
  | none => .done (rtileWrites c d 0#64 (BitVec.ofNat 64 (2 ^ 63)))
  | some b =>
    match b.landed with
    | i :: _ => takeTile c b i d s
    | [] =>
      match b.st with
      | .cut cause => .trap (ringTrap cause 0) (endBoarding s c.key ++ [bumpCore c.core 0x0D7])
      | _ =>
        if try' then .done (rtileWrites c d 0#64 (BitVec.ofNat 64 (2 ^ 62)))
        else .wait (herdActs c.key (.await c.furs [d, d + 1] :: c.furs.map (fun f => furAct c.h f (fun r => { r with st := .waiting .rtile })))
          ++ waitStamp s c.key)

/-- RTILE (R322, R325). A group that has waited in its `rtile` was judged at its issue, predicate and legality with it: what S[PR] or
V[PR] holds at its completion does not count (R136, R158; DEDUCED, assumption 82). -/
def execRtile (h : Header) (x : FE) (s : State) : Host.Outcome State Fault Refusal :=
  match ctxOf h s with
  | none => .fault .noIssuer
  | some c =>
    let r := rtileRes x.d.toNat (x.x.getLsbD 0)
    .next (run s (c.close s (if c.waited then r c s else
      issueRes c (legal false [.s x.d.toNat 2, .rsv x.sa.toNat, .rsv x.sb.toNat, .rsv x.sf.toNat, .rsv (x.x.toNat / 2)]) r s)))

/-- Releases a slot that the crew held, at once or when its readers have retired (R323). -/
def freeSlot (s : State) (x : Slot) : List Act :=
  if slotRead s x.core x.idx then
    .slots (s.slots.map (fun y => if y = x then { y with crew := none, freeing := true } else y))
      :: (if slotReading s x.core x.idx then [] else [dropSlotCache s x.core x.idx])
  else [.slots (s.slots.filter (fun y => decide (y ≠ x))), dropSlotCache s x.core x.idx]

/-- RFREE (R323). -/
def execRfree (h : Header) (x : FE) (s : State) : Host.Outcome State Fault Refusal :=
  let (d, sa) := (x.d.toNat, x.sa.toNat)
  issue h (legal false [.s d 1, .rsv x.sb.toNat, .rsv x.sf.toNat, .rsv x.x.toNat])
    (fun c s =>
      let a := c.h.sreg sa
      match (if fld a 63 60 = 4 && fld a 59 20 = 0 && fld a 15 0 = 0 then heldSlot s c.core (fld a 19 16) c.key.crew else none) with
      | none => .done (uniActs c d 1#64)
      | some y => .done (freeSlot s y ++ uniActs c d 0#64)) s

/-- ALIGHT (R324). -/
def execAlight (h : Header) (x : FE) (s : State) : Host.Outcome State Fault Refusal :=
  issue h (legal false [.s x.d.toNat 1, .rsv x.sa.toNat, .rsv x.sb.toNat, .rsv x.sf.toNat, .rsv x.x.toNat])
    (fun c s =>
      if c.h.boarding.isNone then .done (uniActs c x.d.toNat 1#64)
      else .done (endBoarding s c.key ++ wakeRtile s c.h ++ wakeBoard c.h ++ uniActs c x.d.toNat 0#64)) s

/-- R326: the word of `rpos`. -/
def rposWord (s : State) (stop : Nat) (a : Word) : Word :=
  let absent := match s.ring.installed with
    | none => true
    | some t => (t.layerEnts (ldTrack a) (ldLayer a)).isEmpty
  BitVec.ofNat 64 ((Sparse.get zeros s.ring.laps stop).toNat * 2 ^ 32
    + (if absent then 2 ^ 30 else if windowClosed s.ring stop (ldTrack a) (ldLayer a) then 2 ^ 31 else 0)
    + (Sparse.get zeros s.ring.lastEnt stop).toNat % 2 ^ 20)

/-- RPOS (R326). -/
def execRpos (h : Header) (x : FE) (s : State) : Host.Outcome State Fault Refusal :=
  let (d, sa) := (x.d.toNat, x.sa.toNat)
  issue h (legal false [.s d 1, .rsv x.sb.toNat, .rsv x.sf.toNat, .rsv x.x.toNat])
    (fun c s => .done (uniActs c d (rposWord s (dieOf c.core) (c.h.sreg sa)))) s

/-- RPACE (R328). -/
def execRpace (h : Header) (x : FE) (s : State) : Host.Outcome State Fault Refusal :=
  let (d, sa) := (x.d.toNat, x.sa.toNat)
  issue h (fun c => legal false [.s d 1, .rsv x.sb.toNat, .rsv x.sf.toNat, .rsv x.x.toNat, .cause 8 (!c.h.sup)] c)
    (fun c _ =>
      if (c.h.sreg sa).toNat ≤ 256 then
        .done (.partReg (4096 * c.part + 0x0D2) (BitVec.ofNat 64 (fld (c.h.sreg sa) 8 0)) :: uniActs c d 0#64)
      else .done (uniActs c d 1#64)) s

/-- R326: the word of `rstat`. -/
def rstatWord (b : Option Boarding) : Word :=
  match b with
  | none => 0#64
  | some b =>
    let (st, cause) := match b.st with | .registered => (1, 0) | .boarded => (2, 0) | .cut c => (3, c)
    BitVec.ofNat 64 (st * 2 ^ 62 + cause * 2 ^ 59 + (b.quota - 1) * 2 ^ 52 + b.track * 2 ^ 48 + b.layer * 2 ^ 32
      + b.landed.length * 2 ^ 24 + b.taken % 2 ^ 24)

/-- RSTAT (R326). -/
def execRstat (h : Header) (x : FE) (s : State) : Host.Outcome State Fault Refusal :=
  issue h (legal false [.s x.d.toNat 1, .rsv x.sa.toNat, .rsv x.sb.toNat, .rsv x.sf.toNat, .rsv x.x.toNat])
    (fun c _ => .done (uniActs c x.d.toNat (rstatWord c.h.boarding))) s

/-- A timetable entry from its 32 bytes (R308). -/
def entryOf (bs : List Byte) : TEntry :=
  let w (i : Nat) : Word := BitVec.ofNat 64 (leNat ((bs.drop (8 * i)).take 8))
  { addr := fld (w 0) 47 0, track := fld (w 1) 63 60, die := fld (w 1) 59 56, layer := fld (w 1) 47 32
    first := fld (w 1) 23 0, count := fld (w 2) 23 0 }

/-- Whether a reserved field of an entry is set (R308). -/
def entryRsv (bs : List Byte) : Bool :=
  let w (i : Nat) : Word := BitVec.ofNat 64 (leNat ((bs.drop (8 * i)).take 8))
  fld (w 0) 63 48 ≠ 0 || fld (w 1) 55 48 ≠ 0 || fld (w 1) 31 24 ≠ 0 || fld (w 2) 63 24 ≠ 0 || w 3 ≠ 0#64

/-- A partition's frame ranges, those of every kind (R408). -/
def partRanges (p : PartCfg) : List PRange := p.frames ++ [p.arena, p.pristine, p.pen, p.pool]

/-- The frame ranges that a track's tiles may lie in (R309, R408). -/
def trackRanges (s : State) (grants : List (BitVec 16)) (track : Nat) : List PRange :=
  match s.cfg with
  | none => []
  | some b => b.common ++ (b.parts.filter (fun p => (grants.getD track 0#16).getLsbD p.pid)).flatMap partRanges

/-- R309: whether an entry breaks its conditions; `before` are the entries before it. Where all that is wrong is that the counts of all
entries come to more than 2^25, the entry named is the one at which their running sum passes it (R310; DESIGN CHOICE, assumption 115). -/
def entryBad (s : State) (grants : List (BitVec 16)) (before : List TEntry) (rsv : Bool) (e : TEntry) : Bool :=
  let next := (before.filter (fun x => decide (x.track = e.track) && decide (x.layer = e.layer))).getLast?.map
    (fun x => x.first + x.count)
  rsv || e.addr % 65536 ≠ 0 || 11 < e.die || e.count = 0 || 2 ^ 24 < e.first + e.count
    || e.addr < 160000000000 * e.die || 160000000000 * (e.die + 1) < e.addr + 65536 * e.count
    || !inside e.addr (e.addr + 65536 * e.count) (trackRanges s grants e.track)
    || e.first ≠ next.getD 0 || 2 ^ 25 < ((before ++ [e]).map (fun x => x.count)).sum

/-- The index of the first entry that breaks R309. -/
def firstBadEntry (s : State) (grants : List (BitVec 16)) : List TEntry → List (Bool × TEntry) → Option Nat
  | _, [] => none
  | before, (r, e) :: rest =>
    if entryBad s grants before r e then some before.length else firstBadEntry s grants (before ++ [e]) rest

/-- The bytes of a global range as loads of the core, whose pages have been translated. -/
def loadRange (s : State) (core : Nat) (accs : List LaneAcc) : Nat → Nat → List Byte
  | 0, _ => []
  | n + 1, a =>
    (match accs.find? (fun x => decide (fld x.addr 47 0 / 65536 = a / 65536)) with
     | some x => readMem s core (pageBase x + a % 65536) 1 true
     | none => [0#8]) ++ loadRange s core accs n (a + 1)

/-- NENT of a header; 0 where it is out of its range (R308). -/
def headerEnts (hd : List Byte) : Nat :=
  let n := leNat (hd.take 4)
  if 2 ^ 20 < n then 0 else n

/-- R308: an invalid header: NENT, or reserved bytes that are not zero. -/
def headerBad (hd : List Byte) : Bool := headerEnts hd = 0 || (hd.drop 40).take 20 ≠ List.replicate 20 0#8

/-- R310: the status of a timetable with the index of its first bad entry, and the timetable. -/
def rinstJudge (s : State) (p : Nat) (hd body : List Byte) : Nat × Nat × Timetable :=
  let n := headerEnts hd
  let grants := (List.range 16).map (fun t => BitVec.ofNat 16 (leNat ((hd.drop (8 + 2 * t)).take 2)))
  let raw := (List.range n).map (fun i => (body.drop (32 * i)).take 32)
  let es := raw.map (fun b => (entryRsv b, entryOf b))
  let tt : Timetable := { gen := BitVec.ofNat 32 (leNat ((hd.drop 4).take 4)), grants := grants, ents := es.map (fun e => e.2) }
  if (match s.cfg with | some b => b.ringOwner | none => 0) ≠ p then (1, 0, tt)
  else if headerBad hd then (2, 0, tt)
  else match firstBadEntry s grants [] es with
    | some i => (3, i, tt)
    | none => if crc32c (hd.take 60 ++ body) ≠ BitVec.ofNat 32 (leNat ((hd.drop 60).take 4)) then (4, 0, tt) else (0, 0, tt)

/-- The empty timetable (R310). -/
def Timetable.empty : Timetable := { gen := 0, grants := [], ents := [] }

/-- The outcome of a page's fault. -/
def pageRes (as : List LaneAcc) (a : LaneAcc) : Res :=
  match a.flt with
  | some (4, cause) => .park cause 255 a.addr (xlateActs as)
  | some (cls, cause) => .trap (trapAt cls cause 255 a.addr) (xlateActs as)
  | none => .stall

/-- Whether a global range, whose pages have been translated, holds poisoned data that the core's L1 does not (R232). -/
def rangePoisoned (s : State) (core : Nat) (accs : List LaneAcc) (a n : Nat) : Bool :=
  accs.any (fun x => s.hbmErr.any (fun e =>
    overlaps (64 * e) 64 (pageBase x + fld x.addr 15 0) (min (65536 - fld x.addr 15 0) (a + n - fld x.addr 47 0))
      && (l1Get s core e).isNone))

/-- R116, R256: whether a herd's read of a global range, whose pages have been translated, waits for a line that a running copy owns or
for a matrix command that it issued earlier. -/
def rangeOwned (s : State) (k : HerdKey) (accs : List LaneAcc) (a n : Nat) : Bool :=
  accs.any (fun x =>
    let lo := pageBase x + fld x.addr 15 0
    let len := min (65536 - fld x.addr 15 0) (a + n - fld x.addr 47 0)
    lineOwned s lo len || mxReads s k lo len)

/-- What `rinst` does with a timetable address (R116, R310). Poisoned data anywhere in the timetable record S[A] as the faulting address
(DESIGN CHOICE, assumption 89). -/
def rinstRes (a : Word) (d : Nat) (c : Ctx) (s : State) : Res :=
  let hdr := [checkLane s c.h .load 64 (some 0) 255 a]
  if a.toNat % 64 ≠ 0 then .trap (trapAt 1 0 255 a) []
  else if fld a 63 60 ≠ 0 then .trap (trapAt 2 2 255 a) []
  else match pageFault hdr with
    | some x => pageRes hdr x
    | none =>
      let hd := loadRange s c.core hdr 64 (fld a 47 0)
      let n := headerEnts hd
      let as := if n = 0 then hdr else pageAccs s c.h .load a (64 + 32 * n)
      if rangeOwned s c.key hdr (fld a 47 0) 64 then .stall
      else match pageFault as with
      | some x => pageRes as x
      | none =>
        if rangeOwned s c.key as (fld a 47 0) (64 + 32 * n) then .stall
        else if rangePoisoned s c.core as (fld a 47 0) (64 + 32 * n) then .trap (trapAt 2 10 255 a) (xlateActs as)
        else
          let body := loadRange s c.core as (32 * n) (fld a 47 0 + 64)
          let (st, i, tt) := rinstJudge s c.part hd body
          .done (xlateActs as ++ (if st = 0 then [.ring { s.ring with pending := some tt }] else [])
            ++ uniActs c d (BitVec.ofNat 64 (st + i * 2 ^ 32)))

/-- RINST (R308 to R310). -/
def execRinst (h : Header) (x : FE) (s : State) : Host.Outcome State Fault Refusal :=
  let (d, sa) := (x.d.toNat, x.sa.toNat)
  issue h (fun c => legal false [.s d 1, .rsv x.sb.toNat, .rsv x.sf.toNat, .rsv x.x.toNat, .cause 8 (!c.h.sup)] c)
    (fun c s =>
      let a := c.h.sreg sa
      if a = 0#64 then
        if (match s.cfg with | some b => b.ringOwner | none => 0) ≠ c.part then .done (uniActs c d 1#64)
        else .done (.ring { s.ring with pending := some Timetable.empty } :: uniActs c d 0#64)
      else rinstRes a d c s) s

end Sys2Proof.Machine
end

