-- ==== Sys2Proof/Machine/Lanes.lean ====
section
/-! DEFINITION. What the arithmetic instructions compute in one lane (R155 to R182), and the shapes that their meanings
share: the fields they use, their legality, and the lanes they write. -/

namespace Sys2Proof.Machine

/-- A lane word from the patterns of its elements; bits outside them are zero (R155). -/
def buildWord (c : Nat) (g : Nat → Nat) : Lane :=
  BitVec.ofNat 32 (((List.range (elemCount c)).map (fun i => g i % 2 ^ elemWidth c * 2 ^ (elemWidth c * i))).sum)

/-- R155 for one element: an exact integer or an exact value, encoded by the format. -/
def encElem (c : Nat) (rm : RMode) (sat : Bool) (zi : Int) (zf : Val) : Nat :=
  if isInt c then encodeIntArith zi c sat else encodeArith zf c rm sat

/-- A lane function of two sources: format, RM, SAT, words. -/
abbrev Lane2 := Nat → RMode → Bool → Lane → Lane → Lane

/-- R155 with an operation on integers and one on values. -/
def elem2 (zi : Int → Int → Int) (zf : RMode → Val → Val → Val) : Lane2 := fun c rm sat a b =>
  buildWord c (fun i =>
    let p := element a c i
    let q := element b c i
    encElem c rm sat (zi (intOf p c) (intOf q c)) (zf rm (decodeVal p c) (decodeVal q c)))

/-- R155 with one source. -/
def elem1 (zi : Int → Int) (zf : RMode → Val → Val) : Lane2 := elem2 (fun x _ => zi x) (fun rm x _ => zf rm x)

/-- A bit operation on the elements of two words. -/
def bits2 (g : Nat → Nat → Nat → Nat) : Lane2 := fun c _ _ a b =>
  buildWord c (fun i => g (elemWidth c) (element a c i) (element b c i))

def laneAdd : Lane2 := elem2 (· + ·) vadd
def laneSub : Lane2 := elem2 (· - ·) (fun rm x y => vadd rm x (vneg y))
def laneMul : Lane2 := elem2 (· * ·) (fun _ => vmul)

/-- R161. -/
def laneMulhi : Lane2 := fun c _ _ a b =>
  buildWord c (fun i =>
    wrapN (intOf (element a c i) c * intOf (element b c i) c / ((2 ^ elemWidth c : Nat) : Int)) (elemWidth c))

/-- R162. -/
def laneMin : Lane2 := fun c _ _ a b => buildWord c (fun i => minPat c (element a c i) (element b c i))
def laneMax : Lane2 := fun c _ _ a b => buildWord c (fun i => maxPat c (element a c i) (element b c i))

/-- R163. -/
def laneAbs : Lane2 := elem1 (fun x => (x.natAbs : Int)) (fun _ => vabs)
def laneNeg : Lane2 := elem1 (fun x => -x) (fun _ => vneg)

/-- R168. -/
def shlEl (w u s : Nat) : Nat := if s < w then u * 2 ^ s % 2 ^ w else 0
def shrEl (w u s : Nat) : Nat := if s < w then u / 2 ^ s else 0
def sarEl (w u s : Nat) : Nat := wrapN (sext u w / ((2 ^ (if s < w then s else w - 1) : Nat) : Int)) w
def rotEl (w u s : Nat) : Nat := u * 2 ^ (s % w) % 2 ^ w + u / 2 ^ (w - s % w)

/-- R169. -/
def popcEl (w u : Nat) : Nat := ((List.range w).filter (fun i => u.testBit i)).length
def clzEl (w u : Nat) : Nat := if u = 0 then w else w - 1 - Nat.log2 u
def ctzEl (w u : Nat) : Nat := ((List.range w).find? (fun i => u.testBit i)).getD w
def brevEl (w u : Nat) : Nat := ((List.range w).map (fun i => if u.testBit i then 2 ^ (w - 1 - i) else 0)).sum

/-- R170: position and length from a control word. -/
def bfCtl (ctl : Lane) : Nat × Nat :=
  let pos := ctl.toNat % 32
  (pos, min (ctl.toNat / 256 % 64) (32 - pos))

def laneBfe : Lane2 := fun c _ _ a ctl =>
  let (pos, len) := bfCtl ctl
  let f := a.toNat / 2 ^ pos % 2 ^ len
  if len = 0 then 0#32 else if c = 1 then BitVec.ofInt 32 (sext f len) else BitVec.ofNat 32 f

def laneBfi (a b ctl : Lane) : Lane :=
  let (pos, len) := bfCtl ctl
  if len = 0 then a
  else
    let m := BitVec.ofNat 32 ((2 ^ len - 1) * 2 ^ pos)
    (a &&& ~~~m) ||| BitVec.ofNat 32 (b.toNat % 2 ^ len * 2 ^ pos)

/-- R172: whether a condition holds. -/
def condHolds (fn : Nat) (x y : Val) : Bool :=
  if x.isNan || y.isNan then fn = 1 || fn = 7
  else
    let o := vcmp x y
    if fn = 0 then o = .eq else if fn = 1 then o ≠ .eq else if fn = 2 then o = .lt else if fn = 3 then o ≠ .gt
    else if fn = 4 then o = .gt else if fn = 5 then o ≠ .lt else fn = 6

/-- R172: each element all ones or zero. -/
def laneCmp (fn : Nat) : Lane2 := fun c _ _ a b =>
  buildWord c (fun i =>
    if condHolds fn (decodeVal (element a c i) c) (decodeVal (element b c i) c) then 2 ^ elemWidth c - 1 else 0)

/-- R165. -/
def laneFma (c : Nat) (rm : RMode) (sat : Bool) (x y z : Lane) : Lane :=
  buildWord c (fun i =>
    let p := element x c i
    let q := element y c i
    let r := element z c i
    encElem c rm sat (intOf p c * intOf q c + intOf r c) (vfma rm (decodeVal p c) (decodeVal q c) (decodeVal r c)))

/-- R166. -/
def laneDot4 (c : Nat) (rm : RMode) (sat : Bool) (x y z : Lane) : Lane :=
  let is := List.range (elemCount c)
  if c = 10 then
    BitVec.ofNat 32 (encodeIntArith
      (sext z.toNat 32 + (is.map (fun i => intOf (element x c i) c * intOf (element y c i) c)).sum) 1 sat)
  else
    BitVec.ofNat 32 (encodeArith
      (vsum rm (decodeVal z.toNat 3 :: is.map (fun i => vmul (decodeVal (element x c i) c) (decodeVal (element y c i) c))))
      3 rm sat)

/-- R175. -/
def laneDiv : Lane2 := elem2 (fun x _ => x) (fun _ => vdiv)
def laneSqrt : Lane2 := elem1 id (fun _ => vsqrt)
def laneRint : Lane2 := elem1 id vrint
def laneLdexp : Lane2 := fun c rm sat a b =>
  buildWord c (fun i =>
    encodeArith (vldexp (sext (element b c i) (elemWidth c)) (decodeVal (element a c i) c)) c rm sat)

/-- R176: an approximated function of opcode `op`. -/
def laneFn (op : Nat) (fn : Fn) : Lane2 := fun c _ sat a _ => buildWord c (fun i => fnPat op fn c sat (element a c i))

/-- R178: the class mask of a pattern. -/
def classMask (c p : Nat) : Nat :=
  match ffmtOf c with
  | none => 0
  | some f =>
    match decodeF f p with
    | .nan _ => 256
    | .inf s => if s then 1 else 128
    | .num s m _ _ =>
      if m = 0 then (if s then 8 else 16)
      else if p % 2 ^ f.sbit < 2 ^ (f.p - 1) then (if s then 4 else 32) else (if s then 2 else 64)

def laneClass : Lane2 := fun c _ _ a _ => buildWord c (fun i => classMask c (element a c i))

/-- R179. -/
def sgnjEl (fn c p q : Nat) : Nat :=
  match ffmtOf c with
  | none => p
  | some f =>
    if (decodeF f p).isNan then f.nanPat
    else
      let sa := p.testBit f.sbit
      let sb := q.testBit f.sbit
      let s := if fn = 0 then sb else if fn = 1 then !sb else sa != sb
      p % 2 ^ f.sbit + (if s then 2 ^ f.sbit else 0)

def laneSgnj (fn : Nat) : Lane2 := fun c _ _ a b => buildWord c (fun i => sgnjEl fn c (element a c i) (element b c i))

/-- Shared shape: a generic-capable F3 word of two sources (R157). -/
def arith2 (i : Instr) (h : Header) (x : F3) (r : FmtRule) (tag : Nat → Nat) (fnUse : Use) (g : Lane2) (s : State) :
    Host.Outcome State Fault Refusal :=
  let (d, a, b) := (x.d.toNat, x.a.toNat, x.b.toNat)
  issue h (legalGen ([.v d 1, .v a 1, .v b 1, fnUse] ++ mbGenUses r h x.mb))
    (genericArith i r (fun _ => true) x.mb [a, b] (fun _ => [a, b]) (fun f u c _ =>
      .done (vecActs c u d (tag f) (fun l => g f (mbRm x.mb) (mbSat x.mb) (c.h.vreg a l) (c.h.vreg b l))))) s

/-- Shared shape: a generic-capable F3 word of one source. -/
def arith1 (i : Instr) (h : Header) (x : F3) (r : FmtRule) (g : Lane2) (s : State) : Host.Outcome State Fault Refusal :=
  let (d, a) := (x.d.toNat, x.a.toNat)
  issue h (legalGen ([.v d 1, .v a 1, .rsv x.b.toNat, .rsv x.fn.toNat] ++ mbGenUses r h x.mb))
    (genericArith i r (fun _ => true) x.mb [a] (fun _ => [a]) (fun f u c _ =>
      .done (vecActs c u d f (fun l => g f (mbRm x.mb) (mbSat x.mb) (c.h.vreg a l) 0)))) s

/-- Shared shape: a native F3 word of two sources. -/
def native2 (h : Header) (x : F3) (r : FmtRule) (tag : Ctx → Nat → Nat) (fnUse : Use) (g : Lane2) (s : State) :
    Host.Outcome State Fault Refusal :=
  let (d, a, b) := (x.d.toNat, x.a.toNat, x.b.toNat)
  issue h (legal true ([.v d 1, .v a 1, .v b 1, fnUse] ++ mbUses r x.mb))
    (fun c _ => .done (vecActs c h.u d (tag c (mbFmt x.mb)) (fun l =>
      g (mbFmt x.mb) (mbRm x.mb) (mbSat x.mb) (c.h.vreg a l) (c.h.vreg b l)))) s

/-- Shared shape: a native F3 word of one source. -/
def native1 (h : Header) (x : F3) (r : FmtRule) (tag : Ctx → Nat → Nat) (g : Lane2) (s : State) :
    Host.Outcome State Fault Refusal :=
  let (d, a) := (x.d.toNat, x.a.toNat)
  issue h (legal true ([.v d 1, .v a 1, .rsv x.b.toNat, .rsv x.fn.toNat] ++ mbUses r x.mb))
    (fun c _ => .done (vecActs c h.u d (tag c (mbFmt x.mb)) (fun l =>
      g (mbFmt x.mb) (mbRm x.mb) (mbSat x.mb) (c.h.vreg a l) 0))) s

/-- Shared shape: a native F4 word of three sources. -/
def native3 (h : Header) (x : F4) (r : FmtRule) (tag : Ctx → Nat → Nat)
    (g : Nat → RMode → Bool → Lane → Lane → Lane → Lane) (s : State) : Host.Outcome State Fault Refusal :=
  let (d, a, b, k) := (x.d.toNat, x.a.toNat, x.b.toNat, x.c.toNat)
  issue h (legal true ([.v d 1, .v a 1, .v b 1, .v k 1] ++ mbUses r x.mb))
    (fun c _ => .done (vecActs c h.u d (tag c (mbFmt x.mb)) (fun l =>
      g (mbFmt x.mb) (mbRm x.mb) (mbSat x.mb) (c.h.vreg a l) (c.h.vreg b l) (c.h.vreg k l)))) s

/-- Shared shape: a native FI word, whose immediate stands for B (R164). -/
def nativeImm (h : Header) (x : FI) (r : FmtRule) (more : List Use) (tag : Ctx → Nat → Nat)
    (g : Nat → RMode → Bool → Lane → Lane) (s : State) : Host.Outcome State Fault Refusal :=
  let (d, a) := (x.d.toNat, x.a.toNat)
  issue h (legal true ([.v d 1, .v a 1] ++ more ++ mbUses r x.mb))
    (fun c _ => .done (vecActs c h.u d (tag c (mbFmt x.mb)) (fun l =>
      g (mbFmt x.mb) (mbRm x.mb) (mbSat x.mb) (c.h.vreg a l)))) s

/-- The tag is FMT. -/
def tagFmt (_ : Ctx) (f : Nat) : Nat := f

/-- The tag is 0. -/
def tagZero (_ : Ctx) (_ : Nat) : Nat := 0

/-- R156: FMT, or the tag that A carried. -/
def tagMove (a : Nat) (c : Ctx) (f : Nat) : Nat := if f = 0 then c.h.tagOf a else f

/-- R164: the immediate as a lane word. -/
def immWord (fmt : Nat) (imm : BitVec 16) : Lane :=
  if fmt = 1 then BitVec.ofInt 32 (sext imm.toNat 16) else BitVec.ofNat 32 imm.toNat

/-- R173: the immediate of `cmpi`. -/
def cmpImm (fmt : Nat) (imm : BitVec 16) : Lane :=
  if fmt = 1 then BitVec.ofInt 32 (sext (imm.toNat % 8192) 13) else BitVec.ofNat 32 (imm.toNat % 8192)

/-- Rows of R153. -/
def ruleAdd : FmtRule := { fmts := [1, 2, 3, 4, 5, 10, 11], rm := .float, sat := [1, 2, 3, 4, 5, 10, 11] }
def ruleInts : FmtRule := { fmts := [1, 2, 10, 11], rm := .no, sat := [] }
def ruleMin : FmtRule := { fmts := [1, 2, 3, 4, 5, 6, 7, 8, 9, 10, 11], rm := .no, sat := [] }
def ruleAbs : FmtRule := { fmts := [1, 3, 4, 5, 6, 7, 8, 9, 10, 11], rm := .no, sat := [1, 10, 11] }
def ruleNeg : FmtRule := { fmts := [1, 2, 3, 4, 5, 6, 7, 8, 9, 10, 11], rm := .no, sat := [1, 10, 11] }
def ruleBits : FmtRule := { fmts := [0, 1, 2, 3, 4, 5, 6, 7, 8, 9, 10, 11], rm := .no, sat := [] }
def ruleI : FmtRule := { fmts := [1, 2], rm := .no, sat := [] }
def ruleISat : FmtRule := { fmts := [1, 2], rm := .no, sat := [1, 2] }
def ruleMad : FmtRule := { fmts := [1, 2, 10, 11], rm := .no, sat := [1, 2, 10, 11] }
def ruleFma : FmtRule := { fmts := [3, 4, 5], rm := .float, sat := [3, 4, 5] }
def ruleDot4 : FmtRule := { fmts := [4, 5, 6, 7, 10], rm := .float, sat := [4, 5, 6, 7, 10] }
def ruleF : FmtRule := { fmts := [3, 4, 5], rm := .no, sat := [] }
def ruleFSat : FmtRule := { fmts := [3, 4, 5], rm := .no, sat := [3, 4, 5] }
def ruleFRm : FmtRule := { fmts := [3, 4, 5], rm := .any, sat := [] }
def ruleFRmSat : FmtRule := { fmts := [3, 4, 5], rm := .any, sat := [3, 4, 5] }

end Sys2Proof.Machine
end

