-- ==== Sys2Proof/Machine/Dist.lean ====
section
/-! DEFINITION. Distribution registers (R333 to R354): the canonical reading, pairing, condensation, opcodes 0x200 to 0x20E,
and the condenser's completion. -/

namespace Sys2Proof.Machine

/-- An atom, or a pair of R339: weight and FP32 pattern. -/
structure Atom where
  w : Nat
  x : Lane
  deriving DecidableEq, Repr

/-- The layout of R333. -/
def atomOf (w : Word) : Atom := { w := fld w 63 32, x := BitVec.ofNat 32 (fld w 31 0) }
def Atom.word (a : Atom) : Word := BitVec.ofNat 64 (a.w % 2 ^ 32 * 2 ^ 32 + a.x.toNat)

/-- Element l of d register n, as it is held. -/
def Herd.delem (h : Herd) (n l : Nat) : List Atom := (List.range 8).map (fun i => atomOf (h.datom n l i))

/-- The NaN pattern of every element (R335). -/
def nan32 : Lane := 0x7FC00000#32

/-- Whether a pattern is a NaN. -/
def isNan32 (x : Lane) : Bool := 0x7F800000 < x.toNat % 2 ^ 31

/-- A value with its NaN made canonical. -/
def canonNan (x : Lane) : Lane := if isNan32 x then nan32 else x

/-- Rank in atom order (R335): ascending by value, −0 before +0, every NaN last. -/
def atomRank (x : Lane) : Nat :=
  if isNan32 x then 2 ^ 33
  else if x.getLsbD 31 then 2 ^ 31 - 1 - x.toNat % 2 ^ 31
  else 2 ^ 31 + x.toNat

/-- Sorted in atom order; equals keep their order. -/
def atomSort (l : List Atom) : List Atom := sortBy (fun a => atomRank a.x) l

/-- R337, last line: atoms of weight 0 that repeat the last value. -/
def padAtoms (l : List Atom) : List Atom :=
  l ++ List.replicate (8 - l.length) { w := 0, x := (l.getLastD { w := 0, x := 0 }).x }

/-- R337. -/
def apportion (l : List Atom) (t : Nat) : List Atom :=
  let q : List Nat := l.map (fun a => a.w * 2 ^ 24 / t)
  let r : List Nat := l.map (fun a => a.w * 2 ^ 24 % t)
  let e := 2 ^ 24 - q.sum
  let before (k : Nat) : Nat :=
    ((List.range l.length).filter (fun j => decide (r.getD k 0 < r.getD j 0) || (decide (r.getD j 0 = r.getD k 0) && decide (j < k)))).length
  padAtoms ((l.mapIdx (fun k a => { a with w := q.getD k 0 + if before k < e then 1 else 0 })).filter (fun a => decide (a.w ≠ 0)))

/-- The NaN element of R336. -/
def nanElem : List Atom := padAtoms [{ w := 2 ^ 24, x := nan32 }]

/-- R336: the canonical reading. -/
def canonical (e : List Atom) : List Atom :=
  let t := (e.map (fun a => a.w)).sum
  if t = 0 then nanElem
  else apportion (atomSort ((e.filter (fun a => decide (a.w ≠ 0))).map (fun a => { a with x := canonNan a.x }))) t

/-- The atoms of non-zero weight. -/
def liveAtoms (e : List Atom) : List Atom := e.filter (fun a => decide (a.w ≠ 0))

/-- R341: rounded to nearest even into FP32, every NaN canonical. -/
def toF32 (v : Val) : Lane := BitVec.ofNat 32 (encodeArith v 3 .rn false)

/-- The exact value of an FP32 pattern. -/
def f32 (x : Lane) : Val := decodeVal x.toNat 3

/-- An operation on two values of distributions. -/
abbrev DOp := Lane → Lane → Lane

/-- R341. -/
def dopAdd : DOp := fun x y => toF32 (vadd .rn (f32 x) (f32 y))
def dopSub : DOp := fun x y => toF32 (vadd .rn (f32 x) (vneg (f32 y)))
def dopMul : DOp := fun x y => toF32 (vmul (f32 x) (f32 y))
def dopMin : DOp := fun x y => if isNan32 x || isNan32 y then nan32 else BitVec.ofNat 32 (minPat 3 x.toNat y.toNat)
def dopMax : DOp := fun x y => if isNan32 x || isNan32 y then nan32 else BitVec.ofNat 32 (maxPat 3 x.toNat y.toNat)

/-- R339: the pairs of an independent pairing, by ascending index. -/
def pairInd (op : DOp) (a b : List Atom) : List Atom :=
  (liveAtoms a).flatMap (fun p => (liveAtoms b).map (fun q => { w := p.w * q.w, x := op p.x q.x }))

/-- Cumulative weights. -/
def cumul : Nat → List Atom → List Nat
  | _, [] => []
  | t, a :: r => (t + a.w) :: cumul (t + a.w) r

/-- The atom whose cumulative weight is the first to reach c. -/
def atomAt (l : List Atom) (c : Nat) : Atom :=
  l.getD ((cumul 0 l).findIdx (fun t => decide (c ≤ t))) (l.getLastD { w := 0, x := 0 })

/-- The pieces between breakpoints (R340). -/
def comPieces (op : DOp) (a b : List Atom) : Nat → List Nat → List Atom
  | _, [] => []
  | prev, c :: cs => { w := (c - prev) * 2 ^ 24, x := op (atomAt a c).x (atomAt b c).x } :: comPieces op a b c cs

/-- R340: the pairs of a comonotone pairing, by ascending index. -/
def pairCom (op : DOp) (a b : List Atom) : List Atom :=
  let a := liveAtoms a
  let b := liveAtoms b
  comPieces op a b 0 (sortBy id (cumul 0 a ++ cumul 0 b)).eraseDups

/-- A weight as a value. -/
def wval (n : Nat) : Val := .num false n 0 false

/-- R342: the cost of merging two neighbours. -/
def mergeCost (p q : Atom) : Val :=
  let d := fl64 (vadd .rn (f32 q.x) (vneg (f32 p.x)))
  fl64 (vdiv (fl64 (vmul (fl64 (wval (p.w * q.w))) (fl64 (vmul d d)))) (fl64 (wval (p.w + q.w))))

/-- R342: the value of two merged neighbours. -/
def mergeVal (p q : Atom) : Lane :=
  toF32 (fl64 (vdiv
    (fl64 (vadd .rn (fl64 (vmul (wval p.w) (f32 p.x))) (fl64 (vmul (wval q.w) (f32 q.x)))))
    (fl64 (wval (p.w + q.w)))))

/-- Whether a cost is below another; a NaN is above every other. -/
def costLt (x y : Val) : Bool := if x.isNan then false else if y.isNan then true else vcmp x y = .lt

/-- The costs of a list's neighbours. -/
def costs : List Atom → List Val
  | p :: q :: r => mergeCost p q :: costs (q :: r)
  | _ => []

/-- The position of the smallest cost, the lowest among equals; `k` is the best so far and `i` the next position. -/
def minPos (best : Val) (k i : Nat) : List Val → Nat
  | [] => k
  | c :: cs => if costLt c best then minPos c i (i + 1) cs else minPos best k (i + 1) cs

/-- Merges neighbours k and k + 1. -/
def mergeAt : List Atom → Nat → List Atom
  | p :: q :: r, 0 => { w := p.w + q.w, x := mergeVal p q } :: r
  | p :: r, k + 1 => p :: mergeAt r k
  | l, _ => l

/-- R342 step 3, with fuel for one merge each. The list stays in atom order: a NaN that a merge of −∞ and +∞ makes goes behind every
number (assumption 26). -/
def mergeDown : Nat → List Atom → List Atom
  | 0, l => l
  | n + 1, l =>
    if l.length ≤ 8 then l
    else match costs l with
      | [] => l
      | c :: cs => mergeDown n (atomSort (mergeAt l (minPos c 0 1 cs)))

/-- R342. -/
def condense (p : List Atom) : List Atom :=
  let l := (atomSort p).filter (fun a => decide (a.w ≠ 0))
  apportion (mergeDown l.length l) (2 ^ 48)

/-- A probability in units of 2^-24, rounded by a mode to a whole number; none outside [0, 1] and for a NaN (R347, R352). -/
def probUnits (rm : RMode) (p : Val) : Option Nat :=
  match p with
  | .num neg m e st =>
    if (neg && decide (m ≠ 0)) || decide (vcmp p (wval 1) = Ordering.gt) then none
    else some (roundUnits rm false m (e + 24) st 0)
  | _ => none

/-- R347: the mixture with probability p. -/
def mixElem (a b : List Atom) (p : Val) : List Atom :=
  match probUnits .rn p with
  | none => nanElem
  | some pm =>
    condense (a.map (fun t => { t with w := t.w * pm }) ++ b.map (fun t => { t with w := t.w * (2 ^ 24 - pm) }))

/-- R348: a function of the values of the canonical reading. -/
def mapElem (g : Lane → Lane) (e : List Atom) : List Atom :=
  padAtoms (atomSort ((liveAtoms e).map (fun a => { a with x := canonNan (g a.x) })))

/-- 2^-24 × w × x, exact. -/
def massTimes (w : Nat) (x : Val) : Val := vmul (.num false w (-24) false) x

/-- R351: the mean. -/
def meanOf (e : List Atom) : Val :=
  (liveAtoms e).foldl (fun mu a => fl64 (vadd .rn mu (massTimes a.w (f32 a.x)))) (wval 0)

/-- A power by repeated rounded products: q × t, n times. -/
def mulTimes (t : Val) : Nat → Val → Val
  | 0, q => q
  | n + 1, q => mulTimes t n (fl64 (vmul q t))

/-- R351: the moment that FN selects. -/
def momentOf (fn : Nat) (e : List Atom) : Val :=
  let mu := meanOf e
  if fn = 0 then mu
  else (liveAtoms e).foldl (fun c a =>
    let t := fl64 (vadd .rn (f32 a.x) (vneg mu))
    fl64 (vadd .rn c (fl64 (massTimes a.w (mulTimes t fn t))))) (wval 0)

/-- R352: the quantile. -/
def quantile (e : List Atom) (p : Val) : Lane :=
  match probUnits .ru p with
  | none => nan32
  | some c => (atomAt (liveAtoms e) c).x

/-- R352: the cumulative weight. -/
def cumAt (e : List Atom) (x : Val) : Lane :=
  if x.isNan then nan32
  else toF32 (.num false
    (((liveAtoms e).filter (fun a => !isNan32 a.x && decide (vcmp (f32 a.x) x ≠ .gt))).map (fun a => a.w)).sum (-24) false)

/-- The scoreboard's wait for a d register that the condenser is still to write (R353). -/
def condBusy (s : State) (c : Ctx) (ns : List Nat) : Bool := s.conds.any (fun o => decide (o.key = c.key) && ns.contains o.d)

/-- R354: the lowest active lane that reads an element with an uncorrectable error. -/
def distErr (c : Ctx) (reads : List Nat) : Option Nat :=
  c.act.find? (fun l => reads.any (fun n => c.h.derr.contains (64 * n + l)))

/-- What every distribution instruction does first: it waits for its d registers, and traps on an error (R353, R354). -/
def distRes (reads writes : List Nat) (eff : Ctx → State → Res) (c : Ctx) (s : State) : Res :=
  if condBusy s c (reads ++ writes) then .stall
  else match distErr c reads with
    | some l => .trap (trapAt 2 10 l 0) []
    | none => eff c s

/-- The key of atom i of lane l of d register n. -/
def dkey (n l i : Nat) : Nat := 8 * (64 * n + l) + i

/-- Whole elements written at once, and the tag (R334). -/
def elemActs (c : Ctx) (d : Nat) (tag : BitVec 16) (g : Nat → List Atom) : List Act :=
  herdActs c.key (c.act.map (fun l => HAct.d (dkey d l 0) ((g l).map Atom.word)) ++ [.dtag d tag])

/-- An operation given to the condenser: its queue holds 4, and one more is in the section (R353). -/
def condRes (d : Nat) (tag : Ctx → BitVec 16) (g : Ctx → Nat → List Atom) (c : Ctx) (s : State) : Res :=
  if 5 ≤ (s.conds.filter (fun o => decide (o.core = c.core ∧ o.slice = c.h.slice))).length then .stall
  else .done (.conds (s.conds ++ [{ core := c.core, slice := c.h.slice, key := c.key, d := d
                                    lanes := c.act.map (fun l => (l, (g c l).map Atom.word)) }])
    :: herdActs c.key [.dtag d (tag c)])

/-- R338, R346: a binary operation. -/
def distBin (h : Header) (x : F3) (op : DOp) (s : State) : Host.Outcome State Fault Refusal :=
  let (d, a, b) := (x.d.toNat, x.a.toNat, x.b.toNat)
  issue h (legal false [.d d, .d a, .d b, .rsv x.mb.toNat, .cause 7 (2 < x.fn.toNat)])
    (distRes [a, b] [d] (condRes d (fun c => c.h.dmask a ||| c.h.dmask b) (fun c l =>
      let ea := canonical (c.h.delem a l)
      let eb := canonical (c.h.delem b l)
      if x.fn = 2#8 || (x.fn = 0#8 && (a = b || c.h.dmask a &&& c.h.dmask b ≠ 0#16)) then condense (pairCom op ea eb)
      else condense (pairInd op ea eb)))) s

/-- DADD (R341, R346). -/
def execDadd (h : Header) (x : F3) (s : State) : Host.Outcome State Fault Refusal := distBin h x dopAdd s

/-- DSUB (R341, R346). -/
def execDsub (h : Header) (x : F3) (s : State) : Host.Outcome State Fault Refusal := distBin h x dopSub s

/-- DMUL (R341, R346). -/
def execDmul (h : Header) (x : F3) (s : State) : Host.Outcome State Fault Refusal := distBin h x dopMul s

/-- DMIN (R341, R346). -/
def execDmin (h : Header) (x : F3) (s : State) : Host.Outcome State Fault Refusal := distBin h x dopMin s

/-- DMAX (R341, R346). -/
def execDmax (h : Header) (x : F3) (s : State) : Host.Outcome State Fault Refusal := distBin h x dopMax s

/-- DNEG (R348). -/
def execDneg (h : Header) (x : F3) (s : State) : Host.Outcome State Fault Refusal :=
  let (d, a) := (x.d.toNat, x.a.toNat)
  issue h (legal false [.d d, .d a, .rsv x.b.toNat, .rsv x.fn.toNat, .rsv x.mb.toNat])
    (distRes [a] [d] (fun c _ => .done (elemActs c d (c.h.dmask a) (fun l =>
      mapElem (fun v => v ^^^ 0x80000000#32) (canonical (c.h.delem a l)))))) s

/-- DSCL (R348). -/
def execDscl (h : Header) (x : F3) (s : State) : Host.Outcome State Fault Refusal :=
  let (d, a, b) := (x.d.toNat, x.a.toNat, x.b.toNat)
  issue h (legal false [.d d, .d a, .v b 1, .rsv x.mb.toNat, .cause 7 (1 < x.fn.toNat)])
    (distRes [a] [d] (fun c _ => .done (elemActs c d (c.h.dmask a) (fun l =>
      mapElem (fun v => (if x.fn = 0#8 then dopMul else dopAdd) v (c.h.vreg b l)) (canonical (c.h.delem a l)))))) s

/-- DMIX (R347). -/
def execDmix (h : Header) (x : F3) (s : State) : Host.Outcome State Fault Refusal :=
  let (d, a, b) := (x.d.toNat, x.a.toNat, x.b.toNat)
  issue h (legal false [.d d, .d a, .d b, .v x.fn.toNat 1, .rsv x.mb.toNat])
    (distRes [a, b] [d] (condRes d (fun c => c.h.dmask a ||| c.h.dmask b) (fun c l =>
      mixElem (canonical (c.h.delem a l)) (canonical (c.h.delem b l)) (f32 (c.h.vreg x.fn.toNat l))))) s

/-- DPT (R349). -/
def execDpt (h : Header) (x : F3) (s : State) : Host.Outcome State Fault Refusal :=
  let (d, a) := (x.d.toNat, x.a.toNat)
  issue h (legal false [.d d, .v a 1, .rsv x.b.toNat, .rsv x.fn.toNat, .rsv x.mb.toNat])
    (distRes [] [d] (fun c _ => .done (elemActs c d 0#16 (fun l =>
      padAtoms [{ w := 2 ^ 24, x := canonNan (c.h.vreg a l) }])))) s

/-- DATM (R349). -/
def execDatm (h : Header) (x : F3) (s : State) : Host.Outcome State Fault Refusal :=
  let (d, a, b) := (x.d.toNat, x.a.toNat, x.b.toNat)
  issue h (legal false [.d d, .v a 1, .v b 1, .rsv x.mb.toNat, .cause 7 (7 < x.fn.toNat)])
    (distRes [] [d] (fun c _ => .done (herdActs c.key (c.act.map (fun l =>
      HAct.d (dkey d l x.fn.toNat) [Atom.word { w := (c.h.vreg b l).toNat, x := c.h.vreg a l }]))))) s

/-- Vector results of a distribution instruction (R158). -/
def extractRes (d tag : Nat) (g : Ctx → Nat → Lane) (c : Ctx) (_ : State) : Res := .done (vecActs c false d tag (g c))

/-- DGET (R350). -/
def execDget (h : Header) (x : F3) (s : State) : Host.Outcome State Fault Refusal :=
  let (d, a) := (x.d.toNat, x.a.toNat)
  issue h (legal false ([.v d 1, .d a, .rsv x.b.toNat, .cause 7 (7 < x.fn.toNat)]
      ++ mbUses { fmts := [2, 3], rm := .no, sat := [] } x.mb))
    (distRes [a] [] (extractRes d (mbFmt x.mb) (fun c l =>
      let t := atomOf (c.h.datom a l x.fn.toNat)
      if mbFmt x.mb = 3 then t.x else BitVec.ofNat 32 t.w))) s

/-- DTAG (R350). -/
def execDtag (h : Header) (x : FI) (s : State) : Host.Outcome State Fault Refusal :=
  let (d, a) := (x.d.toNat, x.a.toNat)
  issue h (legal false [.d d, .d a, .rsv x.mb.toNat])
    (distRes [a] [d] (fun c _ => .done (elemActs c d x.imm (fun l => c.h.delem a l)))) s

/-- DMOM (R351). -/
def execDmom (h : Header) (x : F3) (s : State) : Host.Outcome State Fault Refusal :=
  let (d, a) := (x.d.toNat, x.a.toNat)
  issue h (legal false ([.v d 1, .d a, .rsv x.b.toNat, .cause 7 (3 < x.fn.toNat)]
      ++ mbUses { fmts := [3], rm := .any, sat := [3] } x.mb))
    (distRes [a] [] (extractRes d 3 (fun c l => BitVec.ofNat 32
      (encodeArith (momentOf x.fn.toNat (canonical (c.h.delem a l))) 3 (mbRm x.mb) (mbSat x.mb))))) s

/-- DQNT (R352). -/
def execDqnt (h : Header) (x : F3) (s : State) : Host.Outcome State Fault Refusal :=
  let (d, a, b) := (x.d.toNat, x.a.toNat, x.b.toNat)
  issue h (legal false ([.v d 1, .d a, .v b 1, .rsv x.fn.toNat] ++ mbUses { fmts := [3], rm := .no, sat := [] } x.mb))
    (distRes [a] [] (extractRes d 3 (fun c l => quantile (canonical (c.h.delem a l)) (f32 (c.h.vreg b l))))) s

/-- DCDF (R352). -/
def execDcdf (h : Header) (x : F3) (s : State) : Host.Outcome State Fault Refusal :=
  let (d, a, b) := (x.d.toNat, x.a.toNat, x.b.toNat)
  issue h (legal false ([.v d 1, .d a, .v b 1, .rsv x.fn.toNat] ++ mbUses { fmts := [3], rm := .no, sat := [] } x.mb))
    (distRes [a] [] (extractRes d 3 (fun c l => cumAt (canonical (c.h.delem a l)) (f32 (c.h.vreg b l))))) s

/-- The acts of a condenser's completion: the oldest operation of the slice writes its lanes (R353). -/
def condActs (core slice : Nat) (s : State) : List Act :=
  match s.conds.find? (fun o => decide (o.core = core ∧ o.slice = slice)) with
  | none => []
  | some o =>
    .conds (s.conds.eraseP (fun q => decide (q.core = core ∧ q.slice = slice)))
      :: herdActs o.key (o.lanes.map (fun p => HAct.d (dkey o.d p.1 0) p.2))

/-- CONDENSER_COMPLETE (R353). -/
def execCondenserComplete (core slice : Nat) (s : State) : Host.Outcome State Fault Refusal :=
  event (condActs core slice) s

end Sys2Proof.Machine
end

