-- ==== Sys2Proof/Machine/Tape.lean ====
section
/-! DEFINITION. Meanings of the tape instructions, opcodes 0x240 to 0x248, and the tape engine's block write (R376 to R392). -/

namespace Sys2Proof.Machine

/-- R377: the active lanes m(f) of furrow f, by their place in the furrow. -/
def tapeMask (c : Ctx) (f : Nat) : BitVec 8 := laneMask (furLanes f c.act)

/-- Before a block is read back, the closed blocks not yet written are written (R382, R388). -/
def settleClosed (c : Ctx) (s : State) (reads : Bool) : List Act := if reads then writeBlocks s c.core c.h.tape c.h.tape.closed else []

/-- A context whose closed blocks are written when a block is read back. -/
def TapeCtx.settled (t : TapeCtx) (reads : Bool) : TapeCtx := if reads then { t with closed := [] } else t

/-- The trap of a furrow: LANE is 8f (R381). -/
def tapeTrap (f : Nat) (e : TapeTrap) : TrapReq := trapAt e.1 e.2.1 (8 * f) e.2.2

/-- The first failing furrow, or what every furrow gives (R381). -/
def allFurs {α : Type} (g : Nat → Except TapeTrap α) : List Nat → Except (Nat × TapeTrap) (List (Nat × α))
  | [] => .ok []
  | f :: fs =>
    match g f with
    | .error e => .error (f, e)
    | .ok a =>
      match allFurs g fs with
      | .error e => .error e
      | .ok r => .ok ((f, a) :: r)

/-- R378: appends one sub-record to each furrow, ascending. -/
def recordAll (rec : Nat → Stream → List Byte × Stream) : TapeCtx → List (Nat × Stream) → TapeCtx
  | t, [] => t
  | t, (f, x) :: r =>
    let q := rec f x
    let u := appendRec t f q.2 q.1
    recordAll rec (u.1.put f { u.2 with depth := u.2.depth + 1 }) r

/-- Blocks left in the segment (R378). -/
def TapeCtx.room (t : TapeCtx) : Nat := (t.slim.toNat - t.next.toNat) / 256

/-- R378: a recording instruction; `rec` gives a furrow's sub-record and the stream with its reference after it. -/
def recordRes (rec : Ctx → Nat → Stream → List Byte × Stream) (c : Ctx) (s : State) : Res :=
  let t := c.h.tape
  if !t.active then .trap (trapOf 7 1) []
  else
    let reads := c.furs.any (fun f => (t.stream f).unread)
    if c.furs.any (fun f => (t.stream f).unread && readWaits s t (t.stream f).cur) then .stall
    else match allFurs (fun f => readBack s t f (t.stream f)) c.furs with
      | .error e => .trap (tapeTrap e.1 e.2) []
      | .ok xs =>
        if t.room < (xs.map (fun p => needBlocks p.2 (rec c p.1 p.2).1.length)).sum then .trap (trapOf 7 0) []
        else .done (settleClosed c s reads
          ++ [.herd c.key (.tape (recordAll (rec c) (t.settled reads) xs)), .bump (4096 * c.core + 0x0C5) c.furs.length])

/-- TREC (R378). -/
def execTrec (h : Header) (x : F3) (s : State) : Host.Outcome State Fault Refusal :=
  let a := x.a.toNat
  issue h (legal false [.v a 1, .rsv x.d.toNat, .rsv x.b.toNat, .rsv x.fn.toNat, .rsv x.mb.toNat])
    (recordRes (fun c f t => valueRec t (tapeMask c f) (fun j => c.h.vreg a (8 * f + j)))) s

/-- TRBR (R378). -/
def execTrbr (h : Header) (x : F3) (s : State) : Host.Outcome State Fault Refusal :=
  let a := x.a.toNat
  issue h (legal false [.v a 1, .rsv x.d.toNat, .rsv x.b.toNat, .rsv x.fn.toNat, .rsv x.mb.toNat])
    (recordRes (fun c f t => maskRec t (tapeMask c f)
      (laneMask ((furLanes f c.act).filter (fun l => (c.h.vreg a l).getLsbD 0))))) s

/-- TMARK (R378). -/
def execTmark (h : Header) (x : FI) (s : State) : Host.Outcome State Fault Refusal :=
  issue h (legal false [.rsv x.d.toNat, .rsv x.a.toNat, .rsv x.mb.toNat])
    (recordRes (fun _ _ t => markRec t x.imm)) s

/-- R380: the word that a pop of a kind writes to lane j, from the reference before the record is undone. -/
def popWord (kind : Nat) (x : Stream) (r : TRec) (j : Nat) : Lane :=
  let body := if r.mx then r.body.drop 1 else r.body
  if kind = 0 then x.ref.getD j 0#32
  else if kind = 1 then (if (body.getD 0 0#8).getLsbD j then 1#32 else 0#32)
  else BitVec.ofNat 32 (leNat (body.take 2))

/-- Whether a pop read furrow f's stream back on the way from `x` to `y`. -/
def popReads (x y : Stream) : Bool := x.unread || decide (y.cur ≠ x.cur)

/-- R380, R381: a pop. -/
def popRes (kind d : Nat) (c : Ctx) (s : State) : Res :=
  let t := c.h.tape
  if !t.active then .trap (trapAt 9 1 (8 * c.furs.headD 0) 0) []
  else if c.furs.any (fun f => (t.stream f).unread && readWaits s t (t.stream f).cur) then .stall
  else match allFurs (fun f => popCheck s t f kind) c.furs with
    | .error e => .trap (tapeTrap e.1 e.2) []
    | .ok xs =>
      let reads := xs.any (fun p => popReads (t.stream p.1) p.2.1)
      if xs.any (fun p => popReads (t.stream p.1) p.2.1 && readWaits s t p.2.1.cur) then .stall
      else .done (settleClosed c s reads
        ++ herdActs c.key
          (xs.flatMap (fun p => (furLanes p.1 c.act).map (fun l => HAct.v (vkey d l) [popWord kind p.2.1 p.2.2 (l % 8)]))
            ++ [.vtag d (if kind = 0 then 0#4 else 2#4),
                .tape (xs.foldl (fun u p => u.put p.1 (undo p.2.1 p.2.2)) (t.settled reads))])
        ++ [.bump (4096 * c.core + 0x0C6) c.furs.length])

/-- The fields of a pop (R376). -/
def popUses (x : F3) : List Use := [.v x.d.toNat 1, .rsv x.a.toNat, .rsv x.b.toNat, .rsv x.fn.toNat, .rsv x.mb.toNat]

/-- TPLY (R380). -/
def execTply (h : Header) (x : F3) (s : State) : Host.Outcome State Fault Refusal :=
  issue h (legal false (popUses x)) (popRes 0 x.d.toNat) s

/-- TPLB (R380). -/
def execTplb (h : Header) (x : F3) (s : State) : Host.Outcome State Fault Refusal :=
  issue h (legal false (popUses x)) (popRes 1 x.d.toNat) s

/-- TPMK (R380). -/
def execTpmk (h : Header) (x : F3) (s : State) : Host.Outcome State Fault Refusal :=
  issue h (legal false (popUses x)) (popRes 2 x.d.toNat) s

/-- R372: whether [a, b) is a segment. -/
def segOk (a b : Word) : Bool :=
  fld a 63 60 = 3 && fld b 63 60 = 3 && fld a 59 48 = 0 && fld b 59 48 = 0 && a.toNat % 256 = 0 && b.toNat % 256 = 0
    && decide (a.toNat < b.toNat) && decide (b.toNat - a.toNat ≤ 2 ^ 30)

/-- The translation of a segment, and then `ok` with the physical pages kept (R383). -/
def segRes (c : Ctx) (s : State) (d : Nat) (a b : Word) (ok : List (Nat × Nat) → TapeCtx) : Res :=
  let as := pageAccs s c.h .seg a (b.toNat - a.toNat)
  match pageFault as with
  | some p =>
    (match p.flt with
     | some (4, cause) => .park cause 255 p.addr (xlateActs as)
     | some (cls, cause) => .trap (trapAt cls cause 255 p.addr) (xlateActs as)
     | none => .stall)
  | none =>
    .done (xlateActs as ++ [.herd c.key (.tape (ok (as.map (fun p => (fld p.addr 47 0 / 65536, pageBase p)))))]
      ++ uniActs c d 0#64)

/-- TBGN (R383). -/
def execTbgn (h : Header) (x : FE) (s : State) : Host.Outcome State Fault Refusal :=
  let (d, sa, sb) := (x.d.toNat, x.sa.toNat, x.sb.toNat)
  issue h (legal false [.s d 1, .rsv x.sf.toNat, .rsv x.x.toNat])
    (fun c s =>
      let (a, b) := (c.h.sreg sa, c.h.sreg sb)
      if c.h.tape.active then .done (uniActs c d 1#64)
      else if !segOk a b then .done (uniActs c d 2#64)
      else segRes c s d a b (fun pages => { TapeCtx.none with
        active := true, sbase := a, slim := b, next := a, pages := pages
        streams := List.replicate c.h.furrows.length Stream.fresh })) s

/-- The uniform register that `tend` writes, once every dirty block is written (R385). -/
def execTend (h : Header) (x : FS) (s : State) : Host.Outcome State Fault Refusal :=
  let d := x.d.toNat
  issue h (legal false [.s d 1, .rsv x.a.toNat, .rsv x.sel.toNat, .rsv x.x.toNat])
    (fun c s =>
      if !c.h.tape.active then .done (uniActs c d 1#64)
      else if flushOwned s c.h.tape then .stall
      else .done (flushTape s c.core c.h.tape ++ [.herd c.key (.tape TapeCtx.none)] ++ uniActs c d 0#64)) s

/-- TSEG (R384): pages of the old segment stay known, because pops read its blocks. -/
def execTseg (h : Header) (x : FE) (s : State) : Host.Outcome State Fault Refusal :=
  let (d, sa, sb) := (x.d.toNat, x.sa.toNat, x.sb.toNat)
  issue h (fun c => legal false [.s d 1, .rsv x.sf.toNat, .rsv x.x.toNat, .cause 8 (!c.h.sup)] c)
    (fun c s =>
      let (a, b) := (c.h.sreg sa, c.h.sreg sb)
      let t := c.h.tape
      if !t.active then .done (uniActs c d 1#64)
      else if !segOk a b then .done (uniActs c d 2#64)
      else segRes c s d a b (fun pages => { t with
        sbase := a, slim := b, next := a, obase := t.sbase, olim := t.slim, pages := pages ++ t.pages
        streams := t.streams.mapIdx (fun f x => if c.h.live f then { x with cutp := true } else x) })) s

/-- The engine writes the oldest closed block of a herd, unless a copy owns a line of it (R116, R388). -/
def tapeWriteActs (k : HerdKey) (s : State) : List Act :=
  match s.herd? k with
  | none => []
  | some h =>
    match h.tape.closed with
    | [] => []
    | b :: r =>
      if blockOwned s h.tape b.1 then []
      else writeBlocks s h.core h.tape [b] ++ [.herd k (.tape { h.tape with closed := r })]

/-- TAPE_BLOCK_WRITE (R388). -/
def execTapeBlockWrite (k : HerdKey) (s : State) : Host.Outcome State Fault Refusal := event (tapeWriteActs k) s

end Sys2Proof.Machine
end

