-- ==== Sys2Proof/Machine/Save.lean ====
section
/-! DEFINITION. A herd's context in its save area: writing it and reading it back (R27, R57, R58, R362, R363, R389, R390,
R427), and the room that a slice has for a herd (R25 to R27, R32). -/

namespace Sys2Proof.Machine

/-- Bytes of a save area (R362). -/
def saveBytes : Nat := 0x44000

/-- Zero bytes. -/
def zeroBytes (n : Nat) : List Byte := List.replicate n 0#8

/-- Bytes 0x0080 to 0x03FF of a save area (R362). -/
def saveHead (h : Herd) : List Byte :=
  leBytes 8 h.cvsat.toNat ++ leBytes 8 h.cvflush.toNat ++ leBytes 8 h.cvnan.toNat ++ leBytes 8 h.cvlim.toNat
    ++ latchBytes h ++ leBytes 8 h.accPoison.toNat ++ zeroBytes 0x38
    ++ (List.range 64).flatMap (fun i => leBytes 8 (h.sreg i).toNat)
    ++ (List.range 128).map (fun k => BitVec.ofNat 8 (h.tagOf (2 * k) + 16 * h.tagOf (2 * k + 1)))
    ++ (List.range 16).flatMap (fun n => leBytes 2 (h.dmask n).toNat) ++ zeroBytes 0x60

/-- USED and COUNT of a stream's current block as its record gives them; 0xFF for a block not yet read (R389, R390). -/
def streamMarks (x : Stream) : Nat × Nat :=
  if x.unread then (match x.keep with | some k => (k.2, k.1) | none => (0xFF, 0xFF)) else (x.used, x.count)

/-- The tape context record of furrow f: 256 bytes (R390). -/
def tapeRec (t : TapeCtx) (f : Nat) : List Byte :=
  let x := t.stream f
  let m := streamMarks x
  leBytes 8 x.cur.toNat
    ++ leBytes 8 (m.1 + 2 ^ 8 * m.2 + 2 ^ 16 * x.seq.toNat + 2 ^ 32 * x.mref.toNat + (if x.cutp then 2 ^ 40 else 0))
    ++ leBytes 8 x.depth ++ zeroBytes 8 ++ (List.range 8).flatMap (fun j => leBytes 4 (x.ref.getD j 0#32).toNat)
    ++ (if f = 0 then
          leBytes 8 t.sbase.toNat ++ leBytes 8 t.slim.toNat ++ leBytes 8 t.next.toNat ++ leBytes 8 (if t.active then 1 else 0)
            ++ leBytes 8 t.obase.toNat ++ leBytes 8 t.olim.toNat ++ zeroBytes 0x90
        else zeroBytes 0xC0)

/-- V[n][l] as a save writes it: a lane that has exited keeps no register state, so that its words are free values, numbered from `n0`
(R201, R362; DESIGN CHOICE, assumption 80). -/
def Herd.savedWord (h : Herd) (n0 n l : Nat) : Lane :=
  if h.exited l then BitVec.ofNat 32 (Config.freeNat (n0 + vkey n l)) else h.vreg n l

/-- Atom i of lane l of d register n as a save writes it (R201, R362; assumption 80). -/
def Herd.savedAtom (h : Herd) (n0 n l i : Nat) : Word :=
  if h.exited l then BitVec.ofNat 64 (Config.freeNat (n0 + 2 ^ 14 + 8 * vkey n l + i)) else h.datom n l i

/-- The free values that a save of a herd takes. -/
def savedDrawn (h : Herd) : List Act := if (List.range h.width).any h.exited then [.free (2 ^ 14 + 2 ^ 13)] else []

/-- Bytes 0x2400 on: tape, vector registers, distribution registers, accumulator tiles (R362). -/
def saveTail (h : Herd) (n0 : Nat) : List Byte :=
  (List.range 8).flatMap (tapeRec h.tape) ++ zeroBytes 0x400
    ++ (List.range h.nregs).flatMap (fun n => (List.range h.width).flatMap (fun l => leBytes 4 (h.savedWord n0 n l).toNat))
    ++ (List.range 16).flatMap (fun n => (List.range h.width).flatMap (fun l =>
        (List.range 8).flatMap (fun i => leBytes 8 (h.savedAtom n0 n l i).toNat)))
    ++ (List.range h.nacc).flatMap (fun t => (List.range 64).flatMap (fun i => (List.range 64).flatMap (fun j =>
        leBytes 4 (h.accEl t i j).toNat)))

/-- The trap record word that a save without a trap in progress leaves: PROG and the reserved bits are zero (R6, R362). -/
def savedTrapWord (w : Word) : Word := w &&& 0x00FFFFFF00FFFF4F#64

/-- Writes the whole context at `a`. Without a trap in progress the furrow records go to 0x0400, PROG reads 0 and reserved fields of the
trap record are zero; with one they go to 0x1400, and the trap record stays (R6, R362, R427). The writes are to device memory alone (R253;
assumption 97). -/
def saveContext (s : State) (h : Herd) (a : Nat) : List Act :=
  let tail := saveTail h s.freeCtr
  let used := 0x2400 + tail.length
  [Act.mem (a + 0x80) (saveHead h) none]
    ++ (if h.handler.isSome then [.mem (a + 0x1400) (furrowRecs h) none]
        else [.mem (a + 0x400) (furrowRecs h) none, .mem a (leBytes 8 (savedTrapWord (BitVec.ofNat 64 (s.hbm.num a 8))).toNat) none,
          .memZero (a + 0x28) 0x18])
    ++ [.mem (a + 0x2400) tail none] ++ (if used < saveBytes then [.memZero (a + used) (saveBytes - used)] else []) ++ savedDrawn h

/-- A save that takes the herd off its slice: its tape is written first, and the slice's operand cache is dropped (R57, R304,
R389). -/
def saveHerd (s : State) (k : HerdKey) : List Act :=
  match s.herd? k with
  | none => []
  | some h =>
    let h' := { h with tape := h.tape.cleaned }
    chain s [
      fun s => flushTape s h.core h.tape,
      fun _ => herdActs k [.tape h.tape.cleaned],
      fun s => saveContext s h' (saveArea s h),
      fun s => herdActs k [.holds [], .leave (saveArea s h)] ++ [dropSlice s h.core h.slice]]

/-- A furrow record of a save area as a restore reads it: at 0x1400 with a trap in progress, at 0x0400 without (R362, R427). -/
def restoreRec (m : Memory) (a : Nat) (prog : Bool) (f : Nat) : RecView := readRec m (a + (if prog then 0x1400 else 0x400) + 512 * f)

/-- The furrows of the handler group that a save area records: those that trap entry found Running or Standing (R357). -/
def savedHandler (m : Memory) (a : Nat) (h : Herd) : List Nat :=
  h.idxs.filter (fun f => let r := readRec m (a + 0x400 + 512 * f); r.st = 1 || r.st = 2)

/-- The handler group that a restore resumes: the herd's own, which an edit of its save area does not change (R361, R427), and for
a herd that had none, when such an edit has set PROG, what the area records. -/
def resumedHandler (m : Memory) (a : Nat) (h : Herd) : BitVec 8 := h.handler.getD (furMask (savedHandler m a h))

/-- A wait that ended with its instruction to be issued again. -/
def reissue : Resolution := { completed := false, wr := none, bad := none }

/-- The furrow that a restore gives (R58, R363, R369, R427): one whose wait has resolved while its herd was away resumes Running, whatever
STATE and WAIT its record says. Furrows whose records have one GRP form one group, which issues at the PC of
its lowest furrow, where an edit has left them different PCs or STATEs (DESIGN CHOICE, assumption 87). A record that an edit has given
STATE 3 for a furrow in no hardware wait makes it Running, and one at 0x1400 with STATE 4 for a furrow with no resolved wait holds it,
so that its word issues again at `rft` (DESIGN CHOICE, assumption 107). -/
def restoreFur (m : Memory) (a : Nat) (prog : Bool) (h : Herd) (f : Nat) : Furrow :=
  let x := h.fur f
  let r := restoreRec m a prog f
  let y : Furrow :=
    { x with pc := r.pc, path := r.path, stack := r.stack, grp := r.grp, hcnt := r.hcnt }
  match x.resolved with
  | some q =>
    if prog && !(resumedHandler m a h).getLsbD f then { y with st := .held }
    else { y with st := .running, resolved := none, pc := if q.completed then r.pc + 8#64 else r.pc }
  | none =>
    if r.st = 0 then { y with st := .notLive, path := 0, stack := [] }
    else if r.st = 2 then { y with st := .standing r.hid }
    else if r.st = 3 then (match x.st with | .waiting w => { y with st := .waiting w } | _ => { y with st := .running })
    else if r.st = 4 then { y with st := .held, resolved := some reissue }
    else { y with st := .running }

/-- The tape stream of furrow f that a record gives; its block is read back at the next record or pop (R389). A SEQ that an edit has put
there is the number of the blocks below (assumption 36). -/
def restoreStream (m : Memory) (a : Nat) (old : Stream) (f : Nat) : Stream :=
  let b := a + 0x2400 + 256 * f
  let w := BitVec.ofNat 64 (m.num (b + 8) 8)
  let cur := BitVec.ofNat 64 (m.num b 8)
  let used := fld w 7 0
  let count := fld w 15 8
  { cur := cur, used := if used = 0xFF then 0 else used, count := if count = 0xFF then 0 else count
    seq := BitVec.ofNat 16 (fld w 31 16), below := if old.below % 2 ^ 16 = fld w 31 16 then old.below else fld w 31 16, prev := old.prev, payload := [], unread := cur ≠ 0#64
    keep := if cur = 0#64 || (used = 0xFF && count = 0xFF) then none else some (count, used), img := used
    mref := BitVec.ofNat 8 (fld w 39 32), ref := (List.range 8).map (fun j => BitVec.ofNat 32 (m.num (b + 0x20 + 4 * j) 4))
    cutp := w.getLsbD 40, depth := m.num (b + 0x10) 8 }

/-- The tape context of a save area; the physical pages and the marks of blocks closed clean stay with the herd (R383,
R392). -/
def restoreTape (m : Memory) (a : Nat) (h : Herd) : TapeCtx :=
  let w (o : Nat) : Word := BitVec.ofNat 64 (m.num (a + 0x2400 + o) 8)
  if (w 0x58).getLsbD 0 then
    { h.tape with active := true, sbase := w 0x40, slim := w 0x48, next := w 0x50, obase := w 0x60, olim := w 0x68
                  streams := h.idxs.map (fun f => restoreStream m a (h.tape.stream f) f), closed := [] }
  else TapeCtx.none

/-- The latch of a save area; tickets start at 1 (R244, R362). -/
def restoreLatch (m : Memory) (a : Nat) : Option Latch :=
  let t := m.num (a + 0xA8) 8
  if t = 0 then none
  else some { ticket := t, cause := fld (BitVec.ofNat 64 (m.num (a + 0xB0) 8)) 15 8, addr := BitVec.ofNat 64 (m.num (a + 0xB8) 8) }

/-- The registers, tags, counters and tiles of a save area; the reserved bits of sys.cvlim stay zero (R85, R362). A tag nibble of 12 to 15
that an edit has put there is taken as it stands (R69; DESIGN CHOICE, assumption 98). -/
def restoreRegs (m : Memory) (a : Nat) (h : Herd) : List HAct :=
  let db := a + 0x3000 + 4 * h.nregs * h.width
  let ab := db + 1024 * h.width
  let tagByte (k : Nat) : Nat := m.num (a + 0x300 + k) 1
  (List.range 64).map (fun i => HAct.reload i (BitVec.ofNat 64 (m.num (a + 0x100 + 8 * i) 8)))
    ++ (List.range h.nregs).flatMap (fun n =>
        [HAct.v (vkey n 0) ((List.range h.width).map (fun l => BitVec.ofNat 32 (m.num (a + 0x3000 + 4 * (n * h.width + l)) 4))),
         .vtag n (BitVec.ofNat 4 (tagByte (n / 2) / (if n % 2 = 0 then 1 else 16) % 16))])
    ++ (List.range 16).flatMap (fun n =>
        [HAct.d (dkey n 0 0) ((List.range (8 * h.width)).map (fun i =>
          BitVec.ofNat 64 (m.num (db + 64 * n * h.width + 8 * i) 8))),
         .dtag n (BitVec.ofNat 16 (m.num (a + 0x380 + 2 * n) 2))])
    ++ (List.range h.nacc).map (fun t => HAct.acc t 0 ((List.range 4096).map (fun i => BitVec.ofNat 32 (m.num (ab + 16384 * t + 4 * i) 4))))
    ++ [.accPoison (BitVec.ofNat 8 (m.num (a + 0xC0) 1)),
        .conv (BitVec.ofNat 32 (m.num (a + 0x80) 4)) (BitVec.ofNat 32 (m.num (a + 0x88) 4)) (BitVec.ofNat 32 (m.num (a + 0x90) 4)),
        .cvlim (BitVec.ofNat 64 (m.num (a + 0x98) 8 % 2 ^ 35)), .copies (BitVec.ofNat 64 (m.num (a + 0xA0) 8)),
        .latch (restoreLatch m a), .more (BitVec.ofNat 16 (m.num (a + 0xB2) 2))]

/-- The d elements with an uncorrectable error that a restore leaves so: those whose bytes in the save area are still the ones that the
herd holds (R58, R354, R369). -/
def keptDerr (m : Memory) (a : Nat) (h : Herd) : List Nat :=
  h.derr.filter (fun k => (List.range 8).all (fun i =>
    m.num (a + 0x3000 + 4 * h.nregs * h.width + 64 * (k / 64 * h.width + k % 64) + 8 * i) 8 = (h.datom (k / 64) (k % 64) i).toNat))

/-- The accumulator elements with an uncorrectable error that a restore leaves so (R58, R297, R369). -/
def keptAccErr (m : Memory) (a : Nat) (h : Herd) : List Nat :=
  h.accErr.filter (fun k =>
    m.num (a + 0x3000 + 4 * h.nregs * h.width + 1024 * h.width + 4 * k) 4 = (h.accEl (k / 4096) (k / 64 % 64) (k % 64)).toNat)

/-- R363: whether a restore finds an inconsistent record. A furrow whose wait has resolved is live, whatever its record says (R58).
The records of furrow numbers that the herd does not have are not judged (DESIGN CHOICE, assumption 108). -/
def restoreBad (m : Memory) (a : Nat) (prog : Bool) (h : Herd) : Bool :=
  h.idxs.any (fun f => let r := restoreRec m a prog f; r.bad prog || ((h.fur f).resolved.isSome && r.path = 0#8))

/-- Whether the trap record of a save area says that a trap is in progress (R362). -/
def savedProg (m : Memory) (a : Nat) : Bool := (BitVec.ofNat 64 (m.num a 8)).getLsbD 7

/-- The acts of a restore from the save area at `a`, without the residency (R58, R363, R389, R427). -/
def restoreActs (m : Memory) (a : Nat) (h : Herd) : List HAct :=
  let prog := savedProg m a
  let fs := h.furrows.mapIdx (fun f _ => restoreFur m a prog h f)
  restoreRegs m a h ++ [.derr (keptDerr m a h), .accErr (keptAccErr m a h)]
    ++ h.idxs.flatMap (fun f => match (h.fur f).resolved with
        | some { completed := _, wr := some (n, x), bad := _ } => if (fs.getD f (h.fur f)).st = .held then [] else lateActs h [f] n x
        | _ => [])
    ++ setFurs (regroup fs)
    ++ [.tape (restoreTape m a h), .handler (if prog then some (resumedHandler m a h) else none)]

/-- R363, R369, R419: a herd whose save area has changed takes its trap record and furrow records along. -/
def moveRecord (s : State) (old new : Nat) : List Act :=
  if old = new then [] else [.mem new (s.hbm.bytes old 0x80) none, .mem (new + 0x400) (s.hbm.bytes (old + 0x400) 0x1000) none]

/-- The entries of column `col` that a herd at base b uses (R25, R26). -/
def colUse (h : Herd) (b col : Nat) : Nat :=
  ((h.idxs.filter (fun f => decide ((b + f) % 4 = col))).length) * h.nregs

/-- The resident herds of a slice. -/
def residents (s : State) (core slice : Nat) : List Herd :=
  s.herds.filter (fun h => h.resident && decide (h.core = core) && decide (h.slice = slice))

/-- The lowest base position at which a slice has room for a herd (R25 to R27, R32, R401). -/
def roomBase (s : State) (h : Herd) : Option Nat :=
  let rs := residents s h.core h.slice
  if 16 ≤ rs.length || 16 < (rs.map (fun x => x.nacc)).sum + h.nacc then none
  else
    let n := h.furrows.length
    (if 4 ≤ n then [0] else if n = 2 then [0, 2] else [0, 1, 2, 3]).find? (fun b =>
      (List.range 4).all (fun col => decide ((rs.map (fun x => colUse x x.base col)).sum + colUse h b col ≤ 2048)))

/-- R58, R367, R401: a herd that is not resident, and that no pre-emption has saved, is ready: it has never run, or each of its
waits has resolved. -/
def isReady (s : State) (h : Herd) : Bool :=
  !h.resident && !h.ended
    && (match s.crew? h.key.crew with | some c => c.saved.isNone && !c.savedHerds.contains h.key.herd | none => false)
    && (!h.stored || h.idxs.all (fun f => match (h.fur f).st with
        | .waiting _ => (h.fur f).resolved.isSome
        | _ => true))

/-- The ready herds of a slice that are not resident. -/
def readyHerds (s : State) (core slice : Nat) : List Herd :=
  s.herds.filter (fun h => decide (h.core = core) && decide (h.slice = slice) && isReady s h)

/-- R302, R354: matrix commands, condenser operations or posted accesses of a herd that a save waits for (assumption 71). -/
def savePending (s : State) (k : HerdKey) : Bool :=
  s.cmds.any (fun m => decide (m.key = k)) || s.conds.any (fun o => decide (o.key = k)) || s.posted.any (fun p => decide (p.key = k))

end Sys2Proof.Machine
end

