-- ==== Sys2Proof/Machine/Sched.lean ====
section
/-! DEFINITION. Events that end a group's wait, and the scheduler's: patience, yields, stalled posts, site rewrites, remote
answers, crew release, penning, residency and admission (R46, R54 to R58, R202, R203, R212, R231, R274, R396 to R402). -/

namespace Sys2Proof.Machine

/-- PATIENCE_EXPIRY: a group that has stood for the patience passes its headland (R46). -/
def patienceActs (k : HerdKey) (f : Nat) (s : State) : List Act :=
  match s.herd? k with
  | none => []
  | some h =>
    let g := h.group f
    if h.resident && !g.isEmpty && (h.heldBy g).isNone
      && g.all (fun i => match (h.fur i).st with | .standing _ => true | _ => false) then herdActs k (passHead s h g)
    else []

/-- PATIENCE_EXPIRY (R46). -/
def execPatienceExpiry (k : HerdKey) (f : Nat) (s : State) : Host.Outcome State Fault Refusal :=
  event (patienceActs k f) s

/-- The hold of furrow f that a predicate picks. -/
def Herd.holdOf (h : Herd) (f : Nat) (p : HoldWhy → Bool) : Option Hold :=
  h.holds.find? (fun x => x.group.getLsbD f && p x.why)

/-- The holds without one. -/
def dropHold (h : Herd) (x : Hold) : HAct := .holds (h.holds.filter (fun y => decide (y ≠ x)))

/-- A held word completes: its hold goes and its group continues at PC + 8. -/
def finishHold (h : Herd) (x : Hold) : List HAct :=
  dropHold h x :: (bitsOf x.group 8).map (fun f => furAct h f (fun r => { r with pc := r.pc + 8#64 }))

/-- YIELD_EXPIRY: the group is ready again, and ranks as the youngest (R203, R403). -/
def yieldActs (k : HerdKey) (f : Nat) (s : State) : List Act :=
  match s.herd? k with
  | none => []
  | some h =>
    match h.holdOf f (fun w => match w with | .yield _ => true | _ => false) with
    | some x => herdActs k [dropHold h x] ++ youngest s h (bitsOf x.group 8)
    | none => []

/-- YIELD_EXPIRY (R203). -/
def execYieldExpiry (k : HerdKey) (f : Nat) (s : State) : Host.Outcome State Fault Refusal := event (yieldActs k f) s

/-- SOW_STALLED_POST: the queue has room again, and the stalled `sow` completes: the first of those that wait for it (R212 to
R214). -/
def sowPostActs (k : HerdKey) (f : Nat) (s : State) : List Act :=
  match s.herd? k with
  | none => []
  | some h =>
    match h.holdOf f (fun w => match w with | .sow _ _ _ => true | _ => false) with
    | some { group := g, why := .sow card core d } =>
      if queueFull s core card.prio || sowsBefore s core card.prio (postRank h core card.prio g) ≠ 0 then []
      else postCard s k.crew.part card core
        ++ herdActs k (finishHold h { group := g, why := .sow card core d } ++ [.s d 0#64])
    | _ => []

/-- SOW_STALLED_POST (R212). -/
def execSowStalledPost (k : HerdKey) (f : Nat) (s : State) : Host.Outcome State Fault Refusal := event (sowPostActs k f) s

/-- SITE_REWRITE: the answer of a site's compare-and-swap (R274). -/
def siteActs (k : HerdKey) (f : Nat) (s : State) : List Act :=
  match s.herd? k with
  | none => []
  | some h =>
    match h.holdOf f (fun w => match w with | .rewrite _ _ _ _ => true | _ => false) with
    | some { group := g, why := .rewrite pa old new widen } =>
      if lineOwned s pa 8 then []
      else casActs s h.core pa old new widen ++ herdActs k [dropHold h { group := g, why := .rewrite pa old new widen }]
    | _ => []

/-- SITE_REWRITE (R274). -/
def execSiteRewrite (k : HerdKey) (f : Nat) (s : State) : Host.Outcome State Fault Refusal := event (siteActs k f) s

/-- The space that a lane's access is in: the word's own, whatever the address's bits [63:60] say, or the address's (R98). -/
def RemoteOp.space (r : RemoteOp) (a : Word) : Nat := r.spc.getD (fld a 63 60)

/-- Whether a lane's access to the host or a peer failed (R231, R417). -/
def answerFails (s : State) (r : RemoteOp) (ans : List LaneAnswer) (w : Nat × Word × BitVec 128) : Bool :=
  (r.space w.2.1 = 5 && peerDead s w.2.1)
    || (match ans.find? (fun a => decide (a.lane = w.1)) with | some a => a.err | none => true)

/-- The data of a lane's answer. -/
def answerData (ans : List LaneAnswer) (lane : Nat) : BitVec 128 :=
  match ans.find? (fun a => decide (a.lane = lane)) with
  | some a => a.data
  | none => 0#128

/-- R237 over remote lanes: what each found, with bit 32 for the one success of its address (assumption 56). -/
def casVals (spc : Option Nat) (ans : List LaneAnswer) : List Word → List (Nat × Word × BitVec 128) → List (Nat × BitVec 128)
  | _, [] => []
  | won, (l, a, x) :: r =>
    let old : Lane := (answerData ans l).setWidth 32
    let n := namedAddr spc a
    let win := old = x.setWidth 32 && !won.contains n
    (l, old.setWidth 128 ||| (if win then (1#128 <<< 32) else 0#128)) :: casVals spc ans (if win then n :: won else won) r

/-- The values that the remote lanes obtained. -/
def answerVals (r : RemoteOp) (ans : List LaneAnswer) : List (Nat × BitVec 128) :=
  if r.op = some .cas then casVals r.spc ans [] r.waiting else r.waiting.map (fun w => (w.1, answerData ans w.1))

/-- Stores to host memory that were answered without error (R231). -/
def hostStores (s : State) (r : RemoteOp) (ans : List LaneAnswer) : List Act :=
  if r.kind = 1 && r.op.isNone then
    r.waiting.flatMap (fun w =>
      if r.space w.2.1 = 6 && !answerFails s r ans w then [Act.hostMem (fld w.2.1 47 0) (leBytes (2 ^ r.wid) w.2.2.toNat)] else [])
  else []

/-- The formats that the lanes found, by ascending lane: those known at issue, and those that peers answered (R230, R277). -/
def answerFmts (s : State) (r : RemoteOp) (ans : List LaneAnswer) : List Nat :=
  (sortBy (fun p => p.1) (r.fmts ++ (r.waiting.filter (fun w => r.space w.2.1 = 5 && !answerFails s r ans w)).map (fun w =>
    (w.1, (match ans.find? (fun a => decide (a.lane = w.1)) with | some a => a.fmt.toNat | none => 0))))).map (fun p => p.2)

/-- What the site of a remote word settles with the formats found (R273, R277). -/
def RemoteOp.plan (r : RemoteOp) (fmts : List Nat) : Plan :=
  match r.site with
  | none => { nib := r.nib, uni := r.uni, rw := none }
  | some t => sitePlan t fmts

/-- The registers that a remote instruction writes once every lane has its answer (R231, R278). -/
def remoteWrites (r : RemoteOp) (ans : List LaneAnswer) (p : Plan) : List HAct :=
  let vals := sortBy (fun q => q.1) (r.vals ++ answerVals r ans)
  let one := r.uni || p.uni
  if r.kind = 0 then loadWrites r.d r.wid p.nib r.active vals one
  else match r.kind, r.op with
    | 2, some op => atomWrites op r.d r.active vals one
    | _, _ => []

/-- The compare-and-swap that a remote word makes before its trap. With `all` every format is known; else only a widening, which
no further format can undo (R270, R271, R278; assumption 20). -/
def remoteCas (s : State) (core : Nat) (r : RemoteOp) (p : Plan) (all : Bool) : List Act :=
  match r.site, p.rw with
  | some t, some (w, widen) => if all || widen then casActs s core r.pa t.word w widen else []
  | _, _ => []

/-- Where a place of a crew's tile store stands now: the crew may have been saved by a pre-emption meanwhile, and the access then waits
for its restore (R369). -/
def Loc.now (s : State) (l : Loc) : Loc :=
  let at' (c : CrewKey) (off : Nat) : Loc := match s.crew? c with
    | some x => if x.saved.isSome then .saved c else tileLoc x off
    | none => l
  match l with
  | .win c _ _ _ off => at' c off
  | .tile c off => at' c off
  | _ => l

/-- The local lanes of a store that have waited for the formats of its peers, as they are performed now (R230). -/
def RemoteOp.stores (r : RemoteOp) (s : State) : List (Nat × Loc × BitVec 128) := r.later.map (fun w => (w.1, w.2.1.now s, w.2.2))

/-- R116, R300, R369: whether one of those lanes stalls. -/
def laterWaits (s : State) (k : HerdKey) (g : BitVec 8) (core : Nat) (r : RemoteOp) : Bool :=
  (r.stores s).any (fun w => locWaits s k g core (2 ^ r.wid) true false w.2.1)

/-- What the local lanes do once no format is refused: the bytes of a store, or the traces of a load (R228, R230). -/
def laterActs (s : State) (core : Nat) (r : RemoteOp) : List Act :=
  (r.stores s).flatMap (fun w => writeLoc core (leBytes (2 ^ r.wid) w.2.2.toNat) w.2.1)
    ++ healed s ((r.stores s).map (fun w => (w.2.1, 2 ^ r.wid)))
    ++ loadTraces s core (r.seen.map (fun w => { lane := w.1, addr := w.2.1, flt := none, loc := w.2.2, fmt := 0, drew := false, fill := [] }))

/-- The fault that a remote instruction meets with its answers: an uncorrectable error of a local lane, and else the lowest lane
answered with an error, which is no check of R103 (R231, R232; assumption 73). -/
def remoteFault (s : State) (r : RemoteOp) (ans : List LaneAnswer) : Option TrapReq :=
  match r.spoilt with
  | some b => some (trapAt 2 10 b.1 b.2)
  | none => (r.waiting.find? (answerFails s r ans)).map (fun w => trapAt 2 8 w.1 w.2.1)

/-- The trap of a group whose remote instruction fails: nothing is written, and the group stands at its word (R231). A herd that has
ended meanwhile takes none: its accesses alone are performed (R202). -/
def remoteTrap (k : HerdKey) (x : Hold) (t : TrapReq) (s : State) : List Act :=
  match s.herd? k with
  | none => []
  | some h =>
    if h.ended then [] else
    let pc := (h.fur ((bitsOf x.group 8).headD 0)).pc
    raiseTrap s h { cls := t.cls, cause := t.cause, code := 0, lane := t.lane, addr := t.addr, tile := 0, group := x.group
                    pc := pc, resume := pc }

/-- The answers of a held remote instruction, for all the lanes that wait at once (R231, R417). A format that its WID refuses comes
before every other fault, since no lane then accesses memory (R230; assumption 73). -/
def remoteActs (k : HerdKey) (f : Nat) (ans : List LaneAnswer) (s : State) : List Act :=
  match s.herd? k with
  | none => []
  | some h =>
    match h.holdOf f (fun w => match w with | .remote _ => true | _ => false) with
    | some { group := g, why := .remote r } =>
      let x : Hold := { group := g, why := .remote r }
      if ans.map (fun a => a.lane) ≠ r.waiting.map (fun w => w.1) || (r.site.isSome && lineOwned s r.pa 8) || laterWaits s k g h.core r then []
      else
        let fmts := answerFmts s r ans
        let p := r.plan fmts
        if fmtRefused r.site r.wid fmts p then
          chain s [fun s => (match r.site with | some t => if t.ss = 2 then remoteCas s h.core r p true else [] | none => [])
            ++ herdActs k [dropHold h x], remoteTrap k x (trapOf 0 7)]
        else match remoteFault s r ans with
        | some t =>
          let known := r.waiting.all (fun w => r.space w.2.1 ≠ 5 || !answerFails s r ans w)
          chain s [fun s => hostStores s r ans ++ (if r.spoilt.isSome then [] else laterActs s h.core r)
            ++ remoteCas s h.core r p (known || (match r.site with | some t => !t.fmtDim | none => true))
            ++ herdActs k [dropHold h x], remoteTrap k x t]
        | none =>
          hostStores s r ans ++ laterActs s h.core r ++ herdActs k (finishHold h x ++ remoteWrites r ans p
            ++ (match r.site, p.rw with
                | some t, some (w, widen) =>
                  [.holds (h.holds.filter (fun y => decide (y ≠ x)) ++ [{ group := g, why := .rewrite r.pa t.word w widen }])]
                | _, _ => []))
    | _ => []

/-- REMOTE_ANSWER (R231). -/
def execRemoteAnswer (k : HerdKey) (f : Nat) (ans : List LaneAnswer) (s : State) : Host.Outcome State Fault Refusal :=
  event (remoteActs k f ans) s

/-- PEER_TIMEOUT: no peer lane has been answered within 100 µs (R417). -/
def peerTimeoutActs (k : HerdKey) (f : Nat) (s : State) : List Act :=
  match s.herd? k with
  | none => []
  | some h =>
    match h.holdOf f (fun w => match w with | .remote _ => true | _ => false) with
    | some { group := _, why := .remote r } =>
      if r.waiting.all (fun w => r.space w.2.1 = 5) then
        remoteActs k f (r.waiting.map (fun w => { lane := w.1, err := true, data := 0, fmt := 0 })) s
      else []
    | _ => []

/-- PEER_TIMEOUT (R417). -/
def execPeerTimeout (k : HerdKey) (f : Nat) (s : State) : Host.Outcome State Fault Refusal := event (peerTimeoutActs k f) s

/-- The card of a crew's field. -/
def cardOfCrew (s : State) (c : CrewKey) : Option Card := (s.field? c.part c.field).map (fun f => f.card)

/-- Whether the host asked for the pre-emption that a crew waits for (R416). -/
def Crew.asked (c : Crew) : Bool := match c.pre with | some r => r.host | none => false

/-- R416: the pre-emption that the host asked of a field is done when no crew of it still waits to be saved. Two requests for one field
that overlap are done together, with one record (DESIGN CHOICE, assumption 106). -/
def preemptDone (s : State) (p field : Nat) : List Act :=
  if s.crews.any (fun c => decide (c.key.part = p) && decide (c.key.field = field)
      && c.asked) then []
  else [queueComp s { part := p, typ := 5, status := 0, field := field, detail := 0
                      tag := (match s.field? p field with | some f => f.card.tag | none => 0) }]

/-- Whether a command of a crew's herds, or one that names its tile store, has not retired, or an access that a herd of it had issued, or
one to its tile store, is still to be performed (R202, R257). -/
def crewBusy (s : State) (c : CrewKey) : Bool :=
  s.herds.any (fun h => decide (h.key.crew = c) && h.ended && !h.holds.isEmpty)
    || s.copies.any (fun x => decide (x.key.crew = c) || x.ents.any (fun e => decide (e.crew = c)))
    || s.cmds.any (fun m => decide (m.key.crew = c) || m.ents.any (fun e => decide (e.crew = c)))
    || s.conds.any (fun o => decide (o.key.crew = c))
    || s.posted.any (fun p => decide (p.key.crew = c)) || postedTile s c 0 (2 ^ 21)

/-- R109: unmaps one of an ended crew's windows. -/
def unmapOne (c : CrewKey) (w : Window) (s : State) : List Act :=
  match s.crew? c with
  | some x => unmapActs s x w
  | none => []

/-- R413: one more crew of a field has ended; the last one completes the field. -/
def crewEnded (c : CrewKey) (s : State) : List Act :=
  match s.field? c.part c.field with
  | none => []
  | some f =>
    let g := { f with ended := f.ended + 1 }
    if g.ended < (if g.aborted then g.admitted else g.card.crews) then [setField s g]
    else
      (if g.card.notify && !g.aborted then
        [queueComp s { part := c.part, typ := 1, status := 0, tag := g.card.tag, field := g.id, detail := 0 }]
       else [])
      ++ [.fields (s.fields.filter (fun x => decide (x.part ≠ g.part ∨ x.id ≠ g.id)))]

/-- R109, R324, R413: an ended crew gives its resources back. -/
def crewReleaseActs (c : CrewKey) (s : State) : List Act :=
  match s.crew? c with
  | none => []
  | some cr =>
    let hs := s.herds.filter (fun h => decide (h.key.crew = c))
    if crewBusy s c || !hs.all (fun h => h.ended && h.tape.closed.isEmpty) then []
    else
      chain s (cr.windows.map (fun w => unmapOne c w) ++ [
        fun s => [.slots (s.slots.filter (fun x => decide (x.crew ≠ some c))),
          .ocache (s.ocache.filter (fun e => decide (e.crew ≠ c)))],
        fun _ => hs.map (fun h => Act.dropHerd h.key) ++ [.dropCrew c],
        fun s => if cr.asked then preemptDone s c.part c.field else [],
        crewEnded c])

/-- CREW_RELEASE (R202). -/
def execCrewRelease (c : CrewKey) (s : State) : Host.Outcome State Fault Refusal := event (crewReleaseActs c) s

/-- R57: no other waiting herd resident in the slice has waited longer. -/
def waitsLongest (s : State) (h : Herd) : Bool :=
  (residents s h.core h.slice).all (fun x => !isWaiting x || decide (h.waitAt ≤ x.waitAt))

/-- PENNING: the herd that has waited longest makes room for a ready one of its slice (R57). The pen threshold counts time, which
the model lets pass freely. -/
def penActs (k : HerdKey) (s : State) : List Act :=
  match s.herd? k with
  | none => []
  | some h =>
    if h.resident && isWaiting h && waitsLongest s h && !savePending s k && !flushOwned s h.tape
      && (readyHerds s h.core h.slice).any (fun x => (roomBase s x).isNone) then
      saveHerd s k ++ [bumpCore h.core 0x045]
    else []

/-- PENNING (R57). -/
def execPenning (k : HerdKey) (s : State) : Host.Outcome State Fault Refusal := event (penActs k) s

/-- Whether a ready herd comes before another: it became ready earlier (R58). Of herds that become ready at one moment, as when a
phase wakes several penned ones (R63), the model takes the one admitted earlier (assumption 55). -/
def readyBefore (x h : Herd) : Bool :=
  decide (x.readyAt < h.readyAt) || (decide (x.readyAt = h.readyAt) && decide (x.order < h.order))

/-- R120: the trap of a page fault that the host could not service while the herd was away. -/
def owedActs (h : Herd) (k : HerdKey) : List (State → List Act) :=
  match h.idxs.findSome? (fun f => (h.fur f).resolved.bind (fun q => q.bad)) with
  | none => []
  | some t => [fun s => match s.herd? k with | some h' => takeTrap s h' t | none => []]

/-- HERD_RESIDENCY: the ready herd of the slice that became ready first takes a base position, with the context that its save
area holds (R25, R26, R58, R363). A herd whose edited area says STATE 0 for every furrow stays resident with none live, and no
barrier phase is judged anew (DESIGN CHOICE, assumption 72). -/
def residencyActs (k : HerdKey) (s : State) : List Act :=
  match s.herd? k with
  | none => []
  | some h =>
    if !isReady s h || (readyHerds s h.core h.slice).any (fun x => readyBefore x h) then []
    else match roomBase s h with
      | none => []
      | some b =>
        if !h.stored then herdActs k [.reside b]
        else if restoreBad s.hbm h.saveAt (savedProg s.hbm h.saveAt) h then doubleTrap s h 15 2 255
        else
          chain s ([fun s => herdActs k (restoreActs s.hbm h.saveAt h ++ [.reside b]),
            fun s => moveRecord s h.saveAt (saveArea s h)] ++ owedActs h k)

/-- HERD_RESIDENCY (R58). -/
def execHerdResidency (k : HerdKey) (s : State) : Host.Outcome State Fault Refusal := event (residencyActs k) s

/-- The crews that hold resources of a core: those not saved by a pre-emption (R367). -/
def crewsOn (s : State) (core : Nat) : List Crew := s.crews.filter (fun c => decide (c.core = core) && c.saved.isNone)

/-- The herds admitted to a core. -/
def herdsOn (s : State) (core : Nat) : List Herd :=
  s.herds.filter (fun h => decide (h.core = core) && (match s.crew? h.key.crew with | some c => c.saved.isNone | none => false))

/-- The admission slots of a core that no admitted herd has, those whose save areas hold no herd's context first (R362, R367;
assumption 44). -/
def freeHerdSlots (s : State) (p core : Nat) : List Nat :=
  let free := (List.range 256).filter (fun i => !(herdsOn s core).any (fun h => decide (h.slot = i)))
  let kept (i : Nat) : Bool := s.herds.any (fun h => h.stored && decide (h.saveAt = slotArea s p core i))
  free.filter (fun i => !kept i) ++ free.filter kept

/-- The crews of a card that a core can still take, when `n` are already planned for it (R399). -/
def coreRoom (s : State) (c : Card) (core n : Nat) : Nat :=
  let cs := crewsOn s core
  quotient c (256 - (herdsOn s core).length) (tileBytes - (cs.map (fun x => x.tileLen)).sum)
    (256 - (cs.map (fun x => match cardOfCrew s x.key with | some d => d.cb | none => 0)).sum) - n

/-- Whether a core can take one more crew of a card. -/
def canTake (s : State) (c : Card) (core n : Nat) : Bool := 0 < coreRoom s c core n

/-- The head of the highest-priority non-empty seed queue of a core (R400). -/
def seedHead (s : State) (core : Nat) : Option Seed := ([3, 2, 1, 0].flatMap (fun p => (seedQueue s core p).take 1)).head?

/-- Whether an acre's lending is being recalled (R418). -/
def recalling (s : State) (acre : Nat) : Bool := match lendOf s acre with | some l => l.recalling | none => false

/-- Times that a core is planned. -/
def planned (l : List Nat) (core : Nat) : Nat := (l.filter (fun x => decide (x = core))).length

/-- Whether a recall sends a saved crew back to its partition's own acres (R418). -/
def recalledCrew (s : State) (c : Crew) : Bool :=
  recalling s (acreOf c.core) || s.lends.any (fun l => l.saved.contains c.key) || !coreInPart s c.key.part c.core

/-- Where a saved crew is readmitted when the cores of `l` are planned already: the core that it left, or after a recall the first
core of the partition's own acres in its placement set that can take it (R369, R419). While none can, it stands ahead of no core's cards
(R402; DESIGN CHOICE, assumption 104). -/
def restoreTarget (s : State) (c : Crew) (l : List Nat) : Option Nat :=
  match s.field? c.key.part c.key.field with
  | none => none
  | some f =>
    if !recalledCrew s c then some c.core
    else (placement s c.key.part f.card f.home).find? (fun x =>
      ownsAcre s c.key.part (acreOf x) && (lendOf s (acreOf x)).isNone && canTake s f.card x (planned l x))

/-- R369: a crew saved by a pre-emption goes ahead of every card of at most its priority on the core. -/
def awaitsRestore (s : State) (core prio : Nat) : Bool :=
  s.crews.any (fun c => c.saved.isSome && restoreTarget s c [] = some core
    && (match cardOfCrew s c.key with | some d => decide (prio ≤ d.prio) | none => false))

/-- Whether crews of a card of home core `home` may stand on a core (R400, R418). -/
def mayPlace (s : State) (home core prio : Nat) : Bool :=
  (core = home || (match seedHead s core with | some q => decide (q.prio ≤ prio) | none => true))
    && !recalling s (acreOf core) && !awaitsRestore s core prio

/-- The cores that take the next crews of a card, each the first in placement order that can (R398, R400). -/
def planCrews (s : State) (c : Card) (home : Nat) (order : List Nat) : Nat → List Nat → List Nat
  | 0, l => l
  | n + 1, l =>
    match order.find? (fun x => mayPlace s home x c.prio && canTake s c x (planned l x)) with
    | none => l
    | some x => planCrews s c home order n (l ++ [x])

/-- Whether a crew stands on an acre with its acre barriers: one that a recall is to move has left it (R62, R364, R419). -/
def standsOn (s : State) (c : Crew) (acre : Nat) : Bool :=
  acreOf c.core = acre && !crewOver s c && (c.saved.isNone || !recalledCrew s c)

/-- Acre barriers of an acre in use: those of each field and launch acre with a live crew there (R59, R62). -/
def acreBarsUsed (s : State) (acre : Nat) : Nat :=
  (s.fields.map (fun f => f.card.ab * (((s.crews.filter (fun c => decide (c.key.part = f.part) && decide (c.key.field = f.id)
    && standsOn s c acre)).map (fun c => c.acre)).eraseDups).length)).sum

/-- Field barriers of a partition in use (R59, R62). -/
def fieldBarsUsed (s : State) (p : Nat) : Nat :=
  ((s.fields.filter (fun f => decide (f.part = p) && s.herds.any (fun h => decide (h.key.crew.part = p)
    && decide (h.key.crew.field = f.id) && !h.ended))).map (fun f => f.card.fb)).sum

/-- The admissions that the head of a home core would get now, core by core (R55, R400). A field with acre or field barriers is planned by
the order of R399 alone, and waits while an acre of that plan lacks them, whatever other acres have (R59; DESIGN CHOICE, assumption 96). -/
def planHead (s : State) (home : Nat) : List Nat :=
  match seedHead s home with
  | none => []
  | some q =>
    match s.field? q.part q.field with
    | none => []
    | some f =>
      let c := f.card
      let left := c.crews - f.admitted
      let l := planCrews s c home (placement s q.part c home) left []
      if c.ab = 0 && c.fb = 0 then l
      else
        let fbp := match s.partCfg q.part with | some x => x.fbp | none => 0
        if l.length = left && (l.map acreOf).eraseDups.all (fun a => decide (acreBarsUsed s a + c.ab ≤ 8))
          && decide (fieldBarsUsed s q.part + c.fb ≤ fbp) then l
        else []

/-- The card of the head of a home core. -/
def headCard (s : State) (home : Nat) : Option (Nat × Card) :=
  (seedHead s home).bind (fun q => (s.field? q.part q.field).map (fun f => (q.part, f.card)))

/-- R400: on a core, its own head is decided first, and then crews of other home cores in ascending order: a home core's turn is
there when no head before it would get the core. -/
def turnOn (s : State) (home core : Nat) : Bool :=
  core = home || (core :: (List.range home).filter (fun j => j ≠ core)).all (fun j => !(planHead s j).contains core)

/-- The slice of a core with the fewest admitted herds, the lowest on a tie (R401). -/
def leastSlice (s : State) (core : Nat) : Nat :=
  let n (i : Nat) : Nat := ((herdsOn s core).filter (fun h => decide (h.slice = i))).length
  (List.range 4).foldl (fun b i => if n i < n b then i else b) 0

/-- The admission of a field's next crew onto a core (R33, R401, R215). -/
def admitCrew (p field core : Nat) (s : State) : List Act :=
  match s.field? p field with
  | none => []
  | some f =>
    let c := f.card
    let key : CrewKey := { part := p, field := field, crew := f.admitted }
    let slots := freeHerdSlots s p core
    let t := leastSlice s core
    .addCrew { key := key, core := core, herds := c.herds, tileLen := 1024 * c.tilek, order := s.nextOrder }
      :: (List.range c.herds).map (fun i => Act.addHerd
          { key := { crew := key, herd := i }, core := core, slice := (t + i) % 4, slot := slots.getD i 0, width := c.width
            nregs := c.regs, nacc := c.acc, sup := c.level, order := s.nextOrder + 1 + i, entry := c.w0, args := c.w1 })
      ++ [.nextOrder (s.nextOrder + 1 + c.herds), bumpCore core 0x046, .l1drop core, setField s { f with admitted := f.admitted + 1 }]
      ++ (if c.crews ≤ f.admitted + 1 then
            [.seeds (s.seeds.filter (fun q => decide (q.part ≠ p ∨ q.field ≠ field)))] else [])

/-- Requests the pre-emption of the crews that a predicate picks and that are not saved (R364); `host` and `core` say who does. -/
def requestCrews (s : State) (pick : Crew → Bool) (host : Bool) (core : Option Nat) : List Act :=
  (s.crews.filter (fun c => pick c && c.saved.isNone)).map (fun c =>
    Act.crew c.key (.pre (some (match c.pre with
      | some r => { r with host := r.host || host, core := r.core.or core }
      | none => { area := none, host := host, core := core }))))

/-- Whether a card declares acre or field barriers, so that its field is taken whole (R364). -/
def Card.whole (c : Card) : Bool := c.ab ≠ 0 || c.fb ≠ 0

/-- Whether a crew belongs to what a request for crew `v` takes (R364). -/
def withCrew (s : State) (v c : Crew) : Bool :=
  decide (c.key = v.key) || (decide (c.key.part = v.key.part) && decide (c.key.field = v.key.field)
    && (match cardOfCrew s v.key with | some d => d.whole | none => false))

/-- The module without the crews that a predicate picks: what their pre-emption would release (R367). -/
def without (s : State) (pick : Crew → Bool) : State :=
  { s with
    crews := s.crews.filter (fun c => !pick c)
    herds := s.herds.filter (fun h => !s.crews.any (fun c => pick c && decide (c.key = h.key.crew))) }

/-- The crews that a head lacks and there is room for, acre and field barriers apart: no pre-emption releases those (R367,
R402). -/
def headPlan (s : State) (home : Nat) (q : Seed) (f : FieldRec) : List Nat :=
  planCrews s f.card home (placement s q.part f.card home) (if f.card.whole then f.card.crews - f.admitted else 1) []

/-- How many they are. -/
def headRoom (s : State) (home : Nat) (q : Seed) (f : FieldRec) : Nat := (headPlan s home q f).length

/-- The priority of a crew's card. -/
def Crew.prio (c : Crew) (s : State) : Nat := match cardOfCrew s c.key with | some d => d.prio | none => 4

/-- Whether a crew holds a resource of a core that one more crew of a card lacks there, with `n` planned: herd slots, tile-store
bytes or crew barriers (R54, R402). -/
def holdsLacked (s : State) (c : Card) (core n : Nat) (v : Crew) : Bool :=
  let bars (x : Crew) : Nat := match cardOfCrew s x.key with | some d => d.cb | none => 0
  let cs := crewsOn s core
  (decide (256 < (herdsOn s core).length + (n + 1) * c.herds) && decide (0 < v.herds))
    || (decide (tileBytes < (cs.map (fun x => x.tileLen)).sum + (n + 1) * (1024 * c.tilek)) && decide (0 < v.tileLen))
    || (decide (256 < (cs.map bars).sum + (n + 1) * c.cb) && decide (0 < bars v))

/-- R402: of several crews the one to be taken first: of the lowest priority, the most recently admitted. -/
def firstVictim (s : State) (l : List Crew) : Option Crew :=
  l.foldl (fun (b : Option Crew) c => match b with
    | none => some c
    | some d => if c.prio s < d.prio s || (c.prio s = d.prio s && d.order < c.order) then some c else b) none

/-- R402: a head that waits for room which crews of lower priority hold on its core requests the pre-emption of one that holds some of
it, unless one that it requested is unfinished, or those under way release what it lacks. -/
def requestFor (core : Nat) (s : State) : List Act :=
  match seedHead s core with
  | none => []
  | some q =>
    match s.field? q.part q.field with
    | none => []
    | some f =>
      let low := (crewsOn s core).filter (fun c => decide (c.prio s < q.prio))
      let going := without s (fun c => c.pre.isSome)
      let gain := headRoom going core q f < headRoom (without going (fun x => low.any (fun v => withCrew s v x))) core q f
      if !(planHead s core).isEmpty || s.crews.any (fun c => c.pre.any (fun r => decide (r.core = some core))) || !gain then []
      else match firstVictim s (low.filter (fun c => c.pre.isNone
        && holdsLacked going f.card core (planned (headPlan going core q f) core) c)) with
        | none => []
        | some v => requestCrews s (withCrew s v) false (some core)

/-- What the head of a core's queues admits when each core's order is kept (R400). -/
def headTurn (s : State) (core : Nat) : List Nat :=
  let l := planHead s core
  let whole := match headCard s core with | some q => q.2.whole | none => false
  if whole then (if l.all (turnOn s core) then l else []) else l.takeWhile (turnOn s core)

/-- What it admits: where the orders of the cores block every head of the module, the lowest home core's head goes
(assumption 45). -/
def headGoes (s : State) (core : Nat) : List Nat :=
  let g := headTurn s core
  if g.isEmpty && !(planHead s core).isEmpty && (List.range 192).all (fun j => (headTurn s j).isEmpty && (core ≤ j || (planHead s j).isEmpty))
  then planHead s core else g

/-- ADMISSION: the decision of one core for the head of its highest-priority queue (R400 to R402). -/
def admissionActs (core : Nat) (s : State) : List Act :=
  match seedHead s core with
  | none => []
  | some q =>
    chain s ((headGoes s core).map (fun x => admitCrew q.part q.field x) ++ [requestFor core])

/-- ADMISSION (R400). -/
def execAdmission (core : Nat) (s : State) : Host.Outcome State Fault Refusal := event (admissionActs core) s

end Sys2Proof.Machine
end

