-- ==== Sys2Proof/Machine/Preempt.lean ====
section
/-! DEFINITION. Pre-emption of crews: the grant of a save area, the save of each herd, the timeout's forced save, the crew save
area with its barrier file, and the restore (R330, R364 to R369, R427). -/

namespace Sys2Proof.Machine

/-- The pool areas that a partition's crews use (R365). -/
def areaUsed (s : State) (p i : Nat) : Bool :=
  s.crews.any (fun c => decide (c.key.part = p) && (decide (c.saved = some i)
    || (match c.pre with | some r => decide (r.area = some i) | none => false)))

/-- CREW_SAVE_AREA_GRANT: a requested crew gets the lowest free area of the pool (R365). -/
def grantActs (c : CrewKey) (s : State) : List Act :=
  match s.crew? c with
  | none => []
  | some cr =>
    match cr.pre with
    | none => []
    | some r =>
      if r.area.isSome then []
      else match (List.range (fld (s.partReg c.part 0x104) 15 0)).find? (fun i => !areaUsed s c.part i) with
        | none => []
        | some i => [.crew c (.pre (some { r with area := some i }))]

/-- CREW_SAVE_AREA_GRANT (R365). -/
def execCrewSaveAreaGrant (c : CrewKey) (s : State) : Host.Outcome State Fault Refusal := event (grantActs c) s

/-- Whether a crew's pre-emption has its area, so that its herds are being saved. -/
def Crew.saving (c : Crew) : Bool := match c.pre with | some r => r.area.isSome | none => false

/-- Whether some furrow still waits in a missed `board` (R319). -/
def waitsBoard (h : Herd) : Bool := !(h.unresolved WaitOn.isBoard).isEmpty

/-- What a save makes of a wait: a barrier's goes on, any other instruction issues again after the restore (R319, R365,
R366). -/
def saveWait (h : Herd) (f : Nat) : List HAct :=
  match (h.fur f).st with
  | .waiting (.barrier _ _) => []
  | .waiting _ => if (h.fur f).resolved.isSome then [] else [furAct h f (fun r => { r with resolved := some reissue }), .lateDone [f]]
  | _ => []

/-- What a save makes of a boarding: a missed one is withdrawn, and a forced save cuts another (R319, R330). -/
def saveBoarding (h : Herd) (s : State) : List Act :=
  match h.boarding with
  | none => []
  | some b =>
    match b.st with
    | .cut _ => []
    | _ => if waitsBoard h then endBoarding s h.key
      else [dropLanded s h.key, .herd h.key (.boarding (some { b with st := .cut 4, landed := [] }))] ++ unhold h.key s

/-- The steps of the save of one herd by a pre-emption: a resident one writes its context; one that is not has it in its save area
already, or has none (R27, R365). -/
def saveSteps (k : HerdKey) (s : State) : List Act :=
  match s.herd? k with
  | none => []
  | some h =>
    chain s [saveBoarding h,
      fun s => [.parked (s.parked.filter (fun x => decide (x.key ≠ some k)))],
      fun _ => herdActs k (h.idxs.flatMap (saveWait h)),
      fun s => if h.resident then saveHerd s k else [],
      fun s => (match s.crew? k.crew with
        | some c => [Act.crew k.crew (.savedHerds (c.savedHerds ++ [k.herd]))]
        | none => []),
      fun _ => [bumpCore h.core 0x107]]

/-- The save of one herd by a pre-emption; a trap that is pending is entered first (R356, R366). -/
def saveOne (k : HerdKey) (s : State) : List Act := chain s [takePending k, saveSteps k]

/-- R365: whether a herd stands at a point at which its pre-emption saves it. -/
def atSavePoint (s : State) (h : Herd) : Bool :=
  h.handler.isNone && !savePending s h.key && !flushOwned s h.tape
    && (match h.boarding with
        | none => true
        | some b => (match b.st with | .cut _ => true | _ => waitsBoard h))
    && (if h.resident then
          h.ganged && (isWaiting h || h.holds.any (fun x => match x.why with | .save => true | _ => false))
        else !h.stored || (h.ganged && isWaiting h))

/-- Whether a herd's save by its crew's pre-emption is still to come. -/
def unsaved (s : State) (h : Herd) : Bool :=
  !h.ended && (match s.crew? h.key.crew with
    | some c => c.saving && !c.savedHerds.contains h.key.herd
    | none => false)

/-- PREEMPT_HERD_SAVE (R365). -/
def herdSaveActs (k : HerdKey) (s : State) : List Act :=
  match s.herd? k with
  | none => []
  | some h => if unsaved s h && atSavePoint s h then saveOne k s else []

/-- PREEMPT_HERD_SAVE (R365). -/
def execPreemptHerdSave (k : HerdKey) (s : State) : Host.Outcome State Fault Refusal := event (herdSaveActs k) s

/-- The herds of a crew. -/
def crewHerds (s : State) (c : CrewKey) : List Herd := s.herds.filter (fun h => decide (h.key.crew = c))

/-- R366: what the forced saves of a crew still wait for. -/
def forceWaits (s : State) (c : CrewKey) (hs : List Herd) : Bool :=
  crewBusy s c || hs.any (fun h => h.holds.any (fun x => x.why.issued) || flushOwned s h.tape)

/-- PREEMPT_TIMEOUT: the groups of the herds not yet saved stop, and once what they have issued is complete, each herd takes a
forced save (R366). The timeout counts time, which the model lets pass freely. -/
def timeoutActs (c : CrewKey) (s : State) : List Act :=
  let hs := (crewHerds s c).filter (unsaved s)
  if hs.isEmpty then []
  else if forceWaits s c hs then
    hs.flatMap (fun h =>
      if h.resident && !h.holds.any (fun x => match x.why with | .stop => true | _ => false) then
        herdActs h.key [.holds (h.holds ++ [{ group := 0xFF#8, why := .stop }])]
      else [])
  else chain s (hs.flatMap (fun h => [saveOne h.key, fun _ => [bumpCore h.core 0x108]]))

/-- PREEMPT_TIMEOUT (R366). -/
def execPreemptTimeout (c : CrewKey) (s : State) : Host.Outcome State Fault Refusal := event (timeoutActs c) s

/-- The physical address of a crew save area (R365). -/
def crewArea (s : State) (p i : Nat) : Nat := fld (s.partReg p 0x103) 47 12 * 4096 + 0x210000 * i

/-- A stash-window record: tile offset, physical base, length, id (R367). -/
def windowRec (w : Option Window) : List Byte :=
  match w with
  | some w => leBytes 8 w.tile ++ leBytes 8 (w.pa 0) ++ leBytes 8 w.len ++ leBytes 8 w.id
  | none => zeroBytes 32

/-- Bit k of a mask for each herd of a crew that a predicate holds of (R368). -/
def herdMask (hs : List Herd) (p : Herd → Bool) : Nat := ((hs.filter p).map (fun h => 2 ^ h.key.herd)).sum

/-- The crews of a field that are members of a barrier with a crew and still live (R368). -/
def memberCrews (s : State) (c : Crew) (lv : Nat) : List Crew :=
  s.crews.filter (fun x => decide (x.key.part = c.key.part) && decide (x.key.field = c.key.field)
    && (if lv = 0 then decide (x.key = c.key) else if lv = 1 then decide (x.acre = c.acre) else true)
    && (crewHerds s x.key).any (fun h => !h.ended))

/-- The scope that names a crew's barriers of a level. -/
def crewScope (c : Crew) (lv : Nat) : Nat := if lv = 0 then c.key.crew else if lv = 1 then c.acre else 0

/-- A barrier record of a crew's copy (R368). -/
def barRec (s : State) (f : FieldRec) (c : Crew) (lv idx : Nat) : List Byte :=
  let hs := crewHerds s c.key
  leBytes 4 (herdMask hs (fun h => !h.ended))
    ++ leBytes 4 (herdMask hs (fun h => decide (h.barSt lv idx = .signalled ∨ h.barSt lv idx = .waiting)))
    ++ leBytes 4 (herdMask hs (fun h => decide (h.barSt lv idx = .waiting)))
    ++ leBytes 4 (herdMask hs (fun h => decide (h.barSt lv idx = .passed)))
    ++ leBytes 4 (f.phase (crewScope c lv) lv idx).toNat ++ leBytes 4 (memberCrews s c lv).length ++ zeroBytes 8

/-- Where the record of a barrier lies in a crew save area (R368). -/
def barAt (base lv idx : Nat) : Nat := base + (if lv = 0 then 0x400 else if lv = 1 then 0x600 else 0x700) + 32 * idx

/-- The barriers that a field declares, by level and index. -/
def barriersOf (c : Card) : List (Nat × Nat) := (List.range 3).flatMap (fun lv => (List.range (declared c lv)).map (fun i => (lv, i)))

/-- Whether each herd of a crew is saved or has ended. -/
def herdsSaved (s : State) (c : Crew) : Bool :=
  (crewHerds s c.key).all (fun h => h.ended || c.savedHerds.contains h.key.herd)

/-- CREW_SAVE_COMPLETE: the crew save area is written and the crew's resources are released (R367, R368). A field with acre or
field barriers is saved together (R364). -/
def saveCompleteActs (c : CrewKey) (s : State) : List Act :=
  match s.crew? c, s.field? c.part c.field with
  | some cr, some f =>
    match cr.pre with
    | some { area := some i, host := _, core := _ } =>
      let mates := s.crews.filter (fun x => withCrew s cr x)
      if crewOver s cr || crewBusy s c
        || !mates.all (fun x => crewOver s x || x.saved.isSome || (x.saving && herdsSaved s x)) then []
      else
        let base := crewArea s c.part i
        chain s [
          fun s => [Act.mem base (leBytes 8 cr.tileLen) none,
              .mem (base + 0x100) ((List.range 8).flatMap (fun j => windowRec cr.windows[j]?)) none]
            ++ (barriersOf f.card).map (fun b => Act.mem (barAt base b.1 b.2) (barRec s f cr b.1 b.2) none)
            ++ [.mem (base + 0x10000) (Memory.bytes cr.tile 0 cr.tileLen) none],
          fun s => [.crew c (.windows (cr.windows.map (fun w => { w with secs := [] }))),
            .ocache (s.ocache.filter (fun e => decide (e.crew ≠ c))),
            .crew c (.saved (some i)), .crew c (.pre none), .crew c (.savedHerds [])],
          fun s => if cr.asked then preemptDone s c.part c.field else []]
    | _ => []
  | _, _ => []

/-- CREW_SAVE_COMPLETE (R367). -/
def execCrewSaveComplete (c : CrewKey) (s : State) : Host.Outcome State Fault Refusal := event (saveCompleteActs c) s

/-- A field of a crew's copy of a barrier record. -/
def barField (s : State) (c : Crew) (b : Nat × Nat) (o n : Nat) : Nat :=
  match c.saved with
  | some i => s.hbm.num (barAt (crewArea s c.key.part i) b.1 b.2 + o) n
  | none => 0

/-- R368: whether the copies of some barrier disagree in PHASE or NCREW. -/
def copiesDisagree (s : State) (cs : List Crew) (c : Card) : Bool :=
  (barriersOf c).any (fun b => cs.any (fun x => cs.any (fun y =>
    decide (crewScope x b.1 = crewScope y b.1) && (decide (barField s x b 0x10 4 ≠ barField s y b 0x10 4)
      || decide (barField s x b 0x14 2 ≠ barField s y b 0x14 2)))))

/-- A herd's state for a barrier, from its crew's copy (R368). -/
def barFromCopy (s : State) (c : Crew) (b : Nat × Nat) (k : Nat) : BarSt :=
  let on (o : Nat) : Bool := (barField s c b o 4).testBit k
  if on 0x08 then .waiting else if on 0x04 then .signalled else if on 0x0C then .passed else .idle

/-- The admission slots that a restored crew's herds take on a core: those they had on it where all are free, else free ones (R369,
R419). -/
def restoreSlots (s : State) (c : Crew) (core : Nat) : List Nat :=
  let free := freeHerdSlots s c.key.part core
  let old := (crewHerds s c.key).map (fun h => h.slot)
  if core = c.core && old.all free.contains then old else free

/-- A herd that comes back on another core has left its landing slots behind: those that it has not taken are released (R101,
R322; assumption 81). -/
def leaveCore (h : Herd) (s : State) : List Act :=
  match h.boarding with
  | some b => [leaveSlots s h.key, .herd h.key (.boarding (some { b with landed := [] }))]
  | none => []

/-- The restore of one crew onto a core; a crew that comes from another core finds nothing old in its L1 (R256, R369, R419). For R402 it
counts as admitted at this moment (DESIGN CHOICE, assumption 103). -/
def restoreCrew (c : Crew) (core : Nat) (f : FieldRec) (s : State) : List Act :=
  match c.saved with
  | none => []
  | some i =>
    let hs := crewHerds s c.key
    let slots := restoreSlots s c core
    let base := crewArea s c.key.part i
    (if core = c.core then [] else chain s (hs.map leaveCore))
    ++ [Act.crew c.key (.tile 0 (s.hbm.bytes (base + 0x10000) c.tileLen)), .crew c.key (.saved none),
     .crew c.key (.place core s.nextOrder)]
    ++ hs.flatMap (fun h => herdActs h.key ((barriersOf f.card).map (fun b => HAct.bar b.1 b.2 (barFromCopy s c b h.key.herd))))
    ++ (hs.mapIdx (fun j h => herdActs h.key [.ready s.nextOrder, .place core h.slice (slots.getD j h.slot)])).flatten
    ++ (if core = c.core then [] else [.l1drop core])
    ++ (if s.lends.any (fun l => l.saved.contains c.key) then
          [.lends (s.lends.map (fun l => { l with saved := l.saved.filter (fun k => k ≠ c.key) }))] else [])
    ++ [.nextOrder (s.nextOrder + 1)]

/-- The field's phase counts as a crew's copies give them (R368). -/
def restorePhases (s : State) (c : Crew) (f : FieldRec) : FieldRec :=
  (barriersOf f.card).foldl (fun g b => { g with
    phases := assocSet 0#32 g.phases (crewScope c b.1, b.1, b.2) (BitVec.ofNat 32 (barField s c b 0x10 4)) }) f

/-- Where each crew of a group is readmitted, when there is room for all of them at once; `l` is what is placed so far (R54,
R369). -/
def restorePlan (s : State) (f : FieldRec) : List Crew → List Nat → Option (List Nat)
  | [], l => some l
  | c :: cs, l =>
    match restoreTarget s c l with
    | none => none
    | some x =>
      if canTake s f.card x (planned l x)
        && (match seedHead s x with | some q => decide (q.prio ≤ f.card.prio) | none => true) then
        restorePlan s f cs (l ++ [x])
      else none

/-- R54, R59: whether the acre barriers of a group of crews are free on each acre that they are readmitted to. -/
def restoreFits (s : State) (f : FieldRec) (cs : List Crew) (l : List Nat) : Bool :=
  let rest := without s (fun c => cs.any (fun x => decide (x.key = c.key)))
  ((l.map acreOf).eraseDups).all (fun a => decide (acreBarsUsed rest a + f.card.ab
    * ((((cs.zip l).filter (fun p => decide (acreOf p.2 = a))).map (fun p => p.1.acre)).eraseDups).length ≤ 8))

/-- CREW_RESTORE: a saved crew, or the whole field of one with acre or field barriers, is readmitted (R368, R369). Copies that
disagree abort the field (R414), in a record that names the first herd of the crew (DESIGN CHOICE, assumption 105). -/
def restoreCrewActs (c : CrewKey) (s : State) : List Act :=
  match s.crew? c, s.field? c.part c.field with
  | some cr, some f =>
    let cs := s.crews.filter (fun x => withCrew s cr x && !crewOver s x)
    if cr.saved.isNone || crewOver s cr || !cs.all (fun x => x.saved.isSome) then []
    else match restorePlan s f cs [] with
      | none => []
      | some l =>
        if !restoreFits s f cs l then [] else
        if copiesDisagree s cs f.card then
          match (crewHerds s c).head? with
          | some h => doubleTrap s h 15 3 255
          | none => []
        else
          let ps := cs.zip l
          let g := ps.foldl (fun g p => restorePhases s p.1 g) f
          chain s ((fun s => [setField s g]) :: ps.map (fun p => restoreCrew p.1 p.2 f))
  | _, _ => []

/-- CREW_RESTORE (R369). -/
def execCrewRestore (c : CrewKey) (s : State) : Host.Outcome State Fault Refusal := event (restoreCrewActs c) s

end Sys2Proof.Machine
end

