-- ==== Sys2Proof/Machine/Control.lean ====
section
/-! DEFINITION. Meanings of the control instructions, opcodes 0x0C0 to 0x0C8, and of UNASSIGNED_OPCODE (R140, R192 to R203). -/

namespace Sys2Proof.Machine

/-- The fields of FS that an instruction does not use (R131, R192). -/
def fsRsv (d a sel x : Nat) : List Use := [.rsv d, .rsv a, .rsv sel, .rsv x]

/-- The condition field of `br` and `call` (R130, R195). -/
def condUses (x : FB) : List Use :=
  [.rsv x.hid.toNat, .rsv x.rsv.toNat, .cause 2 (x.ck = 3#2), .cause 2 (x.ck = 0#2 && (x.cn || x.cr ≠ 0#5))]
    ++ (if x.ck = 1#2 then [.v x.cr.toNat 1] else [])

/-- R195: whether lane l takes the branch. -/
def taken (c : Ctx) (x : FB) (l : Nat) : Bool :=
  (if x.ck = 1#2 then (c.h.vreg x.cr.toNat l).getLsbD 0 else if x.ck = 2#2 then (c.h.sreg x.cr.toNat).getLsbD 0 else true)
    != x.cn

/-- The target of a direct branch (R130). -/
def directTarget (c : Ctx) (x : FB) : Word := c.pc + 8#64 * x.off.signExtend 64

/-- R195: the next PC of lane l. -/
def nextPC (c : Ctx) (x : FB) (l : Nat) : Word := if taken c x l then directTarget c x else c.pc + 8#64

/-- The return address in the pair n, n + 1 of some lanes, with the tags (R196). -/
def linkActs (c : Ctx) (n : Nat) (ls : List Nat) : List HAct :=
  if ls.isEmpty then []
  else
    ls.flatMap (fun l => [HAct.v (vkey n l) [(c.pc + 8#64).setWidth 32],
      HAct.v (vkey (n + 1) l) [((c.pc + 8#64) >>> 32).setWidth 32]]) ++ [.vtag n 0, .vtag (n + 1) 0]

/-- Where the group goes, with acts that depend on its new furrows (R194, R40). -/
def branchRes (c : Ctx) (conds : Option Word) (t : Nat → Word) (link : List Furrow → List HAct) : Res :=
  match branchFurs c conds t with
  | none => .trap (trapOf 5 0) []
  | some l => .jump (herdActs c.key (setFurs l ++ link l))

/-- The lanes of the issuing group whose current path stands at a PC. -/
def lanesAt (c : Ctx) (l : List Furrow) (pc : Word) : List Nat :=
  c.furs.flatMap (fun f => match l[f]? with
    | some r => if r.pc = pc then (bitsOf r.path 8).map (fun b => 8 * f + b) else []
    | none => [])

/-- R197: the lanes that continue at a target: those of every member with an active lane, or of all when the group stays
whole (R194). -/
def lanesGone (c : Ctx) (t : Nat → Word) : List Nat :=
  if c.act.all (fun l => decide (t l = t c.low)) then c.lanes
  else c.lanes.filter (fun l => c.act.any (fun k => decide (k / 8 = l / 8)))

/-- R199: the checks of indirect targets. -/
def targetFault (c : Ctx) (t : Nat → Word) : Option TrapReq :=
  match c.act.find? (fun l => decide ((t l).toNat % 8 ≠ 0)) with
  | some l => some (trapAt 1 0 l (t l))
  | none =>
    match c.act.find? (fun l => decide (7 ≤ fld (t l) 63 60)) with
    | some l => some (trapAt 2 1 l (t l))
    | none =>
      match c.act.find? (fun l => decide (fld (t l) 63 48 ≠ 0)) with
      | some l => some (trapAt 2 2 l (t l))
      | none => none

/-- An indirect jump (R197 to R199). -/
def indirect (c : Ctx) (t : Nat → Word) (link : List HAct) : Res :=
  match targetFault c t with
  | some q => .trap q []
  | none => branchRes c none t (fun _ => link)

/-- R197: the target of lane l. -/
def tableTarget (c : Ctx) (a b l : Nat) : Word := c.h.sreg b + 8#64 * (c.h.vreg a l).setWidth 64

/-- R198: the target of lane l. -/
def linkTarget (c : Ctx) (a l : Nat) : Word := (c.h.vreg (a + 1) l).setWidth 64 <<< 32 ||| (c.h.vreg a l).setWidth 64

/-- NOP (R192). -/
def execNop (h : Header) (x : FS) (s : State) : Host.Outcome State Fault Refusal :=
  issue h (legal false (fsRsv x.d.toNat x.a.toNat x.sel.toNat x.x.toNat)) (fun _ _ => .done []) s

/-- BR (R194, R195). -/
def execBr (h : Header) (x : FB) (s : State) : Host.Outcome State Fault Refusal :=
  issue h (legal false (condUses x))
    (fun c _ => branchRes c (some (directTarget c x)) (nextPC c x) (fun _ => [])) s

/-- CALL (R196). -/
def execCall (h : Header) (x : FB) (s : State) : Host.Outcome State Fault Refusal :=
  issue h (legal false (condUses x))
    (fun c _ => branchRes c (some (directTarget c x)) (nextPC c x)
      (fun l => linkActs c 14 (lanesAt c l (directTarget c x)))) s

/-- JMPI (R197). -/
def execJmpi (h : Header) (x : F3) (s : State) : Host.Outcome State Fault Refusal :=
  let (a, b) := (x.a.toNat, x.b.toNat)
  issue h (legal false [.rsv x.d.toNat, .v a 1, .s b 1, .rsv x.fn.toNat, .rsv x.mb.toNat])
    (fun c _ => indirect c (tableTarget c a b) []) s

/-- CALLI (R197). -/
def execCalli (h : Header) (x : F3) (s : State) : Host.Outcome State Fault Refusal :=
  let (d, a, b) := (x.d.toNat, x.a.toNat, x.b.toNat)
  issue h (legal false [.v d 2, .v a 1, .s b 1, .rsv x.fn.toNat, .rsv x.mb.toNat])
    (fun c _ => indirect c (tableTarget c a b) (linkActs c d (lanesGone c (tableTarget c a b)))) s

/-- RET (R198). -/
def execRet (h : Header) (x : F3) (s : State) : Host.Outcome State Fault Refusal :=
  issue h (legal false [.rsv x.d.toNat, .v x.a.toNat 2, .rsv x.b.toNat, .rsv x.fn.toNat, .rsv x.mb.toNat])
    (fun c _ => indirect c (linkTarget c x.a.toNat) []) s

/-- What `head n` does (R41 to R46). -/
def headRes (c : Ctx) (n : Nat) (s : State) : Res :=
  match headFurs c.h c.furs n with
  | none => .trap (trapOf 5 0) []
  | some l => .jump (chain s [fun s => herdActs c.key (setFurs l ++ resumeSave s c.h l), fun s' => passAll s' c.key])

/-- The legality of `head`, whose predicate fields are reserved (R200). -/
def headLegal (h : Header) (x : FB) (c : Ctx) : Option Nat :=
  lowest (hdrCauses false h ++ (if h.pe || h.pn || h.pk || h.pr ≠ 0#5 then [2] else [])
    ++ [Use.rsv x.off.toNat, .rsv x.ck.toNat, .cause 2 x.cn, .rsv x.cr.toNat, .rsv x.rsv.toNat].flatMap
        (fun u => u.causes c.h))

/-- HEAD (R41 to R46, R49, R200): it executes for the whole path whatever the predicate. -/
def execHead (h : Header) (x : FB) (s : State) : Host.Outcome State Fault Refusal :=
  match ctxOf h s with
  | none => .fault .noIssuer
  | some c => .next (run s (c.close s (
      if c.predBad && !c.lanes.isEmpty then .trap (trapOf 0 3) []
      else match headLegal h x c with
        | some cause => .trap (trapOf 0 cause) []
        | none => headRes c x.hid.toNat s)))

/-- EXIT (R37, R201). -/
def execExit (h : Header) (x : FS) (s : State) : Host.Outcome State Fault Refusal :=
  issue h (legal false (fsRsv x.d.toNat x.a.toNat x.sel.toNat x.x.toNat))
    (fun c s => .jump (chain s [
      fun s => herdActs c.key (setFurs (exitFurs c.h c.furs c.act) ++ resumeSave s c.h (exitFurs c.h c.furs c.act)),
      fun s' => match s'.herd? c.key with
        | some h' => if h'.ended then endHerd s' c.key
            else passAll s' c.key ++ (if isWaiting h' then waitStamp s' c.key else [])
        | none => []])) s

/-- YIELD (R203): at once with n = 0; else the group is held, and ranks as the youngest when the cycles have passed. -/
def execYield (h : Header) (x : FS) (s : State) : Host.Outcome State Fault Refusal :=
  issue h (legal false [.rsv x.d.toNat, .rsv x.a.toNat, .rsv x.x.toNat])
    (fun c s =>
      if x.sel = 0#16 then
        .jump (chain s [fun _ => c.advance, fun s' => match s'.herd? c.key with
          | some h' => youngest s' h' c.furs
          | none => []])
      else .done (herdActs c.key [.holds (c.h.holds ++ [{ group := furMask c.furs, why := .yield x.sel.toNat }])])) s

/-- UNASSIGNED_OPCODE (R136, R140): an illegal-instruction trap with cause 1, the lowest, or a no-op with no active lane. -/
def execUnassignedOpcode (w : Word) (s : State) : Host.Outcome State Fault Refusal :=
  issue (hdrOf w) (fun _ => some 1) (fun _ _ => .done []) s

end Sys2Proof.Machine
end

