-- ==== Sys2Proof/Machine/Sync.lean ====
section
/-! DEFINITION. Meanings of the barrier, fence and `sow` instructions, opcodes 0x0C9 to 0x0CC (R59 to R63, R204 to R215). -/

namespace Sys2Proof.Machine

/-- The fields of SEL16 of `barw` and `bars` (R204). -/
def barLv (x : FS) : Nat := (x.sel.extractLsb' 14 2).toNat
def barWt (x : FS) : Bool := x.sel.getLsbD 13
def barIdx (x : FS) : Nat := (x.sel.extractLsb' 0 4).toNat

/-- The field uses of a barrier instruction (R204). -/
def barUses (x : FS) (bars : Bool) : List Use :=
  [.rsv x.d.toNat, .rsv x.a.toNat, .rsv x.x.toNat, .rsv (x.sel.extractLsb' 4 9).toNat, .cause 7 (barLv x = 3),
   .cause 2 (bars && barWt x)]

/-- The card of the herd's field; a field that does not exist declares no barrier. -/
def fieldCard (s : State) (k : CrewKey) : Option Card := (s.field? k.part k.field).map (fun f => f.card)

/-- Whether the herd may use the barrier: ganged, and the index declared (R61). -/
def barrierOk (c : Ctx) (s : State) (lv idx : Nat) : Bool :=
  c.h.ganged && (match fieldCard s c.key.crew with | some k => decide (idx < declared k lv) | none => false)

/-- The herd's furrows wait at a barrier (R205). -/
def waitAt (c : Ctx) (lv idx : Nat) (s : State) : List Act :=
  herdActs c.key (.bar lv idx .waiting
    :: c.furs.map (fun f => furAct c.h f (fun r => { r with st := .waiting (.barrier lv idx) })))
    ++ waitStamp s c.key

/-- The phase of the herd's barrier completes if it can (R60). -/
def tryComplete (c : Ctx) (lv idx : Nat) (s : State) : List Act :=
  completePhase s c.key.crew.part c.key.crew.field lv idx (barScope s c.h lv)

/-- The transitions of `barw` (R205). -/
def barwRes (c : Ctx) (lv idx : Nat) (wt : Bool) (s : State) : Res :=
  if !barrierOk c s lv idx then .trap (trapOf 12 0) []
  else match c.h.barSt lv idx with
    | .idle => .jump (chain s [waitAt c lv idx, tryComplete c lv idx])
    | .signalled => if wt then .jump (waitAt c lv idx s) else .trap (trapOf 12 0) []
    | .passed =>
      if wt then .done (herdActs c.key [.bar lv idx .idle] ++ acquireActs c.core lv)
      else .jump (chain s [waitAt c lv idx, tryComplete c lv idx])
    | .waiting => .trap (trapOf 12 0) []

/-- The transitions of `bars` (R205). -/
def barsRes (c : Ctx) (lv idx : Nat) (s : State) : Res :=
  if !barrierOk c s lv idx then .trap (trapOf 12 0) []
  else match c.h.barSt lv idx with
    | .idle => .jump (chain s [fun _ => herdActs c.key [.bar lv idx .signalled] ++ c.advance, tryComplete c lv idx])
    | .passed => .jump (chain s [fun _ => herdActs c.key [.bar lv idx .signalled] ++ c.advance, tryComplete c lv idx])
    | .signalled => .trap (trapOf 12 0) []
    | .waiting => .trap (trapOf 12 0) []

/-- BARW (R204 to R207). -/
def execBarw (h : Header) (x : FS) (s : State) : Host.Outcome State Fault Refusal :=
  issue h (legal false (barUses x false)) (fun c s => barwRes c (barLv x) (barIdx x) (barWt x) s) s

/-- BARS (R204 to R207). -/
def execBars (h : Header) (x : FS) (s : State) : Host.Outcome State Fault Refusal :=
  issue h (legal false (barUses x true)) (fun c s => barsRes c (barLv x) (barIdx x) s) s

/-- Whether a command that furrows `g` of herd `k` issued is the issuing agent's own: any of a ganged herd, and of a group
one whose issuing group held a furrow of it (R209, R253). -/
def Ctx.ownCommand (c : Ctx) (k : HerdKey) (g : BitVec 8) : Bool :=
  decide (k = c.key) && (c.h.ganged || decide (g &&& furMask c.furs ≠ 0#8))

/-- Whether an engine command of the issuing agent has not retired (R210). -/
def Ctx.commandsPending (c : Ctx) (s : State) : Bool :=
  s.copies.any (fun x => c.ownCommand x.key x.group) || s.cmds.any (fun m => c.ownCommand m.key m.group)

/-- Whether the issuing agent of a fence owns furrow f's stream. -/
def Ctx.ownStream (c : Ctx) (f : Nat) : Bool := c.h.ganged || c.furs.contains f

/-- The tape context whose dirty blocks `fence.eng` writes: the closed ones, and the open ones of the agent's furrows
(R388). -/
def Ctx.fencedTape (c : Ctx) : TapeCtx :=
  { c.h.tape with streams := c.h.tape.streams.mapIdx (fun f x => if c.ownStream f then x else x.clean) }

/-- The tape context after `fence.eng` (R388). -/
def Ctx.tapeAfterFence (c : Ctx) : TapeCtx :=
  { c.h.tape with closed := [], streams := c.h.tape.streams.mapIdx (fun f x => if c.ownStream f then x.clean else x) }

/-- R388: `fence.eng` writes the closed dirty blocks of the herd's tape and the open ones of the agent's furrows. -/
def fenceTape (c : Ctx) (s : State) : List Act :=
  if (dirtyBlocks c.fencedTape).isEmpty then []
  else flushTape s c.core c.fencedTape ++ herdActs c.key [.tape c.tapeAfterFence]

/-- R261: whether no agent but the issuing one lies within a fence's scope: a ganged herd's `.herd`, and `.crew` where its crew has no
other live herd (R209, R260). -/
def Ctx.scopeAlone (c : Ctx) (s : State) (scope : Nat) : Bool :=
  c.h.ganged && (scope = 0 || (scope = 1 && s.herds.all (fun x => decide (x.key.crew ≠ c.key.crew) || decide (x.key = c.key) || x.ended)))

/-- R259: the agent's later stores come after each posted access that a release stands behind. -/
def releaseActs (c : Ctx) (s : State) (scope : Nat) : List Act :=
  if s.posted.any (fun p => p.own c.key c.mask) && !c.scopeAlone s scope then
    [.posted (s.posted.map (fun p => if p.own c.key c.mask then { p with fenced := true } else p))] else []

/-- FENCE (R208 to R210, R259, R388). What it waits for of the agent's posted accesses it has waited for before this issue (`fenceWaits`); a
release that has not orders them before the agent's later stores. -/
def execFence (h : Header) (x : FS) (s : State) : Host.Outcome State Fault Refusal :=
  let kind := (x.sel.extractLsb' 4 2).toNat
  let scope := (x.sel.extractLsb' 0 3).toNat
  issue h (legal false [.rsv x.d.toNat, .rsv x.a.toNat, .rsv x.x.toNat, .rsv (x.sel.extractLsb' 9 7).toNat,
      .rsv (x.sel.extractLsb' 6 2).toNat, .rsv (x.sel.extractLsb' 3 1).toNat, .cause 7 (kind = 3), .cause 7 (6 ≤ scope)])
    (fun c s =>
      if x.sel.getLsbD 8 && (c.commandsPending s || flushOwned s c.fencedTape) then .stall
      else .done ((if x.sel.getLsbD 8 then fenceTape c s else [])
        ++ (if kind ≠ 2 && 2 ≤ scope then [.l1drop c.core] else []) ++ (if kind = 2 then releaseActs c s scope else []))) s

/-- A card with its argument-block pointer replaced (R211). -/
def Card.withArgs (c : Card) (a : Word) : Card := { c with w1 := a }

/-- Posts, waits or writes a status (R212). A post does not pass the `sow`s of earlier place that wait for the queue (R214): with
room for them alone the queue is full for it, and with more it issues again behind them. -/
def sowPost (c : Ctx) (card : Card) (core : Nat) (d st : Nat) (try' : Bool) (s : State) (pre : List Act) : Res :=
  let n := sowsBefore s core card.prio (postRank c.h core card.prio (furMask c.furs))
  if st ≠ 0 then .done (pre ++ uniActs c d (BitVec.ofNat 64 st))
  else if 64 ≤ (seedQueue s core card.prio).length + n then
    if try' then .done (pre ++ uniActs c d 1#64)
    else .jump (pre ++ herdActs c.key [.holds (c.h.holds ++ [{ group := furMask c.furs, why := .sow card core d }])])
  else if n ≠ 0 then .stall
  else .done (pre ++ postCard s c.part card core ++ uniActs c d 0#64)

/-- SOW (R211 to R215). -/
def execSow (h : Header) (x : FE) (s : State) : Host.Outcome State Fault Refusal :=
  let (d, sa, sb, sf) := (x.d.toNat, x.sa.toNat, x.sb.toNat, x.sf.toNat)
  let self := x.x.getLsbD 1
  issue h (legal false [.s d 1, .rsv (x.x.extractLsb' 2 12).toNat, .cause 2 (self && sb ≠ 0)])
    (fun c s =>
      let a := c.h.sreg sa
      if a.toNat % 64 ≠ 0 then .trap (trapAt 1 0 255 a) []
      else if fld a 63 60 ≠ 0 then .trap (trapAt 2 2 255 a) []
      else
        let acc := checkLane s c.h .load 64 (some 0) 255 a
        match acc.flt with
        | some (4, cause) => .park cause 255 a (xlateActs [acc])
        | some (cls, cause) => .trap (trapAt cls cause 255 a) (xlateActs [acc])
        | none =>
          if locWaits s c.key c.mask c.core 64 false true acc.loc then .stall
          else if poisoned s c.core true acc.loc then .trap (trapAt 2 10 255 a) (xlateActs [acc])
          else
            let card0 := cardOf (readLoc s c.core 64 true acc.loc)
            let card := if sf = 0 then card0 else card0.withArgs (c.h.sreg sf)
            let core := if self then c.core else (c.h.sreg sb).toNat
            sowPost c card core d (cardStatus s c.part card0 core true (!c.h.sup)) (x.x.getLsbD 0) s
              (xlateActs [acc] ++ loadTraces s c.core [acc])) s

end Sys2Proof.Machine
end

