-- ==== Sys2Proof/Machine/System.lean ====
section
/-! DEFINITION. Meanings of the trap, system-register and `dqk` instructions, opcodes 0x0CD to 0x0D2 (R216 to R222), and the
system registers (R218, R307, R332, R370, R391, R407). -/

namespace Sys2Proof.Machine

/-- TRAP (R216). -/
def execTrap (h : Header) (x : FS) (s : State) : Host.Outcome State Fault Refusal :=
  issue h (legal false [.rsv x.d.toNat, .rsv x.a.toNat, .rsv x.x.toNat])
    (fun _ _ => .after [] { trapOf 13 0 with code := x.sel.toNat }) s

/-- BRK (R216). -/
def execBrk (h : Header) (x : FS) (s : State) : Host.Outcome State Fault Refusal :=
  issue h (legal false [.rsv x.d.toNat, .rsv x.a.toNat, .rsv x.x.toNat])
    (fun _ _ => .after [] { trapOf 14 0 with code := x.sel.toNat }) s

/-- What `rft` of the issuing group does, with the furrows of the handler group `hg`; a pending trap is then taken (R356,
R361). -/
def rftRes (c : Ctx) (hg : BitVec 8) (s : State) : Res :=
  if rftOk s c.h c.furs hg then
    .jump (chain s [
      fun s => rftActs s c.h hg,
      fun s => match s.herd? c.key with | some h => herdActs c.key (setFurs (regroup h.furrows)) | none => [],
      fun s => passAll s c.key,
      takePending c.key])
  else .jump (doubleTrap s c.h 15 1 255)

/-- RFT (R217, R361); an `rft` that R361 does not let act is a double trap. -/
def execRft (h : Header) (x : FS) (s : State) : Host.Outcome State Fault Refusal :=
  issue h (fun c => legal false (fsRsv x.d.toNat x.a.toNat x.sel.toNat x.x.toNat
      ++ [.cause 8 (!c.h.sup || c.h.handler.isNone)]) c)
    (fun c s => match c.h.handler with | some hg => rftRes c hg s | none => .stall) s

/-- The access of a level to a system register. -/
inductive SysAcc where
  | no | r | rw
  deriving DecidableEq, Repr

/-- The access of user and of supervisor level to each assigned register; none for an unassigned number. -/
def sysAccess (n : Nat) : Option (SysAcc × SysAcc) :=
  if n ≤ 0x002 || (0x010 ≤ n && n ≤ 0x01F) || n = 0x084 || (0x0C0 ≤ n && n ≤ 0x0C4) || (0x0D0 ≤ n && n ≤ 0x0D3)
    || n = 0x0E3 then some (.r, .r)
  else if 0x020 ≤ n && n ≤ 0x023 then some (.rw, .rw)
  else if (0x040 ≤ n && n ≤ 0x046) || n = 0x0C5 || n = 0x0C6 || (0x0D4 ≤ n && n ≤ 0x0D7) || (0x0E0 ≤ n && n ≤ 0x0E2)
    || (0x106 ≤ n && n ≤ 0x108) then some (.r, .rw)
  else if (0x080 ≤ n && n ≤ 0x083) || n = 0x100 || (0x102 ≤ n && n ≤ 0x105) then some (.no, .rw)
  else if n = 0x101 then some (.no, .r)
  else none

/-- The access of the issuing level. -/
def sysAcc (sup : Bool) (p : SysAcc × SysAcc) : SysAcc := if sup then p.2 else p.1

/-- Why `sget` of register n is refused (R218, R219). -/
def sgetUses (n : Nat) (sup : Bool) : List Use :=
  match sysAccess n with
  | none => [.cause 7 true]
  | some p => [.cause 8 (sysAcc sup p = .no)]

/-- Why `sset` of register n is refused (R218, R219). -/
def ssetUses (n : Nat) (sup : Bool) : List Use :=
  match sysAccess n with
  | none => [.cause 7 true]
  | some p => [.cause 8 (sysAcc sup p = .no), .cause 7 (sysAcc sup p = .r)]

/-- sys.where (R218). -/
def whereWord (h : Herd) : Word :=
  BitVec.ofNat 64 (h.core + 2 ^ 8 * h.slice + 2 ^ 10 * h.base + 2 ^ 16 * h.nregs + 2 ^ 25 * h.nacc + 2 ^ 32 * h.width
    + 2 ^ 40 * h.key.crew.part)

/-- sys.rgen (R332). With no timetable installed GEN reads as 0 (DESIGN CHOICE, assumption 88). -/
def rgenWord (r : Ring) : Word :=
  BitVec.ofNat 64 ((match r.installed with | some t => t.gen.toNat + 2 ^ 32 | none => 0)
    + (if r.pending.isSome then 2 ^ 33 else 0))

/-- sys.seedq (R407). -/
def seedqWord (s : State) (core : Nat) : Word :=
  BitVec.ofNat 64 (((List.range 4).map (fun p => (seedQueue s core p).length * 2 ^ (8 * p))).sum)

/-- The herd's matrix commands issued and not retired (R307). -/
def inFlight (s : State) (k : HerdKey) : Nat := (s.cmds.filter (fun m => decide (m.key = k))).length

/-- Registers that no store of the machine holds whole: their value (R218, R307, R332, R391). -/
def computedReg (c : Ctx) (s : State) (n : Nat) : Word :=
  let f := c.low / 8
  if n = 0x002 then whereWord c.h
  else if 0x010 ≤ n && n ≤ 0x01F then (((c.h.fur f).hcnt.getD (n - 0x010) 0#16).setWidth 64)
  else if n = 0x020 then c.h.cvsat.setWidth 64
  else if n = 0x021 then c.h.cvflush.setWidth 64
  else if n = 0x022 then c.h.cvnan.setWidth 64
  else if n = 0x023 then c.h.cvlim
  else if n = 0x084 then seedqWord s c.core
  else if n = 0x0C0 then (if c.h.tape.active then c.h.tape.sbase else 0#64)
  else if n = 0x0C1 then (if c.h.tape.active then c.h.tape.slim else 0#64)
  else if n = 0x0C2 then (if c.h.tape.active then c.h.tape.next else 0#64)
  else if n = 0x0C3 then (c.h.tape.stream f).cur
  else if n = 0x0C4 then BitVec.ofNat 64 (c.h.tape.stream f).depth
  else if n = 0x0D0 then (Sparse.get zeros s.ring.laps (dieOf c.core)).setWidth 64
  else if n = 0x0D1 then rgenWord s.ring
  else if n = 0x0D3 then (match s.cfg with | some b => b.rholdlim.setWidth 64 | none => 200#64)
  else if n = 0x0E3 then BitVec.ofNat 64 (inFlight s c.key)
  else if n = 0x101 then BitVec.ofNat 64 (saveArea s c.h)
  else 0#64

/-- Whether a register's number is held in the partition's registers. -/
def isPartReg (n : Nat) : Bool := n = 0x082 || n = 0x0D2 || n = 0x100 || (0x102 ≤ n && n ≤ 0x105)

/-- Whether a register's number is held in the core's registers. -/
def isCoreReg (n : Nat) : Bool :=
  (0x040 ≤ n && n ≤ 0x046) || n = 0x080 || n = 0x081 || n = 0x083 || n = 0x0C5 || n = 0x0C6 || (0x0D4 ≤ n && n ≤ 0x0D7)
    || (0x0E0 ≤ n && n ≤ 0x0E2) || (0x106 ≤ n && n ≤ 0x108)

/-- Whether the droop governor may defer a group: both limits at 8 admit every cycle, since a slice has eight banks (R405, R407;
assumption 91). -/
def droopMay (x : Word) : Bool := fld x 3 0 < 8 || fld x 7 4 < 8

/-- Whether what a counter of cycles counts may be happening on a core: a deferral of the droop governor (R405), a command that waits for
leave (R306), a tile that a boarding of the core holds (R321). -/
def counterRuns (s : State) (core n : Nat) : Bool :=
  (n = 0x041 && droopMay (s.coreReg core 0x083)) || (n = 0x042 && s.leaveQ.any (fun p => decide (p.1 = core)))
    || (n = 0x0D5 && s.ring.tiles.any (fun t => t.blocked.any (fun p => decide (p.2 = core))))

/-- What `sget` reads in the state that counts its own issue, and what reading leaves behind: the cycles and nanoseconds
that have passed are free values, and so is what a running cycle counter has gained (R218, R306, R332). -/
def sgetVal (c : Ctx) (s : State) (n : Nat) : Word × List Act :=
  if n = 0x000 then
    let x := s.coreReg c.core 0 + BitVec.ofNat 64 (Config.freeNat s.freeCtr)
    (x, [.coreReg (4096 * c.core) x, .free 1])
  else if n = 0x001 then
    let t := s.time + BitVec.ofNat 64 (Config.freeNat s.freeCtr)
    (t + BitVec.ofNat 64 (Config.freeNat (s.freeCtr + 1) % 32), [.time t, .free 2])
  else if counterRuns s c.core n then
    let x := BitVec.ofNat 64 (min ((s.coreReg c.core n).toNat + Config.freeNat s.freeCtr) (2 ^ 64 - 1))
    (x, [.coreReg (4096 * c.core + n) x, .free 1])
  else if isCoreReg n then (s.coreReg c.core n, [])
  else if isPartReg n then (s.partReg c.part n, [])
  else (computedReg c s n, [])

/-- SGET (R218, R219). -/
def execSget (h : Header) (x : FS) (s : State) : Host.Outcome State Fault Refusal :=
  let n := x.sel.toNat
  issue h (fun c => legal false ([.s x.d.toNat 1, .rsv x.a.toNat, .rsv x.x.toNat] ++ sgetUses n c.h.sup) c)
    (fun c s => let r := sgetVal c (run s [c.count]) n; .done (uniActs c x.d.toNat r.1 ++ r.2)) s

/-- The bits of a register that a write keeps: the others are reserved (R6, R85, R117, R218, R361, R369, R407). -/
def keptBits (n : Nat) : Word :=
  if 0x020 ≤ n && n ≤ 0x022 then 0xFFFFFFFF#64
  else if n = 0x023 then 0x7FFFFFFFF#64
  else if n = 0x080 || n = 0x081 || n = 0x104 || n = 0x105 then 0xFFFF#64
  else if n = 0x082 || n = 0x100 || n = 0x102 || n = 0x103 then 0x0000FFFFFFFFF000#64
  else if n = 0x083 then 0xFF#64
  else 0xFFFFFFFFFFFFFFFF#64

/-- R407: a value that sys.droop does not accept. -/
def droopBad (x : Word) : Bool := fld x 3 0 = 0 || 8 < fld x 3 0 || fld x 7 4 = 0 || 8 < fld x 7 4

/-- The write of a register. -/
def ssetActs (c : Ctx) (n : Nat) (v : Word) : List Act :=
  let x := v &&& keptBits n
  if n = 0x020 then herdActs c.key [.conv (x.setWidth 32) c.h.cvflush c.h.cvnan]
  else if n = 0x021 then herdActs c.key [.conv c.h.cvsat (x.setWidth 32) c.h.cvnan]
  else if n = 0x022 then herdActs c.key [.conv c.h.cvsat c.h.cvflush (x.setWidth 32)]
  else if n = 0x023 then herdActs c.key [.cvlim x]
  else if isPartReg n then [.partReg (4096 * c.part + n) x]
  else [.coreReg (4096 * c.core + n) x]

/-- R405: before sys.droop changes, sys.ctdroop gains the cycles with a deferral under the limits that stood, a free value. -/
def droopGain (c : Ctx) (s : State) : List Act :=
  if droopMay (s.coreReg c.core 0x083) then [.bump (4096 * c.core + 0x041) (Config.freeNat s.freeCtr), .free 1] else []

/-- A patience of 0 passes the standing groups of the core at once (R46, R220). -/
def patienceSet (core : Nat) (s : State) : List Act :=
  chain s ((s.herds.filter (fun h => decide (h.core = core) && h.resident)).map (fun h => fun s => passAll s h.key))

/-- SSET (R218 to R220). -/
def execSset (h : Header) (x : FS) (s : State) : Host.Outcome State Fault Refusal :=
  let n := x.sel.toNat
  issue h (fun c => legal false ([.s x.a.toNat 1, .rsv x.d.toNat, .rsv x.x.toNat] ++ ssetUses n c.h.sup
      ++ [.cause 7 (n = 0x083 && droopBad (c.h.sreg x.a.toNat))]) c)
    (fun c s =>
      let a := ssetActs c n (c.h.sreg x.a.toNat)
      if n = 0x080 then .jump (chain s [fun _ => a ++ c.advance, patienceSet c.core])
      else .done ((if n = 0x083 then droopGain c s else []) ++ a)) s

/-- The physical address of word i of a code object: in the frames to which its pages translated at its registration, whatever has
become of the page table since (R221, R285; DESIGN CHOICE, assumption 113). -/
def CodeObj.pa (o : CodeObj) (i : Nat) : Nat :=
  o.pages.getD ((o.va.toNat % 65536 + 8 * i) / 65536) 0 + (o.va.toNat + 8 * i) % 65536

/-- R221, R284: each word of an object is written back. The sectors of the arena keep their marks of uncorrectable errors (R232, R285; DESIGN
CHOICE, assumption 99). -/
def restoreObj (o : CodeObj) : List Act := o.words.mapIdx (fun i w => Act.mem (o.pa i) (leBytes 8 w.toNat) none)

/-- DQK (R221). -/
def execDqk (h : Header) (x : FS) (s : State) : Host.Outcome State Fault Refusal :=
  issue h (fun c => legal false [.s x.d.toNat 1, .s x.a.toNat 1, .rsv x.sel.toNat, .rsv x.x.toNat, .cause 8 (!c.h.sup)] c)
    (fun c s =>
      match s.objs.find? (fun o => decide (o.part = c.part) && decide (o.va = c.h.sreg x.a.toNat)) with
      | some o => .done (restoreObj o ++ uniActs c x.d.toNat 0#64)
      | none => .done (uniActs c x.d.toNat 1#64)) s

/-- DQK_ALL (R221). -/
def execDqkAll (h : Header) (x : FS) (s : State) : Host.Outcome State Fault Refusal :=
  issue h (fun c => legal false [.s x.d.toNat 1, .rsv x.a.toNat, .rsv x.sel.toNat, .rsv (x.x.toNat / 2),
      .cause 8 (!c.h.sup)] c)
    (fun c s => .done ((s.objs.filter (fun o => decide (o.part = c.part))).flatMap restoreObj
      ++ uniActs c x.d.toNat 0#64)) s

end Sys2Proof.Machine
end

