-- ==== Sys2Proof/Machine/HostIf.lean ====
section
/-! DEFINITION. The host interface: the register page, the launch queue, the completion and fault queues, fault responses,
registration, pre-emption requests and attestation; and the peers (R284, R396, R410 to R417, R421). -/

namespace Sys2Proof.Machine

/-- Whether a partition's virtual function is enabled (R420). -/
def hostOn (s : State) (p : Nat) : Bool := decide (s.boot = .enabled) && (s.partCfg p).isSome

/-- A register of the page takes a value. -/
def setHostReg (p off : Nat) (x : Word) : Act := .hostReg (4096 * p + off) x

/-- HOST_REGISTER_WRITE: the plain registers of the page. A queue's base and size stay while it holds unread entries; any other
offset is ignored (R410). -/
def hostWriteActs (p off : Nat) (v : Word) (s : State) : List Act :=
  let busy (head tail : Nat) : Bool := s.hostReg p head ≠ s.hostReg p tail
  if !hostOn s p then []
  else if off = 0x000 || off = 0x008 then (if busy 0x010 0x018 then [] else [setHostReg p off v])
  else if off = 0x020 || off = 0x028 then (if busy 0x030 0x038 then [] else [setHostReg p off v])
  else if off = 0x040 || off = 0x048 then (if busy 0x050 0x058 then [] else [setHostReg p off v])
  else if off = 0x030 || off = 0x050 || off = 0x080 || off = 0x088 || off = 0x090 then [setHostReg p off v]
  else []

/-- HOST_REGISTER_WRITE (R410). -/
def execHostRegisterWrite (p off : Nat) (v : BitVec 64) (s : State) : Host.Outcome State Fault Refusal :=
  event (hostWriteActs p off v) s

/-- LQTAIL: the doorbell of the launch queue (R396, R410). -/
def execLqtail (p : Nat) (v : BitVec 64) (s : State) : Host.Outcome State Fault Refusal :=
  event (fun s => if hostOn s p then [setHostReg p 0x018 v] else []) s

/-- How the read of a launch-queue entry ends: its bytes, or a fault's class and cause (R396, R422). -/
inductive EntryRead where
  | card (bs : List Byte)
  /-- a copy owns the entry's line, and the read waits (R116, R264) -/
  | later
  | fault (cls cause : Nat)
  deriving DecidableEq, Repr

/-- The read of 64 bytes at supervisor level through the partition's table (R396). -/
def readEntry (s : State) (p : Nat) (a : Word) : EntryRead :=
  if a.toNat % 64 ≠ 0 then .fault 1 0
  else if 7 ≤ fld a 63 60 then .fault 2 1
  else if fld a 63 48 ≠ 0 then .fault 2 2
  else match walk s p (fld a 47 0) with
    | .bad c => .fault 4 c
    | .leaf l e =>
      match permFault .load true e with
      | some (cls, c) => .fault cls c
      | none =>
        let pa := leafPA l e (fld a 47 0)
        if lineOwned s pa 64 then .later
        else if s.hbmErr.contains (sectorOf pa) then .fault 2 10 else .card (s.hbm.bytes pa 64)

/-- The address of the launch queue's next entry (R396). -/
def entryAddr (s : State) (p : Nat) : Word :=
  s.hostReg p 0x000 + BitVec.ofNat 64 (64 * ((s.hostReg p 0x010).toNat % 2 ^ fld (s.hostReg p 0x008) 4 0))

/-- One more entry of the launch queue is consumed. -/
def bumpHead' (s : State) (p : Nat) : Act := setHostReg p 0x010 (s.hostReg p 0x010 + 1)

/-- The rejection of an entry that cannot be read (R396, R412). -/
def rejectUnread (s : State) (p cls cause : Nat) : List Act :=
  [queueComp s { part := p, typ := 2, status := 6, tag := 0, field := 0
                 detail := BitVec.ofNat 64 (6 + 2 ^ 8 * cls + 2 ^ 16 * cause) }, bumpHead' s p]

/-- LAUNCH_QUEUE_ENTRY_READ (R396): an append comes after the `sow`s that wait for the queue (R397). -/
def entryActs (p : Nat) (s : State) : List Act :=
  if !hostOn s p || s.hostReg p 0x010 = s.hostReg p 0x018 || 16 < fld (s.hostReg p 0x008) 4 0
    || s.parked.any (fun x => decide (x.part = p) && x.key.isNone) then []
  else match readEntry s p (entryAddr s p) with
    | .fault 4 cause =>
      queueFault s p { part := p, seq := 0, kind := 1, cause := cause, core := 0xFF, slot := 0xFF, addr := entryAddr s p
                       field := 0, lane := 0xFF, cls := 0 }
        ++ [.parked (s.parked ++ [{ part := p, seq := (nextSeq s p).toNat, key := none, group := 0, cause := cause
                                    addr := entryAddr s p, lane := 0xFF }])]
    | .fault cls cause => rejectUnread s p cls cause
    | .later => []
    | .card bs =>
      let c := cardOf bs
      let st := cardStatus s p c c.home false false
      if st ≠ 0 then
        [queueComp s { part := p, typ := 2, status := st, tag := c.tag, field := 0, detail := BitVec.ofNat 64 st }, bumpHead' s p]
      else if queueFull s c.home c.prio || !(sowsStalled s c.home c.prio).isEmpty then []
      else postCard s p c c.home ++ [bumpHead' s p]

/-- LAUNCH_QUEUE_ENTRY_READ (R396). -/
def execLaunchQueueEntryRead (p : Nat) (s : State) : Host.Outcome State Fault Refusal := event (entryActs p) s

/-- Whether a host queue, whose registers start at `off`, can take a record (R412). -/
def queueOpen (s : State) (p off : Nat) : Bool :=
  let size := fld (s.hostReg p (off + 8)) 4 0
  s.hostReg p off ≠ 0#64 && 4 ≤ size && decide (size ≤ 16)
    && decide ((s.hostReg p (off + 0x18) - s.hostReg p (off + 0x10)).toNat < 2 ^ size)

/-- sys.time when a record is written: time passes by a free amount. -/
def nowTime (s : State) : Word := s.time + BitVec.ofNat 64 (Config.freeNat s.freeCtr)

/-- Writes a 32-byte record and then advances the tail (R412). -/
def writeRecord (s : State) (p off : Nat) (w0 w1 w2 : Nat) : List Act :=
  let tail := s.hostReg p (off + 0x18)
  let a := (s.hostReg p off).toNat + 32 * (tail.toNat % 2 ^ fld (s.hostReg p (off + 8)) 4 0)
  [.hostMem a (leBytes 8 w0 ++ leBytes 8 w1 ++ leBytes 8 w2 ++ leBytes 8 (nowTime s).toNat),
   setHostReg p (off + 0x18) (tail + 1), .time (nowTime s), .free 1]

/-- COMPLETION_RECORD_WRITE: the oldest completion event of a partition (R412). -/
def compActs (p : Nat) (s : State) : List Act :=
  match s.comps.find? (fun c => decide (c.part = p)) with
  | none => []
  | some c =>
    if hostOn s p && queueOpen s p 0x020 then
      writeRecord s p 0x020 (c.tag * 2 ^ 32 + c.status * 2 ^ 8 + c.typ) c.field c.detail.toNat
        ++ [.comps (s.comps.eraseP (fun x => decide (x.part = p)))]
    else []

/-- COMPLETION_RECORD_WRITE (R412). -/
def execCompletionRecordWrite (p : Nat) (s : State) : Host.Outcome State Fault Refusal := event (compActs p) s

/-- FAULT_RECORD_WRITE: the oldest fault event of a partition (R412, R414). -/
def faultActs (p : Nat) (s : State) : List Act :=
  match s.faults.find? (fun c => decide (c.part = p)) with
  | none => []
  | some r =>
    if hostOn s p && queueOpen s p 0x040 then
      writeRecord s p 0x040 (r.seq + 2 ^ 32 * r.kind + 2 ^ 40 * r.cause + 2 ^ 48 * r.core + 2 ^ 56 * r.slot) r.addr.toNat
          (r.field + 2 ^ 32 * r.lane + 2 ^ 40 * r.cls)
        ++ [.faults (s.faults.eraseP (fun x => decide (x.part = p)))]
    else []

/-- FAULT_RECORD_WRITE (R414). -/
def execFaultRecordWrite (p : Nat) (s : State) : Host.Outcome State Fault Refusal := event (faultActs p) s

/-- The trap of a parked page fault that the host cannot service (R120). -/
def faultTrap (h : Herd) (q : Parked) (fs : List Nat) : TrapInfo :=
  let pc := (h.fur (fs.headD 0)).pc
  { cls := 4, cause := q.cause, code := 0, lane := q.lane, addr := q.addr, tile := 0, group := furMask fs, pc := pc, resume := pc }

/-- What the host's answer does to a herd's parked group: it issues again, or it traps (R120, R357, R360, R414). -/
def respondHerd (q : Parked) (h : Herd) (fail : Bool) (s : State) : List Act :=
  let fs := h.waitingOn (.fault q.seq)
  let gone : Act := .parked (s.parked.filter (fun x => decide (x ≠ q)))
  let trap := faultTrap h q fs
  if !fail then
    gone :: herdActs h.key (endWaits h fs reissue) ++ readyStamp s h (fun w => w = .fault q.seq)
  else if !h.resident then
    gone :: herdActs h.key (endWaits h fs { reissue with bad := some trap }) ++ readyStamp s h (fun w => w = .fault q.seq)
  else chain s [
    fun _ => gone :: herdActs h.key (endWaits h fs reissue),
    fun s => (match s.herd? h.key with | some h' => raiseTrap s h' trap | none => [])]

/-- FRESP (R120, R396, R414). -/
def frespActs (p : Nat) (v : Word) (s : State) : List Act :=
  match s.parked.find? (fun x => decide (x.part = p) && decide (x.seq = fld v 31 0)) with
  | none => []
  | some q =>
    match q.key with
    | none =>
      .parked (s.parked.filter (fun x => decide (x ≠ q))) :: (if v.getLsbD 32 then rejectUnread s p 4 q.cause else [])
    | some k =>
      match s.herd? k with
      | none => []
      | some h => respondHerd q h (v.getLsbD 32) s

/-- FRESP (R414). -/
def execFresp (p : Nat) (v : BitVec 64) (s : State) : Host.Outcome State Fault Refusal := event (frespActs p v) s

/-- REGGO: a registration with the page's addresses and length; a second one waits behind it (R415). -/
def execReggo (p : Nat) (v : BitVec 64) (s : State) : Host.Outcome State Fault Refusal :=
  event (fun s => if hostOn s p then
      [.regs (s.regs ++ [{ part := p, va := s.hostReg p 0x080, src := s.hostReg p 0x090, len := fld (s.hostReg p 0x088) 20 0
                           tag := fld v 31 0 }])]
    else []) s

/-- Bytes of the pristine images of a partition's objects (R284). -/
def pristineUse (l : List CodeObj) : Nat := (l.map (fun o => 8 * o.words.length)).sum

/-- The registered objects of a partition other than the one at an address. -/
def otherObjs (s : State) (p : Nat) (va : Word) : List CodeObj :=
  s.objs.filter (fun o => decide (o.part = p) && decide (o.va ≠ va))

/-- R284, R285: a limit that a registration of n words would break. -/
def limitBad (s : State) (p : Nat) (va : Word) (n : Nat) : Bool :=
  let others := otherObjs s p va
  let room := match s.partCfg p with | some c => c.pristine.hi - c.pristine.lo | none => 0
  n = 0 || 2 ^ 20 < n || 4096 ≤ others.length
    || others.any (fun o => overlaps o.va.toNat (8 * o.words.length) va.toNat (8 * n))
    || decide (room < pristineUse others + 8 * n)

/-- The physical base of each page of an object's range, at supervisor level over the arena; none when a page does not
translate so (R284, R415). -/
def objPages (s : State) (p : Nat) (va : Word) (n : Nat) : Option (List Nat) :=
  (pageStarts (fld va 47 0) (8 * n)).mapM (fun a =>
    match walk s p a with
    | .leaf l e => if (permFault .fetch true e).isNone then some (leafPA l e (a / 65536 * 65536)) else none
    | .bad _ => none)

/-- The status of a registration (R415). -/
def regStatus (s : State) (p : Nat) (va : Word) (n : Nat) (err : Bool) : Nat :=
  if limitBad s p va n then 1
  else if fld va 63 48 ≠ 0 || va.toNat % 8 ≠ 0 || 2 ^ 48 < va.toNat + 8 * n || (objPages s p va n).isNone then 2
  else if err then 3
  else 0

/-- The registration of an image: pristine copy, measurement and arena words (R284, R285; the marks of the sectors: assumption 99). -/
def registerActs (s : State) (p : Nat) (va : Word) (words : List Word) : List Act :=
  let o : CodeObj := { part := p, va := va, words := words, pages := (objPages s p va words.length).getD []
                       digest := sha384 (words.flatMap (fun w => leBytes 8 w.toNat)) }
  .objs (s.objs.filter (fun x => decide (x.part ≠ p ∨ x.va ≠ va)) ++ [o]) :: restoreObj o

/-- The image that a registration reads: REGLEN words of host memory from REGSRC (R415). -/
def regImage (s : State) (r : RegReq) : List Word :=
  (List.range r.len).map (fun i => BitVec.ofNat 64 (Memory.num s.hostMem (r.src.toNat + 8 * i) 8))

/-- REGISTRATION_COMPLETE: the oldest registration of a partition, with the image as the device reads it now, or with a host read error
(R284, R415). It is the moment at which a re-registration reaches the device (R285; DESIGN CHOICE, assumption 77). -/
def regActs (p : Nat) (err : Bool) (s : State) : List Act :=
  match s.regs.find? (fun r => decide (r.part = p)) with
  | none => []
  | some r =>
    let st := regStatus s p r.va r.len err
    (if st = 0 then registerActs s p r.va (regImage s r) else [])
      ++ [.regs (s.regs.eraseP (fun x => decide (x.part = p))),
          queueComp s { part := p, typ := 4, status := st, tag := r.tag, field := 0, detail := r.va }]

/-- REGISTRATION_COMPLETE (R284). -/
def execRegistrationComplete (p : Nat) (err : Bool) (s : State) : Host.Outcome State Fault Refusal :=
  event (regActs p err) s

/-- PREEMPT: every crew of a running field is to be saved (R416). -/
def preemptActs (p : Nat) (v : Word) (s : State) : List Act :=
  let id := fld v 31 0
  let mine (c : Crew) : Bool := decide (c.key.part = p) && decide (c.key.field = id)
  let aborted := match s.field? p id with | some f => f.aborted | none => true
  if !hostOn s p then []
  else if aborted || !s.crews.any mine then
    [queueComp s { part := p, typ := 5, status := 1, tag := 0, field := id, detail := 0 }]
  else chain s [fun s => requestCrews s mine true none, fun s => preemptDone s p id]

/-- PREEMPT (R416). -/
def execPreempt (p : Nat) (v : BitVec 64) (s : State) : Host.Outcome State Fault Refusal := event (preemptActs p v) s

/-- ATTEST: the objects registered when the write is received will stand in the report (R421). -/
def execAttest (p : Nat) (v : BitVec 64) (s : State) : Host.Outcome State Fault Refusal :=
  event (fun s => if hostOn s p then
      [.attests (s.attests ++ [{ part := p, addr := v
                                 objs := (s.objs.filter (fun o => decide (o.part = p))).map (fun o => (o.va, o.digest)) }])]
    else []) s

/-- ATTESTATION_WRITTEN: the nonce's 64 bytes are read in host memory, and the report follows them (R421). -/
def attestActs (p : Nat) (s : State) : List Act :=
  match s.attests.find? (fun r => decide (r.part = p)) with
  | none => []
  | some r =>
    [.hostMem (r.addr.toNat + 64) (Config.attestReport s.freeCtr (Memory.bytes s.hostMem r.addr.toNat 64)
      s.fwDigest s.blobDigest r.objs), .free 1,
     .attests (s.attests.eraseP (fun x => decide (x.part = p))),
     queueComp s { part := p, typ := 6, status := 0, tag := 0, field := 0, detail := 0 }]

/-- ATTESTATION_WRITTEN (R421). -/
def execAttestationWritten (p : Nat) (s : State) : Host.Outcome State Fault Refusal := event (attestActs p) s

/-- Bytes of a peer's access. -/
def peerWidth : PeerOp → Nat
  | .load w => w
  | .store w _ => w
  | .atomic _ _ _ => 4

/-- The kind of a peer's access. -/
def peerKind : PeerOp → AKind
  | .load _ => .load
  | .store _ _ => .store
  | .atomic _ _ _ => .atomic

/-- The host of a partition writes device memory (R253, R396): in the partition's own data frames (assumption 64). -/
def hostDeviceActs (p pa : Nat) (bs : List Byte) (s : State) : List Act :=
  let ok := match s.partCfg p with | some c => inside pa (pa + bs.length) c.frames | none => false
  if !hostOn s p || !ok || lineOwned s pa bs.length then [] else .mem pa bs none :: healed s [(.mem pa, bs.length)]

/-- Whether a window holds a sector of device memory dirty, so that the copy in memory is not read before it is written back (R108). -/
def heldDirty (s : State) (q : Nat) : Bool :=
  s.crews.any (fun c => c.windows.any (fun w => w.secs.any (fun y => y.2 && decide (sectorOf (w.pa (64 * y.1)) = q))))

/-- An error in a sector of a crew's tile store. Under a window it meets the filled sector: a clean one until it is filled again, and
with a dirty one the only current copy of the memory behind it; an unfilled one holds nothing (R108, R232). `marks` are the tile
store's marks with the new one, and `mem` adds one to those of device memory. -/
def tileError (s : State) (x : Crew) (q : Nat) (marks : List Nat) (mem : Nat → List Nat) : List Act :=
  match tileLoc x (64 * q) with
  | .win c id sec pa _ =>
    if !winFilled s c id sec then []
    else .crew c (.tileErr marks) :: (if heldDirty s (sectorOf pa) then [.memErr (mem (sectorOf pa))] else [])
  | _ => [.crew x.key (.tileErr marks)]

/-- Whether a posted access is still to be performed in a sector of device memory, or of a crew's tile store. An error there comes after
it, since only an access that meets none is posted (R232; assumption 71). -/
def postedSector (s : State) (q : Nat) : Bool :=
  s.posted.any (fun p => match p.loc.hbm? with | some pa => decide (sectorOf pa = q) | none => false)

/-- An uncorrectable error appears, in storage that exists (R232, R297, R354). -/
def errorActs (e : ErrSite) (s : State) : List Act :=
  let add (l : List Nat) (i : Nat) : List Nat := if l.contains i then l else l ++ [i]
  match e with
  | .hbm q => if 64 * q < hbmTop && !heldDirty s q && !postedSector s q then [.memErr (add s.hbmErr q)] else []
  | .tile c q => (match s.crew? c with
    | some x => if 64 * q < x.tileLen && !postedTile s c (64 * q) 64 then tileError s x q (add x.tileErr q) (add s.hbmErr) else []
    | none => [])
  | .slot core i q => if q < 1024 then [.slots (s.slots.map (fun x =>
      if x.core = core && x.idx = i then { x with errs := add x.errs q } else x))] else []
  | .dist k i => (match s.herd? k with
    | some h => if i < 16 * 64 && i % 64 < h.width then [.herd k (.derr (add h.derr i))] else []
    | none => [])
  | .acc k i => (match s.herd? k with
    | some h => if i < 4096 * h.nacc then [.herd k (.accErr (add h.accErr i))] else []
    | none => [])

/-- What comes from outside the table's steps (R116, R232, R253, R257). -/
def outsideActs (o : Outside) (s : State) : List Act :=
  match o with
  | .device p pa bs => hostDeviceActs p pa bs s
  | .host a bs => [.hostMem a bs]
  | .error e => errorActs e s
  | .copyReads k n => copyReadActs k n s
  | .perform i => performActs i s

/-- Whether this module serves a peer: its table names the peer's module and partition, over a link that is up (R417). -/
def servesPeer (s : State) (r : PeerRequest) : Bool :=
  match s.cfg with
  | none => false
  | some b => b.peers.any (fun e => decide (e.index = r.index) && decide (e.part = r.part)
      && e.links.any (fun l => !s.linksDown.contains l))

/-- What a peer's access does at its physical address (R114). -/
def peerWrites (s : State) (op : PeerOp) (pa : Nat) : List Act :=
  match op with
  | .load _ => []
  | .store w x => [.mem pa (leBytes w x.toNat) none]
  | .atomic o x y =>
    let old : Lane := BitVec.ofNat 32 (s.hbm.num pa 4)
    if o = .cas then [.mem pa (leBytes 4 (if old = x then y else old).toNat) none]
    else [.mem pa (leBytes 4 (atomOp o old x).toNat) none]

/-- PEER_ACCESS_REQUEST: served through the target partition's page table, at user level; a request that is refused changes
nothing and is answered with an error (R417, R422). -/
def peerActs (r : PeerRequest) (s : State) : List Act :=
  let va := r.va.toNat
  if !servesPeer s r || !hostOn s r.target || va % peerWidth r.op ≠ 0 then []
  else match walk s r.target va with
    | .bad _ => []
    | .leaf l e =>
      let pa := leafPA l e va
      if (permFault (peerKind r.op) false e).isSome || lineOwned s pa (peerWidth r.op) then []
      else if s.hbmErr.contains (sectorOf pa) && peerKind r.op = .atomic then []
      else peerWrites s r.op pa

/-- PEER_ACCESS_REQUEST (R417). -/
def execPeerAccessRequest (r : PeerRequest) (s : State) : Host.Outcome State Fault Refusal := event (peerActs r) s

/-- POLJOR_LINK_DOWN (R417). -/
def execPoljorLinkDown (l : Nat) (s : State) : Host.Outcome State Fault Refusal :=
  event (fun s => if 16 ≤ l || s.linksDown.contains l then [] else [.linksDown (s.linksDown ++ [l])]) s

/-- POLJOR_LINK_UP (R417). -/
def execPoljorLinkUp (l : Nat) (s : State) : Host.Outcome State Fault Refusal :=
  event (fun s => if s.linksDown.contains l then [.linksDown (s.linksDown.filter (fun x => x ≠ l))] else []) s

end Sys2Proof.Machine
end

