-- ==== Sys2Proof/Machine/Boot.lean ====
section
/-! DEFINITION. The management cores: boot with the blob's validation, recovery, and the lending of acres (R19, R305, R408,
R409, R418 to R420). -/

namespace Sys2Proof.Machine

/-- Two half-open ranges share no byte. -/
def apart (a b : PRange) : Bool := decide (a.hi ≤ b.lo) || decide (b.hi ≤ a.lo) || decide (a.hi ≤ a.lo) || decide (b.hi ≤ b.lo)

/-- Every two elements of a list satisfy a test. -/
def allPairs {α : Type} (p : α → α → Bool) : List α → Bool
  | [] => true
  | a :: r => r.all (p a) && allPairs p r

/-- Whether a range lies in a partition's stacks (R112, R408). -/
def partOwns (c : PartCfg) (r : PRange) : Bool :=
  decide (r.hi ≤ r.lo) || (decide (r.hi ≤ hbmTop)
    && (List.range 24).all (fun k => !(decide (r.lo < stackBytes * (k + 1)) && decide (stackBytes * k < r.hi)) || c.hbmStacks.contains k))

/-- The leave costs of a table (R305). -/
def leaveCosts (t : LeaveTable) : List Nat :=
  [t.mma8, t.mma16, t.mma32, t.mld, t.mst8, t.mst16, t.mst32, t.mzero, t.mmov, t.mabs, t.mrd]

/-- Whether a range of the common pool lies in the pool's stacks (R112, R408). -/
def commonOwns (b : Blob) (r : PRange) : Bool :=
  decide (r.hi ≤ r.lo) || (decide (r.hi ≤ hbmTop)
    && (List.range 24).all (fun k => !(decide (r.lo < stackBytes * (k + 1)) && decide (stackBytes * k < r.hi)) || b.commonStacks.contains k))

/-- R408, R409, R419 for one partition. -/
def partOk (c : PartCfg) : Bool :=
  let reg (w : Word) : Bool := fld w 63 48 = 0 && fld w 11 0 = 0
  let root := fld c.ptbase 47 12 * 4096
  let pen := fld c.penbase 47 12 * 4096
  let pool := fld c.crewbase 47 12 * 4096
  !c.acres.isEmpty && c.acres.all (fun a => decide (a < 24)) && c.hbmStacks.all (fun k => decide (k < 24))
    && (partRanges c).all (partOwns c) && decide (c.fbp ≤ 4) && decide (c.lmax ≤ 23)
    && reg c.ptbase && reg c.tvec && reg c.penbase && reg c.crewbase && fld c.crewcnt 63 16 = 0
    && inside root (root + 4096) c.frames
    && inside pen (pen + 0x44000 * 256 * (8 * c.acres.length + 8 * c.lmax)) [c.pen]
    && inside pool (pool + 0x210000 * fld c.crewcnt 15 0) [c.pool]

/-- No acre, stack or frame range belongs to two partitions, or to one and the common pool, and no two ranges of one overlap
(R112, R408). -/
def partsApart (b : Blob) : Bool :=
  allPairs (fun x y => x.acres.all (fun a => !y.acres.contains a) && x.hbmStacks.all (fun k => !y.hbmStacks.contains k)) b.parts
    && b.parts.all (fun x => x.hbmStacks.all (fun k => !b.commonStacks.contains k))
    && allPairs apart (b.parts.flatMap partRanges ++ b.common)

/-- The validation of a configuration blob (R19, R113, R305, R310, R408, R409, R417, R419). -/
def blobOk (b : Blob) : Bool :=
  decide (b.pools.length ≤ 12) && decide (((List.range 12).map (blobPool b)).sum + 270000 ≤ 640000)
    && (leaveCosts b.leave).all (fun c => (List.range 12).all (fun d => decide (c ≤ blobPool b d)))
    && b.parts.map (fun c => c.pid) = List.range b.parts.length && 1 ≤ b.parts.length && decide (b.parts.length ≤ 15)
    && decide (b.pb ≤ 4)
    && (if b.pb = 0 then b.parts.length = 1 && b.common.isEmpty && b.commonStacks.isEmpty else decide (b.parts.length ≤ 2 ^ b.pb - 1))
    && b.parts.all partOk && b.common.all (commonOwns b) && b.commonStacks.all (fun k => decide (k < 24)) && partsApart b && decide ((b.parts.map (fun c => c.fbp)).sum ≤ 16)
    && decide (b.ringOwner < b.parts.length)
    && b.peers.all (fun e => decide (e.index < 4096) && e.links.all (fun l => decide (l < 16)))
    && allPairs (fun x y => decide (x.index ≠ y.index)) b.peers

/-- The supervisor image of a partition. -/
def imageOf (x : BootInput) (p : Nat) : Option SupImage := x.images.find? (fun i => decide (i.pid = p))

/-- Step 5 of R420 for one partition: its page table, its five registers and its first code object (R409). -/
def installPart (x : BootInput) (c : PartCfg) (s : State) : List Act :=
  match imageOf x c.pid with
  | none => []
  | some i =>
    let root := fld c.ptbase 47 12 * 4096
    chain s [
      fun _ => i.table.map (fun e => Act.mem (root + e.1) [e.2] none),
      fun _ => [.partReg (4096 * c.pid + 0x082) c.ptbase, .partReg (4096 * c.pid + 0x100) c.tvec,
        .partReg (4096 * c.pid + 0x102) c.penbase, .partReg (4096 * c.pid + 0x103) c.crewbase,
        .partReg (4096 * c.pid + 0x104) c.crewcnt],
      fun s => registerActs s c.pid i.va i.words]

/-- Whether the image of a partition installs: its signatures, its registration, and the vector within it (R284, R409). -/
def imageOk (x : BootInput) (s : State) (c : PartCfg) : Bool :=
  match imageOf x c.pid with
  | none => false
  | some i =>
    let vec := fld c.tvec 47 12 * 4096
    i.sigEd && i.sigMl && regStatus { s with objs := [] } c.pid i.va i.words.length false = 0
      && decide (i.va.toNat ≤ vec) && decide (vec + 2048 ≤ i.va.toNat + 8 * i.words.length)

/-- R420: the boot sequence over what the management cores read. A step that fails leaves every virtual function disabled. -/
def bootActs (x : BootInput) (s : State) : List Act :=
  if !(x.fwEd && x.fwMl && x.blobEd && x.blobMl && blobOk x.blob) then [.boot .failed none]
  else
    let a := chain s ((fun _ => [Act.boot .enabled (some x.blob), .digests (sha384 x.firmware) (sha384 x.blobBytes)]) :: x.blob.parts.map (installPart x))
    if x.blob.parts.all (imageOk x (run s a)) then a else [.boot .failed none]

/-- BOOT: out of reset (R420). -/
def execBoot (x : BootInput) (s : State) : Host.Outcome State Fault Refusal :=
  event (fun s => if s.boot = .reset then bootActs x s else []) s

/-- RECOVERY_IMAGE_REPLACE: after a failed boot, checked in the same way (R420). -/
def execRecoveryImageReplace (x : BootInput) (s : State) : Host.Outcome State Fault Refusal :=
  event (fun s => if s.boot = .failed then bootActs x s else []) s

/-- Whether a lending slot of a partition is held: by an acre on loan, or by crews saved by its recall and not yet
readmitted (R419). -/
def slotHeld (s : State) (p j : Nat) : Bool :=
  s.lends.any (fun l => decide (l.borrower = p) && decide (l.slot = j) && (!l.done
    || s.crews.any (fun c => c.saved.isSome && l.saved.contains c.key)))

/-- LEND: an idle acre goes to another partition in its lowest free lending slot (R418, R419). -/
def lendActs (acre p d : Nat) (s : State) : List Act :=
  match s.partCfg p with
  | none => []
  | some c =>
    if s.boot ≠ .enabled || d = 0 || 65535 < d || (lendOf s acre).isSome || ownsAcre s p acre
      || !(match s.cfg with | some b => b.parts.any (fun x => x.acres.contains acre) | none => false)
      || s.crews.any (fun x => decide (acreOf x.core = acre) && ownsAcre s x.key.part acre) then []
    else match (List.range c.lmax).find? (fun j => !slotHeld s p j) with
      | none => []
      | some j =>
        [.lends (s.lends.filter (fun l => !(l.done && !slotHeld s l.borrower l.slot))
          ++ [{ acre := acre, borrower := p, deadline := d, slot := j, recalling := false, done := false, saved := [] }])]

/-- LEND (R418). -/
def execLend (acre p deadline : Nat) (s : State) : Host.Outcome State Fault Refusal := event (lendActs acre p deadline) s

/-- RECALL: no further admission, and the pre-emption of every crew on the acre (R364, R418). -/
def recallActs (acre : Nat) (s : State) : List Act :=
  match lendOf s acre with
  | none => []
  | some l =>
    if l.recalling then []
    else .lends (s.lends.map (fun x => if x = l then { x with recalling := true } else x))
      :: requestCrews s (fun c => s.crews.any (fun v => decide (acreOf v.core = acre) && v.saved.isNone && withCrew s v c)) false none

/-- RECALL (R418). -/
def execRecall (acre : Nat) (s : State) : Host.Outcome State Fault Refusal := event (recallActs acre) s

/-- RECALL_COMPLETE: the last crew of the acre is saved or has ended; the acre is its owner's again (R418, R419). -/
def recallDone (acre : Nat) (s : State) : List Act :=
  match lendOf s acre with
  | none => []
  | some l =>
    if l.recalling && s.crews.all (fun c => decide (acreOf c.core ≠ acre) || c.saved.isSome) then
      let left := (s.crews.filter (fun c => decide (acreOf c.core = acre) && c.saved.isSome && decide (c.key.part = l.borrower)
        && !s.lends.any (fun x => x.saved.contains c.key))).map (fun c => c.key)
      [.lends (s.lends.map (fun x => if x = l then { x with done := true, saved := left } else x))]
    else []

/-- RECALL_COMPLETE (R418). -/
def execRecallComplete (acre : Nat) (s : State) : Host.Outcome State Fault Refusal := event (recallDone acre) s

end Sys2Proof.Machine
end

