-- ==== Sys2Proof/Machine/Flags.lean ====
section
/-! DEFINITION. The conversion counters (R84 to R87): the event of one element, and what a counting instruction does. -/

namespace Sys2Proof.Machine

/-- Events counted: NaN produced, saturations, flushes. -/
structure ConvCount where
  nan : Nat
  sat : Nat
  flush : Nat
  deriving DecidableEq, Repr

/-- R84: the event of one destination element, from its source's value, its pattern in format df and whether .sat or R82
clamped it. -/
def convEvent (src : Val) (df p : Nat) (clamped : Bool) : ConvCount :=
  if (decodeVal p df).isNan && !src.isNan then { nan := 1, sat := 0, flush := 0 }
  else if clamped then { nan := 0, sat := 1, flush := 0 }
  else if (match src with | .num _ _ _ _ => !src.isZero | _ => false) && (decodeVal p df).isZero then
    { nan := 0, sat := 0, flush := 1 }
  else { nan := 0, sat := 0, flush := 0 }

/-- The sum of counts. -/
def convSum (l : List ConvCount) : ConvCount :=
  { nan := (l.map (fun c => c.nan)).sum, sat := (l.map (fun c => c.sat)).sum, flush := (l.map (fun c => c.flush)).sum }

/-- A counter after n events; it stops at 0xFFFF_FFFF (R84). -/
def convAdd (c : BitVec 32) (n : Nat) : BitVec 32 := BitVec.ofNat 32 (min (c.toNat + n) 0xFFFFFFFF)

/-- The counters after a counting instruction. -/
def convAct (h : Herd) (n : ConvCount) : HAct :=
  .conv (convAdd h.cvsat n.sat) (convAdd h.cvflush n.flush) (convAdd h.cvnan n.nan)

/-- R86: an enabled counter is taken from at or below LIMIT to above it. -/
def crosses (h : Herd) (n : ConvCount) : Bool :=
  let lim := fld h.cvlim 31 0
  let x (en : Nat) (c : BitVec 32) (k : Nat) : Bool :=
    h.cvlim.getLsbD en && decide (c.toNat ≤ lim) && decide (lim < (convAdd c k).toNat)
  x 32 h.cvsat n.sat || x 33 h.cvflush n.flush || x 34 h.cvnan n.nan

/-- The outcome of a counting instruction: its acts and counts, and the conversion-limit trap after it when one is due. -/
def countRes (c : Ctx) (a : List Act) (n : ConvCount) : Res :=
  let acts := a ++ herdActs c.key [convAct c.h n]
  if crosses c.h n then .after acts (trapOf 11 0) else .done acts

end Sys2Proof.Machine
end

