-- ==== Sys2Proof/Machine/Convert.lean ====
section
/-! DEFINITION. Meanings of the conversions, tags and element moves, opcodes 0x080 to 0x083 (R180 to R182). -/

namespace Sys2Proof.Machine

/-- R180: whether a destination format and part stand with a source format. -/
def cvtOk (df j sf : Nat) : Bool :=
  let ns := elemCount sf
  let nd := elemCount df
  1 ≤ df && df ≤ 11 && decide ((j + 1) * min ns nd ≤ max ns nd)

/-- R180: the result word of one lane with the counts of its elements. -/
def cvtLane (sf df j : Nat) (rm : RMode) (sat : Bool) (a d : Lane) : Lane × ConvCount :=
  let ns := elemCount sf
  let nd := elemCount df
  let m := min ns nd
  let step (acc : Lane × List ConvCount) (t : Nat) : Lane × List ConvCount :=
    let si := if nd < ns then j * m + t else t
    let di := if ns < nd then j * m + t else t
    let v := decodeVal (element a sf si) sf
    let (p, clamped) := encodeVal v df rm sat
    (withElement acc.1 df di p, convEvent v df p clamped :: acc.2)
  let (r, cs) := (List.range m).foldl step (d, [])
  (if df = 9 then r &&& 0x3FFFFFFF#32 else if ns < nd then r else buildWord df (fun i => element r df i), convSum cs)

/-- The format rule of `cvt` (R153). -/
def ruleCvt : FmtRule :=
  { fmts := [1, 2, 3, 4, 5, 6, 7, 8, 9, 10, 11], rm := .any, sat := [1, 2, 3, 4, 5, 6, 7, 8, 9, 10, 11] }

/-- CVT (R180), generic-capable. A word that executes with U = 1 counts the events of one lane, as R84 says, though R280 does not list
that among the differences of a site's forms (DEDUCED, assumption 94). -/
def execCvt (h : Header) (x : F3) (s : State) : Host.Outcome State Fault Refusal :=
  let (d, a) := (x.d.toNat, x.a.toNat)
  let df := x.fn.toNat % 16
  let j := x.fn.toNat / 16
  let bad := !cvtOk df j (mbFmt x.mb)
  issue h (legalGen ([.v d 1, .v a 1, .rsv x.b.toNat, .cause 7 (h.ss = 0#2 && bad), .cause 5 (h.ss = 2#2 && bad)]
      ++ mbGenUses ruleCvt h x.mb))
    (genericArith (.cvt h x) ruleCvt (cvtOk df j) x.mb [a]
      (fun sf => if elemCount sf < elemCount df then [a, d] else [a])
      (fun sf u c _ =>
        let g (l : Nat) := cvtLane sf df j (mbRm x.mb) (mbSat x.mb) (c.h.vreg a l) (c.h.vreg d l)
        countRes c (vecActs c u d df (fun l => (g l).1))
          (convSum ((if u then [c.low] else c.act).map (fun l => (g l).2))))) s

/-- TAG (R181). -/
def execTag (h : Header) (x : F3) (s : State) : Host.Outcome State Fault Refusal :=
  issue h (legal true ([.v x.d.toNat 1, .rsv x.a.toNat, .rsv x.b.toNat, .rsv x.fn.toNat] ++ mbUses ruleBits x.mb))
    (fun c _ => .done (herdActs c.key [.vtag x.d.toNat (BitVec.ofNat 4 (mbFmt x.mb))])) s

/-- The format rule of `pack` and `unpk` (R153). -/
def rulePack : FmtRule := { fmts := [4, 5, 6, 7, 8, 9, 10, 11], rm := .no, sat := [] }

/-- PACK (R182). -/
def execPack (h : Header) (x : F3) (s : State) : Host.Outcome State Fault Refusal :=
  native2 h x rulePack tagFmt (.cause 7 (elemCount (mbFmt x.mb) ≤ x.fn.toNat)) (fun f _ _ a b =>
    buildWord f (fun i => if i = x.fn.toNat then element b f 0 else element a f i)) s

/-- UNPK (R182). -/
def execUnpk (h : Header) (x : F3) (s : State) : Host.Outcome State Fault Refusal :=
  let (d, a) := (x.d.toNat, x.a.toNat)
  issue h (legal true ([.v d 1, .v a 1, .rsv x.b.toNat, .cause 7 (elemCount (mbFmt x.mb) ≤ x.fn.toNat)]
      ++ mbUses rulePack x.mb))
    (fun c _ => .done (vecActs c h.u d (mbFmt x.mb) (fun l =>
      BitVec.ofNat 32 (element (c.h.vreg a l) (mbFmt x.mb) x.fn.toNat)))) s

end Sys2Proof.Machine
end

