-- ==== Sys2Proof/Machine/CrossLane.lean ====
section
/-! DEFINITION. Meanings of the cross-lane instructions, opcodes 0x090 to 0x097 (R183 to R189). -/

namespace Sys2Proof.Machine

/-- R184: the source lane, as an integer. -/
def shflSrc (fn l b : Nat) : Int :=
  if fn = 0 then b else if fn = 1 then (l : Int) - b else if fn = 2 then (l : Int) + b else ((l ^^^ b : Nat) : Int)

/-- SHFL (R184). -/
def execShfl (h : Header) (x : F3) (s : State) : Host.Outcome State Fault Refusal :=
  let (d, a, b) := (x.d.toNat, x.a.toNat, x.b.toNat)
  issue h (legal false [.v d 1, .v a 1, .v b 1, .cause 7 (4 ≤ x.fn.toNat), .rsv x.mb.toNat])
    (fun c _ => .done (vecActs c false d (c.h.tagOf a) (fun l =>
      let src := shflSrc x.fn.toNat l (c.h.vreg b l).toNat
      if 0 ≤ src ∧ src < c.h.width ∧ c.act.contains src.toNat then c.h.vreg a src.toNat else c.h.vreg a l))) s

/-- R185: the word of a fixed lane. -/
def fixedLane (c : Ctx) (a k : Nat) : Lane := if c.h.exited k then 0#32 else c.h.vreg a k

/-- BCAST (R185). -/
def execBcast (h : Header) (x : F3) (s : State) : Host.Outcome State Fault Refusal :=
  let (d, a) := (x.d.toNat, x.a.toNat)
  issue h (fun c => legal false [.v d 1, .v a 1, .rsv x.b.toNat, .cause 7 (c.h.width ≤ x.fn.toNat), .rsv x.mb.toNat] c)
    (fun c _ => .done (vecActs c false d (c.h.tagOf a) (fun _ => fixedLane c a x.fn.toNat))) s

/-- The active lanes whose bit 0 of V[A] is 1 (R187). -/
def voteLanes (c : Ctx) (a : Nat) : List Nat := c.act.filter (fun l => (c.h.vreg a l).getLsbD 0)

/-- VOTE (R187). -/
def execVote (h : Header) (x : F3) (s : State) : Host.Outcome State Fault Refusal :=
  issue h (legal false [.s x.d.toNat 1, .v x.a.toNat 1, .rsv x.b.toNat, .cause 7 (3 ≤ x.fn.toNat), .rsv x.mb.toNat])
    (fun c _ =>
      let n := (voteLanes c x.a.toNat).length
      let r : Bool := if x.fn = 0#8 then n = c.act.length else if x.fn = 1#8 then n ≠ 0 else n = 0 || n = c.act.length
      .done (uniActs c x.d.toNat (if r then 1 else 0))) s

/-- BALLOT (R187). -/
def execBallot (h : Header) (x : F3) (s : State) : Host.Outcome State Fault Refusal :=
  issue h (legal false [.s x.d.toNat 1, .v x.a.toNat 1, .rsv x.b.toNat, .rsv x.fn.toNat, .rsv x.mb.toNat])
    (fun c _ => .done (uniActs c x.d.toNat (maskOf 64 (voteLanes c x.a.toNat)))) s

/-- R189: the identity of an operation in a format. -/
def redIdentity (op c : Nat) : Nat :=
  let w := elemWidth c
  let top := if isSignedInt c then 2 ^ (w - 1) - 1 else 2 ^ w - 1
  let bot := if isSignedInt c then 2 ^ (w - 1) else 0
  if op = 1 then (match ffmtOf c with | some f => f.infPat.getD f.maxPat | none => top)
  else if op = 2 then (match ffmtOf c with | some f => f.infPat.getD f.maxPat + 2 ^ f.sbit | none => bot)
  else if op = 3 then 2 ^ w - 1
  else 0

/-- R188: the reduction of the patterns of one element over lanes. -/
def reduceEl (op c : Nat) (rm : RMode) (sat : Bool) (ps : List Nat) : Nat :=
  match ps with
  | [] => redIdentity op c
  | p :: r =>
    if op = 0 then
      if isInt c then encodeIntArith ((ps.map (fun q => intOf q c)).sum) c sat
      else encodeArith (vsum rm (ps.map (fun q => decodeVal q c))) c rm sat
    else if op = 1 then r.foldl (minPat c) (minPat c p p)
    else if op = 2 then r.foldl (maxPat c) (maxPat c p p)
    else if op = 3 then r.foldl (fun x y => x &&& y) p
    else if op = 4 then r.foldl (fun x y => x ||| y) p
    else r.foldl (fun x y => x ^^^ y) p

/-- R188 over a set of lanes. -/
def reduceLanes (c : Ctx) (op f : Nat) (rm : RMode) (sat : Bool) (a : Nat) (ls : List Nat) : Lane :=
  buildWord f (fun i => reduceEl op f rm sat (ls.map (fun l => element (c.h.vreg a l) f i)))

/-- The format rule of `hred` and `hscan` (R153), by operation. -/
def ruleRed (op : Nat) : FmtRule :=
  { fmts := if op < 3 then [1, 2, 3, 4, 5, 10, 11] else [1, 2, 10, 11], rm := .float
    sat := if op = 0 then [1, 2, 10, 11] else [] }

/-- HRED (R188). -/
def execHred (h : Header) (x : F3) (s : State) : Host.Outcome State Fault Refusal :=
  let (d, a, op, f) := (x.d.toNat, x.a.toNat, x.fn.toNat, mbFmt x.mb)
  issue h (legal false ([.v d 1, .v a 1, .rsv x.b.toNat, .cause 7 (6 ≤ op)] ++ mbUses (ruleRed op) x.mb))
    (fun c _ => .done (vecActs c false d f (fun _ => reduceLanes c op f (mbRm x.mb) (mbSat x.mb) a c.act))) s

/-- HSCAN (R189). -/
def execHscan (h : Header) (x : F3) (s : State) : Host.Outcome State Fault Refusal :=
  let (d, a, op, f) := (x.d.toNat, x.a.toNat, x.fn.toNat % 8, mbFmt x.mb)
  let ex := x.fn.getLsbD 3
  issue h (legal false ([.v d 1, .v a 1, .rsv x.b.toNat, .cause 7 (6 ≤ op || 16 ≤ x.fn.toNat)]
      ++ mbUses (ruleRed op) x.mb))
    (fun c _ => .done (vecActs c false d f (fun l =>
      reduceLanes c op f (mbRm x.mb) (mbSat x.mb) a (c.act.filter (fun k => k < l || (!ex && k = l)))))) s

/-- RDLANE (R185). -/
def execRdlane (h : Header) (x : F3) (s : State) : Host.Outcome State Fault Refusal :=
  issue h (fun c => legal false
      [.s x.d.toNat 1, .v x.a.toNat 1, .rsv x.b.toNat, .cause 7 (c.h.width ≤ x.fn.toNat), .rsv x.mb.toNat] c)
    (fun c _ => .done (uniActs c x.d.toNat ((fixedLane c x.a.toNat x.fn.toNat).setWidth 64))) s

/-- SPLAT (R186). -/
def execSplat (h : Header) (x : F3) (s : State) : Host.Outcome State Fault Refusal :=
  issue h (legal false [.v x.d.toNat 1, .s x.a.toNat 1, .rsv x.b.toNat, .cause 7 (2 ≤ x.fn.toNat), .rsv x.mb.toNat])
    (fun c _ => .done (vecActs c false x.d.toNat 0 (fun _ =>
      if x.fn = 0#8 then (c.h.sreg x.a.toNat).extractLsb' 0 32 else (c.h.sreg x.a.toNat).extractLsb' 32 32))) s

end Sys2Proof.Machine
end

