-- ==== Sys2Proof/Machine/FloatArith.lean ====
section
/-! DEFINITION. Meanings of the floating-point functions, opcodes 0x040 to 0x04C (R175 to R179). -/

namespace Sys2Proof.Machine

/-- Div (R175). -/
def execDiv (h : Header) (x : F3) (s : State) : Host.Outcome State Fault Refusal :=
  arith2 (.div h x) h x ruleFRmSat id (.rsv x.fn.toNat) laneDiv s

/-- Sqrt (R175). -/
def execSqrt (h : Header) (x : F3) (s : State) : Host.Outcome State Fault Refusal :=
  arith1 (.sqrt h x) h x ruleFRm laneSqrt s

/-- Rsqrt (R176, R177). -/
def execRsqrt (h : Header) (x : F3) (s : State) : Host.Outcome State Fault Refusal :=
  arith1 (.rsqrt h x) h x ruleFSat (laneFn 0x42 .rsqrt) s

/-- Rcp (R176, R177). -/
def execRcp (h : Header) (x : F3) (s : State) : Host.Outcome State Fault Refusal :=
  arith1 (.rcp h x) h x ruleFSat (laneFn 0x43 .rcp) s

/-- Exp2 (R176, R177). -/
def execExp2 (h : Header) (x : F3) (s : State) : Host.Outcome State Fault Refusal :=
  arith1 (.exp2 h x) h x ruleFSat (laneFn 0x44 .exp2) s

/-- Log2 (R176, R177). -/
def execLog2 (h : Header) (x : F3) (s : State) : Host.Outcome State Fault Refusal :=
  arith1 (.log2 h x) h x ruleF (laneFn 0x45 .log2) s

/-- Sin (R176, R177). -/
def execSin (h : Header) (x : F3) (s : State) : Host.Outcome State Fault Refusal :=
  arith1 (.sin h x) h x ruleF (laneFn 0x46 .sin) s

/-- Cos (R176, R177). -/
def execCos (h : Header) (x : F3) (s : State) : Host.Outcome State Fault Refusal :=
  arith1 (.cos h x) h x ruleF (laneFn 0x47 .cos) s

/-- Tanh (R176, R177). -/
def execTanh (h : Header) (x : F3) (s : State) : Host.Outcome State Fault Refusal :=
  arith1 (.tanh h x) h x ruleF (laneFn 0x48 .tanh) s

/-- Fclass (R178). -/
def execFclass (h : Header) (x : F3) (s : State) : Host.Outcome State Fault Refusal :=
  native1 h x ruleF tagZero laneClass s

/-- Rint (R175). -/
def execRint (h : Header) (x : F3) (s : State) : Host.Outcome State Fault Refusal :=
  arith1 (.rint h x) h x ruleFRm laneRint s

/-- Ldexp (R175). -/
def execLdexp (h : Header) (x : F3) (s : State) : Host.Outcome State Fault Refusal :=
  native2 h x ruleFRmSat tagFmt (.rsv x.fn.toNat) laneLdexp s

/-- Sgnj (R179). -/
def execSgnj (h : Header) (x : F3) (s : State) : Host.Outcome State Fault Refusal :=
  native2 h x ruleF tagFmt (.cause 7 (3 ≤ x.fn.toNat)) (laneSgnj x.fn.toNat) s

end Sys2Proof.Machine
end

