-- ==== Sys2Proof/Machine/IntArith.lean ====
section
/-! DEFINITION. Meanings of the integer and general lane arithmetic, opcodes 0x001 to 0x03E (R153 to R174). -/

namespace Sys2Proof.Machine

/-- Add (R160). -/
def execAdd (h : Header) (x : F3) (s : State) : Host.Outcome State Fault Refusal :=
  arith2 (.add h x) h x ruleAdd id (.rsv x.fn.toNat) laneAdd s

/-- Sub (R160). -/
def execSub (h : Header) (x : F3) (s : State) : Host.Outcome State Fault Refusal :=
  arith2 (.sub h x) h x ruleAdd id (.rsv x.fn.toNat) laneSub s

/-- Mul (R160). -/
def execMul (h : Header) (x : F3) (s : State) : Host.Outcome State Fault Refusal :=
  arith2 (.mul h x) h x ruleAdd id (.rsv x.fn.toNat) laneMul s

/-- Mulhi (R161). -/
def execMulhi (h : Header) (x : F3) (s : State) : Host.Outcome State Fault Refusal :=
  native2 h x ruleInts tagFmt (.rsv x.fn.toNat) laneMulhi s

/-- Min (R162). -/
def execMin (h : Header) (x : F3) (s : State) : Host.Outcome State Fault Refusal :=
  arith2 (.min h x) h x ruleMin id (.rsv x.fn.toNat) laneMin s

/-- Max (R162). -/
def execMax (h : Header) (x : F3) (s : State) : Host.Outcome State Fault Refusal :=
  arith2 (.max h x) h x ruleMin id (.rsv x.fn.toNat) laneMax s

/-- Abs (R163). -/
def execAbs (h : Header) (x : F3) (s : State) : Host.Outcome State Fault Refusal :=
  arith1 (.abs h x) h x ruleAbs laneAbs s

/-- Neg (R163). -/
def execNeg (h : Header) (x : F3) (s : State) : Host.Outcome State Fault Refusal :=
  arith1 (.neg h x) h x ruleNeg laneNeg s

/-- And (R167). -/
def execAnd (h : Header) (x : F3) (s : State) : Host.Outcome State Fault Refusal :=
  native2 h x ruleBits (tagMove x.a.toNat) (.rsv x.fn.toNat) (fun _ _ _ a b => a &&& b) s

/-- Or (R167). -/
def execOr (h : Header) (x : F3) (s : State) : Host.Outcome State Fault Refusal :=
  native2 h x ruleBits (tagMove x.a.toNat) (.rsv x.fn.toNat) (fun _ _ _ a b => a ||| b) s

/-- Xor (R167). -/
def execXor (h : Header) (x : F3) (s : State) : Host.Outcome State Fault Refusal :=
  native2 h x ruleBits (tagMove x.a.toNat) (.rsv x.fn.toNat) (fun _ _ _ a b => a ^^^ b) s

/-- Andn (R167). -/
def execAndn (h : Header) (x : F3) (s : State) : Host.Outcome State Fault Refusal :=
  native2 h x ruleBits (tagMove x.a.toNat) (.rsv x.fn.toNat) (fun _ _ _ a b => a &&& ~~~b) s

/-- Not (R167). -/
def execNot (h : Header) (x : F3) (s : State) : Host.Outcome State Fault Refusal :=
  native1 h x ruleBits (tagMove x.a.toNat) (fun _ _ _ a _ => ~~~a) s

/-- Shl (R168). -/
def execShl (h : Header) (x : F3) (s : State) : Host.Outcome State Fault Refusal :=
  native2 h x ruleInts tagFmt (.rsv x.fn.toNat) (bits2 shlEl) s

/-- Shr (R168). -/
def execShr (h : Header) (x : F3) (s : State) : Host.Outcome State Fault Refusal :=
  native2 h x ruleInts tagFmt (.rsv x.fn.toNat) (bits2 shrEl) s

/-- Sar (R168). -/
def execSar (h : Header) (x : F3) (s : State) : Host.Outcome State Fault Refusal :=
  native2 h x ruleInts tagFmt (.rsv x.fn.toNat) (bits2 sarEl) s

/-- Rot (R168). -/
def execRot (h : Header) (x : F3) (s : State) : Host.Outcome State Fault Refusal :=
  native2 h x ruleInts tagFmt (.rsv x.fn.toNat) (bits2 rotEl) s

/-- Popc (R169). -/
def execPopc (h : Header) (x : F3) (s : State) : Host.Outcome State Fault Refusal :=
  native1 h x ruleInts tagFmt (bits2 (fun w u _ => popcEl w u)) s

/-- Clz (R169). -/
def execClz (h : Header) (x : F3) (s : State) : Host.Outcome State Fault Refusal :=
  native1 h x ruleInts tagFmt (bits2 (fun w u _ => clzEl w u)) s

/-- Ctz (R169). -/
def execCtz (h : Header) (x : F3) (s : State) : Host.Outcome State Fault Refusal :=
  native1 h x ruleInts tagFmt (bits2 (fun w u _ => ctzEl w u)) s

/-- Brev (R169). -/
def execBrev (h : Header) (x : F3) (s : State) : Host.Outcome State Fault Refusal :=
  native1 h x ruleInts tagFmt (bits2 (fun w u _ => brevEl w u)) s

/-- Bfe (R170). -/
def execBfe (h : Header) (x : F3) (s : State) : Host.Outcome State Fault Refusal :=
  native2 h x ruleI tagFmt (.rsv x.fn.toNat) laneBfe s

/-- Mov (R171). -/
def execMov (h : Header) (x : F3) (s : State) : Host.Outcome State Fault Refusal :=
  native1 h x ruleBits (tagMove x.a.toNat) (fun _ _ _ a _ => a) s

/-- Cmp (R172). -/
def execCmp (h : Header) (x : F3) (s : State) : Host.Outcome State Fault Refusal :=
  arith2 (.cmp h x) h x ruleMin (fun _ => 0) (.cause 7 (8 ≤ x.fn.toNat)) (laneCmp x.fn.toNat) s

/-- Fma (R165), generic-capable. -/
def execFma (h : Header) (x : F4) (s : State) : Host.Outcome State Fault Refusal :=
  let (d, a, b, k) := (x.d.toNat, x.a.toNat, x.b.toNat, x.c.toNat)
  issue h (legalGen ([.v d 1, .v a 1, .v b 1, .v k 1] ++ mbGenUses ruleFma h x.mb))
    (genericArith (.fma h x) ruleFma (fun _ => true) x.mb [a, b, k] (fun _ => [a, b, k]) (fun f u c _ =>
      .done (vecActs c u d f (fun l =>
        laneFma f (mbRm x.mb) (mbSat x.mb) (c.h.vreg a l) (c.h.vreg b l) (c.h.vreg k l))))) s

/-- Mad (R165). -/
def execMad (h : Header) (x : F4) (s : State) : Host.Outcome State Fault Refusal :=
  native3 h x ruleMad tagFmt laneFma s

/-- Sel (R171). -/
def execSel (h : Header) (x : F4) (s : State) : Host.Outcome State Fault Refusal :=
  native3 h x ruleBits (tagMove x.a.toNat) (fun _ _ _ a b k => if k.getLsbD 0 then a else b) s

/-- Bfi (R170). -/
def execBfi (h : Header) (x : F4) (s : State) : Host.Outcome State Fault Refusal :=
  native3 h x ruleBits (tagMove x.a.toNat) (fun _ _ _ a b k => laneBfi a b k) s

/-- Dot4 (R166). -/
def execDot4 (h : Header) (x : F4) (s : State) : Host.Outcome State Fault Refusal :=
  native3 h x ruleDot4 (fun _ f => if f = 10 then 1 else 3) laneDot4 s

/-- Addi (R164). -/
def execAddi (h : Header) (x : FI) (s : State) : Host.Outcome State Fault Refusal :=
  nativeImm h x ruleISat [] tagFmt (fun f rm sat a => laneAdd f rm sat a (immWord f x.imm)) s

/-- Muli (R164). -/
def execMuli (h : Header) (x : FI) (s : State) : Host.Outcome State Fault Refusal :=
  nativeImm h x ruleISat [] tagFmt (fun f rm sat a => laneMul f rm sat a (immWord f x.imm)) s

/-- Andi (R167). -/
def execAndi (h : Header) (x : FI) (s : State) : Host.Outcome State Fault Refusal :=
  nativeImm h x ruleBits [] (tagMove x.a.toNat) (fun _ _ _ a => a &&& x.imm.setWidth 32) s

/-- Ori (R167). -/
def execOri (h : Header) (x : FI) (s : State) : Host.Outcome State Fault Refusal :=
  nativeImm h x ruleBits [] (tagMove x.a.toNat) (fun _ _ _ a => a ||| x.imm.setWidth 32) s

/-- Xori (R167). -/
def execXori (h : Header) (x : FI) (s : State) : Host.Outcome State Fault Refusal :=
  nativeImm h x ruleBits [] (tagMove x.a.toNat) (fun _ _ _ a => a ^^^ x.imm.setWidth 32) s

/-- Shli (R168). -/
def execShli (h : Header) (x : FI) (s : State) : Host.Outcome State Fault Refusal :=
  nativeImm h x ruleInts [] tagFmt (fun f _ _ a =>
    buildWord f (fun i => shlEl (elemWidth f) (element a f i) x.imm.toNat)) s

/-- Shri (R168). -/
def execShri (h : Header) (x : FI) (s : State) : Host.Outcome State Fault Refusal :=
  nativeImm h x ruleInts [] tagFmt (fun f _ _ a =>
    buildWord f (fun i => shrEl (elemWidth f) (element a f i) x.imm.toNat)) s

/-- Sari (R168). -/
def execSari (h : Header) (x : FI) (s : State) : Host.Outcome State Fault Refusal :=
  nativeImm h x ruleInts [] tagFmt (fun f _ _ a =>
    buildWord f (fun i => sarEl (elemWidth f) (element a f i) x.imm.toNat)) s

/-- Cmpi (R173). -/
def execCmpi (h : Header) (x : FI) (s : State) : Host.Outcome State Fault Refusal :=
  nativeImm h x ruleI [.cause 7 (6 ≤ x.imm.toNat / 8192)] tagZero (fun f rm sat a =>
    laneCmp (x.imm.toNat / 8192) f rm sat a (cmpImm f x.imm)) s

/-- Mini (R164). -/
def execMini (h : Header) (x : FI) (s : State) : Host.Outcome State Fault Refusal :=
  nativeImm h x ruleI [] tagFmt (fun f rm sat a => laneMin f rm sat a (immWord f x.imm)) s

/-- Maxi (R164). -/
def execMaxi (h : Header) (x : FI) (s : State) : Host.Outcome State Fault Refusal :=
  nativeImm h x ruleI [] tagFmt (fun f rm sat a => laneMax f rm sat a (immWord f x.imm)) s

/-- Movi (R174). -/
def execMovi (h : Header) (x : FL) (s : State) : Host.Outcome State Fault Refusal :=
  issue h (legal true [.v x.d.toNat 1]) (fun c _ => .done (vecActs c h.u x.d.toNat 0 (fun _ => x.imm))) s

/-- Movs (R174). -/
def execMovs (h : Header) (x : FL) (s : State) : Host.Outcome State Fault Refusal :=
  issue h (legal false [.s x.d.toNat 1]) (fun c _ => .done (uniActs c x.d.toNat (x.imm.signExtend 64))) s

/-- Movhs (R174). -/
def execMovhs (h : Header) (x : FL) (s : State) : Host.Outcome State Fault Refusal :=
  issue h (legal false [.s x.d.toNat 1]) (fun c _ =>
    .done (uniActs c x.d.toNat (x.imm ++ (c.h.sreg x.d.toNat).setWidth 32))) s

end Sys2Proof.Machine
end

