-- ==== Sys2Proof/Machine/Matrix.lean ====
section
/-! DEFINITION. The matrix commands, opcodes 0x180 to 0x186: operand descriptors, checks at issue, the slice queue and leave
(R20, R287 to R292, R294 to R302, R305, R306). -/

namespace Sys2Proof.Machine

/-- R94: the class of a format, 0 for 8- and 6-bit, 1 for 16-bit, 2 for FP32; none for a format that a matrix command does
not take. -/
def mxClass (f : Nat) : Option Nat :=
  if 6 ≤ f && f ≤ 10 then some 0 else if f = 4 || f = 5 then some 1 else if f = 3 then some 2 else none

/-- K of a class (R94). -/
def mxK (cls : Nat) : Nat := if cls = 0 then 256 else if cls = 1 then 128 else 32

/-- Words in an `mma` line of a format (R291). A format that no command takes counts as 64 words, which matters only to which
causes of an illegal word hold (DESIGN CHOICE, assumption 79). -/
def mmaLW (f : Nat) : Nat := if f = 9 then 52 else if f = 3 then 32 else 64

/-- Words in an `mld` or `mst` line of a format (R291). -/
def lineLW (f : Nat) : Nat := if f = 3 then 64 else if f = 4 || f = 5 then 32 else if f = 9 then 13 else 16

/-- One half of a format block (R93). -/
structure FmtHalf where
  fmt : Nat
  bl : Bool
  sce : Bool
  soff : Nat
  deriving DecidableEq, Repr

/-- The half for operand A (lo = 0) or B (lo = 32). -/
def fmtHalf (w : Word) (lo : Nat) : FmtHalf :=
  { fmt := fld w (lo + 3) lo, bl := w.getLsbD (lo + 6), sce := w.getLsbD (lo + 7), soff := fld w (lo + 31) (lo + 11) }

/-- R94: whether a half breaks its own rules. -/
def halfBad (w : Word) (lo : Nat) : Bool :=
  fld w (lo + 10) (lo + 8) ≠ 0 || fld w (lo + 5) (lo + 4) ≠ 0 || (mxClass (fmtHalf w lo).fmt).isNone
    || ((fmtHalf w lo).fmt = 3 && (fmtHalf w lo).bl && (fmtHalf w lo).sce)

/-- R94: an illegal format block. -/
def blockBad (w : Word) : Bool :=
  halfBad w 0 || halfBad w 32 || mxClass (fmtHalf w 0).fmt ≠ mxClass (fmtHalf w 32).fmt

/-- The fields of an operand descriptor (R290). -/
def opKind (a : Word) : Nat := fld a 63 60
def lpitch (x : Word) : Nat := fld x 15 0
def tpitch (x : Word) : Nat := fld x 44 24

/-- Words that a line is rotated by (R290, R291). -/
def rotStep (x : Word) : Nat :=
  if fld x 17 16 = 0 then 0 else if fld x 17 16 = 1 then 1 else if fld x 17 16 = 2 then 2 else 4

/-- R290: whether a descriptor is refused under cause 7; `regs` admits KIND 0xF. -/
def descBad (h : Herd) (a x : Word) (lw nk : Nat) (regs : Bool) : Bool :=
  if opKind a = 1 || opKind a = 4 then
    (if opKind a = 1 then fld a 59 21 ≠ 0 else fld a 59 20 ≠ 0) || a.toNat % 4 ≠ 0 || fld x 63 45 ≠ 0 || fld x 23 18 ≠ 0
      || tpitch x % 4 ≠ 0 || lpitch x % 4 ≠ 0 || lpitch x < 4 * lw
  else if opKind a = 15 && regs then fld a 59 8 ≠ 0 || x ≠ 0#64 || h.width ≠ 64 || 1 < nk
  else true

/-- The offset of a descriptor within its tile store or slot. -/
def opOff (a : Word) : Nat := if opKind a = 4 then fld a 15 0 else fld a 20 0

/-- R292: bytes of a footprint. -/
def footprint (x : Word) (lw nk : Nat) : Nat := (nk - 1) * tpitch x + 63 * lpitch x + 4 * lw

/-- R288: every lane of every live furrow is active and the herd is ganged. -/
def fullMask (c : Ctx) : Bool :=
  c.h.ganged && c.h.liveFurs.all (fun f => (c.h.fur f).path = 0xFF#8) && decide (c.act.length = c.lanes.length)

/-- R292: the protection cause of an operand: a slot that is not held, or a footprint beyond it. -/
def slotFault (s : State) (c : Ctx) (a x : Word) (lw nk : Nat) : Option (Nat × Nat × Word) :=
  if opKind a = 4 && ((heldSlot s c.core (fld a 19 16) c.key.crew).isNone || 65536 < fld a 15 0 + footprint x lw nk) then
    some (2, 6, a)
  else none

/-- The bytes of the crew's tile store. -/
def tileLenOf (s : State) (c : Ctx) : Nat := match s.crew? c.key.crew with | some x => x.tileLen | none => 0

/-- R292: the tile-bound fault of an operand. Its record's ADDR is the operand's descriptor S[x], and for scales the tile address of SOFF
(DESIGN CHOICE, assumption 100). -/
def boundFault (s : State) (c : Ctx) (a x : Word) (lw nk : Nat) : Option (Nat × Nat × Word) :=
  if opKind a = 1 && decide (tileLenOf s c < fld a 20 0 + footprint x lw nk) then some (3, 0, a) else none

/-- Bytes of an operand's scales (R292, R95). -/
def scaleLen (b : FmtHalf) (nk : Nat) : Nat :=
  if b.sce then nk * 64 * (mxK ((mxClass b.fmt).getD 0) / (if b.bl then 64 else 32)) else 0

/-- R95, R292: the tile-bound fault of an operand's scales (ADDR: assumption 100). -/
def scaleFault (s : State) (c : Ctx) (b : FmtHalf) (nk : Nat) : Option (Nat × Nat × Word) :=
  if b.sce && decide (tileLenOf s c < b.soff + scaleLen b nk) then
    some (3, 0, BitVec.ofNat 64 (2 ^ 60 + b.soff))
  else none

/-- The source tile of `mabs`, `mmov` and `mrd` (R287). -/
def mxTile (x : BitVec 14) : Nat := fld (x.setWidth 64) 2 0

/-- R297: whether a command that writes a tile reads one of the marked tiles. -/
def readsMark (p : BitVec 8) (m : MCmd) : Bool :=
  (m.op = 0x180 && !m.x.getLsbD 3 && p.getLsbD m.d) || (m.op = 0x185 && p.getLsbD (mxTile m.x))

/-- Whether a command writes an accumulator tile. -/
def MCmd.writesTile (m : MCmd) : Bool := m.op = 0x180 || m.op = 0x181 || m.op = 0x182 || m.op = 0x185

/-- One tile's mark set or cleared. -/
def markTile (p : BitVec 8) (t : Nat) (b : Bool) : BitVec 8 :=
  if b then p ||| BitVec.ofNat 8 (2 ^ t) else p &&& ~~~(BitVec.ofNat 8 (2 ^ t))

/-- R297: the marks after a command, which meets no new error as far as is known. -/
def cmdMark (p : BitVec 8) (m : MCmd) : BitVec 8 :=
  if m.writesTile then markTile p m.d (if m.phase = 2 then m.bad else readsMark p m) else p

/-- R297: the poison marks of a herd as its commands issued so far will leave them. -/
def poisonAhead (s : State) (h : Herd) : BitVec 8 := (s.cmds.filter (fun m => decide (m.key = h.key))).foldl cmdMark h.accPoison

/-- R297: a command reads a poisoned tile. -/
def poisonFault (s : State) (c : Ctx) (t : Nat) (reads : Bool) : Option (Nat × Nat × Word) :=
  if reads && (poisonAhead s c.h).getLsbD t then some (2, 10, 0#64) else none

/-- R103: the first class, and within it the first of the command's ranges. -/
def firstFault (l : List (Option (Nat × Nat × Word))) : Option (Nat × Nat × Word) :=
  let fs := l.filterMap id
  (fs.find? (fun x => decide (x.1 = 2))).or fs.head?

/-- A scoreboard entry of a tile-store range. -/
def tileEnt (c : Ctx) (lo n : Nat) (dst : Bool) : List ScoreEnt :=
  if n = 0 then [] else [{ core := c.core, crew := c.key.crew, lo := lo, hi := lo + n, dst := dst }]

/-- The entry of an operand (R300). -/
def opEnt (c : Ctx) (a x : Word) (lw nk : Nat) (dst : Bool) : List ScoreEnt :=
  if opKind a = 1 then tileEnt c (fld a 20 0) (footprint x lw nk) dst else []

/-- The landing slot of an operand (R301). -/
def opSlot (a : Word) : List Nat := if opKind a = 4 then [fld a 19 16] else []

/-- The leave table in force (R305). -/
def leaveOf (s : State) : LeaveTable :=
  match s.cfg with
  | some b => b.leave
  | none => { mma8 := 420, mma16 := 400, mma32 := 300, mld := 60, mst8 := 60, mst16 := 60, mst32 := 60, mzero := 0
              mmov := 0, mabs := 0, mrd := 0 }

/-- R305: the cost of a command, by opcode and class. -/
def leaveCost (s : State) (op cls : Nat) : Nat :=
  let t := leaveOf s
  if op = 0x180 then (if cls = 0 then t.mma8 else if cls = 1 then t.mma16 else t.mma32)
  else if op = 0x181 then t.mzero
  else if op = 0x182 then t.mld
  else if op = 0x183 then (if cls = 0 then t.mst8 else if cls = 1 then t.mst16 else t.mst32)
  else if op = 0x184 then t.mabs
  else if op = 0x185 then t.mmov
  else t.mrd

/-- The commands of a slice's queue, the head first (R289). -/
def sliceQueue (s : State) (core slice : Nat) : List MCmd :=
  s.cmds.filter (fun m => decide (m.core = core) && decide (m.slice = slice))

/-- A command with one field set. -/
def setCmd (s : State) (m : MCmd) : Act := .cmds (s.cmds.map (fun x => if x.id = m.id then m else x))

/-- R306: the head of a slice's queue begins, or asks for leave. -/
def startHead (core slice : Nat) (s : State) : List Act :=
  match sliceQueue s core slice with
  | [] => []
  | m :: _ =>
    if m.phase ≠ 0 then []
    else if m.cost = 0 then [setCmd s { m with phase := 1 }]
    else if s.leaveQ.contains (core, slice) then []
    else [.leaveQ (s.leaveQ ++ [(core, slice)])]

/-- R304: a command of another herd than the one before drops the slice's operand cache. -/
def cacheTurn (s : State) (h : Herd) : List Act :=
  let last := s.ocLast.find? (fun p => decide (p.1 = (h.core, h.slice)))
  let rest := s.ocLast.filter (fun p => decide (p.1 ≠ (h.core, h.slice)))
  (match last with | some (_, k) => if k ≠ h.key then [dropSlice s h.core h.slice] else [] | none => [])
    ++ [.ocLast (rest ++ [((h.core, h.slice), h.key)])]

/-- The issue of a command after its legality (R288, R289): the mask, the access checks, the queue and the scoreboard. -/
def mxIssue (c : Ctx) (s : State) (faults : List (Option (Nat × Nat × Word))) (m : MCmd) (waits : Bool) : Res :=
  if !fullMask c then .trap (trapOf 6 0) []
  else match firstFault faults with
    | some (cls, cause, a) => .trap (trapAt cls cause 255 a) []
    | none =>
      if 4 ≤ (sliceQueue s c.core c.h.slice).length || !scoreFree s m.ents then .stall
      else
        let q := chain s [
          fun s => cacheTurn s c.h ++ [.cmds (s.cmds ++ [m]), .nextCmd (s.nextCmd + 1)],
          startHead c.core c.h.slice]
        if waits then .jump (q ++ herdActs c.key
            [.holds (c.h.holds ++ [{ group := furMask c.furs, why := .matrix m.id }])])
        else .done q

/-- A command of the issuing herd without operands. -/
def mxCmd (c : Ctx) (s : State) (op d : Nat) (x : BitVec 14) (cls : Nat) : MCmd :=
  { id := s.nextCmd, key := c.key, group := furMask c.furs, core := c.core, slice := c.h.slice, op := op, d := d, x := x, a0 := 0, a1 := 0, b0 := 0
    b1 := 0, sf := 0, useSf := false, regs := [], cost := leaveCost s op cls, ents := [], slots := [], phase := 0
    result := [], bad := false }

/-- The word of a KIND 0xF operand for lane t: one that has exited keeps no register state (R201), so that its word is a free value
(DESIGN CHOICE, assumption 80); `n` numbers it. -/
def opReg (h : Herd) (n r t : Nat) : Lane :=
  if h.exited t then BitVec.ofNat 32 (Config.freeNat (n + t)) else h.vreg r t

/-- The words of a KIND 0xF operand, read at issue (R291, R299); `n` is the first free value. -/
def opRegs (h : Herd) (n : Nat) (a : Word) (lw : Nat) : Sparse 32 :=
  if opKind a = 15 then
    (List.range lw).foldl (fun m w => Sparse.write zeros m (64 * w)
      ((List.range 64).map (opReg h (n + 64 * w) (fld a 7 0 + w)))) []
  else []

/-- How many free values those words take. -/
def regsDrawn (h : Herd) (a : Word) (lw : Nat) : Nat := if opKind a = 15 && (List.range 64).any h.exited then 64 * lw else 0

/-- A command that is queued has drawn some free values. -/
def Res.drew (n : Nat) : Res → Res
  | .done a => if n = 0 then .done a else .done (a ++ [.free n])
  | r => r

/-- The legality of `mma` (R287, R290, R292, R94). -/
def mmaUses (h : Herd) (x : FE) : List Use :=
  let (sa, sb, sf) := (x.sa.toNat, x.sb.toNat, x.sf.toNat)
  let nk := fld (x.x.setWidth 64) 2 0 + 1
  let blk := h.sreg sf
  let lwA := mmaLW (fmtHalf blk 0).fmt
  let lwB := mmaLW (fmtHalf blk 32).fmt
  let a := h.sreg sa
  [.a x.d.toNat, .s sa 2, .s sb 2, .rsv (fld (x.x.setWidth 64) 13 4), .cause 7 (blockBad blk),
   .cause 7 (descBad h a (h.sreg (sa + 1)) lwA nk true), .cause 7 (descBad h (h.sreg sb) (h.sreg (sb + 1)) lwB nk false),
   .cause 3 (opKind a = 15 && decide (h.nregs ≤ fld a 7 0 + lwA - 1))]

/-- What `mma` does at issue (R288 to R293). Its access faults stand by class (R103), so that the poisoned tile's, a protection
fault, precedes every tile bound; of the protection faults those of cause 6 come first (DESIGN CHOICE, assumption 78). -/
def mmaRes (x : FE) (c : Ctx) (s : State) : Res :=
  let (d, sa, sb, sf) := (x.d.toNat, x.sa.toNat, x.sb.toNat, x.sf.toNat)
  let nk := fld (x.x.setWidth 64) 2 0 + 1
  let (a0, a1, b0, b1, blk) := (c.h.sreg sa, c.h.sreg (sa + 1), c.h.sreg sb, c.h.sreg (sb + 1), c.h.sreg sf)
  let (ha, hb) := (fmtHalf blk 0, fmtHalf blk 32)
  let (la, lb) := (mmaLW ha.fmt, mmaLW hb.fmt)
  let m := mxCmd c s 0x180 d x.x ((mxClass ha.fmt).getD 0)
  (mxIssue c s
    [slotFault s c a0 a1 la nk, slotFault s c b0 b1 lb nk, poisonFault s c d (!x.x.getLsbD 3), boundFault s c a0 a1 la nk,
     boundFault s c b0 b1 lb nk, scaleFault s c ha nk, scaleFault s c hb nk]
    { m with a0 := a0, a1 := a1, b0 := b0, b1 := b1, sf := blk, useSf := true, regs := opRegs c.h s.freeCtr a0 la
             ents := opEnt c a0 a1 la nk false ++ opEnt c b0 b1 lb nk false ++ tileEnt c ha.soff (scaleLen ha nk) false
               ++ tileEnt c hb.soff (scaleLen hb nk) false
             slots := opSlot a0 ++ opSlot b0 } false).drew (regsDrawn c.h a0 la)

/-- MMA (R288 to R293). -/
def execMma (h : Header) (x : FE) (s : State) : Host.Outcome State Fault Refusal :=
  issue h (fun c => legal false (mmaUses c.h x) c) (mmaRes x) s

/-- MZERO (R294). -/
def execMzero (h : Header) (x : FE) (s : State) : Host.Outcome State Fault Refusal :=
  issue h (legal false [.a x.d.toNat, .rsv x.sa.toNat, .rsv x.sb.toNat, .rsv x.sf.toNat, .rsv x.x.toNat])
    (fun c s => mxIssue c s [] (mxCmd c s 0x181 x.d.toNat x.x 0) false) s

/-- MLD (R290 to R292, R294). -/
def execMld (h : Header) (x : FE) (s : State) : Host.Outcome State Fault Refusal :=
  let (d, sa) := (x.d.toNat, x.sa.toNat)
  issue h (fun c => legal false [.a d, .s sa 2, .rsv x.sb.toNat, .rsv x.sf.toNat, .rsv x.x.toNat,
      .cause 7 (descBad c.h (c.h.sreg sa) (c.h.sreg (sa + 1)) 64 1 false)] c)
    (fun c s =>
      let (a0, a1) := (c.h.sreg sa, c.h.sreg (sa + 1))
      let m := mxCmd c s 0x182 d x.x 0
      mxIssue c s [slotFault s c a0 a1 64 1, boundFault s c a0 a1 64 1]
        { m with a0 := a0, a1 := a1, ents := opEnt c a0 a1 64 1 false, slots := opSlot a0 } false) s

/-- MST (R290 to R292, R295): a slot is no destination. -/
def execMst (h : Header) (x : FE) (s : State) : Host.Outcome State Fault Refusal :=
  let (d, sa, sf) := (x.d.toNat, x.sa.toNat, x.sf.toNat)
  let f := fld (x.x.setWidth 64) 3 0
  let lw := lineLW f
  issue h (fun c => legal false [.a d, .s sa 2, .rsv x.sb.toNat, .rsv (fld (x.x.setWidth 64) 13 7),
      .cause 7 (mxClass f).isNone, .cause 7 (descBad c.h (c.h.sreg sa) (c.h.sreg (sa + 1)) lw 1 false)] c)
    (fun c s =>
      let (a0, a1) := (c.h.sreg sa, c.h.sreg (sa + 1))
      let m := mxCmd c s 0x183 d x.x ((mxClass f).getD 0)
      mxIssue c s [if opKind a0 = 4 then some (2, 3, a0) else none, poisonFault s c d true, boundFault s c a0 a1 lw 1]
        { m with a0 := a0, a1 := a1, sf := c.h.sreg sf, useSf := sf ≠ 0, ents := opEnt c a0 a1 lw 1 true } true) s

/-- G of `mabs` and `mrd` (R296). -/
def mxG (x : BitVec 14) : Nat := fld (x.setWidth 64) 5 3

/-- MABS (R296). -/
def execMabs (h : Header) (x : FE) (s : State) : Host.Outcome State Fault Refusal :=
  issue h (fun c => legal false [.v x.d.toNat 1, .a (mxTile x.x), .rsv x.sa.toNat, .rsv x.sb.toNat, .rsv x.sf.toNat,
      .rsv (fld (x.x.setWidth 64) 13 6), .cause 7 (decide (64 < (mxG x.x + 1) * c.h.width))] c)
    (fun c s => mxIssue c s [poisonFault s c (mxTile x.x) true] (mxCmd c s 0x184 x.d.toNat x.x 0) true) s

/-- MMOV (R294). -/
def execMmov (h : Header) (x : FE) (s : State) : Host.Outcome State Fault Refusal :=
  issue h (legal false [.a x.d.toNat, .a (mxTile x.x), .rsv x.sa.toNat, .rsv x.sb.toNat, .rsv x.sf.toNat,
      .rsv (fld (x.x.setWidth 64) 13 4)])
    (fun c s => mxIssue c s [poisonFault s c (mxTile x.x) true] (mxCmd c s 0x185 x.d.toNat x.x 0) false) s

/-- MRD (R296). -/
def execMrd (h : Header) (x : FE) (s : State) : Host.Outcome State Fault Refusal :=
  issue h (fun c => legal false [.v x.d.toNat 1, .a (mxTile x.x), .rsv x.sa.toNat, .rsv x.sb.toNat, .rsv x.sf.toNat,
      .rsv (fld (x.x.setWidth 64) 13 12), .cause 7 (decide (64 < (mxG x.x + 1) * c.h.width))] c)
    (fun c s => mxIssue c s [poisonFault s c (mxTile x.x) true] (mxCmd c s 0x186 x.d.toNat x.x 0) true) s

end Sys2Proof.Machine
end

