-- ==== Sys2Proof/Machine/MatrixEvents.lean ====
section
/-! DEFINITION. The matrix engine at work: LEAVE_GRANT, MATRIX_READ_PHASE_END and MATRIX_COMMAND_RETIRE (R20, R88 to R92, R289
to R307). -/

namespace Sys2Proof.Machine

/-- The leave pool of a die (R19). -/
def leavePool (s : State) (die : Nat) : Nat := match s.cfg with | some b => blobPool b die | none => 30000

/-- Leave granted and not returned on a die (R20). -/
def leaveOut (s : State) (die : Nat) : Nat :=
  ((s.cmds.filter (fun m => decide (dieOf m.core = die) && decide (m.phase ≠ 0))).map (fun m => m.cost)).sum

/-- LEAVE_GRANT: the die's first waiting request, once it fits (R20, R306). The cycles that it has waited, which sys.ctleave
counts, are a free value (assumption 11). -/
def leaveGrant (core slice : Nat) (s : State) : List Act :=
  match sliceQueue s core slice with
  | [] => []
  | m :: _ =>
    if m.phase = 0 && decide (s.leaveQ.find? (fun p => decide (dieOf p.1 = dieOf core)) = some (core, slice))
      && leaveOut s (dieOf core) + m.cost ≤ leavePool s (dieOf core) then
      [setCmd s { m with phase := 1 }, .leaveQ (s.leaveQ.filter (fun p => p ≠ (core, slice))),
       .bump (4096 * core + 0x042) (Config.freeNat s.freeCtr), .free 1]
    else []

/-- LEAVE_GRANT (R20). -/
def execLeaveGrant (core slice : Nat) (s : State) : Host.Outcome State Fault Refusal := event (leaveGrant core slice) s

/-- The byte offset of logical word w of line t in K-step k (R291). -/
def wordOff (a x : Word) (lw k t w : Nat) : Nat :=
  opOff a + k * tpitch x + t * lpitch x + 4 * ((w + t * rotStep x) % lw)

/-- Where a word of an operand lies. -/
def wordLoc (s : State) (m : MCmd) (a x : Word) (lw k t w : Nat) : Loc :=
  if opKind a = 4 then .slot (fld a 19 16) (wordOff a x lw k t w)
  else match s.crew? m.key.crew with
    | some c => tileLoc c (wordOff a x lw k t w)
    | none => .tile m.key.crew (wordOff a x lw k t w)

/-- One word of an operand (R291, R299). -/
def opWord (s : State) (m : MCmd) (a x : Word) (lw k t w : Nat) : Lane :=
  if opKind a = 15 then Sparse.get zeros m.regs (64 * w + t)
  else BitVec.ofNat 32 (leNat (readLoc s m.core 4 false (wordLoc s m a x lw k t w)))

/-- The pattern of element e of line t (R291). -/
def opElem (s : State) (m : MCmd) (a x : Word) (f lw k t e : Nat) : Nat :=
  element (opWord s m a x lw k t (e / elemCount f)) f (e % elemCount f)

/-- The place of a scale byte (R95, R292). -/
def scaleLoc (s : State) (m : MCmd) (b : FmtHalf) (k t j : Nat) : Loc :=
  let per := mxK ((mxClass b.fmt).getD 0) / (if b.bl then 64 else 32)
  let off := b.soff + (k * 64 + t) * per + j
  match s.crew? m.key.crew with | some c => tileLoc c off | none => .tile m.key.crew off

/-- The scale of element e of line t (R89, R95). -/
def scaleVal (s : State) (m : MCmd) (b : FmtHalf) (k t e : Nat) : Val :=
  if b.sce then
    let q := leNat (readLoc s m.core 1 false (scaleLoc s m b k t (e / (if b.bl then 64 else 32))))
    if q = 255 then .nan false else .num false 1 ((q : Int) - 127) false
  else .num false 1 0 false

/-- R90: one group of 32 products added to an accumulator element. -/
def addGroup (acc : Lane) (terms : List Val) : Lane :=
  let g := vsum .rn terms
  if g.isZero then acc else BitVec.ofNat 32 (encodeArith (vadd .rn (decodeVal acc.toNat 3) g) 3 .rn false)

/-- One term of R90. -/
def mmaTerm (s : State) (m : MCmd) (ha hb : FmtHalf) (k i j e : Nat) : Val :=
  vmul (vmul (decodeVal (opElem s m m.a0 m.a1 ha.fmt (mmaLW ha.fmt) k i e) ha.fmt)
    (decodeVal (opElem s m m.b0 m.b1 hb.fmt (mmaLW hb.fmt) k j e) hb.fmt))
    (vmul (scaleVal s m ha k i e) (scaleVal s m hb k j e))

/-- NK of an `mma` (R287). -/
def mmaNk (m : MCmd) : Nat := mxTile m.x + 1

/-- One element of the result of an `mma` (R293). -/
def mmaElem (s : State) (h : Herd) (m : MCmd) (i j : Nat) : Lane :=
  let (ha, hb) := (fmtHalf m.sf 0, fmtHalf m.sf 32)
  let groups := mxK ((mxClass ha.fmt).getD 0) / 32
  (List.range (mmaNk m)).foldl (fun acc k => (List.range groups).foldl (fun acc g =>
      addGroup acc ((List.range 32).map (fun e => mmaTerm s m ha hb k i j (32 * g + e)))) acc)
    (if m.x.getLsbD 3 then 0#32 else h.accEl m.d i j)

/-- A tile's 4,096 elements, row by row. -/
def tileOf (g : Nat → Nat → Lane) : List Lane := (List.range 64).flatMap (fun i => (List.range 64).map (g i))

/-- Every place that a storage operand reads. -/
def opLocs (s : State) (m : MCmd) (a x : Word) (lw nk : Nat) : List Loc :=
  if opKind a = 15 then []
  else (List.range nk).flatMap (fun k => (List.range 64).flatMap (fun t => (List.range lw).map (wordLoc s m a x lw k t)))

/-- Every place that an operand's scales are read from. -/
def scaleLocs (s : State) (m : MCmd) (b : FmtHalf) (nk : Nat) : List Loc :=
  if b.sce then
    let per := mxK ((mxClass b.fmt).getD 0) / (if b.bl then 64 else 32)
    (List.range nk).flatMap (fun k => (List.range 64).flatMap (fun t => (List.range per).map (scaleLoc s m b k t)))
  else []

/-- The places that a command reads in its read phase. -/
def readLocs (s : State) (m : MCmd) : List Loc :=
  if m.op = 0x180 then
    let (ha, hb) := (fmtHalf m.sf 0, fmtHalf m.sf 32)
    opLocs s m m.a0 m.a1 (mmaLW ha.fmt) (mmaNk m) ++ opLocs s m m.b0 m.b1 (mmaLW hb.fmt) (mmaNk m)
      ++ scaleLocs s m ha (mmaNk m) ++ scaleLocs s m hb (mmaNk m)
  else if m.op = 0x182 then opLocs s m m.a0 m.a1 64 1
  else []

/-- The window sectors that reading fills, each once; the core's L1 does not hold them, so that a later load of the agent finds
nothing older (R108, R256, R265, R299). -/
def fillActs (core : Nat) (ls : List Loc) : List Act :=
  (ls.flatMap (fun l => match l with
    | .win c id sec pa _ => [Act.crew c (.touch id sec false), Act.l1dropSec core (sectorOf pa)]
    | _ => [])).eraseDups

/-- The tile that `mst`, `mabs`, `mmov` and `mrd` read. -/
def mxSource (m : MCmd) : Nat := if m.op = 0x183 then m.d else mxTile m.x

/-- Whether a command reads the accumulator element that Herd.accErr numbers `k` (R287, R293 to R296). -/
def readsAcc (h : Herd) (m : MCmd) (k : Nat) : Bool :=
  let (t, i, j) := (k / 4096, k / 64 % 64, k % 64)
  let row := mxG m.x * h.width ≤ i && i < (mxG m.x + 1) * h.width
  if m.op = 0x180 then !m.x.getLsbD 3 && t = m.d
  else if m.op = 0x183 || m.op = 0x185 then t = mxSource m
  else if m.op = 0x184 then t = mxSource m && row
  else if m.op = 0x186 then t = mxSource m && row && j = fld (m.x.setWidth 64) 11 6
  else false

/-- R297: whether a command reads a poisoned tile, or an accumulator element with an uncorrectable error. -/
def readsPoison (h : Herd) (m : MCmd) : Bool := readsMark h.accPoison m || h.accErr.any (readsAcc h m)

/-- The result that a command obtains in its read phase. `mld` keeps every pattern of its source, a NaN's too (R294;
assumption 67). -/
def mxResult (s : State) (h : Herd) (m : MCmd) : List Lane :=
  if m.op = 0x180 then tileOf (mmaElem s h m)
  else if m.op = 0x182 then tileOf (fun i j => opWord s m m.a0 m.a1 64 0 i j)
  else if m.op = 0x185 then
    tileOf (fun i j => if m.x.getLsbD 3 then h.accEl (mxTile m.x) j i else h.accEl (mxTile m.x) i j)
  else if m.op = 0x181 then List.replicate 4096 0#32
  else []

/-- The operand-cache entry of K-step k of an `mma`'s B (R303). -/
def ocEntry (s : State) (m : MCmd) (k : Nat) : OcEntry :=
  let f := (fmtHalf m.sf 32).fmt
  let n := 63 * lpitch m.b1 + 4 * mmaLW f
  let lo := opOff m.b0 + k * tpitch m.b1
  let slot := if opKind m.b0 = 4 then some (fld m.b0 19 16) else none
  { core := m.core, slice := m.slice, crew := m.key.crew, slot := slot, addr := m.b0 + BitVec.ofNat 64 (k * tpitch m.b1)
    shape := m.b1 &&& 0x3FFFF#64, cls := (mxClass f).getD 0
    gen := (match slot with
      | some i => (Sparse.get zeros s.slotGen (16 * m.core + i)).toNat
      | none => match s.crew? m.key.crew with | some c => c.order | none => 0)
    lo := if slot.isSome then 0 else lo, hi := if slot.isSome then 0 else lo + n }

/-- Whether two entries have the same tags (R303): the bytes that they cover are none. -/
def OcEntry.sameTags (x y : OcEntry) : Bool := decide ({ x with lo := 0, hi := 0 } = { y with lo := 0, hi := 0 })

/-- One K-step's use of the operand cache, the entries of a slice least recently used first: the cache, the hits and the
misses. Whether a missed operand is placed is a free value (R303). -/
def ocStep (s : State) (m : MCmd) (r : List OcEntry × Nat × Nat) (k : Nat) : List OcEntry × Nat × Nat :=
  let (l, hit, miss) := r
  let e := ocEntry s m k
  if let some x := l.find? e.sameTags then
    (l.filter (fun y => !e.sameTags y) ++ [{ e with lo := min x.lo e.lo, hi := max x.hi e.hi }], hit + 1, miss)
  else if (Config.freeNat (s.freeCtr + k)).testBit 0 then
    let mine := l.filter (fun x => decide (x.core = m.core) && decide (x.slice = m.slice))
    let l' := if 4 ≤ mine.length then (match mine with | old :: _ => l.filter (fun x => x ≠ old) | [] => l) else l
    (l' ++ [e], hit, miss + 1)
  else (l, hit, miss + 1)

/-- The operand cache and its counters over an `mma` (R303, R307). -/
def ocActs (s : State) (m : MCmd) : List Act :=
  if m.op ≠ 0x180 then []
  else
    let r := (List.range (mmaNk m)).foldl (ocStep s m) (s.ocache, 0, 0)
    [.ocache r.1, .bump (4096 * m.core + 0x0E1) r.2.1, .bump (4096 * m.core + 0x0E2) r.2.2, .free (mmaNk m)]

/-- Whether a copy owns a line behind one of the places, through a window (R116, R264). -/
def locsOwned (s : State) (ls : List Loc) : Bool := ls.any (fun l => match l.hbm? with | some pa => lineOwned s pa 1 | none => false)

/-- MATRIX_READ_PHASE_END: the operands are read, and their entries released (R299 to R301; for a landing slot see `dropFreed`). -/
def matrixReadPhaseEnd (core slice : Nat) (s : State) : List Act :=
  match sliceQueue s core slice with
  | [] => []
  | m :: _ =>
    if m.phase ≠ 1 then []
    else match s.herd? m.key with
      | none => []
      | some h =>
        let locs := readLocs s m
        let bad := readsPoison h m || locs.any (poisoned s core false)
        if locsOwned s locs then []
        else chain s [
          fun _ => fillActs core locs,
          fun s => ocActs s m,
          fun s => [setCmd s { m with
            phase := 2, bad := bad, result := if bad then List.replicate 4096 0x7FC00000#32 else mxResult s h m
            ents := m.ents.filter (fun e => e.dst) }],
          dropFreed]

/-- MATRIX_READ_PHASE_END (R299 to R301). -/
def execMatrixReadPhaseEnd (core slice : Nat) (s : State) : Host.Outcome State Fault Refusal :=
  event (matrixReadPhaseEnd core slice) s

/-- FMT, RM and SAT of an `mst` (R287). -/
def mstFmt (m : MCmd) : Nat := fld (m.x.setWidth 64) 3 0
def mstRm (m : MCmd) : RMode := rmodeOf (m.x.extractLsb' 4 2)
def mstSat (m : MCmd) : Bool := m.x.getLsbD 6

/-- R295: one element converted, with its count: a NaN keeps its sign (R80); the one that a scale byte of 255 makes is positive
(assumption 61). -/
def mstElem (h : Herd) (m : MCmd) (i j : Nat) : Nat × ConvCount :=
  let q := if m.useSf then fld m.sf 7 0 else 127
  let src := decodeVal (h.accEl m.d i j).toNat 3
  let x := if src.isNan then src else if q = 255 then .nan false else vldexp (127 - (q : Int)) src
  let (p, clamped) := encodeVal x (mstFmt m) (mstRm m) (mstSat m)
  (p, convEvent src (mstFmt m) p clamped)

/-- The word w of line i that an `mst` writes (R291, R295). -/
def mstWord (h : Herd) (m : MCmd) (i w : Nat) : Lane :=
  let n := elemCount (mstFmt m)
  buildMx (mstFmt m) (fun e => if w * n + e < 64 then (mstElem h m i (w * n + e)).1 else 0)
where
  /-- A word from its elements' patterns. -/
  buildMx (f : Nat) (g : Nat → Nat) : Lane :=
    BitVec.ofNat 32 (((List.range (elemCount f)).map (fun i => g i % 2 ^ elemWidth f * 2 ^ (elemWidth f * i))).sum)

/-- The places that an `mst` writes. -/
def mstLocs (s : State) (m : MCmd) : List Loc := if m.op = 0x183 then opLocs s m m.a0 m.a1 (lineLW (mstFmt m)) 1 else []

/-- The stores of an `mst`. -/
def mstActs (s : State) (h : Herd) (m : MCmd) : List Act :=
  let lw := lineLW (mstFmt m)
  let ws := (List.range 64).flatMap (fun i => (List.range lw).map (fun w => (wordLoc s m m.a0 m.a1 lw 0 i w, mstWord h m i w)))
  ws.flatMap (fun p => writeLoc m.core (leBytes 4 p.2.toNat) p.1) ++ healed s (ws.map (fun p => (p.1, 4)))

/-- The counts of an `mst` (R84, R295). -/
def mstCount (h : Herd) (m : MCmd) : ConvCount :=
  convSum ((List.range 64).flatMap (fun i => (List.range 64).map (fun j => (mstElem h m i j).2)))

/-- R296: the largest magnitude of a row. -/
def rowMax (h : Herd) (t r : Nat) : Lane :=
  let ms := (List.range 64).map (fun j => (h.accEl t r j).toNat % 2 ^ 31)
  let m := ms.foldl Nat.max 0
  if 0x7F800000 < m then 0x7FC00000#32 else BitVec.ofNat 32 m

/-- The lanes that `mabs` and `mrd` write (R296). -/
def mxLane (h : Herd) (m : MCmd) (l : Nat) : Lane :=
  let r := mxG m.x * h.width + l
  if m.op = 0x184 then rowMax h (mxTile m.x) r else h.accEl (mxTile m.x) r (fld (m.x.setWidth 64) 11 6)

/-- What a command writes at its end, in the herd and in the tile store. -/
def mxWrites (s : State) (h : Herd) (m : MCmd) : List Act :=
  if m.op = 0x183 then mstActs s h m ++ herdActs h.key [convAct h (mstCount h m)]
  else if m.op = 0x184 || m.op = 0x186 then
    herdActs h.key ((List.range h.width).map (fun l => HAct.v (vkey m.d l) [mxLane h m l]) ++ [.vtag m.d 3])
  else herdActs h.key [.acc m.d 0 m.result,
    .accPoison (markTile h.accPoison m.d m.bad)]

/-- The hold of the group that waits for a command. -/
def mxHold (h : Herd) (m : MCmd) : Option Hold := h.holds.find? (fun x => decide (x.why = .matrix m.id))

/-- The waiting group goes on at PC + 8 (R289); with `stay` at the word itself. -/
def mxRelease (h : Herd) (x : Hold) (stay : Bool) : List Act :=
  let fs := bitsOf x.group 8
  herdActs h.key (.holds (h.holds.filter (fun y => decide (y ≠ x)))
    :: (if stay then [] else moveTo h fs ((h.fur (fs.headD 0)).pc + 8#64)))

/-- A trap of the waiting group, after or before its command's effect (R86, R297). -/
def mxTrap (s : State) (k : HerdKey) (x : Hold) (cls cause : Nat) (pc resume : Word) : List Act :=
  match s.herd? k with
  | none => []
  | some h => takeTrap s h { cls := cls, cause := cause, code := 0, lane := 255, addr := 0, tile := 0, group := x.group
                             pc := pc, resume := resume }

/-- The herd as a command that reads a tile finds it: a word of the accumulator store with an uncorrectable error is a free value
(R297; assumption 63). -/
def accRead (s : State) (h : Herd) (m : MCmd) : Herd :=
  (h.accErr.filter (readsAcc h m)).zipIdx.foldl (fun g e => { g with
    acc := g.acc.set (e.1 / 4096) (Sparse.set zeros (g.acc.getD (e.1 / 4096) []) (e.1 % 4096)
      (BitVec.ofNat 32 (Config.freeNat (s.freeCtr + e.2)))) }) h

/-- The free values that a command's read of a tile takes. -/
def accDrawn (h : Herd) (m : MCmd) : List Act :=
  match h.accErr.filter (readsAcc h m) with
  | [] => []
  | l => [.free l.length]

/-- MATRIX_COMMAND_RETIRE: results, counters, the queue place, the leave and given-up slots (R323); the waiting group goes on, or traps on a limit or on
a tile that a command before it has poisoned (R86, R289, R297, R306, R307; assumption 63). An `mst` whose herd was aborted after its issue
traps on nothing: it stores what it has, of such a tile the converted NaNs (R202; DESIGN CHOICE, assumption 21). -/
def matrixCommandRetire (core slice : Nat) (s : State) : List Act :=
  match sliceQueue s core slice with
  | [] => []
  | m :: _ =>
    match s.herd? m.key with
    | none => []
    | some h =>
      if m.phase ≠ 2 || locsOwned s (mstLocs s m) then []
      else
        let gone := fun s : State => chain s [
          fun s => [Act.cmds (s.cmds.filter (fun x => decide (x.id ≠ m.id))), bumpCore core 0x0E0], dropFreed]
        match mxHold h m with
        | none => chain s [fun s => mxWrites s h m, gone, startHead core slice]
        | some x =>
          let pc := (h.fur ((bitsOf x.group 8).headD 0)).pc
          let g := accRead s h m
          if h.accPoison.getLsbD (mxSource m) then
            chain s [gone, startHead core slice, fun _ => mxRelease h x true, fun s => mxTrap s h.key x 2 10 pc pc]
          else
            chain s [
              fun s => mxWrites s g m ++ accDrawn h m, gone, startHead core slice, fun _ => mxRelease h x false,
              fun s => if m.op = 0x183 && crosses g (mstCount g m) then mxTrap s h.key x 11 0 pc (pc + 8#64) else []]

/-- MATRIX_COMMAND_RETIRE (R289). -/
def execMatrixCommandRetire (core slice : Nat) (s : State) : Host.Outcome State Fault Refusal :=
  event (matrixCommandRetire core slice) s

end Sys2Proof.Machine
end

