-- ==== Sys2Proof/Machine/RingEvents.lean ====
section
/-! DEFINITION. The ring in motion: TIMETABLE_INSTALL, TILE_INJECTION, TILE_ARRIVAL, TILE_PASSED and HOLD_LIMIT_EXPIRY (R311 to
R315, R318 to R321, R329). -/

namespace Sys2Proof.Machine

/-- Whether two tiles are one tile of one lap. -/
def RTile.same (a b : RTile) : Bool := a.track = b.track && a.layer = b.layer && a.tile = b.tile && a.lap = b.lap

/-- The ring with one tile replaced. -/
def setTile (r : Ring) (t : RTile) : Ring := { r with tiles := r.tiles.map (fun x => if x.same t then t else x) }

/-- Hops from a tile's owning stop to a stop (R11). -/
def hops (die stop : Nat) : Nat := (stop + 12 - die) % 12

/-- Whether a tile has still to arrive at a stop. -/
def RTile.toCome (t : RTile) (stop : Nat) : Bool := decide (hops t.die t.stop < hops t.die stop)

/-- R313: a tile injected earlier that must arrive before t at every stop. -/
def mustPrecede (u t : RTile) : Bool :=
  (u.ent = t.ent && u.lap = t.lap) || (u.track = t.track && u.layer = t.layer && (u.lap ≠ t.lap || u.tile = 0))

/-- R313: the tiles injected before t that must still reach the stop first. -/
def orderBlocked (r : Ring) (t : RTile) (stop : Nat) : Bool :=
  (r.tiles.takeWhile (fun u => !u.same t)).any (fun u => u.toCome stop && mustPrecede u t)

/-- R321: a hold is asserted. -/
def holding (r : Ring) : Bool := r.tiles.any (fun t => t.held)

/-- The boardings on a die that a tile lands for (R321). -/
def landTargets (s : State) (stop : Nat) (t : RTile) : List Herd :=
  s.herds.filter (fun h => decide (dieOf h.core = stop) && (match h.boarding with
    | some b => b.st = .boarded && b.track = t.track && b.layer = t.layer && b.lap = t.lap && b.first ≤ t.tile
        && decide (t.tile < b.first + b.count)
    | none => false))

/-- The lowest free landing slot of a core (R321). One that a command has read is not rewritten before the command has retired (R266;
assumption 59). -/
def freeSlotIdx (s : State) (core : Nat) : Option Nat :=
  (List.range 16).find? (fun i =>
    (slotAt s core i).isNone && !s.cmds.any (fun m => decide (m.core = core) && m.slots.contains i))

/-- How many landing slots of a core can take a tile. -/
def freeSlots (s : State) (core : Nat) : Nat :=
  ((List.range 16).filter (fun i =>
    (slotAt s core i).isNone && !s.cmds.any (fun m => decide (m.core = core) && m.slots.contains i))).length

/-- R321: whether a boarding's landed slots not yet released number less than its quota. -/
def quotaLeft (s : State) (h : Herd) : Bool :=
  match h.boarding with
  | some b => decide ((s.slots.filter (fun x => decide (x.board = some h.key))).length < b.quota)
  | none => false

/-- The boardings that keep a tile from landing at a stop: those without a slot for it. Of several on a core with too few free slots, the
later herds lack one (R321; DESIGN CHOICE, assumption 92). -/
def lacking (s : State) (stop : Nat) (t : RTile) : List Herd :=
  let ts := landTargets s stop t
  ts.filter (fun h => !quotaLeft s h || decide (freeSlots s h.core ≤
    ((ts.takeWhile (fun x => x.key ≠ h.key)).filter (fun x => decide (x.core = h.core) && quotaLeft s x)).length))

/-- One landing: the slot, the counter, and the wake of a waiting `rtile` (R321, R322). -/
def landOne (t : RTile) (k : HerdKey) (s : State) : List Act :=
  match s.herd? k with
  | none => []
  | some h =>
    match h.boarding, freeSlotIdx s h.core with
    | some b, some i =>
      [.slots (s.slots ++ [{ core := h.core, idx := i, board := some k, crew := none, track := t.track, layer := t.layer
                             tile := t.tile, payload := t.payload, crcBad := t.crcBad, poison := t.poison, errs := [], freeing := false }]),
       .herd k (.boarding (some { b with landed := b.landed ++ [i] })), bumpCore h.core 0x0D4] ++ wakeRtile s h
    | _, _ => []

/-- The boardings of a held tile that wait for a slot, with their cores. -/
def waitsFor (s : State) (t : RTile) : List (HerdKey × Nat) := if t.held then (lacking s t.stop t).map (fun h => (h.key, h.core)) else t.blocked

/-- R321, R332: the boardings for which held tiles wait, judged anew; the cores that no tile waits for any more have had their cycles. -/
def judgeHolds (s : State) : List Act :=
  if s.ring.tiles.all (fun t => decide (t.blocked = waitsFor s t)) then []
  else .ring { s.ring with tiles := s.ring.tiles.map (fun t => { t with blocked := waitsFor s t }) }
    :: holdEnds (s.ring.tiles.flatMap (fun t => coresLeft t.blocked (waitsFor s t))) s

/-- An outcome with its holds judged. -/
def judged : Host.Outcome State Fault Refusal → Host.Outcome State Fault Refusal
  | .next s => .next (run s (judgeHolds s))
  | r => r

/-- R321: a tile at a stop lands for every boarding that matches, or asserts a hold; the cores that no longer wait for it have had
their part of the hold. Two boardings of one core take their slots in the order of `State.herds` (DESIGN CHOICE, assumption 92). -/
def tryLand (stop : Nat) (t : RTile) (s : State) : List Act :=
  let lack := lacking s stop t
  let wait := lack.map (fun h => (h.key, h.core))
  chain s ((fun s => [.ring (setTile s.ring { t with held := !lack.isEmpty, blocked := wait })])
    :: holdEnds (coresLeft t.blocked wait)
    :: (if lack.isEmpty then (landTargets s stop t).map (fun h => landOne t h.key) else []))

/-- The waits of a missed `board` end with a status (R319). -/
def endBoards (h : Herd) (st : Word) : List HAct :=
  (h.unresolved WaitOn.isBoard).flatMap (fun f => match (h.fur f).st with
    | .waiting (.board d) => endWaits h [f] { completed := true, wr := some (d, st), bad := none }
    | _ => [])

/-- What a boarding becomes when the header it registered for arrives: the timetable cuts its shard; one that holds no tile
under it is over (R317, R320; assumption 62). -/
def Boarding.boarded (b : Boarding) (r : Ring) (lap : BitVec 32) : Option Boarding :=
  let n := match r.installed with | some tt => shardTiles b.first b.count (tt.tileCount b.track b.layer) | none => 0
  if n = 0 then none else some { b with st := .boarded, lap := lap, count := n }

/-- R320: a header tile makes the boardings registered for it Boarded, and a missed `board` completes (R319). -/
def headerBoards (stop : Nat) (t : RTile) (s : State) : List Act :=
  if t.tile ≠ 0 then []
  else s.herds.flatMap (fun h =>
    match h.boarding with
    | some b =>
      if decide (dieOf h.core = stop) && b.st = .registered && b.track = t.track && b.layer = t.layer then
        .herd h.key (.boarding (b.boarded s.ring t.lap)) :: herdActs h.key (endBoards h 0#64)
          ++ (if (b.boarded s.ring t.lap).isSome then readyStamp s h WaitOn.isBoard
              else herdActs h.key (endRtiles h) ++ readyStamp s h (fun w => w.isBoard || w.isRtile))
      else []
    | none => [])

/-- A tile is the first of its lap (R311). -/
def isLapFirst (r : Ring) (t : RTile) : Bool :=
  t.ent = 0 && (match r.installed with
    | some tt => (match tt.ents with | e :: _ => t.tile = e.first | [] => false)
    | none => false)

/-- A tile, already among the ring's, arrives at a stop (R311, R318, R320, R321, R326). -/
def arriveAt (stop : Nat) (t : RTile) (s : State) : List Act :=
  chain s [
    fun s =>
      let r := setTile s.ring { t with stop := stop, passed := false, sent := false }
      [.ring { r with
        laps := if isLapFirst r t then Sparse.set zeros r.laps stop (Sparse.get zeros r.laps stop + 1#32) else r.laps
        closed := if t.tile = 0 && !r.closed.contains (stop, t.track, t.layer) then r.closed ++ [(stop, t.track, t.layer)]
          else r.closed
        lastEnt := Sparse.set zeros r.lastEnt stop (BitVec.ofNat 32 t.ent) }],
    headerBoards stop t,
    tryLand stop { t with stop := stop, passed := false, sent := false }]

/-- R314: the pace of the ring. -/
def ringPace (s : State) (tt : Timetable) : Nat :=
  ((List.range 16).filter (fun p => tt.grants.any (fun g => g.getLsbD p))).foldl
    (fun m p => min m (fld (s.partReg p 0x0D2) 8 0)) 256

/-- The lap under way, by the counter of the stop that owns its first tile (R311). -/
def curLap (r : Ring) (tt : Timetable) : BitVec 32 :=
  match tt.ents with | e :: _ => Sparse.get zeros r.laps e.die | [] => 0#32

/-- Every sector of a tile (R266). -/
def allSectors : Nat := 2 ^ 1024 - 1

/-- A tile of which its owning stop has read nothing yet: tile `i` of entry `ent`; LAP and CRC come at its injection (R312). -/
def blankTile (tt : Timetable) (ent i : Nat) (e : TEntry) : RTile :=
  { track := e.track, layer := e.layer, tile := e.first + i, die := e.die, ent := ent, crcBad := false, lap := 0
    gen := tt.gen, crc := 0, poison := false, payload := [], left := allSectors, stop := e.die, passed := false, sent := false
    held := false, blocked := [] }

/-- R266: the stop reads sectors of a tile at `a`, those of `pick` that it has not read: each is read once, in one turn. -/
def RTile.gain (s : State) (a pick : Nat) (t : RTile) : RTile :=
  let now := t.left &&& pick
  { t with
    payload := (List.range 1024).flatMap (fun q =>
      if now.testBit q then s.hbm.slice (a + 64 * q) 64 (64 * q) else Memory.slice t.payload (64 * q) 64 (64 * q))
    poison := t.poison || s.hbmErr.any (fun x => decide (a ≤ 64 * x) && decide (64 * x < a + 65536) && now.testBit ((64 * x - a) / 64))
    left := t.left ^^^ now }

/-- Whether a copy owns a line of a sector that the stop has still to read (R116). -/
def RTile.owned (s : State) (a : Nat) (t : RTile) : Bool :=
  lineOwned s a 65536 && (List.range 1024).any (fun q => t.left.testBit q && lineOwned s (a + 64 * q) 64)

/-- Bytes 0 to 59 of a tile header (R312). -/
def RTile.headBody (t : RTile) : List Byte :=
  leBytes 4 (t.tile % 2 ^ 24) ++ leBytes 2 t.layer ++ leBytes 1 (t.track % 16 + 16 * t.die) ++ leBytes 1 (if t.poison then 1 else 0)
    ++ leBytes 4 t.lap.toNat ++ leBytes 4 t.gen.toNat ++ leBytes 4 t.ent ++ List.replicate 40 0#8

/-- The tile header, 64 bytes (R312). -/
def RTile.header (t : RTile) : List Byte := t.headBody ++ leBytes 4 t.crc.toNat

/-- A tile with its LAP and its CRC (R312). -/
def RTile.sealed (t : RTile) (lap : BitVec 32) : RTile :=
  let u := { t with lap := lap }
  { u with crc := crc32c (Memory.bytes u.payload 0 65536 ++ u.headBody) }

/-- Whether a buffered tile is tile `i` of entry `ent`. -/
def RTile.at (t : RTile) (ent i : Nat) (e : TEntry) : Bool := t.ent = ent && t.tile = e.first + i

/-- The next tile of the lap sequence as its stop's buffer holds it, in whole, in part or not at all (R315). -/
def bufferedTile (s : State) (tt : Timetable) (e : TEntry) : RTile :=
  (s.ring.buffer.find? (fun b => b.at s.ring.ent s.ring.tile e)).getD (blankTile tt s.ring.ent s.ring.tile e)

/-- The next tile of the lap sequence, as its owning stop injects it: what it had not read of it is read now (R266, R312, R315). Its LAP
is the number of its lap, which the owning stop's own counter may not have reached yet (DEDUCED, assumption 116). -/
def nextTile (s : State) (tt : Timetable) (e : TEntry) : RTile :=
  let r := s.ring
  ((bufferedTile s tt e).gain s (e.addr + 65536 * r.tile) allSectors).sealed
    (if r.ent = 0 && r.tile = 0 then Sparse.get zeros r.laps e.die + 1#32 else curLap r tt)

/-- The ring after the injection of the tile at the current position (R311): without a gap, or at a seam. -/
def advanceLap (r : Ring) (tt : Timetable) (e : TEntry) : Ring :=
  let r := { r with buffer := r.buffer.eraseP (fun b => b.at r.ent r.tile e) }
  if r.tile + 1 < e.count then { r with tile := r.tile + 1 }
  else if r.ent + 1 < tt.ents.length then { r with ent := r.ent + 1, tile := 0 }
  else { r with ent := 0, tile := 0, inLap := r.pending.isNone }

/-- The owning stop injects the next tile, which arrives there (R311 to R315). A tile that must arrive before it there by R313 has
done so. -/
def injectTile (tt : Timetable) (s : State) : List Act :=
  match tt.ents[s.ring.ent]? with
  | none => []
  | some e =>
    let t := nextTile s tt e
    if !s.ring.inLap || holding s.ring || ringPace s tt = 0 || orderBlocked s.ring t e.die
      || (bufferedTile s tt e).owned s (e.addr + 65536 * s.ring.tile) then []
    else chain s [
      fun s => [.ring (advanceLap { s.ring with tiles := s.ring.tiles ++ [t] } tt e)],
      arriveAt e.die t]

/-- The first tile of die `d` from tile `i` of entry `ent` on, in lap order: entry and tile; none when the lap has no more. -/
def ownFrom (tt : Timetable) (d ent i : Nat) : Option (Nat × Nat) :=
  match tt.ents[ent]? with
  | none => none
  | some e =>
    if e.die = d && i < e.count then some (ent, i)
    else ((List.range tt.ents.length).find? (fun j => decide (ent < j) && (match tt.ents[j]? with | some x => x.die = d | none => false))).map
      (fun j => (j, 0))

/-- The tile that die `d` reads next into its buffer: one that it holds in part, or its first one of this lap after those it holds (R315).
Tiles of the next lap are read from its seam on, so that they hold what stood before it (R266). -/
def nextRead (r : Ring) (tt : Timetable) (d : Nat) : Option (Nat × Nat) :=
  let mine := r.buffer.filter (fun b => decide (b.die = d))
  let pos (b : RTile) : Nat × Nat := (b.ent, (match tt.ents[b.ent]? with | some e => b.tile - e.first | none => 0))
  match mine.find? (fun b => decide (b.left ≠ 0)) with
  | some b => some (pos b)
  | none =>
    if 2 ≤ mine.length then none
    else match mine.getLast? with
      | none => ownFrom tt d r.ent r.tile
      | some b => ownFrom tt d (pos b).1 ((pos b).2 + 1)

/-- R266, R315: whether a stop reads ahead, which stop, and which sectors, are free values. -/
def readAhead (tt : Timetable) (s : State) : List Act :=
  let n := Config.freeNat s.freeCtr
  let d := n / 2 % 12
  match (if s.ring.inLap && n.testBit 0 then nextRead s.ring tt d else none) with
  | none => [.free 2]
  | some (ent, i) =>
    match tt.ents[ent]? with
    | none => [.free 2]
    | some e =>
      let a := e.addr + 65536 * i
      let rest := s.ring.buffer.filter (fun b => !b.at ent i e)
      let t := ((s.ring.buffer.find? (fun b => b.at ent i e)).getD (blankTile tt ent i e)).gain s a (Config.freeNat (s.freeCtr + 1))
      if lineOwned s a 65536 then [.free 2] else [.free 2, .ring { s.ring with buffer := rest ++ [t] }]

/-- TILE_INJECTION: the next tile goes onto the ring, and a stop may read a later one into its buffer (R315). -/
def tileInjection (s : State) : List Act :=
  match s.ring.installed with
  | none => []
  | some tt => chain s [injectTile tt, readAhead tt]

/-- TILE_INJECTION (R315). -/
def execTileInjection (s : State) : Host.Outcome State Fault Refusal := event tileInjection s

/-- The next tile that has passed the stop before arrives, or is dropped at its origin; under a hold only one that is on its way already
(R11, R318, R321). `crcBad` says that the stop received it with a wrong CRC (R325). -/
def hopEnds (stop : Nat) (crcBad : Bool) (s : State) : List Act :=
  match s.ring.tiles.find? (fun t => t.passed && !t.held && (t.sent || !holding s.ring) && decide ((t.stop + 1) % 12 = stop)
      && (decide (t.die = stop) || !orderBlocked s.ring t stop)) with
  | none => []
  | some t =>
    if t.die = stop then [.ring { s.ring with tiles := s.ring.tiles.filter (fun x => !x.same t) }]
    else arriveAt stop { t with crcBad := t.crcBad || crcBad } s

/-- TILE_ARRIVAL: a held tile whose boardings have a slot again lands; else a tile completes its hop, under a hold too
(R321). -/
def tileArrival (stop : Nat) (crcBad : Bool) (s : State) : List Act :=
  match s.ring.tiles.find? (fun t => decide (t.stop = stop) && t.held && (lacking s stop t).isEmpty) with
  | some t => tryLand stop t s
  | none => hopEnds stop crcBad s

/-- TILE_ARRIVAL (R321). -/
def execTileArrival (stop : Nat) (crcBad : Bool) (s : State) : Host.Outcome State Fault Refusal :=
  event (tileArrival stop crcBad) s

/-- Whether the current lap still has tiles of a layer to inject. -/
def layerToInject (r : Ring) (tt : Timetable) (t : RTile) : Bool :=
  r.inLap && (r.ent ≠ 0 || r.tile ≠ 0) && t.lap = curLap r tt
    && (tt.ents.drop r.ent).any (fun e => e.track = t.track && e.layer = t.layer)

/-- R318: every tile of t's layer and lap has passed the stop, t included. -/
def layerPassed (r : Ring) (tt : Timetable) (stop : Nat) (t : RTile) : Bool :=
  !layerToInject r tt t && r.tiles.all (fun u => u.same t || u.track ≠ t.track || u.layer ≠ t.layer || u.lap ≠ t.lap
    || (!u.toCome stop && (u.stop ≠ stop || u.passed)))

/-- Whether the header of the layer's next lap has already arrived at the stop, so that its window has closed again (R318). -/
def headerAhead (r : Ring) (stop : Nat) (t : RTile) : Bool :=
  (r.tiles.dropWhile (fun u => !u.same t)).any (fun u =>
    u.track = t.track && u.layer = t.layer && u.lap ≠ t.lap && u.tile = 0 && !u.toCome stop)

/-- TILE_PASSED: a tile's last beat has reached a stop; the window for the next lap may open (R318). Under a hold the tile has passed as
well, and waits at the stop (R321). -/
def tilePassed (stop : Nat) (s : State) : List Act :=
  match s.ring.tiles.find? (fun t => decide (t.stop = stop) && !t.passed) with
  | none => []
  | some t =>
    let r := setTile s.ring { t with passed := true, sent := !holding s.ring }
    match r.installed with
    | some tt =>
      if layerPassed r tt stop t && !headerAhead r stop t then [.ring { r with closed := r.closed.filter (fun x => x ≠ (stop, t.track, t.layer)) }]
      else [.ring r]
    | none => [.ring r]

/-- TILE_PASSED (R318). -/
def execTilePassed (stop : Nat) (s : State) : Host.Outcome State Fault Refusal := event (tilePassed stop) s

/-- HOLD_LIMIT_EXPIRY: a Boarded boarding whose slot is still unavailable is Cut with cause 3, and its part of each hold is released
(R320, R321). -/
def holdLimitExpiry (k : HerdKey) (s : State) : List Act :=
  match s.herd? k with
  | none => []
  | some h =>
    match h.boarding with
    | none => []
    | some b =>
      let ts := s.ring.tiles.filter (fun t => t.held && (lacking s t.stop t).any (fun x => decide (x.key = k)))
      if b.st ≠ .boarded || ts.isEmpty then []
      else chain s ((fun _ => .herd k (.boarding (some { b with st := .cut 3 })) :: wakeRtile s h)
        :: ts.map (fun t => tryLand t.stop t))

/-- HOLD_LIMIT_EXPIRY (R321). -/
def execHoldLimitExpiry (k : HerdKey) (s : State) : Host.Outcome State Fault Refusal := event (holdLimitExpiry k) s

/-- R329: what an installation does to one herd's boarding. -/
def seamBoarding (tt : Timetable) (s : State) (h : Herd) : List Act :=
  match h.boarding with
  | none => []
  | some b =>
    let keeps := tt.grants? b.track h.key.crew.part && !(tt.layerEnts b.track b.layer).isEmpty
    if keeps then []
    else match b.st with
      | .cut _ => []
      | _ =>
        if (h.unresolved WaitOn.isBoard).isEmpty then .herd h.key (.boarding (some { b with st := .cut 5 })) :: wakeRtile s h
        else endBoarding s h.key ++ herdActs h.key (endRtiles h ++ endBoards h 2#64)
          ++ readyStamp s h (fun w => w.isBoard || w.isRtile)

/-- TIMETABLE_INSTALL: at a seam with no tile on the ring (R311, R318, R329). -/
def timetableInstall (s : State) : List Act :=
  match s.ring.pending with
  | none => []
  | some tt =>
    if s.ring.inLap || !s.ring.tiles.isEmpty then []
    else chain s ((fun s => [.ring { s.ring with
        installed := if tt.ents.isEmpty then none else some tt, pending := none, inLap := !tt.ents.isEmpty, ent := 0
        tile := 0, buffer := [], closed := [] }])
      :: s.herds.map (fun h => fun s => seamBoarding tt s h))

/-- TIMETABLE_INSTALL (R311). -/
def execTimetableInstall (s : State) : Host.Outcome State Fault Refusal := event timetableInstall s

end Sys2Proof.Machine
end

