-- ==== Sys2Proof/Machine/Uniform.lean ====
section
/-! DEFINITION. Meanings of the 64-bit uniform arithmetic, opcodes 0x0A0 to 0x0B1 (R190, R191). -/

namespace Sys2Proof.Machine

/-- R190: the predicate of a uniform instruction must be uniform. -/
def uniPred (h : Header) : Use := .cause 7 (h.pe && !h.pk)

/-- The modifier byte of a uniform instruction (R190): zero, or FMT 1 or 2 alone for a comparison. -/
def uniMb (cmp : Bool) (mb : BitVec 8) : List Use :=
  [.rsv (mb.extractLsb' 0 1).toNat,
   .cause 7 (if cmp then mbFmt mb ≠ 1 && mbFmt mb ≠ 2 else mbFmt mb ≠ 0), .cause 7 ((mb.extractLsb' 1 3) ≠ 0#3)]

/-- Shared shape: an F3 word that writes S[D] from S[A] and S[B]. -/
def uni2 (h : Header) (x : F3) (cmp : Bool) (fnUse : Use) (g : Word → Word → Word) (s : State) :
    Host.Outcome State Fault Refusal :=
  let (d, a, b) := (x.d.toNat, x.a.toNat, x.b.toNat)
  issue h (legal false ([.s d 1, .s a 1, .s b 1, fnUse, uniPred h] ++ uniMb cmp x.mb))
    (fun c _ => .done (uniActs c d (g (c.h.sreg a) (c.h.sreg b)))) s

/-- Shared shape: an FI word that writes S[D] from S[A] and the immediate. -/
def uniImm (h : Header) (x : FI) (g : Word → Word) (s : State) : Host.Outcome State Fault Refusal :=
  let (d, a) := (x.d.toNat, x.a.toNat)
  issue h (legal false ([.s d 1, .s a 1, uniPred h] ++ uniMb false x.mb))
    (fun c _ => .done (uniActs c d (g (c.h.sreg a)))) s

/-- R191: shifts by an unsigned amount. -/
def sshlW (a : Word) (n : Nat) : Word := if n < 64 then a <<< n else 0#64
def sshrW (a : Word) (n : Nat) : Word := if n < 64 then a >>> n else 0#64
def ssarW (a : Word) (n : Nat) : Word := a.sshiftRight (if n < 64 then n else 63)

/-- Whether S[A] is below S[B], signed with FMT 1. -/
def uniLt (fmt : Nat) (a b : Word) : Bool := if fmt = 1 then a.slt b else a.ult b

/-- R172 conditions 0 to 5 on uniform values. -/
def uniCond (fn fmt : Nat) (a b : Word) : Bool :=
  if fn = 0 then a = b else if fn = 1 then a ≠ b else if fn = 2 then uniLt fmt a b else if fn = 3 then !uniLt fmt b a
  else if fn = 4 then uniLt fmt b a else !uniLt fmt a b

/-- SADD (R191). -/
def execSadd (h : Header) (x : F3) (s : State) : Host.Outcome State Fault Refusal :=
  uni2 h x false (.rsv x.fn.toNat) (fun a b => a + b) s

/-- SSUB (R191). -/
def execSsub (h : Header) (x : F3) (s : State) : Host.Outcome State Fault Refusal :=
  uni2 h x false (.rsv x.fn.toNat) (fun a b => a - b) s

/-- SMUL (R191). -/
def execSmul (h : Header) (x : F3) (s : State) : Host.Outcome State Fault Refusal :=
  uni2 h x false (.rsv x.fn.toNat) (fun a b => a * b) s

/-- SAND (R191). -/
def execSand (h : Header) (x : F3) (s : State) : Host.Outcome State Fault Refusal :=
  uni2 h x false (.rsv x.fn.toNat) (fun a b => a &&& b) s

/-- SOR (R191). -/
def execSor (h : Header) (x : F3) (s : State) : Host.Outcome State Fault Refusal :=
  uni2 h x false (.rsv x.fn.toNat) (fun a b => a ||| b) s

/-- SXOR (R191). -/
def execSxor (h : Header) (x : F3) (s : State) : Host.Outcome State Fault Refusal :=
  uni2 h x false (.rsv x.fn.toNat) (fun a b => a ^^^ b) s

/-- SSHL (R191). -/
def execSshl (h : Header) (x : F3) (s : State) : Host.Outcome State Fault Refusal :=
  uni2 h x false (.rsv x.fn.toNat) (fun a b => sshlW a b.toNat) s

/-- SSHR (R191). -/
def execSshr (h : Header) (x : F3) (s : State) : Host.Outcome State Fault Refusal :=
  uni2 h x false (.rsv x.fn.toNat) (fun a b => sshrW a b.toNat) s

/-- SSAR (R191). -/
def execSsar (h : Header) (x : F3) (s : State) : Host.Outcome State Fault Refusal :=
  uni2 h x false (.rsv x.fn.toNat) (fun a b => ssarW a b.toNat) s

/-- SMIN (R191). -/
def execSmin (h : Header) (x : F3) (s : State) : Host.Outcome State Fault Refusal :=
  uni2 h x true (.rsv x.fn.toNat) (fun a b => if uniLt (mbFmt x.mb) b a then b else a) s

/-- SMAX (R191). -/
def execSmax (h : Header) (x : F3) (s : State) : Host.Outcome State Fault Refusal :=
  uni2 h x true (.rsv x.fn.toNat) (fun a b => if uniLt (mbFmt x.mb) a b then b else a) s

/-- SCMP (R191). -/
def execScmp (h : Header) (x : F3) (s : State) : Host.Outcome State Fault Refusal :=
  uni2 h x true (.cause 7 (6 ≤ x.fn.toNat)) (fun a b => if uniCond x.fn.toNat (mbFmt x.mb) a b then 1 else 0) s

/-- SSEL (R191). -/
def execSsel (h : Header) (x : F4) (s : State) : Host.Outcome State Fault Refusal :=
  let (d, a, b, k) := (x.d.toNat, x.a.toNat, x.b.toNat, x.c.toNat)
  issue h (legal false ([.s d 1, .s a 1, .s b 1, .s k 1, uniPred h] ++ uniMb false x.mb))
    (fun c _ => .done (uniActs c d (if (c.h.sreg k).getLsbD 0 then c.h.sreg a else c.h.sreg b))) s

/-- SMOV (R191). -/
def execSmov (h : Header) (x : F3) (s : State) : Host.Outcome State Fault Refusal :=
  let (d, a) := (x.d.toNat, x.a.toNat)
  issue h (legal false ([.s d 1, .s a 1, .rsv x.b.toNat, .rsv x.fn.toNat, uniPred h] ++ uniMb false x.mb))
    (fun c _ => .done (uniActs c d (c.h.sreg a))) s

/-- SADDI (R191). -/
def execSaddi (h : Header) (x : FI) (s : State) : Host.Outcome State Fault Refusal :=
  uniImm h x (fun a => a + x.imm.signExtend 64) s

/-- SANDI (R191). -/
def execSandi (h : Header) (x : FI) (s : State) : Host.Outcome State Fault Refusal :=
  uniImm h x (fun a => a &&& x.imm.signExtend 64) s

/-- SORI (R191). -/
def execSori (h : Header) (x : FI) (s : State) : Host.Outcome State Fault Refusal :=
  uniImm h x (fun a => a ||| x.imm.setWidth 64) s

/-- SSHLI (R191). -/
def execSshli (h : Header) (x : FI) (s : State) : Host.Outcome State Fault Refusal :=
  uniImm h x (fun a => sshlW a x.imm.toNat) s

end Sys2Proof.Machine
end

