-- ==== Sys2Proof/Machine/Dispatch.lean ====
section
/-! DEFINITION. One arm per constructor of Instr: the meaning of each instruction and event. -/

namespace Sys2Proof.Machine

/-- The meaning of an instruction or event in a state. -/
def exec (i : Instr) (s : State) : Host.Outcome State Fault Refusal :=
  match i with
  | .add h x => Sys2Proof.Machine.execAdd h x s
  | .sub h x => Sys2Proof.Machine.execSub h x s
  | .mul h x => Sys2Proof.Machine.execMul h x s
  | .mulhi h x => Sys2Proof.Machine.execMulhi h x s
  | .min h x => Sys2Proof.Machine.execMin h x s
  | .max h x => Sys2Proof.Machine.execMax h x s
  | .abs h x => Sys2Proof.Machine.execAbs h x s
  | .neg h x => Sys2Proof.Machine.execNeg h x s
  | .and h x => Sys2Proof.Machine.execAnd h x s
  | .or h x => Sys2Proof.Machine.execOr h x s
  | .xor h x => Sys2Proof.Machine.execXor h x s
  | .andn h x => Sys2Proof.Machine.execAndn h x s
  | .not h x => Sys2Proof.Machine.execNot h x s
  | .shl h x => Sys2Proof.Machine.execShl h x s
  | .shr h x => Sys2Proof.Machine.execShr h x s
  | .sar h x => Sys2Proof.Machine.execSar h x s
  | .rot h x => Sys2Proof.Machine.execRot h x s
  | .popc h x => Sys2Proof.Machine.execPopc h x s
  | .clz h x => Sys2Proof.Machine.execClz h x s
  | .ctz h x => Sys2Proof.Machine.execCtz h x s
  | .brev h x => Sys2Proof.Machine.execBrev h x s
  | .bfe h x => Sys2Proof.Machine.execBfe h x s
  | .mov h x => Sys2Proof.Machine.execMov h x s
  | .cmp h x => Sys2Proof.Machine.execCmp h x s
  | .fma h x => Sys2Proof.Machine.execFma h x s
  | .mad h x => Sys2Proof.Machine.execMad h x s
  | .sel h x => Sys2Proof.Machine.execSel h x s
  | .bfi h x => Sys2Proof.Machine.execBfi h x s
  | .dot4 h x => Sys2Proof.Machine.execDot4 h x s
  | .addi h x => Sys2Proof.Machine.execAddi h x s
  | .muli h x => Sys2Proof.Machine.execMuli h x s
  | .andi h x => Sys2Proof.Machine.execAndi h x s
  | .ori h x => Sys2Proof.Machine.execOri h x s
  | .xori h x => Sys2Proof.Machine.execXori h x s
  | .shli h x => Sys2Proof.Machine.execShli h x s
  | .shri h x => Sys2Proof.Machine.execShri h x s
  | .sari h x => Sys2Proof.Machine.execSari h x s
  | .cmpi h x => Sys2Proof.Machine.execCmpi h x s
  | .mini h x => Sys2Proof.Machine.execMini h x s
  | .maxi h x => Sys2Proof.Machine.execMaxi h x s
  | .movi h x => Sys2Proof.Machine.execMovi h x s
  | .movs h x => Sys2Proof.Machine.execMovs h x s
  | .movhs h x => Sys2Proof.Machine.execMovhs h x s
  | .div h x => Sys2Proof.Machine.execDiv h x s
  | .sqrt h x => Sys2Proof.Machine.execSqrt h x s
  | .rsqrt h x => Sys2Proof.Machine.execRsqrt h x s
  | .rcp h x => Sys2Proof.Machine.execRcp h x s
  | .exp2 h x => Sys2Proof.Machine.execExp2 h x s
  | .log2 h x => Sys2Proof.Machine.execLog2 h x s
  | .sin h x => Sys2Proof.Machine.execSin h x s
  | .cos h x => Sys2Proof.Machine.execCos h x s
  | .tanh h x => Sys2Proof.Machine.execTanh h x s
  | .fclass h x => Sys2Proof.Machine.execFclass h x s
  | .rint h x => Sys2Proof.Machine.execRint h x s
  | .ldexp h x => Sys2Proof.Machine.execLdexp h x s
  | .sgnj h x => Sys2Proof.Machine.execSgnj h x s
  | .cvt h x => Sys2Proof.Machine.execCvt h x s
  | .tag h x => Sys2Proof.Machine.execTag h x s
  | .pack h x => Sys2Proof.Machine.execPack h x s
  | .unpk h x => Sys2Proof.Machine.execUnpk h x s
  | .shfl h x => Sys2Proof.Machine.execShfl h x s
  | .bcast h x => Sys2Proof.Machine.execBcast h x s
  | .vote h x => Sys2Proof.Machine.execVote h x s
  | .ballot h x => Sys2Proof.Machine.execBallot h x s
  | .hred h x => Sys2Proof.Machine.execHred h x s
  | .hscan h x => Sys2Proof.Machine.execHscan h x s
  | .rdlane h x => Sys2Proof.Machine.execRdlane h x s
  | .splat h x => Sys2Proof.Machine.execSplat h x s
  | .sadd h x => Sys2Proof.Machine.execSadd h x s
  | .ssub h x => Sys2Proof.Machine.execSsub h x s
  | .smul h x => Sys2Proof.Machine.execSmul h x s
  | .sand h x => Sys2Proof.Machine.execSand h x s
  | .sor h x => Sys2Proof.Machine.execSor h x s
  | .sxor h x => Sys2Proof.Machine.execSxor h x s
  | .sshl h x => Sys2Proof.Machine.execSshl h x s
  | .sshr h x => Sys2Proof.Machine.execSshr h x s
  | .ssar h x => Sys2Proof.Machine.execSsar h x s
  | .smin h x => Sys2Proof.Machine.execSmin h x s
  | .smax h x => Sys2Proof.Machine.execSmax h x s
  | .scmp h x => Sys2Proof.Machine.execScmp h x s
  | .ssel h x => Sys2Proof.Machine.execSsel h x s
  | .smov h x => Sys2Proof.Machine.execSmov h x s
  | .saddi h x => Sys2Proof.Machine.execSaddi h x s
  | .sandi h x => Sys2Proof.Machine.execSandi h x s
  | .sori h x => Sys2Proof.Machine.execSori h x s
  | .sshli h x => Sys2Proof.Machine.execSshli h x s
  | .nop h x => Sys2Proof.Machine.execNop h x s
  | .br h x => Sys2Proof.Machine.execBr h x s
  | .jmpi h x => Sys2Proof.Machine.execJmpi h x s
  | .call h x => Sys2Proof.Machine.execCall h x s
  | .calli h x => Sys2Proof.Machine.execCalli h x s
  | .ret h x => Sys2Proof.Machine.execRet h x s
  | .head h x => Sys2Proof.Machine.execHead h x s
  | .exit h x => Sys2Proof.Machine.execExit h x s
  | .yield h x => Sys2Proof.Machine.execYield h x s
  | .barw h x => Sys2Proof.Machine.execBarw h x s
  | .bars h x => Sys2Proof.Machine.execBars h x s
  | .fence h x => Sys2Proof.Machine.execFence h x s
  | .sow h x => Sys2Proof.Machine.execSow h x s
  | .trap h x => Sys2Proof.Machine.execTrap h x s
  | .rft h x => Sys2Proof.Machine.execRft h x s
  | .sget h x => Sys2Proof.Machine.execSget h x s
  | .sset h x => Sys2Proof.Machine.execSset h x s
  | .dqk h x => Sys2Proof.Machine.execDqk h x s
  | .dqkAll h x => Sys2Proof.Machine.execDqkAll h x s
  | .brk h x => Sys2Proof.Machine.execBrk h x s
  | .ld h nib x => Sys2Proof.Machine.execLd h nib x s
  | .st h nib x => Sys2Proof.Machine.execSt h nib x s
  | .aaddI32 h x => Sys2Proof.Machine.execAaddI32 h x s
  | .aaddF32 h x => Sys2Proof.Machine.execAaddF32 h x s
  | .aminI32 h x => Sys2Proof.Machine.execAminI32 h x s
  | .aminN32 h x => Sys2Proof.Machine.execAminN32 h x s
  | .aminF32 h x => Sys2Proof.Machine.execAminF32 h x s
  | .amaxI32 h x => Sys2Proof.Machine.execAmaxI32 h x s
  | .amaxN32 h x => Sys2Proof.Machine.execAmaxN32 h x s
  | .amaxF32 h x => Sys2Proof.Machine.execAmaxF32 h x s
  | .aand h x => Sys2Proof.Machine.execAand h x s
  | .aor h x => Sys2Proof.Machine.execAor h x s
  | .axor h x => Sys2Proof.Machine.execAxor h x s
  | .axch h x => Sys2Proof.Machine.execAxch h x s
  | .acas h x => Sys2Proof.Machine.execAcas h x s
  | .raddI32 h x => Sys2Proof.Machine.execRaddI32 h x s
  | .raddF32 h x => Sys2Proof.Machine.execRaddF32 h x s
  | .rminI32 h x => Sys2Proof.Machine.execRminI32 h x s
  | .rminN32 h x => Sys2Proof.Machine.execRminN32 h x s
  | .rminF32 h x => Sys2Proof.Machine.execRminF32 h x s
  | .rmaxI32 h x => Sys2Proof.Machine.execRmaxI32 h x s
  | .rmaxN32 h x => Sys2Proof.Machine.execRmaxN32 h x s
  | .rmaxF32 h x => Sys2Proof.Machine.execRmaxF32 h x s
  | .rand h x => Sys2Proof.Machine.execRand h x s
  | .ror h x => Sys2Proof.Machine.execRor h x s
  | .rxor h x => Sys2Proof.Machine.execRxor h x s
  | .cpy h x => Sys2Proof.Machine.execCpy h x s
  | .cpyg h x => Sys2Proof.Machine.execCpyg h x s
  | .cwait h x => Sys2Proof.Machine.execCwait h x s
  | .smap h x => Sys2Proof.Machine.execSmap h x s
  | .sunmap h x => Sys2Proof.Machine.execSunmap h x s
  | .pf h x => Sys2Proof.Machine.execPf h x s
  | .cinv h x => Sys2Proof.Machine.execCinv h x s
  | .cwb h x => Sys2Proof.Machine.execCwb h x s
  | .tlbiPage h x => Sys2Proof.Machine.execTlbiPage h x s
  | .tlbiAll h x => Sys2Proof.Machine.execTlbiAll h x s
  | .tlbiPid h x => Sys2Proof.Machine.execTlbiPid h x s
  | .mma h x => Sys2Proof.Machine.execMma h x s
  | .mzero h x => Sys2Proof.Machine.execMzero h x s
  | .mld h x => Sys2Proof.Machine.execMld h x s
  | .mst h x => Sys2Proof.Machine.execMst h x s
  | .mabs h x => Sys2Proof.Machine.execMabs h x s
  | .mmov h x => Sys2Proof.Machine.execMmov h x s
  | .mrd h x => Sys2Proof.Machine.execMrd h x s
  | .board h x => Sys2Proof.Machine.execBoard h x s
  | .rtile h x => Sys2Proof.Machine.execRtile h x s
  | .rfree h x => Sys2Proof.Machine.execRfree h x s
  | .alight h x => Sys2Proof.Machine.execAlight h x s
  | .rpos h x => Sys2Proof.Machine.execRpos h x s
  | .rpace h x => Sys2Proof.Machine.execRpace h x s
  | .rinst h x => Sys2Proof.Machine.execRinst h x s
  | .rstat h x => Sys2Proof.Machine.execRstat h x s
  | .dadd h x => Sys2Proof.Machine.execDadd h x s
  | .dsub h x => Sys2Proof.Machine.execDsub h x s
  | .dmul h x => Sys2Proof.Machine.execDmul h x s
  | .dmin h x => Sys2Proof.Machine.execDmin h x s
  | .dmax h x => Sys2Proof.Machine.execDmax h x s
  | .dneg h x => Sys2Proof.Machine.execDneg h x s
  | .dscl h x => Sys2Proof.Machine.execDscl h x s
  | .dmix h x => Sys2Proof.Machine.execDmix h x s
  | .dpt h x => Sys2Proof.Machine.execDpt h x s
  | .datm h x => Sys2Proof.Machine.execDatm h x s
  | .dget h x => Sys2Proof.Machine.execDget h x s
  | .dtag h x => Sys2Proof.Machine.execDtag h x s
  | .dmom h x => Sys2Proof.Machine.execDmom h x s
  | .dqnt h x => Sys2Proof.Machine.execDqnt h x s
  | .dcdf h x => Sys2Proof.Machine.execDcdf h x s
  | .trec h x => Sys2Proof.Machine.execTrec h x s
  | .trbr h x => Sys2Proof.Machine.execTrbr h x s
  | .tmark h x => Sys2Proof.Machine.execTmark h x s
  | .tply h x => Sys2Proof.Machine.execTply h x s
  | .tplb h x => Sys2Proof.Machine.execTplb h x s
  | .tpmk h x => Sys2Proof.Machine.execTpmk h x s
  | .tbgn h x => Sys2Proof.Machine.execTbgn h x s
  | .tend h x => Sys2Proof.Machine.execTend h x s
  | .tseg h x => Sys2Proof.Machine.execTseg h x s
  | .patienceExpiry k f => Sys2Proof.Machine.execPatienceExpiry k f s
  | .crewRelease c => Sys2Proof.Machine.execCrewRelease c s
  | .yieldExpiry k f => Sys2Proof.Machine.execYieldExpiry k f s
  | .sowStalledPost k f => Sys2Proof.Machine.execSowStalledPost k f s
  | .siteRewrite k f => Sys2Proof.Machine.execSiteRewrite k f s
  | .remoteAnswer k f ans => Sys2Proof.Machine.execRemoteAnswer k f ans s
  | .peerTimeout k f => Sys2Proof.Machine.execPeerTimeout k f s
  | .copyStart k f => Sys2Proof.Machine.execCopyStart k f s
  | .copyRetire k ticket env => Sys2Proof.Machine.execCopyRetire k ticket env s
  | .windowSectorRecall c w n => Sys2Proof.Machine.execWindowSectorRecall c w n s
  | .leaveGrant core slice => Sys2Proof.Machine.execLeaveGrant core slice s
  | .matrixReadPhaseEnd core slice => Sys2Proof.Machine.execMatrixReadPhaseEnd core slice s
  | .matrixCommandRetire core slice => Sys2Proof.Machine.execMatrixCommandRetire core slice s
  | .timetableInstall => Sys2Proof.Machine.execTimetableInstall s
  | .tileInjection => Sys2Proof.Machine.execTileInjection s
  | .tileArrival stop crcBad => Sys2Proof.Machine.execTileArrival stop crcBad s
  | .holdLimitExpiry k => Sys2Proof.Machine.execHoldLimitExpiry k s
  | .tilePassed stop => Sys2Proof.Machine.execTilePassed stop s
  | .condenserComplete core slice => Sys2Proof.Machine.execCondenserComplete core slice s
  | .tapeBlockWrite k => Sys2Proof.Machine.execTapeBlockWrite k s
  | .penning k => Sys2Proof.Machine.execPenning k s
  | .herdResidency k => Sys2Proof.Machine.execHerdResidency k s
  | .admission core => Sys2Proof.Machine.execAdmission core s
  | .crewSaveAreaGrant c => Sys2Proof.Machine.execCrewSaveAreaGrant c s
  | .preemptHerdSave k => Sys2Proof.Machine.execPreemptHerdSave k s
  | .preemptTimeout c => Sys2Proof.Machine.execPreemptTimeout c s
  | .crewSaveComplete c => Sys2Proof.Machine.execCrewSaveComplete c s
  | .crewRestore c => Sys2Proof.Machine.execCrewRestore c s
  | .lqtail p v => Sys2Proof.Machine.execLqtail p v s
  | .launchQueueEntryRead p => Sys2Proof.Machine.execLaunchQueueEntryRead p s
  | .completionRecordWrite p => Sys2Proof.Machine.execCompletionRecordWrite p s
  | .faultRecordWrite p => Sys2Proof.Machine.execFaultRecordWrite p s
  | .fresp p v => Sys2Proof.Machine.execFresp p v s
  | .reggo p v => Sys2Proof.Machine.execReggo p v s
  | .registrationComplete p err => Sys2Proof.Machine.execRegistrationComplete p err s
  | .preempt p v => Sys2Proof.Machine.execPreempt p v s
  | .attest p v => Sys2Proof.Machine.execAttest p v s
  | .attestationWritten p => Sys2Proof.Machine.execAttestationWritten p s
  | .hostRegisterWrite p off v => Sys2Proof.Machine.execHostRegisterWrite p off v s
  | .lend acre p deadline => Sys2Proof.Machine.execLend acre p deadline s
  | .recallAcre acre => Sys2Proof.Machine.execRecall acre s
  | .recallComplete acre => Sys2Proof.Machine.execRecallComplete acre s
  | .boot x => Sys2Proof.Machine.execBoot x s
  | .recoveryImageReplace x => Sys2Proof.Machine.execRecoveryImageReplace x s
  | .unassignedOpcode w => Sys2Proof.Machine.execUnassignedOpcode w s
  | .peerAccessRequest r => Sys2Proof.Machine.execPeerAccessRequest r s
  | .poljorLinkDown l => Sys2Proof.Machine.execPoljorLinkDown l s
  | .poljorLinkUp l => Sys2Proof.Machine.execPoljorLinkUp l s
  | .l1SectorEviction core sector => Sys2Proof.Machine.execL1SectorEviction core sector s

end Sys2Proof.Machine
end

