-- ==== Sys2Proof/Machine/Fetch.lean ====
section
/-! DEFINITION. Fetching a word (R125, R199, R422), and a place to put one for a group about to issue. -/

namespace Sys2Proof.Machine

/-- What a fetch gives: the physical address and the word, or a fault's class and cause. -/
inductive Fetched where
  | word (pa : Nat) (w : Word)
  | fault (cls cause : Nat)
  deriving DecidableEq, Repr

/-- The checks and the translation of a fetch at a PC (R199, R422). -/
def fetchLoc (s : State) (h : Herd) (pc : Word) : Except (Nat × Nat) Xlate :=
  if pc.toNat % 8 ≠ 0 then .error (1, 0)
  else if 7 ≤ fld pc 63 60 then .error (2, 1)
  else if fld pc 63 48 ≠ 0 then .error (2, 2)
  else .ok (xlate s h.core h.key.crew.part (fld pc 47 0))

/-- R125: one 8-byte read at the translated PC; a word with an uncorrectable error meets cause 10 (R118, R232; assumption 69). -/
def fetchWord (s : State) (h : Herd) (pc : Word) : Fetched :=
  match fetchLoc s h pc with
  | .error (cls, c) => .fault cls c
  | .ok x =>
    match x.res with
    | .bad c => .fault 4 c
    | .leaf l e =>
      match permFault .fetch h.sup e with
      | some (cls, c) => .fault cls c
      | none =>
        let pa := leafPA l e (fld pc 47 0)
        if s.hbmErr.contains (sectorOf pa) then .fault 2 10 else .word pa (BitVec.ofNat 64 (s.hbm.num pa 8))

/-- What the translation of a fetch leaves behind. -/
def fetchTrace (s : State) (h : Herd) (pc : Word) : List Act :=
  match fetchLoc s h pc with
  | .error _ => []
  | .ok x => (if x.fill.isEmpty then [] else [.tlbAdd x.fill]) ++ (if x.drew then [.free 1] else [])

/-- A fetch fault: a page fault parks the group, any other traps at the PC (R120, R199). -/
def fetchFault (s : State) (h : Herd) (f cls cause : Nat) : List Act :=
  let pc := (h.fur f).pc
  if cls = 4 then park s h (h.group f) cause 255 pc
  else takeTrap s h { cls := cls, cause := cause, code := 0, lane := 255, addr := pc, tile := 0
                      group := furMask (h.group f), pc := pc, resume := pc }

/-- The numbers that a word's fields could name as vector registers, and the pair that `call` writes (R127, R196). -/
def wordRegs (w : Word) : List Nat :=
  [fld w 39 32, fld w 31 24, fld w 23 16, fld w 15 8] ++ (match decodeWord w with | .call _ _ => [14] | _ => [])

/-- Whether a word may name a vector register that a remote load or atomic is still to write. An operand has at most four registers
(R225). -/
def remoteBusy (w : Word) (r : RemoteOp) : Bool :=
  decide (r.kind ≠ 1) && (wordRegs w).any (fun n => decide (n < r.d + 4) && decide (r.d < n + 4))

/-- The opcodes that write a uniform register, S[D] (R143, R196, R218, R252, R316, R376). -/
def sregOps : List (Nat × Nat) :=
  [(0x03D, 0x03E), (0x092, 0x093), (0x096, 0x096), (0x0A0, 0x0B1), (0x0CC, 0x0CC), (0x0CF, 0x0CF), (0x0D1, 0x0D1), (0x140, 0x144)
   , (0x1C0, 0x1C7), (0x246, 0x248)]

/-- Whether a word writes S[d]; `cwait` and `rtile` write a pair (R245, R322). -/
def writesSreg (w : Word) (d : Nat) : Bool :=
  d ≠ 0 && sregOps.any (fun r => decide (r.1 ≤ opOf w) && decide (opOf w ≤ r.2))
    && (fld w 39 32 = d || (fld w 39 32 + 1 = d && (opOf w = 0x142 || opOf w = 0x1C1)))

/-- R158, R185: whether a word names a register that a word of another group, issued earlier and stalled, is still to write: the vector
registers of a remote load or atomic, the status of a `sow`, the ticket of a copy. Its group waits, so that the writes stand in issue
order and a fixed lane is read after them (assumption 82). A long wait delays no other group (R66): what a missed `board` or an `rtile`
writes late is ordered by Herd.late. -/
def regBusy (h : Herd) (w : Word) : Bool :=
  h.holds.any (fun x => match x.why with
    | .remote r => remoteBusy w r
    | .sow _ _ d => writesSreg w d
    | .copy r => writesSreg w r.d
    | _ => false)

/-- A valid blob in which partition 0 owns the whole module (R408). -/
def wholeBlob : Blob :=
  let pc : PartCfg :=
    { pid := 0, acres := List.range 24, hbmStacks := List.range 24
      frames := [{ lo := 0, hi := 0x1000000 }, { lo := 0x10000000, hi := 0x4000000000 }, { lo := 0x4400000000, hi := hbmTop }]
      arena := { lo := 0x1000000, hi := 0x2000000 }, pristine := { lo := 0x2000000, hi := 0x3000000 }
      pen := { lo := 0x4000000000, hi := 0x4400000000 }, pool := { lo := 0x4000000, hi := 0x8000000 }
      fbp := 4, lmax := 0, ptbase := 0x100000, tvec := 0x100000000, penbase := 0x4000000000, crewbase := 0x4000000
      crewcnt := 16 }
  let lt : LeaveTable :=
    { mma8 := 420, mma16 := 400, mma32 := 300, mld := 60, mst8 := 60, mst16 := 60, mst32 := 60, mzero := 0, mmov := 0
      mabs := 0, mrd := 0 }
  { pb := 0, ringOwner := 0, rholdlim := 200, leave := lt, parts := [pc], common := [], commonStacks := []
    peers := [] }

/-- The bytes of a table entry. -/
def pte (a : Nat) (e : Nat) : List Act := [.mem a (leBytes 8 e) none]

/-- Stands for boot, the load of a code object and the admission of one herd: a booted module with one resident herd of
one furrow whose next word stands in the arena page behind virtual address 0x1_0000_0000. -/
def loaded : State :=
  let k : CrewKey := { part := 0, field := 1, crew := 0 }
  let card : Card := { w0 := 0x100000000, w1 := 0, w2 := 0x0000000100010020, w3 := 0, w4 := 0, w5 := 0, w6 := 0, w7 := 0 }
  run State.reset (
    [.boot .enabled (some wholeBlob), .partReg 0x082 0x100000, .partReg 0x100 0x100000000, .partReg 0x102 0x4000000000,
     .partReg 0x103 0x4000000, .partReg 0x104 16]
    ++ pte 0x100000 0x101001 ++ pte 0x101020 0x102001 ++ pte 0x102000 0x103001 ++ pte 0x103000 0x10000A3
    ++ [.count 0 1,
        .fields [{ part := 0, id := 1, card := card, home := 0, admitted := 1, ended := 0, aborted := false, phases := [] }],
        .addCrew { key := k, core := 0, herds := 1, tileLen := 0, order := 0 },
        .addHerd { key := { crew := k, herd := 0 }, core := 0, slice := 0, slot := 0, width := 8, nregs := 32, nacc := 0
                   sup := false, order := 0, entry := 0x100000000, args := 0 },
        .herd { crew := k, herd := 0 } (.reside 0)])

end Sys2Proof.Machine
end

