-- ==== Sys2Proof/Machine/Turns.lean ====
section
/-! DEFINITION. The turns that the module can take by itself, without the host, a peer or a management command. A turn
listed here may still change nothing: the meaning of its event decides. -/

namespace Sys2Proof.Machine

/-- Whether a term is an event of the opcode table, not an instruction word. -/
def isEventInstr (i : Instr) : Bool := i.header.isNone

/-- Turns of one herd. -/
def herdTurns (h : Herd) : List Turn :=
  h.idxs.flatMap (fun f =>
    (if h.canIssue f || (h.resident && h.pending f) then [.issue h.key f, .post h.key f] else [])
    ++ (match (h.fur f).st with | .standing _ => [.event (.patienceExpiry h.key f)] | _ => [])
    ++ (match (h.heldBy [f]).map (fun x => x.why) with
        | some (.yield _) => [.event (.yieldExpiry h.key f)]
        | some (.rewrite _ _ _ _) => [.event (.siteRewrite h.key f)]
        | some (.sow _ _ _) => [.event (.sowStalledPost h.key f)]
        | some (.copy _) => [.event (.copyStart h.key f)]
        | _ => []))
  ++ [.event (.tapeBlockWrite h.key), .event (.penning h.key), .event (.herdResidency h.key),
      .event (.preemptHerdSave h.key), .event (.holdLimitExpiry h.key)]

/-- Turns of one crew. -/
def crewTurns (c : Crew) : List Turn :=
  [.event (.crewRelease c.key), .event (.crewSaveAreaGrant c.key), .event (.preemptTimeout c.key),
   .event (.crewSaveComplete c.key), .event (.crewRestore c.key)]
  ++ c.windows.flatMap (fun w => w.secs.map (fun x => Turn.event (.windowSectorRecall c.key w.id x.1)))

/-- Every turn that the module can take by itself. -/
def internalTurns (s : State) : List Turn :=
  s.herds.flatMap herdTurns ++ s.crews.flatMap crewTurns
  ++ s.copies.flatMap (fun x => [.outside (.copyReads x.key x.ticket), .event (.copyRetire x.key x.ticket { bytes := [], failed := [] })])
  ++ s.cmds.flatMap (fun m => [.event (.leaveGrant m.core m.slice), .event (.matrixReadPhaseEnd m.core m.slice),
      .event (.matrixCommandRetire m.core m.slice)])
  ++ s.conds.map (fun x => .event (.condenserComplete x.core x.slice))
  ++ s.seeds.map (fun q => .event (.admission q.core))
  ++ (match s.cfg with
      | some b => b.parts.flatMap (fun p => [.event (.launchQueueEntryRead p.pid), .event (.completionRecordWrite p.pid),
          .event (.faultRecordWrite p.pid)])
      | none => [])
  ++ (if s.ring.installed.isSome || s.ring.pending.isSome then
        [.event .timetableInstall, .event .tileInjection]
        ++ (List.range 12).flatMap (fun n => [.event (.tileArrival n false), .event (.tilePassed n)])
      else [])
  ++ s.lends.map (fun l => .event (.recallComplete l.acre))
  ++ (List.range s.posted.length).map (fun i => .outside (.perform i))
  ++ s.l1.map (fun x => .event (.l1SectorEviction x.core x.sec))

/-- The turn that a free value picks (assumption 1); none when nothing can happen. -/
def pickTurn (s : State) : Option Turn :=
  let l := internalTurns s
  if l.isEmpty then none else l[Config.freeNat s.freeCtr % l.length]?

end Sys2Proof.Machine
end

