-- ==== Sys2Proof/Machine/Step.lean ====
section
/-! DEFINITION. One step of the module: the next turn, of a group or of an event. -/

namespace Sys2Proof.Machine

/-- R356: whether a turn of a group is that of a pending trap of its herd: its own group's, or one that each other group has had its
issue of the same cycle before. -/
def trapTurn (h : Herd) (f : Nat) : Bool :=
  h.resident && h.handler.isNone && !h.pend.isEmpty && (h.pending f || (h.canIssue f && h.pendSeen.getLsbD f))

/-- R87, R356: while a trap pends, a group that issues is marked as having done so. -/
def seenActs (h : Herd) (f : Nat) : List Act :=
  if h.pend.isEmpty || h.handler.isSome then [] else [pendMark h h.pend (furMask (h.group f))]

/-- What a fetch fault does in a turn: a group whose turn of the cycle has gone only traps (R120, R199, R356). -/
def fetchTurn (s : State) (h : Herd) (f cls cause : Nat) : List Act :=
  if h.lateTurn f && cls = 4 then takePending h.key s else fetchFault s h f cls cause

/-- A group's turn: it issues the word at its PC (R24, R125, R422), or a pending trap is taken (R356); a group that cannot issue, or
whose word waits for the registers of one issued earlier or for posted accesses, lets its turn pass. With `post` the word's accesses are
posted, to be performed later (R257). The word is read in the turn that issues it (R275, R286; DESIGN CHOICE, assumption 83). -/
def issueTurn (k : HerdKey) (f : Nat) (post : Bool) (s : State) : Host.Outcome State Fault Refusal :=
  match s.herd? k with
  | none => .next s
  | some h =>
    if trapTurn h f then .next (run s (takePending k s))
    else if h.canIssue f then
      match fetchWord s h (h.fur f).pc with
      | .fault cls cause => .next (run s (fetchTrace s h (h.fur f).pc ++ seenActs h f ++ fetchTurn s h f cls cause))
      | .word pa w =>
        if regBusy h w || postedWaits s h f post w then .next s
        else exec (decodeWord w) { run s (fetchTrace s h (h.fur f).pc ++ seenActs h f ++ joinActs s h f) with
          issuer := some { key := k, f := f, pa := pa, post := post } }
    else .next s

/-- What a turn does. A word of Instr that is no event comes about only by an issue. -/
def turnEffect (t : Turn) (s : State) : Host.Outcome State Fault Refusal :=
  match t with
  | .issue k f => issueTurn k f false s
  | .post k f => issueTurn k f true s
  | .event e => if isEventInstr e then exec e { s with issuer := none } else .next s
  | .outside o => .next (run s (outsideActs o s))

/-- One turn, after which the holds of the ring are judged anew (R321, R332). -/
def takeTurn (t : Turn) (s : State) : Host.Outcome State Fault Refusal := judged (turnEffect t s)

/-- One step: the turn at the head of the schedule, or, with an empty schedule, one that a free value picks among those
that the module can take by itself (assumption 1). -/
def step (s : State) : Host.Outcome State Fault Refusal :=
  match s.schedule with
  | t :: ts => takeTurn t { s with schedule := ts }
  | [] =>
    match pickTurn s with
    | none => .next s
    | some t => takeTurn t { s with freeCtr := s.freeCtr + 1 }

/-- The state with the instruction whose bits are `w` standing where the next step fetches. Where the next turn is not the
issue of a group that can fetch, the state is replaced by `loaded`, which stands for the load of a program. -/
def State.withFetchWord (s : State) (_nbits w : Nat) : State :=
  let place (s : State) (k : HerdKey) (f : Nat) : Option State :=
    match s.herd? k with
    | none => none
    | some h =>
      if h.canIssue f && !trapTurn h f && !h.lateTurn f && !regBusy h (BitVec.ofNat 64 w) && s.posted.isEmpty then
        match fetchWord s h (h.fur f).pc with
        | .word pa _ => some (s.act (.mem pa (leBytes 8 w) none))
        | .fault _ _ => none
      else none
  let fresh : State :=
    let k : HerdKey := { crew := { part := 0, field := 1, crew := 0 }, herd := 0 }
    let s0 : State := { loaded with schedule := [.issue k 0] }
    (place s0 k 0).getD s0
  match s.schedule with
  | .issue k f :: _ => (place s k f).getD fresh
  | _ => fresh

end Sys2Proof.Machine
end

