-- ==== Sys2Proof/Safety.lean ====
section
/-! DEFINITION. The terms of the claims: sound states (every store in its canonical form, s0 never written, at most eight
furrows to a herd), the issue of a word, and what an instruction leaves alone. -/

namespace Sys2Proof

open Sys2Proof.Machine

/-- The canonical form of a herd's registers (R33), and its furrows (R22). -/
structure HerdInv (h : Herd) : Prop where
  s : Sparse.wf zeros h.s
  s0 : ∀ c ∈ h.s, c.1 ≠ 0
  v : Sparse.wf zeros h.v
  vtag : Sparse.wf zeros h.vtag
  d : Sparse.wf atomReset h.d
  dtag : Sparse.wf zeros h.dtag
  acc : ∀ t ∈ h.acc, Sparse.wf zeros t
  furrows : h.furrows.length ≤ 8

/-- The canonical form of everything that the module stores: memory, host memory, tile stores, registers and counters. -/
structure Inv (s : State) : Prop where
  hbm : Memory.wf s.hbm
  hostMem : Memory.wf s.hostMem
  herds : ∀ h ∈ s.herds, HerdInv h
  tiles : ∀ c ∈ s.crews, Memory.wf c.tile
  coreRegs : Sparse.wf coreReset s.coreRegs
  partRegs : Sparse.wf partReset s.partRegs
  hostRegs : Sparse.wf zeros s.hostRegs
  counts : Sparse.wf zeros s.counts
  slotGen : Sparse.wf zeros s.slotGen

/-- State.issuer names a group of herd h that may issue (R50, R403) and whose turn of the cycle has not gone (R87, R356), and h has the
furrows that R22 allows. -/
structure Issues (s : State) (w : Issuer) (h : Herd) : Prop where
  who : s.issuer = some w
  herd : s.herd? w.key = some h
  may : h.canIssue w.f = true
  furrows : h.furrows.length ≤ 8
  turn : h.lateTurn w.f = false

/-- The active lanes of a word with this header, of the group named f (R23, R126). -/
def activeLanes (h : Herd) (f : Nat) (hd : Header) : List Nat := (h.lanesOf (h.group f)).filter (h.pred hd)

/-- The issue that the meanings judge. -/
def issueCtx (w : Issuer) (h : Herd) (hd : Header) : Ctx :=
  { key := w.key, h := h, f := w.f, furs := h.group w.f, pc := (h.fur w.f).pc, hdr := hd, lanes := h.lanesOf (h.group w.f)
    act := activeLanes h w.f hd, pa := w.pa, post := w.post }

/-- R126, R136: the predicate fields are sound: zero without a predicate, and a vector predicate register within the
allocation. -/
def PredOk (h : Herd) (hd : Header) : Prop :=
  (hd.pe = false → hd.pn = false ∧ hd.pk = false ∧ hd.pr = 0#5) ∧ (hd.pe = true → hd.pk = false → hd.pr.toNat < h.nregs)

/-- R126, R134: a legal header of an opcode that is not generic-capable; `u` says that the opcode accepts U = 1. -/
structure PlainHeader (h : Herd) (hd : Header) (u : Bool) : Prop where
  pred : PredOk h hd
  ss : hd.ss = 0#2
  wc : hd.wc = 0#3
  uni : hd.u = true → u = true

/-- The lane whose operands lane l uses: with U = 1 the lowest active one (R51). -/
def opLane (h : Herd) (f : Nat) (hd : Header) (l : Nat) : Nat := if hd.u then (activeLanes h f hd).headD 0 else l

/-- The issuing group continues at PC + 8; every other furrow stands as it was. -/
def Advanced (h h' : Herd) (f : Nat) : Prop :=
  ∀ j, h'.fur j = if j ∈ h.group f then { h.fur j with pc := (h.fur f).pc + 8#64 } else h.fur j

/-- What an instruction leaves that changes only its own herd: all of the module but that herd and the count of instructions
issued, which grows by 1 (R218). -/
structure OnlyHerd (s t : State) (w : Issuer) (h h' : Herd) : Prop where
  now : t.herd? w.key = some h'
  rest : t = { s with herds := t.herds, coreRegs := t.coreRegs }
  others : ∀ k, k ≠ w.key → t.herd? k = s.herd? k
  issued : t.coreReg h.core 0x040 = BitVec.ofNat 64 (min ((s.coreReg h.core 0x040).toNat + 1) (2 ^ 64 - 1))
  regs : ∀ n, n ≠ 4096 * h.core + 0x040 → Sparse.get coreReset t.coreRegs n = Sparse.get coreReset s.coreRegs n
  hbm : ∀ a, t.hbm.byte a = s.hbm.byte a
  host : ∀ a, t.hostMem.byte a = s.hostMem.byte a
  tiles : t.crews = s.crews

/-- What every completing word does to its own core's count (R218) and to the other herds: nothing, for a word whose effect
does not name them. -/
structure WordDone (s t : State) (w : Issuer) (h h' : Herd) : Prop where
  now : t.herd? w.key = some h'
  others : ∀ k, k ≠ w.key → t.herd? k = s.herd? k
  issued : t.coreReg h.core 0x040 = BitVec.ofNat 64 (min ((s.coreReg h.core 0x040).toNat + 1) (2 ^ 64 - 1))
  regs : ∀ n, n ≠ 4096 * h.core + 0x040 → Sparse.get coreReset t.coreRegs n = Sparse.get coreReset s.coreRegs n

/-- Lanes `ls` of vector register d hold `val`, its tag is `tag`, the group goes on, the holds are `hs`, and nothing else of
the herd changes. -/
structure LanesWritten (h h' : Herd) (f d : Nat) (ls : List Nat) (tag : Nat) (val : Nat → Lane) (hs : List Hold) : Prop where
  lanes : ∀ l ∈ ls, h'.vreg d l = val l
  vregs : ∀ n l, l < 64 → ¬ (n = d ∧ l ∈ ls) → h'.vreg n l = h.vreg n l
  tag : h'.tagOf d = tag
  tags : ∀ n, n ≠ d → h'.tagOf n = h.tagOf n
  pcs : Advanced h h' f
  rest : h' = { h with v := h'.v, vtag := h'.vtag, furrows := h'.furrows, holds := hs }

/-- S[d] holds `x`, or nothing is written when d is s0 (R33), the late writes of S[d] by words issued earlier stand no more (R158), the
group goes on, and nothing else of the herd changes. -/
structure SregWritten (h h' : Herd) (f d : Nat) (x : Word) : Prop where
  val : h'.sreg d = if d = 0 then 0#64 else x
  sregs : ∀ n, n ≠ d → h'.sreg n = h.sreg n
  pcs : Advanced h h' f
  rest : h' = { h with s := h'.s, furrows := h'.furrows, late := h.overrule d }

/-- R128, R153, R154: the modifier byte of a word that is not generic-capable. -/
def MbOk (r : FmtRule) (mb : BitVec 8) : Prop := mb.getLsbD 0 = false ∧ r.accepts (mbFmt mb) mb = true

/-- The state with the issuing word counted (R218). -/
def counted (s : State) (h : Herd) : State := s.act (bumpCore h.core 0x040)

/-- The state in which a trap of the issuing word is judged: an illegal-instruction trap changes no counter (R137), and a word that meets
any other trap counts as issued (log entry 10). -/
def trapBase (s : State) (h : Herd) (cls : Nat) : State := if cls = 0 then s else counted s h

/-- R356, R357: nothing delays a trap of a group: no other group's instruction is under way, and no trap of a lower group
pends. -/
abbrev TrapFree (h : Herd) (g : BitVec 8) : Prop := trapWaits h g = false ∧ pendBefore h g = false

/-- R356: no other group of the herd can issue in the cycle of the word of group f. -/
def Alone (h : Herd) (f : Nat) : Prop := ∀ i < h.furrows.length, i ≠ f → h.canIssue i = false

/-- What a trap at the issuing word records: a *before* trap resumes at the word (R355). -/
def trapAtWord (w : Issuer) (h : Herd) (cls cause : Nat) : TrapInfo :=
  { cls := cls, cause := cause, code := 0, lane := 255, addr := 0, tile := 0, group := furMask (h.group w.f)
    pc := (h.fur w.f).pc, resume := (h.fur w.f).pc }

/-- The state after a *before* trap of the issuing group: nothing of the word but its count, and the trap is taken (R136, R137,
R355, R357; which trapped words count is log entry 10). -/
def trapped (s : State) (h : Herd) (i : TrapInfo) : State :=
  run (trapBase s h i.cls) (takeTrap (trapBase s h i.cls) h i)

end Sys2Proof
end

