-- ==== Sys2Proof/Certificates/Slice0/Obligations.lean ====
section
/-! DEFINITION. The statements for the provers, from the numbered rules of the manual. Shapes come first, each said once;
then the statements, family by family. -/

namespace Sys2Proof

open Sys2Proof.Machine

/-- Shape: a word that is not generic-capable writes `val` to the active lanes of vector register d, with a tag (R51, R155).
`u` says that the opcode accepts U = 1, and `ok` is what R137 asks of its fields. -/
def WritesLanes {F : Type} (mk : Header → F → Instr) (u : Bool) (ok : Herd → F → Prop) (d : F → Nat)
    (tag : Herd → F → Nat) (val : Herd → List Nat → F → Nat → Lane) : Prop :=
  ∀ (s : State) (w : Issuer) (h : Herd) (hd : Header) (x : F),
    Issues s w h → PlainHeader h hd u → d x < h.nregs → ok h x → activeLanes h w.f hd ≠ [] →
    ∃ t h', exec (mk hd x) s = .next t ∧ OnlyHerd s t w h h' ∧
      LanesWritten h h' w.f (d x) (activeLanes h w.f hd) (tag h x)
        (fun l => val h (activeLanes h w.f hd) x (opLane h w.f hd l)) h.holds

/-- The field rules of an F3 word of two vector sources. -/
def Src2 (r : FmtRule) (fn : BitVec 8 → Prop) (h : Herd) (x : F3) : Prop :=
  x.a.toNat < h.nregs ∧ x.b.toNat < h.nregs ∧ fn x.fn ∧ MbOk r x.mb

/-- The field rules of an F3 word of one vector source: B and FN are reserved. -/
def Src1 (r : FmtRule) (h : Herd) (x : F3) : Prop := x.a.toNat < h.nregs ∧ x.b = 0#8 ∧ x.fn = 0#8 ∧ MbOk r x.mb

/-- The field rules of an F4 word of three vector sources. -/
def Src3 (r : FmtRule) (h : Herd) (x : F4) : Prop :=
  x.a.toNat < h.nregs ∧ x.b.toNat < h.nregs ∧ x.c.toNat < h.nregs ∧ MbOk r x.mb

/-- The field rules of an FI word of one vector source. -/
def SrcImm (r : FmtRule) (h : Herd) (x : FI) : Prop := x.a.toNat < h.nregs ∧ MbOk r x.mb

/-- R156: FMT, or the tag that A carries. -/
def movedTag (h : Herd) (a : Nat) (mb : BitVec 8) : Nat := if mbFmt mb = 0 then h.tagOf a else mbFmt mb

/-- Shape: an F3 word of two sources whose result takes FMT as its tag. -/
def Lane2Word (mk : Header → F3 → Instr) (r : FmtRule) (fn : BitVec 8 → Prop) (g : BitVec 8 → Lane2) : Prop :=
  WritesLanes mk true (Src2 r fn) (fun x => x.d.toNat) (fun _ x => mbFmt x.mb)
    (fun h _ x l => g x.fn (mbFmt x.mb) (mbRm x.mb) (mbSat x.mb) (h.vreg x.a.toNat l) (h.vreg x.b.toNat l))

/-- Shape: an F3 word of one source whose result takes the given tag. -/
def Lane1Word (mk : Header → F3 → Instr) (r : FmtRule) (tag : Nat → Nat) (g : Lane2) : Prop :=
  WritesLanes mk true (Src1 r) (fun x => x.d.toNat) (fun _ x => tag (mbFmt x.mb))
    (fun h _ x l => g (mbFmt x.mb) (mbRm x.mb) (mbSat x.mb) (h.vreg x.a.toNat l) 0)

/-- Shape: an FI word, its immediate in place of B. -/
def LaneImmWord (mk : Header → FI → Instr) (r : FmtRule) (ok : BitVec 16 → Prop) (tag : Nat → Nat)
    (g : BitVec 16 → Nat → RMode → Bool → Lane → Lane) : Prop :=
  WritesLanes mk true (fun h x => SrcImm r h x ∧ ok x.imm) (fun x => x.d.toNat) (fun _ x => tag (mbFmt x.mb))
    (fun h _ x l => g x.imm (mbFmt x.mb) (mbRm x.mb) (mbSat x.mb) (h.vreg x.a.toNat l))

/-- R134, R154, R157, R271: the site of a generic-capable arithmetic word settles a format f and U: it is native, or quickened
with a guard that holds, or pinned with tags that agree. -/
def SiteSettled (h : Herd) (ls : List Nat) (hd : Header) (r : FmtRule) (mb : BitVec 8) (tags srcs : List Nat)
    (f : Nat) (u : Bool) : Prop :=
  PredOk h hd ∧ mb.getLsbD 0 = false ∧ r.accepts f mb = true ∧
    ((hd.ss = 0#2 ∧ hd.wc = 0#3 ∧ f = mbFmt mb ∧ u = hd.u)
      ∨ (hd.ss = 2#2 ∧ hd.wc ≠ 7#3 ∧ f = mbFmt mb ∧ u = hd.u ∧ (∀ n ∈ tags, h.tagOf n = f)
          ∧ (hd.u = true → ∀ n ∈ srcs, ∀ l ∈ ls, h.vreg n l = h.vreg n (ls.headD 0)))
      ∨ (hd.ss = 3#2 ∧ hd.wc = 7#3 ∧ hd.u = false ∧ u = false ∧ mbFmt mb = 0 ∧ ∀ n ∈ tags, h.tagOf n = f))

/-- A generic-capable arithmetic word, as data: its row of R153, its modifier byte, what R137 asks of its other fields, its
destination, the sources whose tags and values its site looks at (R157, R269), its tag and its value for a format. -/
structure GenWord (F : Type) where
  ctor : Header → F → Instr
  r : FmtRule
  mb : F → BitVec 8
  ok : F → Prop
  d : F → Nat
  srcs : F → List Nat
  tag : Nat → Nat
  val : Nat → Herd → F → Nat → Lane

/-- A generic-capable F3 word of two sources. -/
def gen2 (mk : Header → F3 → Instr) (r : FmtRule) (ok : F3 → Prop) (tag : Nat → Nat) (g : F3 → Lane2) : GenWord F3 :=
  { ctor := mk, r := r, mb := fun x => x.mb, ok := ok, d := fun x => x.d.toNat, srcs := fun x => [x.a.toNat, x.b.toNat], tag := tag
    val := fun f h x l => g x f (mbRm x.mb) (mbSat x.mb) (h.vreg x.a.toNat l) (h.vreg x.b.toNat l) }

/-- A generic-capable F3 word of one source. -/
def gen1 (mk : Header → F3 → Instr) (r : FmtRule) (g : Lane2) : GenWord F3 :=
  { ctor := mk, r := r, mb := fun x => x.mb, ok := fun x => x.b = 0#8 ∧ x.fn = 0#8, d := fun x => x.d.toNat
    srcs := fun x => [x.a.toNat], tag := id, val := fun f h x l => g f (mbRm x.mb) (mbSat x.mb) (h.vreg x.a.toNat l) 0 }

/-- The generic-capable arithmetic of format F3 (R139), `cvt` apart. -/
def genericF3 : List (GenWord F3) :=
  [gen2 .add ruleAdd (fun x => x.fn = 0#8) id (fun _ => laneAdd), gen2 .sub ruleAdd (fun x => x.fn = 0#8) id (fun _ => laneSub),
   gen2 .mul ruleAdd (fun x => x.fn = 0#8) id (fun _ => laneMul), gen2 .min ruleMin (fun x => x.fn = 0#8) id (fun _ => laneMin),
   gen2 .max ruleMin (fun x => x.fn = 0#8) id (fun _ => laneMax), gen2 .div ruleFRmSat (fun x => x.fn = 0#8) id (fun _ => laneDiv),
   gen2 .cmp ruleMin (fun x => x.fn.toNat < 8) (fun _ => 0) (fun x => laneCmp x.fn.toNat),
   gen1 .abs ruleAbs laneAbs, gen1 .neg ruleNeg laneNeg, gen1 .sqrt ruleFRm laneSqrt, gen1 .rint ruleFRm laneRint,
   gen1 .rsqrt ruleFSat (laneFn 0x42 .rsqrt), gen1 .rcp ruleFSat (laneFn 0x43 .rcp), gen1 .exp2 ruleFSat (laneFn 0x44 .exp2),
   gen1 .log2 ruleF (laneFn 0x45 .log2), gen1 .sin ruleF (laneFn 0x46 .sin), gen1 .cos ruleF (laneFn 0x47 .cos),
   gen1 .tanh ruleF (laneFn 0x48 .tanh)]

/-- `fma` (R165). -/
def genericFma : GenWord F4 :=
  { ctor := .fma, r := ruleFma, mb := fun x => x.mb, ok := fun _ => True, d := fun x => x.d.toNat
    srcs := fun x => [x.a.toNat, x.b.toNat, x.c.toNat], tag := id
    val := fun f h x l => laneFma f (mbRm x.mb) (mbSat x.mb) (h.vreg x.a.toNat l) (h.vreg x.b.toNat l) (h.vreg x.c.toNat l) }

/-- Shape: a word of a settled site completes as the native word of that format (R134, R271, R277, R279). -/
def SettledCompletes {F : Type} (g : GenWord F) : Prop :=
  ∀ (s : State) (w : Issuer) (h : Herd) (hd : Header) (x : F) (f : Nat) (u : Bool),
    Issues s w h → SiteSettled h (activeLanes h w.f hd) hd g.r (g.mb x) (g.srcs x) (g.srcs x) f u → g.d x < h.nregs →
    (∀ n ∈ g.srcs x, n < h.nregs) → g.ok x → activeLanes h w.f hd ≠ [] →
    ∃ t h', exec (g.ctor hd x) s = .next t ∧ OnlyHerd s t w h h' ∧
      LanesWritten h h' w.f (g.d x) (activeLanes h w.f hd) (g.tag f)
        (fun l => g.val f h x (if u then (activeLanes h w.f hd).headD 0 else l)) h.holds

/-- R272: the operands are uniform: two lanes or more, and one value in each source. -/
def OneValue (h : Herd) (ls : List Nat) (srcs : List Nat) : Prop :=
  ∀ n ∈ srcs, ∀ l ∈ ls, h.vreg n l = h.vreg n (ls.headD 0)

/-- The hold of a group whose compare-and-swap is not yet answered (R274). -/
def rewriteOf (w : Issuer) (h : Herd) (old new : Word) (widen : Bool) : Hold :=
  { group := furMask (h.group w.f), why := .rewrite w.pa old new widen }

/-- Shape: an unresolved word whose sources carry one accepted format executes with it, and attempts the rewrite to the
quickened word, whose U says whether the operands are uniform (R157, R271 to R274). -/
def UnresolvedResolves {F : Type} (g : GenWord F) : Prop :=
  ∀ (s : State) (w : Issuer) (h : Herd) (hd : Header) (x : F) (f : Nat) (u : Bool),
    Issues s w h → PredOk h hd → hd.ss = 1#2 → hd.wc ≠ 7#3 → hd.u = false → (g.mb x).getLsbD 0 = false → mbFmt (g.mb x) = 0 →
    (∀ n ∈ g.srcs x, h.tagOf n = f) → g.r.accepts f (g.mb x) = true → g.d x < h.nregs → (∀ n ∈ g.srcs x, n < h.nregs) →
    g.ok x → activeLanes h w.f hd ≠ [] →
    (u = true ↔ 2 ≤ (activeLanes h w.f hd).length ∧ OneValue h (activeLanes h w.f hd) (g.srcs x)) →
    ∃ t h' word, encode (g.ctor hd x) = some word ∧ exec (g.ctor hd x) s = .next t ∧ OnlyHerd s t w h h' ∧
      LanesWritten h h' w.f (g.d x) (activeLanes h w.f hd) (g.tag f)
        (fun l => g.val f h x (if u then (activeLanes h w.f hd).headD 0 else l))
        (h.holds ++ [rewriteOf w h word (setBits (quickened word u) 4 4 f) false])

/-- Shape: a quickened word whose guard fails executes generically and attempts the rewrite to the widened word (R277,
R278). -/
def GuardFailureWidens {F : Type} (g : GenWord F) : Prop :=
  ∀ (s : State) (w : Issuer) (h : Herd) (hd : Header) (x : F) (f : Nat),
    Issues s w h → PredOk h hd → hd.ss = 2#2 → hd.wc ≠ 7#3 → (g.mb x).getLsbD 0 = false →
    g.r.accepts (mbFmt (g.mb x)) (g.mb x) = true →
    (f ≠ mbFmt (g.mb x) ∨ hd.u = true ∧ ¬ OneValue h (activeLanes h w.f hd) (g.srcs x)) →
    (∀ n ∈ g.srcs x, h.tagOf n = f) → g.r.accepts f (g.mb x) = true → g.d x < h.nregs → (∀ n ∈ g.srcs x, n < h.nregs) →
    g.ok x → activeLanes h w.f hd ≠ [] →
    ∃ t h' word, encode (g.ctor hd x) = some word ∧ exec (g.ctor hd x) s = .next t ∧ OnlyHerd s t w h h' ∧
      LanesWritten h h' w.f (g.d x) (activeLanes h w.f hd) (g.tag f) (fun l => g.val f h x l)
        (h.holds ++ [rewriteOf w h word (setBits (widened word) 4 4 0) true])

/-- Shape: an unresolved word whose sources carry no common accepted format traps with cause 7 and has no effect (R157). -/
def NoFormatTraps {F : Type} (g : GenWord F) : Prop :=
  ∀ (s : State) (w : Issuer) (h : Herd) (hd : Header) (x : F),
    Issues s w h → PredOk h hd → ((hd.ss = 1#2 ∧ hd.wc ≠ 7#3) ∨ (hd.ss = 3#2 ∧ hd.wc = 7#3)) → hd.u = false →
    (g.mb x).getLsbD 0 = false → mbFmt (g.mb x) = 0 → g.d x < h.nregs → (∀ n ∈ g.srcs x, n < h.nregs) → g.ok x →
    activeLanes h w.f hd ≠ [] → TrapFree h (furMask (h.group w.f)) →
    (∀ f, g.r.accepts f (g.mb x) = true → ∃ n ∈ g.srcs x, h.tagOf n ≠ f) →
    exec (g.ctor hd x) s = .next (trapped s h (trapAtWord w h 0 7))

/-- Shape: a word that writes `val` to S[d], where s0 discards it (R33). -/
def WritesSreg {F : Type} (mk : Header → F → Instr) (ok : Herd → Header → F → Prop) (d : F → Nat)
    (val : Herd → List Nat → F → Word) : Prop :=
  ∀ (s : State) (w : Issuer) (h : Herd) (hd : Header) (x : F),
    Issues s w h → PlainHeader h hd false → d x < 64 → ok h hd x → activeLanes h w.f hd ≠ [] →
    ∃ t h', exec (mk hd x) s = .next t ∧ OnlyHerd s t w h h' ∧
      SregWritten h h' w.f (d x) (val h (activeLanes h w.f hd) x)

/-- R190: a uniform instruction takes no vector predicate. -/
def UniPred (hd : Header) : Prop := hd.pe = true → hd.pk = true

/-- R190: the modifier byte of a uniform instruction: zero, or FMT 1 or 2 alone for a comparison. -/
def UniMb (cmp : Bool) (mb : BitVec 8) : Prop :=
  mb.getLsbD 0 = false ∧ mb.extractLsb' 1 3 = 0#3 ∧ (if cmp then mbFmt mb = 1 ∨ mbFmt mb = 2 else mbFmt mb = 0)

/-- Shape: an F3 word on S[A] and S[B] (R190, R191). -/
def Uni2Word (mk : Header → F3 → Instr) (cmp : Bool) (fn : BitVec 8 → Prop) (g : BitVec 8 → Nat → Word → Word → Word) : Prop :=
  WritesSreg mk (fun _ hd x => UniPred hd ∧ x.a.toNat < 64 ∧ x.b.toNat < 64 ∧ fn x.fn ∧ UniMb cmp x.mb) (fun x => x.d.toNat)
    (fun h _ x => g x.fn (mbFmt x.mb) (h.sreg x.a.toNat) (h.sreg x.b.toNat))

/-- Shape: an FI word on S[A] and the immediate (R190, R191). -/
def UniImmWord (mk : Header → FI → Instr) (g : BitVec 16 → Word → Word) : Prop :=
  WritesSreg mk (fun _ hd x => UniPred hd ∧ x.a.toNat < 64 ∧ UniMb false x.mb) (fun x => x.d.toNat)
    (fun h _ x => g x.imm (h.sreg x.a.toNat))

/-- R191: a uniform value as an integer, signed with FMT 1. -/
def uniInt (f : Nat) (a : Word) : Int := if f = 1 then a.toInt else a.toNat

/-- R172: conditions 0 to 5. -/
def condOf (fn : Nat) (a b : Int) : Prop :=
  (fn = 0 ∧ a = b) ∨ (fn = 1 ∧ a ≠ b) ∨ (fn = 2 ∧ a < b) ∨ (fn = 3 ∧ a ≤ b) ∨ (fn = 4 ∧ b < a) ∨ (fn = 5 ∧ b ≤ a)

/-- What an *after* trap of the issuing group records: it resumes past the word (R355). -/
def trapAfterWord (w : Issuer) (h : Herd) (cls cause code : Nat) : TrapInfo :=
  { trapAtWord w h cls cause with code := code, resume := (h.fur w.f).pc + 8#64 }

/-- The uniformity sources of `cvt` (R180, R269): D is read when the part is smaller than the destination. -/
def cvtSrcs (x : F3) (f : Nat) : List Nat :=
  if elemCount f < elemCount (x.fn.toNat % 16) then [x.a.toNat, x.d.toNat] else [x.a.toNat]

/-- R180: the result of one lane, with its counts. -/
def cvtOf (h : Herd) (x : F3) (f l : Nat) : Lane × ConvCount :=
  cvtLane f (x.fn.toNat % 16) (x.fn.toNat / 16) (mbRm x.mb) (mbSat x.mb) (h.vreg x.a.toNat l) (h.vreg x.d.toNat l)

/-- A word that changes no register, tag or counter of its herd. -/
def FurrowsOnly (h h' : Herd) : Prop := h' = { h with furrows := h'.furrows }

/-- The target of `br` and `call` (R130, R195). -/
def branchTarget (w : Issuer) (h : Herd) (x : FB) : Word := (h.fur w.f).pc + 8#64 * x.off.signExtend 64

/-- R195: whether lane l takes the branch. -/
def takes (h : Herd) (x : FB) (l : Nat) : Bool :=
  (if x.ck = 1#2 then (h.vreg x.cr.toNat l).getLsbD 0 else if x.ck = 2#2 then (h.sreg x.cr.toNat).getLsbD 0 else true) != x.cn

/-- R195: the next PC that lane l chooses. -/
def branchChoice (w : Issuer) (h : Herd) (x : FB) (l : Nat) : Word :=
  if takes h x l then branchTarget w h x else (h.fur w.f).pc + 8#64

/-- R130, R195: the fields of `br` and `call`. -/
def CondOk (h : Herd) (x : FB) : Prop :=
  x.hid = 0#4 ∧ x.rsv = 0#4 ∧ x.ck ≠ 3#2 ∧ (x.ck = 0#2 → x.cn = false ∧ x.cr = 0#5) ∧ (x.ck = 1#2 → x.cr.toNat < h.nregs)

/-- R39: of the lanes of one furrow, the PC at which its current path continues: the target when a lane takes it. -/
def keepsTaken (tgt pc : Word) (t : Nat → Word) (ls : List Nat) : Word := if ls.any (fun l => decide (t l = tgt)) then tgt else pc + 8#64

/-- R39: of the lanes of one furrow, the PC at which its current path continues: that of the lowest. -/
def keepsLowest (pc : Word) (t : Nat → Word) (ls : List Nat) : Word :=
  match ls with
  | [] => pc + 8#64
  | l :: _ => t l

/-- R39: the deferred entries that the lanes `ls` of a furrow leave behind when its path goes to `cur`. -/
def deferredBy (t : Nat → Word) (cur : Word) (ls : List Nat) : List PathEntry :=
  ((ls.map t).eraseDups.filter (fun p => decide (p ≠ cur))).map (fun p =>
    { pc := p, mask := laneMask (ls.filter (fun l => decide (t l = p))), parked := false, hid := 0, cnt := 0 })

/-- R39, R194: furrow j of a dissolved group, whose active lanes are `ls`. -/
def splitFurrow (t : Nat → Word) (cur : Word) (ls : List Nat) (j : Nat) (r : Furrow) : Furrow :=
  { r with pc := cur, path := r.path &&& ~~~(laneMask (ls.filter (fun l => decide (t l ≠ cur)))),
           stack := deferredBy t cur ls ++ r.stack, grp := j }

/-- What an event changes in one herd: every other herd stands as it was. -/
def OneHerd (s t : State) (k : HerdKey) (h' : Herd) : Prop := t.herd? k = some h' ∧ ∀ j, j ≠ k → t.herd? j = s.herd? j

/-- What an *after* trap of a completed word leaves, where `t` is the state of its completion: behind a pending trap of a lower group
it pends; else it is taken at once when no other group can issue in the same cycle, and else, as a free value decides, at once or once
those have had their turn, a lower group's too, whose *before* trap goes first (R355, R356; log entry 70). -/
def TakenAfter (s t r : State) (h h' : Herd) (f : Nat) (i : TrapInfo) : Prop :=
  let pended := ∃ g, r.herd? h.key = some g ∧ g = { h' with pend := h.pend ++ [(i.group, i)], pendSeen := h.pendSeen ||| i.group,
                                                               pendTop := max h.pendTop (lowFur i.group) } ∧
    r = { t with herds := r.herds, freeCtr := r.freeCtr }
  (pendBefore h i.group = true → pended ∧ r.freeCtr = t.freeCtr) ∧
  ((Alone h f ∨ h.handler ≠ none) → pendBefore h i.group = false → r = run t (takeTrap t h' i)) ∧
  (pendBefore h i.group = false → h.handler = none → r = run t (takeTrap t h' i) ∨ pended
    ∨ r = run { t with freeCtr := s.freeCtr + 1 } (takeTrap { t with freeCtr := s.freeCtr + 1 } h' i))

/-- What a group that parks on a page fault leaves (R120, R414). -/
structure ParksOn (s t : State) (k : HerdKey) (h h' : Herd) (g : List Nat) (cause lane : Nat) (addr : Word) : Prop where
  herd : OneHerd s t k h'
  frame : h' = { h with furrows := h'.furrows, waitAt := s.nextOrder }
  furs : ∀ j, h'.fur j = if j ∈ g then { h.fur j with st := .waiting (.fault (nextSeq s k.crew.part).toNat) } else h.fur j
  faults : t.faults = s.faults ++ [{ part := k.crew.part, seq := (nextSeq s k.crew.part).toNat, kind := 1, cause := cause
                                     core := h.core, slot := h.slot, addr := addr, field := k.crew.field, lane := lane, cls := 0 }]
  parked : t.parked = s.parked ++ [{ part := k.crew.part, seq := (nextSeq s k.crew.part).toNat, key := some k, group := furMask g
                                     cause := cause, addr := addr, lane := lane }]

/-- R38: each lane of a furrow stands in its current path or in one entry of its path stack. -/
def EachLaneOnce (r : Furrow) : Prop :=
  ∀ b < 8, (if r.path.getLsbD b then 1 else 0) + (r.stack.filter (fun e => e.mask.getLsbD b)).length ≤ 1

/-- R34: every group is named by its lowest live furrow. -/
def Named (h : Herd) : Prop :=
  ∀ j ∈ h.liveFurs, (h.fur j).grp ≤ j ∧ (h.fur (h.fur j).grp).grp = (h.fur j).grp ∧ h.live (h.fur j).grp = true

/-- R34: the furrows of a group are in one state. -/
def Uniform (h : Herd) : Prop :=
  ∀ j ∈ h.liveFurs, ∀ k ∈ h.liveFurs, (h.fur j).grp = (h.fur k).grp → (h.fur j).st = (h.fur k).st

/-- The patience of a herd's core (R46). -/
def patience (s : State) (h : Herd) : Nat := fld (s.coreReg h.core 0x080) 15 0

/-- R41: the parked entry that a furrow's path makes at headland n. -/
def parkEntry (n : Nat) (r : Furrow) : PathEntry :=
  { pc := r.pc, mask := r.path, parked := true, hid := n, cnt := r.hcnt.getD n 0#16 }

/-- R41: an entry that the furrow's path merges with at headland n. -/
def Merges (n : Nat) (r : Furrow) (e : PathEntry) : Prop := e.parked = true ∧ e.pc = r.pc ∧ e.hid = n ∧ e.cnt = r.hcnt.getD n 0#16

/-- R45: the live furrows that form one group once the group of `f` stands at headland n: its own, and those of each group with
a furrow standing there at the same PC with an equal count. R45 speaks of groups with one count; that any member's count lets a group of
unequal counts be joined is the model's reading (DEDUCED, log entry 42). -/
def joined (h : Herd) (f n : Nat) : List Nat :=
  h.liveFurs.filter (fun k => (h.group f).contains k || h.liveFurs.any (fun j =>
    decide ((h.fur j).grp = (h.fur k).grp) && decide ((h.fur j).st = .standing n) &&
      (h.group f).any (fun m => decide ((h.fur m).pc = (h.fur j).pc) && decide ((h.fur m).hcnt.getD n 0#16 = (h.fur j).hcnt.getD n 0#16))))

/-- R194: where the furrows of the issuing group go. -/
def Branched (h h' : Herd) (f : Nat) (act : List Nat) (t : Nat → Word) (keeps : List Nat → Word) : Prop :=
  (∀ j, j ∉ h.group f → h'.fur j = h.fur j) ∧
  ((∀ l ∈ act, t l = t (act.headD 0)) → ∀ j ∈ h.group f, h'.fur j = { h.fur j with pc := t (act.headD 0) }) ∧
  ((∃ l ∈ act, t l ≠ t (act.headD 0)) →
    ∀ j ∈ h.group f, h'.fur j = splitFurrow t (keeps (furLanes j act)) (furLanes j act) j (h.fur j))

/-- R40: no furrow of the group would hold a seventeenth entry. -/
def RoomFor (h : Herd) (f : Nat) (act : List Nat) (t : Nat → Word) (keeps : List Nat → Word) : Prop :=
  ∀ j ∈ h.group f, (h.fur j).stack.length + (deferredBy t (keeps (furLanes j act)) (furLanes j act)).length ≤ 16

/-- R196, R197: lanes `ls` hold the return address in the pair d, d + 1, with tags 0. -/
def Linked (h h' : Herd) (d : Nat) (ls : List Nat) (ret : Word) : Prop :=
  (∀ l ∈ ls, h'.vreg d l = ret.extractLsb' 0 32 ∧ h'.vreg (d + 1) l = ret.extractLsb' 32 32) ∧
  (∀ n l, l < 64 → ¬ ((n = d ∨ n = d + 1) ∧ l ∈ ls) → h'.vreg n l = h.vreg n l) ∧
  (∀ n, h'.tagOf n = if ls ≠ [] ∧ (n = d ∨ n = d + 1) then 0 else h.tagOf n) ∧
  h' = { h with v := h'.v, vtag := h'.vtag, furrows := h'.furrows }

/-- R199: a target that passes the checks: a multiple of 8 below 2^48. -/
def TargetOk (a : Word) : Prop := a.toNat % 8 = 0 ∧ a.toNat < 2 ^ 48

/-- R197: the target of lane l by a table index. -/
def tableChoice (h : Herd) (x : F3) (l : Nat) : Word := h.sreg x.b.toNat + 8#64 * (h.vreg x.a.toNat l).setWidth 64

/-- R198: the target of lane l by a link pair. -/
def linkChoice (h : Herd) (x : F3) (l : Nat) : Word := (h.vreg (x.a.toNat + 1) l) ++ (h.vreg x.a.toNat l)

/-- The lanes of the group whose current path stands at a PC. -/
def standAt (h' : Herd) (fs : List Nat) (pc : Word) : List Nat :=
  fs.flatMap (fun j => if (h'.fur j).pc = pc then h'.pathLanes j else [])

/-- R49, R200: the fields of `head`. -/
def HeadOk (hd : Header) (x : FB) : Prop :=
  hd = { ss := 0, wc := 0, u := false, pe := false, pn := false, pk := false, pr := 0 } ∧
    x.off = 0#24 ∧ x.ck = 0#2 ∧ x.cn = false ∧ x.cr = 0#5 ∧ x.rsv = 0#4

/-- One more pass of headland n, at PC + 8 (R43). -/
def passedFur (n : Nat) (r : Furrow) : Furrow :=
  { r with pc := r.pc + 8#64, st := .running, hcnt := r.hcnt.set n (r.hcnt.getD n 0#16 + 1) }

/-- R41: the path stack of a furrow whose current path has reached headland n above other entries: merged with the topmost entry that
is its like, or with a parked entry of its own on top. -/
def ParkedStack (n : Nat) (r : Furrow) (st : List PathEntry) : Prop :=
  (∃ pre k post, r.stack = pre ++ k :: post ∧ Merges n r k ∧ (∀ q ∈ pre, ¬ Merges n r q) ∧
    st = pre ++ { k with mask := k.mask ||| r.path } :: post)
  ∨ ((∀ k ∈ r.stack, ¬ Merges n r k) ∧ r.stack.length ≤ 15 ∧ st = parkEntry n r :: r.stack)

/-- R42: a furrow whose path has ended above the entries `st` resumes: with the topmost deferred one, be it below parked ones; with
only parked ones, with the topmost of them, which passes its headland. -/
def Resumed (st : List PathEntry) (r r' : Furrow) : Prop :=
  (∀ pre e post, st = pre ++ e :: post → (∀ q ∈ pre, q.parked = true) → e.parked = false →
    r' = { r with pc := e.pc, path := e.mask, stack := pre ++ post }) ∧
  (∀ e rest, st = e :: rest → (∀ q ∈ st, q.parked = true) →
    r' = passedFur e.hid { r with pc := e.pc, path := e.mask, stack := rest })

/-- R365: the holds of a herd once a word has resumed its furrow f with the entries `st`: its only live furrow that passes with the last
of them is ganged, and is saved there when a pre-emption waits for it. -/
def resumeHolds (s : State) (h : Herd) (f : Nat) (st : List PathEntry) : List Hold :=
  if h.liveFurs = [f] ∧ st.length = 1 ∧ (∀ q ∈ st, q.parked = true) ∧ saveNext s h = true then
    h.holds ++ [{ group := furMask [f], why := .save }]
  else h.holds

/-- The lanes of furrow j that leave by `exit` (R37, R201). -/
def leaving (act : List Nat) (j : Nat) : BitVec 8 := laneMask (furLanes j act)

/-- A word whose fields are otherwise sound at user level: a privileged word with them traps with cause 8 (R143). -/
def UserWord (h : Herd) (hd : Header) (w : Issuer) : Prop :=
  PlainHeader h hd false ∧ h.sup = false ∧ activeLanes h w.f hd ≠ [] ∧ TrapFree h (furMask (h.group w.f))

/-- A system register that user level may not name (R218, R307, R332, R370, R391, R407). -/
def supervisorReg (n : Nat) : Prop := (0x080 ≤ n ∧ n ≤ 0x083) ∨ (0x100 ≤ n ∧ n ≤ 0x105)

/-- R46: no standing group holds every live furrow of its herd: such a group has passed. -/
def Passed (g : Herd) : Prop :=
  ∀ f, g.group f ≠ [] → g.group f = g.liveFurs → ∃ j ∈ g.group f, ∀ n, (g.fur j).st ≠ .standing n

/-- Fields of FS that must be zero. -/
def FsZero (x : FS) (d a sel : Bool) : Prop := (d = true → x.d = 0) ∧ (a = true → x.a = 0) ∧ (sel = true → x.sel = 0) ∧ x.x = 0

/-- Writing bytes in order. -/
def putAll (m : Memory) (l : List (Nat × List Byte)) : Memory := l.foldl (fun m p => Memory.put m p.1 p.2) m

/-- The words of a code object in order, as bytes at their physical addresses (R221). -/
def objectBytes (o : CodeObj) : List (Nat × List Byte) := o.words.mapIdx (fun i w => (o.pa i, leBytes 8 w.toNat))

/-- A trap entry's save-area bytes (R362, R363). -/
def entryBytes (s : State) (h : Herd) (i : TrapInfo) : List (Nat × List Byte) :=
  [(saveArea s h, trapRec h i), (saveArea s h + 0x40, (List.range 8).flatMap (fun n => leBytes 8 (h.sreg (56 + n)).toNat)),
   (saveArea s h + 0x400, furrowRecs h)]

/-- R137, R204: the fields of a barrier word. -/
def BarFields (w : Issuer) (h : Herd) (hd : Header) (x : FS) : Prop :=
  PlainHeader h hd false ∧ activeLanes h w.f hd ≠ [] ∧ x.d = 0 ∧ x.a = 0 ∧ x.x = 0 ∧ x.sel.extractLsb' 4 9 = 0 ∧ barLv x ≠ 3

/-- R61: a herd that may use a barrier: ganged, with an index that its field declares. -/
def BarAllowed (s : State) (h : Herd) (lv idx : Nat) : Prop :=
  h.ganged = true ∧ ∃ f, s.field? h.key.crew.part h.key.crew.field = some f ∧ idx < declared f.card lv

/-- The other live members of a barrier of a herd (R59). -/
def otherMembers (s : State) (w : Issuer) (h : Herd) (lv : Nat) : List Herd :=
  (members s h.key.crew.part h.key.crew.field lv (barScope s h lv)).filter (fun m => decide (m.key ≠ w.key) && !m.ended)

/-- R60: a member has arrived in the current phase. -/
def arrived (m : Herd) (lv idx : Nat) : Prop := m.barSt lv idx = .signalled ∨ m.barSt lv idx = .waiting

/-- A barrier's state of a herd, and no other barrier's. -/
def BarChanged (h h' : Herd) (lv idx : Nat) (b : BarSt) : Prop :=
  h'.barSt lv idx = b ∧ ∀ p : Nat × Nat, p ≠ (lv, idx) → h'.barSt p.1 p.2 = h.barSt p.1 p.2

/-- The group waits at a barrier, from the moment that `s` counts (R57, R205). -/
def WaitsAt (s t : State) (h h' : Herd) (f lv idx : Nat) : Prop :=
  t.nextOrder = s.nextOrder + 1 ∧ h' = { h with bars := h'.bars, furrows := h'.furrows, waitAt := s.nextOrder } ∧
    ∀ j, h'.fur j = if j ∈ h.group f then { h.fur j with st := .waiting (.barrier lv idx) } else h.fur j

/-- R134, R225: the header, SPC and nibble of a load or store, by site state. -/
def MemHeader (h : Herd) (hd : Header) (nib : Nat) (x : FM) : Prop :=
  PredOk h hd ∧ x.wid.toNat < 5 ∧
    ((hd.ss = 0#2 ∧ hd.wc = 0#3 ∧ nibWidOk nib x.wid.toNat = true)
      ∨ (hd.ss = 1#2 ∧ hd.wc ≠ 7#3 ∧ hd.u = false ∧ x.spc = 7#3 ∧ nib = 0)
      ∨ (hd.ss = 2#2 ∧ hd.wc ≠ 7#3 ∧ x.spc ≠ 7#3 ∧ nibWidOk nib x.wid.toNat = true)
      ∨ (hd.ss = 3#2 ∧ hd.wc = 7#3 ∧ hd.u = false ∧ x.spc = 7#3 ∧ nib = 0))

/-- R103, R116, R231, R232: every lane's access is local, meets no fault, waits for nothing and, for a read, meets no
error. -/
def AccessesOk (s : State) (w : Issuer) (h : Herd) (n : Nat) (write reads viaL1 : Bool) (accs : List LaneAcc) : Prop :=
  ∀ a ∈ accs, a.flt = none ∧ a.remote = false ∧ locWaits s h.key (furMask (h.group w.f)) h.core n write viaL1 a.loc = false ∧
    (reads = true → poisoned s h.core viaL1 a.loc = false)

/-- R257: the turn does not post its word's accesses, or one of them is of a kind that is never posted (log entry 71). -/
def PerformsNow (s : State) (w : Issuer) (accs : List LaneAcc) : Prop := w.post = false ∨ ∃ a ∈ accs, a.loc.postable s = false

/-- R257: the turn posts its word's accesses: each meets no fault and waits for no engine, and is to memory of the module with no
uncorrectable error (log entry 71). -/
def AccessesPosted (s : State) (w : Issuer) (h : Herd) (n : Nat) (write viaL1 : Bool) (accs : List LaneAcc) : Prop :=
  w.post = true ∧ ∀ a ∈ accs, a.flt = none ∧ locHeld s h.key h.core n write viaL1 a.loc = false ∧ a.loc.postable s = true

/-- A posted access of the issuing group, in program order before all that its furrows issue later (R253). -/
def postedOf (w : Issuer) (h : Herd) (l : Loc) (wid : Nat) (op : PostOp) (lanes : List Nat) : Posted :=
  { key := h.key, group := furMask (h.group w.f), core := h.core, loc := l, wid := wid, op := op, lanes := lanes, fenced := false }

/-- What a word whose accesses are posted does at its turn: they come last of those still to be performed, the group goes on, and no
register and no byte of memory changes. -/
structure WordPosted (s t : State) (w : Issuer) (h h' : Herd) (l : List Posted) (hs : List Hold) : Prop where
  done : WordDone s t w h h'
  frame : t = { s with herds := t.herds, coreRegs := t.coreRegs, tlb := t.tlb, freeCtr := t.freeCtr, posted := s.posted ++ l }
  pcs : Advanced h h' w.f
  rest : h' = { h with furrows := h'.furrows, holds := hs }

/-- The holds once a word of this plan has issued: a rewrite waits for its answer (R274). -/
def holdsOf (w : Issuer) (h : Herd) (p : Plan) (word : Word) : List Hold :=
  match p.rw with
  | none => h.holds
  | some (new, widen) => h.holds ++ [rewriteOf w h word new widen]

/-- The bytes that lane l obtains, as one little-endian number; with U the lowest lane's (R229). -/
def laneBytes (s : State) (h : Herd) (n : Nat) (accs : List LaneAcc) (uni : Bool) (l : Nat) : BitVec 128 :=
  match (if uni then accs.head? else accs.find? (fun a => decide (a.lane = l))) with
  | some a => BitVec.ofNat 128 (leNat (readLoc s h.core n true a.loc))
  | none => 0

/-- Registers d to d + k - 1 of lanes `ls` hold `val`, their tags are `tag`, the group goes on, and nothing else of the herd
but its holds changes. -/
structure BlockWritten (h h' : Herd) (f d k : Nat) (ls : List Nat) (tag : Nat) (val : Nat → Nat → Lane) (hs : List Hold) : Prop where
  lanes : ∀ j < k, ∀ l ∈ ls, h'.vreg (d + j) l = val j l
  vregs : ∀ n l, l < 64 → ¬ (d ≤ n ∧ n < d + k ∧ l ∈ ls) → h'.vreg n l = h.vreg n l
  tags : ∀ n, h'.tagOf n = if d ≤ n ∧ n < d + k then tag else h.tagOf n
  pcs : Advanced h h' f
  rest : h' = { h with v := h'.v, vtag := h'.vtag, furrows := h'.furrows, holds := hs }

/-- A byte after writes in order, the last of which stands. -/
def lastStore (l : List (Nat × List Byte)) (a : Nat) (old : Byte) : Byte :=
  l.foldl (fun b p => if p.1 ≤ a ∧ a < p.1 + p.2.length then p.2.getD (a - p.1) 0#8 else b) old

/-- The writes that reach device memory. -/
def memWrites (l : List (Loc × List Byte)) : List (Nat × List Byte) := l.filterMap (fun p => p.1.hbm?.map (fun pa => (pa, p.2)))

/-- The writes that reach a crew's tile store. -/
def tileWrites (c : CrewKey) (l : List (Loc × List Byte)) : List (Nat × List Byte) :=
  l.filterMap (fun p => match p.1 with | .tile k off => if k = c then some (off, p.2) else none | _ => none)

/-- A byte of a crew's tile store; 0 for a crew that does not exist. -/
def tileByte (s : State) (c : CrewKey) (a : Nat) : Byte := match s.crew? c with | some x => x.tile.byte a | none => 0#8

/-- The bytes of device memory and of every tile store are those before with these writes, in order. -/
def Stored (s t : State) (l : List (Loc × List Byte)) : Prop :=
  (∀ a, t.hbm.byte a = lastStore (memWrites l) a (s.hbm.byte a)) ∧
    ∀ c a, tileByte t c a = if (s.crew? c).isSome then lastStore (tileWrites c l) a (tileByte s c a) else 0#8

/-- R234, R237: the turns of an atomic's lanes in order: what each finds, whether it writes, and what. The one success of an
address goes by the address that lanes name (assumption 56). -/
def atomTrace (op : AtomOp) (spc : Option Nat) (x y : Nat → Lane) : (Loc → Lane) → List Word → List LaneAcc → List (LaneAcc × Lane × Bool × Lane)
  | _, _, [] => []
  | m, won, a :: r =>
    let old := m a.loc.word
    let wins := if op = .cas then decide (old = x a.lane) && !won.contains (namedAddr spc a.addr) else true
    let new := if op = .cas then y a.lane else atomOp op old (x a.lane)
    (a, old, wins, new) :: atomTrace op spc x y (fun l => if wins ∧ l = a.loc.word then new else m l)
      (if op = .cas && wins then namedAddr spc a.addr :: won else won) r

/-- The atomics and reductions: constructor, operation, and whether results are written (R234, R235, R237, R238). -/
def atomics : List ((Header → FM → Instr) × AtomOp × Bool) :=
  [(.aaddI32, .addI32, true), (.aaddF32, .addF32, true), (.aminI32, .minI32, true), (.aminN32, .minN32, true),
   (.aminF32, .minF32, true), (.amaxI32, .maxI32, true), (.amaxN32, .maxN32, true), (.amaxF32, .maxF32, true),
   (.aand, .and, true), (.aor, .or, true), (.axor, .xor, true), (.axch, .xch, true), (.acas, .cas, true),
   (.raddI32, .addI32, false), (.raddF32, .addF32, false), (.rminI32, .minI32, false), (.rminN32, .minN32, false),
   (.rminF32, .minF32, false), (.rmaxI32, .maxI32, false), (.rmaxN32, .maxN32, false), (.rmaxF32, .maxF32, false),
   (.rand, .and, false), (.ror, .or, false), (.rxor, .xor, false)]

/-- What the lane whose result lane l takes found and whether it won. -/
def atomFound (tr : List (LaneAcc × Lane × Bool × Lane)) (uni : Bool) (l : Nat) : Lane × Bool :=
  match (if uni then tr.head? else tr.find? (fun e => decide (e.1.lane = l))) with
  | some e => (e.2.1, e.2.2.1)
  | none => (0, false)

/-- The fields of `pf`, `cinv` and `cwb` (R223). -/
def MaintOk (h : Herd) (x : FM) : Prop := x.d = 0#8 ∧ x.vo.toNat < h.nregs ∧ x.wid.toNat < 5

/-- R242: a copy whose checks at issue find nothing. -/
def CopyOk (s : State) (h : Herd) (r : CopyReq) (rowsForm : Bool) : Prop :=
  r.dst.toNat % 4 = 0 ∧ r.src.toNat % 4 = 0 ∧ r.shapeOk rowsForm = true ∧
    rangeFault s h r.dst (rowSpan r.rows r.len r.dpitch) true = none ∧
    rangeFault s h r.src (rowSpan r.rows r.len r.spitch) false = none

/-- The copy that `cpy` asks for (R241). -/
def cpyReq (h : Herd) (x : FE) : CopyReq :=
  { d := x.d.toNat, dst := h.sreg x.sa.toNat, src := h.sreg x.sb.toNat, rows := 1, len := (h.sreg x.sf.toNat).toNat, dpitch := 0
    spitch := 0, sup := h.sup }

/-- The copy that `cpyg` asks for (R241). -/
def cpygReq (h : Herd) (x : FE) : CopyReq :=
  { d := x.d.toNat, dst := h.sreg x.sa.toNat, src := h.sreg x.sb.toNat, rows := fld (h.sreg x.sf.toNat) 63 32
    len := fld (h.sreg x.sf.toNat) 31 0, dpitch := fld (h.sreg (x.sf.toNat + 1)) 63 32
    spitch := fld (h.sreg (x.sf.toNat + 1)) 31 0, sup := h.sup }

/-- R116, R243: what a copy that issues leaves: its ticket and its entry, none for zero bytes, with its global destination translated at
once (log entry 95); or a hold when it
cannot start yet: an entry is not free, a crew that it names is saved (R369), or an earlier matrix command reads what it writes
(R264). -/
def CopyIssued (s t : State) (w : Issuer) (h h' : Herd) (r : CopyReq) : Prop :=
  WordDone s t w h h' ∧ t = { s with herds := t.herds, coreRegs := t.coreRegs, copies := t.copies, tlb := t.tlb, freeCtr := t.freeCtr } ∧
  (r.total = 0 ∨ fld r.dst 63 60 ≠ 0 ∨ copyMayStart s h r = false → t.tlb = s.tlb ∧ t.freeCtr = s.freeCtr) ∧
  (r.total = 0 ∨ copyMayStart s h r = true →
    SregWritten { h with copies := h.copies + 1 } h' w.f r.d (h.copies + 1#64) ∧
    t.copies = if r.total = 0 then s.copies
      else s.copies ++ [{ key := h.key, group := furMask (h.group w.f), ticket := (h.copies + 1#64).toNat, core := h.core, req := r
                          ents := copyEnts s h r, lines := copyLines s h r, pages := destPages s h r, got := [] }]) ∧
  (r.total ≠ 0 → copyMayStart s h r = false →
    t.copies = s.copies ∧ h' = { h with holds := h.holds ++ [{ group := furMask (h.group w.f), why := .copy r }] })

/-- R289, R306: a matrix command has entered its slice's queue: at the head of an empty queue it begins, or asks for leave. -/
structure MxQueued (s t : State) (w : Issuer) (h h' : Herd) (m : MCmd) (waits : Bool) : Prop where
  done : WordDone s t w h h'
  rest : t = { s with herds := t.herds, coreRegs := t.coreRegs, cmds := t.cmds, nextCmd := s.nextCmd + 1
                      leaveQ := t.leaveQ, ocache := t.ocache, ocLast := t.ocLast, freeCtr := t.freeCtr }
  cmds : t.cmds = s.cmds ++ [{ m with phase := if sliceQueue s h.core h.slice = [] ∧ m.cost = 0 then 1 else 0 }]
  leave : t.leaveQ = if sliceQueue s h.core h.slice = [] ∧ m.cost ≠ 0 ∧ (h.core, h.slice) ∉ s.leaveQ then
    s.leaveQ ++ [(h.core, h.slice)] else s.leaveQ
  goes : waits = false → Advanced h h' w.f ∧ FurrowsOnly h h'
  held : waits = true → h' = { h with holds := h.holds ++ [{ group := furMask (h.group w.f), why := .matrix s.nextCmd }] }

/-- What holds of the queues in every run: identifiers are fresh, and a head has begun or has asked for leave (R306). -/
def QueueSound (s : State) (h : Herd) : Prop :=
  (∀ q ∈ s.cmds, q.id < s.nextCmd) ∧
    ∀ q, (sliceQueue s h.core h.slice).head? = some q → q.phase ≠ 0 ∨ (q.cost ≠ 0 ∧ (h.core, h.slice) ∈ s.leaveQ)

/-- Shape: a matrix word: with every lane of a ganged herd active and no fault it enters the queue; without, it traps with
class 6 (R288). -/
def MxWord (mk : Header → FE → Instr) (ok : Herd → FE → Prop) (cmd : Ctx → State → FE → MCmd)
    (faults : Ctx → State → FE → List (Option (Nat × Nat × Word))) (waits : Bool) : Prop :=
  ∀ (s : State) (w : Issuer) (h : Herd) (hd : Header) (x : FE),
    Issues s w h → PlainHeader h hd false → ok h x → activeLanes h w.f hd ≠ [] →
    (fullMask (issueCtx w h hd) = true → firstFault (faults (issueCtx w h hd) s x) = none →
      (sliceQueue s h.core h.slice).length < 4 → scoreFree s (cmd (issueCtx w h hd) s x).ents = true → QueueSound s h →
      ∃ t h', exec (mk hd x) s = .next t ∧ MxQueued s t w h h' (cmd (issueCtx w h hd) s x) waits)
    ∧ (fullMask (issueCtx w h hd) = false → TrapFree h (furMask (h.group w.f)) →
      exec (mk hd x) s = .next (trapped s h (trapAtWord w h 6 0)))

/-- X as a number. -/
def xfld (x : FE) (hi lo : Nat) : Nat := fld (x.x.setWidth 64) hi lo

/-- The command that `mma` queues (R287, R291, R293); the words of lanes that have exited are free values (R201; log entry 80). -/
def mmaCmd (c : Ctx) (s : State) (x : FE) : MCmd :=
  let nk := xfld x 2 0 + 1
  let (a0, a1) := (c.h.sreg x.sa.toNat, c.h.sreg (x.sa.toNat + 1))
  let (b0, b1) := (c.h.sreg x.sb.toNat, c.h.sreg (x.sb.toNat + 1))
  let blk := c.h.sreg x.sf.toNat
  let (la, lb) := (mmaLW (fmtHalf blk 0).fmt, mmaLW (fmtHalf blk 32).fmt)
  { mxCmd c s 0x180 x.d.toNat x.x ((mxClass (fmtHalf blk 0).fmt).getD 0) with
    a0 := a0, a1 := a1, b0 := b0, b1 := b1, sf := blk, useSf := true, regs := opRegs c.h s.freeCtr a0 la
    ents := opEnt c a0 a1 la nk false ++ opEnt c b0 b1 lb nk false
      ++ tileEnt c (fmtHalf blk 0).soff (scaleLen (fmtHalf blk 0) nk) false
      ++ tileEnt c (fmtHalf blk 32).soff (scaleLen (fmtHalf blk 32) nk) false
    slots := opSlot a0 ++ opSlot b0 }

/-- The checks of `mma` (R292, R297). -/
def mmaFaults (c : Ctx) (s : State) (x : FE) : List (Option (Nat × Nat × Word)) :=
  let nk := xfld x 2 0 + 1
  let (a0, a1) := (c.h.sreg x.sa.toNat, c.h.sreg (x.sa.toNat + 1))
  let (b0, b1) := (c.h.sreg x.sb.toNat, c.h.sreg (x.sb.toNat + 1))
  let blk := c.h.sreg x.sf.toNat
  let (la, lb) := (mmaLW (fmtHalf blk 0).fmt, mmaLW (fmtHalf blk 32).fmt)
  [slotFault s c a0 a1 la nk, slotFault s c b0 b1 lb nk, poisonFault s c x.d.toNat (!x.x.getLsbD 3), boundFault s c a0 a1 la nk,
   boundFault s c b0 b1 lb nk, scaleFault s c (fmtHalf blk 0) nk, scaleFault s c (fmtHalf blk 32) nk]

/-- The head of a slice's queue, and its herd; commands have identifiers of their own. -/
def HeadCmd (s : State) (core slice : Nat) (m : MCmd) (h : Herd) : Prop :=
  (sliceQueue s core slice).head? = some m ∧ s.herd? m.key = some h ∧ (s.cmds.map (fun q => q.id)).Nodup

/-- R289, R306, R307, R323: a command has left its queue and is counted; a later one may begin; slots that it was the last to read, given
up before, are released. -/
structure MxGone (s t : State) (core : Nat) (m : MCmd) : Prop where
  gone : ∀ q ∈ t.cmds, q.id ≠ m.id
  kept : ∀ q ∈ s.cmds, q.id ≠ m.id → ∃ ph, { q with phase := ph } ∈ t.cmds
  counted : t.coreReg core 0x0E0 = BitVec.ofNat 64 (min ((s.coreReg core 0x0E0).toNat + 1) (2 ^ 64 - 1))
  others : ∀ k, k ≠ m.key → t.herd? k = s.herd? k
  slots : ∀ y, y ∈ t.slots ↔ y ∈ s.slots ∧ (y.freeing = true → slotRead t y.core y.idx = true)

/-- The group of a hold goes on at PC + 8, and the hold ends (R289). -/
def Released (h h' : Herd) (x : Hold) : Prop :=
  h'.holds = h.holds.filter (fun y => decide (y ≠ x)) ∧
    ∀ j, h'.fur j = if j ∈ bitsOf x.group 8 then
      { h.fur j with pc := (h.fur ((bitsOf x.group 8).headD 0)).pc + 8#64 } else h.fur j

/-- The words that an `mst` writes, with their places (R291, R295). -/
def mstStores (s : State) (h : Herd) (m : MCmd) : List (Loc × List Byte) :=
  (List.range 64).flatMap (fun i => (List.range (lineLW (mstFmt m))).map (fun n =>
    (wordLoc s m m.a0 m.a1 (lineLW (mstFmt m)) 0 i n, leBytes 4 (mstWord h m i n).toNat)))

/-- The boarding that a status-0 `board` registers (R317, R320). -/
def Registered (a b : Word) (r : Boarding) : Prop :=
  r.st = .registered ∧ r.quota = fld a 55 52 + 1 ∧ r.track = fld a 51 48 ∧ r.layer = fld a 47 32 ∧ r.first = fld b 55 32 ∧
    r.count = fld b 23 0 ∧ r.landed = [] ∧ r.taken = 0 ∧ r.gone = 0

/-- The group waits for `q`, and nothing else of its furrows changes. -/
def WaitsOn (h h' : Herd) (f : Nat) (q : WaitOn) : Prop :=
  ∀ j, h'.fur j = if j ∈ h.group f then { h.fur j with st := .waiting q } else h.fur j

/-- A boarding after one more of its tiles is taken or removed: None once none is left of a Boarded one (R320). -/
def boardingAfter (b : Boarding) (taken gone : Nat) (landed : List Nat) : Option Boarding :=
  if b.st = .boarded ∧ b.count ≤ taken + gone then none else some { b with taken := taken, gone := gone, landed := landed }

/-- A herd's S[d] and S[d + 1] after `rtile` (R322). -/
def PairWritten (h h' : Herd) (d : Nat) (x y : Word) : Prop :=
  (d ≠ 0 → h'.sreg d = x) ∧ h'.sreg (d + 1) = y ∧ ∀ n, n ≠ d → n ≠ d + 1 → h'.sreg n = h.sreg n

/-- R158, R322: what an `rtile` of group g writes: one that has not waited writes its pair; one that has writes those registers of it
which no word issued later has written. -/
structure RtileWritten (h h' : Herd) (g : List Nat) (d : Nat) (x y : Word) : Prop where
  fresh : (∀ q ∈ h.late, q.fur ∉ g) → PairWritten h h' d x y ∧ h'.late = h.overrules [d, d + 1]
  waited : (∃ q ∈ h.late, q.fur ∈ g) → h'.late = h.late.filter (fun q => !g.contains q.fur) ∧
    PairWritten h h' d (if h.lateStands g d then x else h.sreg d) (if h.lateStands g (d + 1) then y else h.sreg (d + 1))

/-- The fields of `rstat`'s word (R326). -/
def statFields (b : Option Boarding) : Nat × Nat × Nat × Nat × Nat × Nat × Nat :=
  match b with
  | none => (0, 0, 0, 0, 0, 0, 0)
  | some b => (match b.st with | .registered => 1 | .boarded => 2 | .cut _ => 3, match b.st with | .cut c => c | _ => 0,
      b.quota - 1, b.track, b.layer, b.landed.length, b.taken)

/-- A distribution word, as data: what R137 asks of its fields, and the d registers that it reads and writes. -/
structure DWord (F : Type) where
  ctor : Header → F → Instr
  ok : Herd → F → Prop
  reads : F → List Nat
  writes : F → List Nat

/-- R353, R354: no d register of the word waits for the condenser. -/
def DistFree (s : State) (k : HerdKey) (ns : List Nat) : Prop := ∀ o ∈ s.conds, o.key = k → o.d ∉ ns

/-- R354: no element that the lanes read has an uncorrectable error. -/
def ElemsSound (h : Herd) (ls reads : List Nat) : Prop := ∀ l ∈ ls, ∀ n ∈ reads, 64 * n + l ∉ h.derr

/-- Lanes `ls` of d register d hold `val` atom by atom, its mask is `m`, the group goes on, and nothing else of the herd
changes; a whole element written loses its error mark (R334, R354). -/
structure ElemsWritten (h h' : Herd) (f d : Nat) (ls : List Nat) (m : BitVec 16) (val : Nat → List Atom) : Prop where
  atoms : ∀ l ∈ ls, ∀ i, i < 8 → h'.datom d l i = ((val l).map Atom.word).getD i 0#64
  others : ∀ n l i, l < 64 → i < 8 → ¬ (n = d ∧ l ∈ ls) → h'.datom n l i = h.datom n l i
  mask : h'.dmask d = m
  masks : ∀ n, n ≠ d → h'.dmask n = h.dmask n
  errs : ∀ k, k ∈ h'.derr ↔ k ∈ h.derr ∧ ∀ l ∈ ls, k ≠ 64 * d + l
  pcs : Advanced h h' f
  rest : h' = { h with d := h'.d, dtag := h'.dtag, derr := h'.derr, furrows := h'.furrows }

/-- Shape: a distribution word that writes elements at once. -/
def WritesElems {F : Type} (g : DWord F) (d : F → Nat) (mask : Herd → F → BitVec 16) (val : Herd → F → Nat → List Atom) : Prop :=
  ∀ (s : State) (w : Issuer) (h : Herd) (hd : Header) (x : F),
    Issues s w h → PlainHeader h hd false → g.ok h x → activeLanes h w.f hd ≠ [] → DistFree s w.key (g.reads x ++ g.writes x) →
    ElemsSound h (activeLanes h w.f hd) (g.reads x) →
    ∃ t h', exec (g.ctor hd x) s = .next t ∧ OnlyHerd s t w h h' ∧
      ElemsWritten h h' w.f (d x) (activeLanes h w.f hd) (mask h x) (val h x)

/-- Shape: a distribution word that reads into a vector register. -/
def ReadsElems {F : Type} (g : DWord F) (d : F → Nat) (tag : F → Nat) (val : Herd → F → Nat → Lane) : Prop :=
  ∀ (s : State) (w : Issuer) (h : Herd) (hd : Header) (x : F),
    Issues s w h → PlainHeader h hd false → d x < h.nregs → g.ok h x → activeLanes h w.f hd ≠ [] →
    DistFree s w.key (g.reads x ++ g.writes x) → ElemsSound h (activeLanes h w.f hd) (g.reads x) →
    ∃ t h', exec (g.ctor hd x) s = .next t ∧ OnlyHerd s t w h h' ∧
      LanesWritten h h' w.f (d x) (activeLanes h w.f hd) (tag x) (val h x) h.holds

/-- Shape: a word given to the condenser (R338, R353). That it reads its operands at issue and that a slice writes in the order of issue are
the model's readings (DEDUCED, log entries 12 and 24). -/
def QueuesElems (g : DWord F3) (val : Herd → F3 → Nat → List Atom) : Prop :=
  ∀ (s : State) (w : Issuer) (h : Herd) (hd : Header) (x : F3),
    Issues s w h → PlainHeader h hd false → g.ok h x → activeLanes h w.f hd ≠ [] → DistFree s w.key (g.reads x ++ g.writes x) →
    ElemsSound h (activeLanes h w.f hd) (g.reads x) →
    (s.conds.filter (fun o => decide (o.core = h.core ∧ o.slice = h.slice))).length < 5 →
    ∃ t h', exec (g.ctor hd x) s = .next t ∧ OnlyHerd s { t with conds := s.conds } w h h' ∧
      t.conds = s.conds ++ [{ core := h.core, slice := h.slice, key := w.key, d := x.d.toNat
                              lanes := (activeLanes h w.f hd).map (fun l => (l, (val h x l).map Atom.word)) }] ∧
      h'.dmask x.d.toNat = h.dmask x.a.toNat ||| h.dmask x.b.toNat ∧ (∀ n, n ≠ x.d.toNat → h'.dmask n = h.dmask n) ∧
      Advanced h h' w.f ∧ h' = { h with dtag := h'.dtag, furrows := h'.furrows }

/-- Shape: a distribution word of which a lane reads an erroneous element traps, at the lowest such lane (R354). -/
def BadElemTraps {F : Type} (g : DWord F) : Prop :=
  ∀ (s : State) (w : Issuer) (h : Herd) (hd : Header) (x : F) (l : Nat),
    Issues s w h → PlainHeader h hd false → g.ok h x → DistFree s w.key (g.reads x ++ g.writes x) →
    l ∈ activeLanes h w.f hd → (∃ n ∈ g.reads x, 64 * n + l ∈ h.derr) →
    ElemsSound h ((activeLanes h w.f hd).filter (fun j => decide (j < l))) (g.reads x) →
    TrapFree h (furMask (h.group w.f)) →
    exec (g.ctor hd x) s = .next (trapped s h { trapAtWord w h 2 10 with lane := l })

/-- A distribution word of one source. -/
def dWord1 (c : Header → F3 → Instr) (ok : Herd → F3 → Prop) : DWord F3 :=
  { ctor := c, ok := fun h x => x.d.toNat < 16 ∧ x.a.toNat < 16 ∧ ok h x, reads := fun x => [x.a.toNat]
    writes := fun x => [x.d.toNat] }

/-- A distribution word of two sources. -/
def dWord2 (c : Header → F3 → Instr) (ok : Herd → F3 → Prop) : DWord F3 :=
  { ctor := c, ok := fun h x => x.d.toNat < 16 ∧ x.a.toNat < 16 ∧ x.b.toNat < 16 ∧ x.mb = 0#8 ∧ ok h x
    reads := fun x => [x.a.toNat, x.b.toNat], writes := fun x => [x.d.toNat] }

/-- A distribution word that reads into a vector register. -/
def dReader (c : Header → F3 → Instr) (ok : Herd → F3 → Prop) : DWord F3 :=
  { ctor := c, ok := fun h x => x.d.toNat < h.nregs ∧ x.a.toNat < 16 ∧ ok h x, reads := fun x => [x.a.toNat], writes := fun _ => [] }

def dNeg : DWord F3 := dWord1 .dneg (fun _ x => x.b = 0#8 ∧ x.fn = 0#8 ∧ x.mb = 0#8)
def dScl : DWord F3 := dWord1 .dscl (fun h x => x.b.toNat < h.nregs ∧ x.fn.toNat < 2 ∧ x.mb = 0#8)
def dTag : DWord FI :=
  { ctor := .dtag, ok := fun _ x => x.d.toNat < 16 ∧ x.a.toNat < 16 ∧ x.mb = 0#8, reads := fun x => [x.a.toNat]
    writes := fun x => [x.d.toNat] }
def dPt : DWord F3 :=
  { ctor := .dpt, ok := fun h x => x.d.toNat < 16 ∧ x.a.toNat < h.nregs ∧ x.b = 0#8 ∧ x.fn = 0#8 ∧ x.mb = 0#8, reads := fun _ => []
    writes := fun x => [x.d.toNat] }
def dGet : DWord F3 :=
  dReader .dget (fun _ x => x.b = 0#8 ∧ x.fn.toNat < 8 ∧ MbOk { fmts := [2, 3], rm := .no, sat := [] } x.mb)
def dMom : DWord F3 :=
  dReader .dmom (fun _ x => x.b = 0#8 ∧ x.fn.toNat < 4 ∧ MbOk { fmts := [3], rm := .any, sat := [3] } x.mb)
def dQnt : DWord F3 :=
  dReader .dqnt (fun h x => x.b.toNat < h.nregs ∧ x.fn = 0#8 ∧ MbOk { fmts := [3], rm := .no, sat := [] } x.mb)
def dCdf : DWord F3 :=
  dReader .dcdf (fun h x => x.b.toNat < h.nregs ∧ x.fn = 0#8 ∧ MbOk { fmts := [3], rm := .no, sat := [] } x.mb)
def dMix : DWord F3 := dWord2 .dmix (fun h x => x.fn.toNat < h.nregs)
def dBin (c : Header → F3 → Instr) : DWord F3 := dWord2 c (fun _ x => x.fn.toNat < 3)

/-- The five binary operations with the value that each takes of two values (R341). -/
def dBins : List (DWord F3 × DOp) := [(dBin .dadd, dopAdd), (dBin .dsub, dopSub), (dBin .dmul, dopMul), (dBin .dmin, dopMin), (dBin .dmax, dopMax)]

/-- R338: FN 2 pairs comonotonely, FN 1 independently, and FN 0 comonotonely exactly when the operands are one register or
share a dependence tag. -/
def comonotone (h : Herd) (x : F3) : Bool :=
  x.fn = 2#8 || (x.fn = 0#8 && (x.a.toNat = x.b.toNat || h.dmask x.a.toNat &&& h.dmask x.b.toNat ≠ 0#16))

/-- The word that `dget` reads: the value, or the weight (R350). -/
def gotAtom (h : Herd) (x : F3) (l : Nat) : Lane :=
  let a := atomOf (h.datom x.a.toNat l x.fn.toNat)
  if mbFmt x.mb = 3 then a.x else BitVec.ofNat 32 a.w

/-- What a completing word does that also adds `k` to counter `n` of its core (R218): nothing else than its own herd changes. -/
structure CountedWord (s t : State) (w : Issuer) (h h' : Herd) (n k : Nat) : Prop where
  now : t.herd? w.key = some h'
  others : ∀ j, j ≠ w.key → t.herd? j = s.herd? j
  rest : t = { s with herds := t.herds, coreRegs := t.coreRegs }
  issued : t.coreReg h.core 0x040 = BitVec.ofNat 64 (min ((s.coreReg h.core 0x040).toNat + 1) (2 ^ 64 - 1))
  count : t.coreReg h.core n = BitVec.ofNat 64 (min ((s.coreReg h.core n).toNat + k) (2 ^ 64 - 1))
  regs : ∀ m, m ≠ 4096 * h.core + 0x040 → m ≠ 4096 * h.core + n →
    Sparse.get coreReset t.coreRegs m = Sparse.get coreReset s.coreRegs m

/-- The active lanes of furrow f by their place in it (R377). -/
def activeIn (h : Herd) (f : Nat) (hd : Header) (g : Nat) : BitVec 8 := laneMask (furLanes g (activeLanes h f hd))

/-- A recording word, as data: what R137 asks of its fields, and the record that it makes for a furrow (R378). -/
structure TWord (F : Type) where
  ctor : Header → F → Instr
  ok : Herd → F → Prop
  made : Herd → Nat → Header → F → Nat → Stream → List Byte × Stream

/-- `trec`: the values of V[A] (R375, R378). -/
def tRec : TWord F3 :=
  { ctor := .trec, ok := fun h x => x.a.toNat < h.nregs ∧ x.d = 0#8 ∧ x.b = 0#8 ∧ x.fn = 0#8 ∧ x.mb = 0#8
    made := fun h f hd x g t => valueRec t (activeIn h f hd g) (fun j => h.vreg x.a.toNat (8 * g + j)) }

/-- `trbr`: bit 0 of V[A] of the active lanes (R378). -/
def tRbr : TWord F3 :=
  { ctor := .trbr, ok := fun h x => x.a.toNat < h.nregs ∧ x.d = 0#8 ∧ x.b = 0#8 ∧ x.fn = 0#8 ∧ x.mb = 0#8
    made := fun h f hd x g t => maskRec t (activeIn h f hd g)
      (laneMask ((furLanes g (activeLanes h f hd)).filter (fun l => (h.vreg x.a.toNat l).getLsbD 0))) }

/-- `tmark`: the immediate (R378). -/
def tMark : TWord FI :=
  { ctor := .tmark, ok := fun _ x => x.d = 0#8 ∧ x.a = 0#8 ∧ x.mb = 0#8, made := fun _ _ _ x _ t => markRec t x.imm }

/-- Shape: a recording word appends one record to the stream of each furrow of its group when the segment has room, and traps
without a tape or without room (R378). -/
def Records {F : Type} (g : TWord F) : Prop :=
  ∀ (s : State) (w : Issuer) (h : Herd) (hd : Header) (x : F),
    Issues s w h → PlainHeader h hd false → g.ok h x → activeLanes h w.f hd ≠ [] →
    (h.tape.active = false → TrapFree h (furMask (h.group w.f)) →
      exec (g.ctor hd x) s = .next (trapped s h (trapAtWord w h 7 1)))
    ∧ (h.tape.active = true → (∀ f ∈ h.group w.f, (h.tape.stream f).unread = false) →
      h.tape.room < ((h.group w.f).map (fun f => needBlocks (h.tape.stream f) (g.made h w.f hd x f (h.tape.stream f)).1.length)).sum →
      TrapFree h (furMask (h.group w.f)) →
      exec (g.ctor hd x) s = .next (trapped s h (trapAtWord w h 7 0)))
    ∧ (h.tape.active = true → h.tape.streams.length = h.furrows.length →
      (∀ f ∈ h.group w.f, (h.tape.stream f).unread = false) →
      ((h.group w.f).map (fun f => needBlocks (h.tape.stream f) (g.made h w.f hd x f (h.tape.stream f)).1.length)).sum ≤ h.tape.room →
      ∃ t h', exec (g.ctor hd x) s = .next t ∧ CountedWord s t w h h' 0x0C5 (h.group w.f).length ∧ Advanced h h' w.f ∧
        h' = { h with tape := h'.tape, furrows := h'.furrows } ∧
        h'.tape.next = h.tape.next + BitVec.ofNat 64 (256 * ((h.group w.f).map (fun f =>
          needBlocks (h.tape.stream f) (g.made h w.f hd x f (h.tape.stream f)).1.length)).sum) ∧
        (∀ f ∈ h.group w.f, (h.tape.stream f).cutp = false →
          fits (h.tape.stream f) (g.made h w.f hd x f (h.tape.stream f)).1.length = true →
          h'.tape.stream f = { (g.made h w.f hd x f (h.tape.stream f)).2 with
            payload := (h.tape.stream f).payload ++ (g.made h w.f hd x f (h.tape.stream f)).1
            used := (h.tape.stream f).used + (g.made h w.f hd x f (h.tape.stream f)).1.length
            count := (h.tape.stream f).count + 1, depth := (h.tape.stream f).depth + 1 }) ∧
        (∀ f ∈ h.group w.f, (h'.tape.stream f).depth = (h.tape.stream f).depth + 1) ∧
        ∀ f, f ∉ h.group w.f → h'.tape.stream f = h.tape.stream f)

/-- Shape: a pop of a kind, whose top record is at hand in every furrow of the group, undoes it and writes its lanes; and the
traps that R381 gives to a pop without a tape, of an empty stream and of another kind of record. -/
def Pops (mk : Header → F3 → Instr) (kind : Nat) : Prop :=
  ∀ (s : State) (w : Issuer) (h : Herd) (hd : Header) (x : F3),
    Issues s w h → PlainHeader h hd false → x.d.toNat < h.nregs → x.a = 0#8 → x.b = 0#8 → x.fn = 0#8 → x.mb = 0#8 →
    activeLanes h w.f hd ≠ [] →
    (h.tape.active = false → TrapFree h (furMask (h.group w.f)) →
      exec (mk hd x) s = .next (trapped s h { trapAtWord w h 9 1 with lane := 8 * (h.group w.f).headD 0 }))
    ∧ (∀ f r, h.tape.active = true → h.group w.f = f :: r → (∀ j ∈ h.group w.f, (h.tape.stream j).unread = false) →
      (h.tape.stream f).depth = 0 → TrapFree h (furMask (h.group w.f)) →
      exec (mk hd x) s = .next (trapped s h { trapAtWord w h 9 0 with lane := 8 * f }))
    ∧ (∀ f r q, h.tape.active = true → h.group w.f = f :: r → (∀ j ∈ h.group w.f, (h.tape.stream j).unread = false) →
      (h.tape.stream f).depth ≠ 0 → topRec (h.tape.stream f) = some q → q.kind ≠ kind → q.kind ≠ 3 →
      TrapFree h (furMask (h.group w.f)) →
      exec (mk hd x) s = .next (trapped s h { trapAtWord w h 8 q.kind with lane := 8 * f }))
    ∧ (∀ q : Nat → TRec, h.tape.active = true → h.tape.streams.length = h.furrows.length →
      (∀ f ∈ h.group w.f, (h.tape.stream f).unread = false ∧ (h.tape.stream f).depth ≠ 0 ∧
        topRec (h.tape.stream f) = some (q f) ∧ (q f).kind = kind) →
      ∃ t h', exec (mk hd x) s = .next t ∧ CountedWord s t w h h' 0x0C6 (h.group w.f).length ∧ Advanced h h' w.f ∧
        h' = { h with v := h'.v, vtag := h'.vtag, tape := h'.tape, furrows := h'.furrows } ∧
        (∀ f ∈ h.group w.f, ∀ j, j < 8 → 8 * f + j ∈ activeLanes h w.f hd →
          h'.vreg x.d.toNat (8 * f + j) = popWord kind (h.tape.stream f) (q f) j) ∧
        (∀ n l, l < 64 → ¬ (n = x.d.toNat ∧ l ∈ activeLanes h w.f hd) → h'.vreg n l = h.vreg n l) ∧
        h'.tagOf x.d.toNat = (if kind = 0 then 0 else 2) ∧ (∀ n, n ≠ x.d.toNat → h'.tagOf n = h.tagOf n) ∧
        (∀ f ∈ h.group w.f, h'.tape.stream f = undo (h.tape.stream f) (q f)) ∧
        (∀ f, f ∉ h.group w.f → h'.tape.stream f = h.tape.stream f) ∧
        h'.tape = { h.tape with streams := h'.tape.streams })

/-- A stream with its current block at hand, which holds a record already. -/
structure AtHand (x : Stream) : Prop where
  read : x.unread = false
  refs : x.ref.length = 8
  bytes : x.payload.length = x.used
  some : 0 < x.used
  image : x.img ≤ x.used

/-- A stream after one more record in its current block (R378). -/
def recorded (x : Stream) (r : List Byte × Stream) : Stream :=
  { r.2 with payload := x.payload ++ r.1, used := x.used + r.1.length, count := x.count + 1, depth := x.depth + 1 }

/-- The herd's tape context after `tbgn` of a segment (R383). -/
structure TapeBegun (h : Herd) (a b : Word) (t : TapeCtx) : Prop where
  active : t.active = true
  base : t.sbase = a
  lim : t.slim = b
  next : t.next = a
  streams : t.streams = List.replicate h.furrows.length Stream.fresh
  clean : t.closed = [] ∧ t.obase = 0 ∧ t.olim = 0

/-- The only hold on furrow f's group. -/
def HeldBy (h : Herd) (f : Nat) (x : Hold) : Prop := x ∈ h.holds ∧ x.group.getLsbD f = true ∧ ∀ y ∈ h.holds, y.group.getLsbD f = true → y = x

/-- The holds of a herd without one. -/
def holdsWithout (h : Herd) (x : Hold) : List Hold := h.holds.filter (fun y => decide (y ≠ x))

/-- The furrows of a held word's group continue at PC + 8. -/
def HeldAdvanced (h h' : Herd) (x : Hold) : Prop :=
  ∀ j, h'.fur j = if j ∈ bitsOf x.group 8 then { h.fur j with pc := (h.fur j).pc + 8#64 } else h.fur j

/-- What a herd's allocation and furrows are within the limits of R22, R32, R40 and R363, its limits register as R85 and its latch as
R244 have it. -/
structure HerdShape (h : Herd) : Prop where
  regs : h.nregs ≤ 256
  width : h.width ≤ 64
  acc : h.nacc ≤ 8 ∧ h.acc.length = h.nacc
  furrows : h.furrows.length ≤ 8
  cvlim : h.cvlim.toNat < 2 ^ 35
  latch : ∀ l, h.latch = some l → 0 < l.ticket ∧ l.ticket < 2 ^ 64 ∧ l.cause < 256
  furs : ∀ r ∈ h.furrows, r.grp < 8 ∧ r.hcnt.length = 16 ∧ r.stack.length ≤ 16 ∧ (∀ e ∈ r.stack, e.hid < 16) ∧
    ∀ n, r.st = .standing n → n < 16

/-- Two herds of one allocation hold the same registers, tags, distribution registers, accumulator tiles and counters; of the lanes that
have exited nothing is said, which keep no register state (R201). -/
structure SameContext (h g : Herd) : Prop where
  sregs : ∀ i, i < 64 → g.sreg i = h.sreg i
  vregs : ∀ n l, n < h.nregs → l < h.width → h.exited l = false → g.vreg n l = h.vreg n l
  tags : ∀ n, n < h.nregs → g.tagOf n = h.tagOf n
  atoms : ∀ n l i, n < 16 → l < h.width → i < 8 → h.exited l = false → g.datom n l i = h.datom n l i
  masks : ∀ n, n < 16 → g.dmask n = h.dmask n
  accs : ∀ t i j, t < h.nacc → i < 64 → j < 64 → g.accEl t i j = h.accEl t i j
  poison : g.accPoison = h.accPoison
  conv : g.cvsat = h.cvsat ∧ g.cvflush = h.cvflush ∧ g.cvnan = h.cvnan ∧ g.cvlim = h.cvlim
  copies : g.copies = h.copies ∧ g.latch = h.latch ∧ g.more = h.more

/-- A tape stream within the limits of R373 to R375. -/
structure StreamShape (x : Stream) : Prop where
  ref : x.ref.length = 8
  depth : x.depth < 2 ^ 64
  block : x.used ≤ 240 ∧ x.count ≤ 240
  keep : ∀ k, x.keep = some k → k.1 ≤ 240 ∧ k.2 ≤ 240

/-- A stream as a restore gives it back: its current block is read and checked again before its next record or pop, and keeps the
records that it had (R389, R390). -/
structure SameStream (x y : Stream) : Prop where
  fields : y.cur = x.cur ∧ y.seq = x.seq ∧ y.mref = x.mref ∧ y.ref = x.ref ∧ y.cutp = x.cutp ∧ y.depth = x.depth
  unread : y.unread = true ↔ x.cur ≠ 0#64
  keep : x.cur ≠ 0#64 → y.keep = if x.unread then x.keep else some (x.count, x.used)
  clean : y.dirty = false

/-- A tape context as a restore gives it back (R389, R390); `n` furrows. -/
structure SameTape (t u : TapeCtx) (n : Nat) : Prop where
  active : u.active = true
  segment : u.sbase = t.sbase ∧ u.slim = t.slim ∧ u.next = t.next ∧ u.obase = t.obase ∧ u.olim = t.olim
  streams : ∀ f, f < n → SameStream (t.stream f) (u.stream f)

/-- A record read back from memory agrees with the furrow that was written. -/
structure SameFurrow (x : Furrow) (r : RecView) : Prop where
  pc : r.pc = x.pc
  path : r.path = x.path
  grp : r.grp = x.grp
  stack : r.stack = x.stack
  hcnt : r.hcnt = x.hcnt
  st : (r.st, r.wait) = stateCode x.st
  hid : r.hid = hidCode x.st

/-- The trap of a held word: at its PC, for its group (R231). -/
def heldTrap (h : Herd) (g : BitVec 8) (cls cause lane : Nat) (addr : Word) : TrapInfo :=
  { cls := cls, cause := cause, code := 0, lane := lane, addr := addr, tile := 0, group := g
    pc := (h.fur ((bitsOf g 8).headD 0)).pc, resume := (h.fur ((bitsOf g 8).headD 0)).pc }

/-- A counter of a core one higher (R218). -/
def Counted1 (s t : State) (core n : Nat) : Prop :=
  t.coreReg core n = BitVec.ofNat 64 (min ((s.coreReg core n).toNat + 1) (2 ^ 64 - 1))

/-- The crews without their requests. -/
def unasked (l : List Crew) : List Crew := l.map (fun c => { c with pre := none })

/-- The crews of a core whose cards have a priority below `p` (R402). -/
def lowerOn (s : State) (core p : Nat) : List Crew := (crewsOn s core).filter (fun c => decide (c.prio s < p))

/-- The herds of one crew's admission (R33, R401). -/
def newHerds (s : State) (c : Card) (k : CrewKey) (core : Nat) : List Herd :=
  (List.range c.herds).map (fun i => Herd.fresh
    { key := { crew := k, herd := i }, core := core, slice := (leastSlice s core + i) % 4
      slot := (freeHerdSlots s k.part core).getD i 0, width := c.width, nregs := c.regs, nacc := c.acc, sup := c.level
      order := s.nextOrder + 1 + i, entry := c.w0, args := c.w1 })

/-- A wait that a save ends: its instruction issues again; a barrier's goes on (R365, R366). -/
def waitSaved (r : Furrow) : Furrow :=
  match r.st with
  | .waiting (.barrier _ _) => r
  | .waiting _ => if r.resolved.isSome then r else { r with resolved := some reissue }
  | _ => r

/-- The late writes of a herd that a pre-emption saves: those of the waits that the save ends go (R158). -/
def lateSaved (h : Herd) : List LateWrite :=
  h.late.filter (fun q => match (h.fur q.fur).st with
    | .waiting (.barrier _ _) => true
    | .waiting _ => (h.fur q.fur).resolved.isSome
    | _ => true)

/-- One register of a partition's page holds `v`, the others stand as they were. -/
def HostRegSet (s t : State) (p off : Nat) (v : Word) : Prop :=
  t.hostReg p off = v ∧ ∀ n, n ≠ 4096 * p + off → Sparse.get zeros t.hostRegs n = Sparse.get zeros s.hostRegs n

/-- A record of four words stands in host memory at `a`, and no byte beyond it changes (R412). -/
def RecordAt (s t : State) (a w0 w1 w2 : Nat) : Prop :=
  t.hostMem.num a 8 = w0 ∧ t.hostMem.num (a + 8) 8 = w1 ∧ t.hostMem.num (a + 16) 8 = w2 ∧ t.hostMem.num (a + 24) 8 = t.time.toNat ∧
    ∀ p, p < a ∨ a + 32 ≤ p → t.hostMem.byte p = s.hostMem.byte p

/-- Where a queue's next record goes (R412); its registers start at `off`. -/
def recordAddr (s : State) (p off : Nat) : Nat :=
  (s.hostReg p off).toNat + 32 * ((s.hostReg p (off + 0x18)).toNat % 2 ^ fld (s.hostReg p (off + 8)) 4 0)

/-- R396: the launch queue of a partition has an entry to read. -/
def EntryWaits (s : State) (p : Nat) : Prop :=
  hostOn s p = true ∧ s.hostReg p 0x010 ≠ s.hostReg p 0x018 ∧ fld (s.hostReg p 0x008) 4 0 ≤ 16 ∧
    ∀ x ∈ s.parked, x.part = p → x.key ≠ none

/-- The module after the steps of R420 that follow the validation. -/
def bootState (x : BootInput) (s : State) : State :=
  run s (chain s ((fun _ => [Act.boot .enabled (some x.blob), .digests (sha384 x.firmware) (sha384 x.blobBytes)])
    :: x.blob.parts.map (installPart x)))

/-- R420: the signatures of steps 2 and 4, and the validation. -/
def bootChecks (x : BootInput) : Bool := x.fwEd && x.fwMl && x.blobEd && x.blobMl && blobOk x.blob

/-- What a boot does from a state of `s.boot` that takes one. -/
def Boots (e : BootInput → Instr) (st : BootSt) : Prop :=
  ∀ (s : State) (x : BootInput), s.boot = st →
    (bootChecks x = false → ∃ t, exec (e x) s = .next t ∧ t = { s with boot := .failed, cfg := none })
    ∧ (bootChecks x = true → (∃ c ∈ x.blob.parts, imageOk x (bootState x s) c = false) →
      ∃ t, exec (e x) s = .next t ∧ t = { s with boot := .failed, cfg := none })
    ∧ (bootChecks x = true → (∀ c ∈ x.blob.parts, imageOk x (bootState x s) c = true) →
      ∃ t, exec (e x) s = .next t ∧ t.boot = .enabled ∧ t.cfg = some x.blob ∧ t.fwDigest = sha384 x.firmware ∧
        t.blobDigest = sha384 x.blobBytes ∧
        (∀ c ∈ x.blob.parts, t.partReg c.pid 0x082 = c.ptbase ∧ t.partReg c.pid 0x100 = c.tvec ∧ t.partReg c.pid 0x102 = c.penbase ∧
          t.partReg c.pid 0x103 = c.crewbase ∧ t.partReg c.pid 0x104 = c.crewcnt ∧ hostOn t c.pid = true ∧
          ∃ o ∈ t.objs, ∃ i ∈ x.images, o.part = c.pid ∧ i.pid = c.pid ∧ o.va = i.va ∧ o.words = i.words) ∧
        t = { s with boot := t.boot, cfg := t.cfg, hbm := t.hbm, crews := t.crews, ocache := t.ocache, partRegs := t.partRegs
                     objs := t.objs, fwDigest := t.fwDigest, blobDigest := t.blobDigest })

/-- Element i of a lane word whose elements are w bits wide (R123). -/
def el (w i : Nat) (x : Lane) : BitVec w := x.extractLsb' (w * i) w

/-- The integer that an element stands for: unsigned for FMT 2, else signed (R70). -/
def elInt (c w i : Nat) (x : Lane) : Int := if c = 2 then ((el w i x).toNat : Int) else (el w i x).toInt

/-- The integer nearest to z that an element can stand for (R160). -/
def clampInt (c w : Nat) (z : Int) : Int :=
  if c = 2 then max 0 (min (2 ^ w - 1) z) else max (-(2 ^ (w - 1))) (min (2 ^ (w - 1) - 1) z)

/-- R335. -/
structure IsCanonical (e : List Atom) : Prop where
  len : e.length = 8
  sum : (e.map (fun a => a.w)).sum = 2 ^ 24
  split : ∃ m, 1 ≤ m ∧ m ≤ 8 ∧ ∀ (i : Nat) (a b : Atom), e[i]? = some a → e[m - 1]? = some b →
    (i < m → a.w ≠ 0) ∧ (m ≤ i → a.w = 0 ∧ a.x = b.x)
  order : (e.filter (fun a => decide (a.w ≠ 0))).Pairwise (fun a b => atomRank a.x ≤ atomRank b.x)
  nan : ∀ a ∈ e, isNan32 a.x = true → a.x = nan32

/-- A header with no predicate and no site. -/
def plainHdr : Header := { ss := 0, wc := 0, u := false, pe := false, pn := false, pk := false, pr := 0 }

/-- Words that the manual writes out beside the instruction that each stands for (R127, R160, R194, R206, R223, R226, R293, R308,
R344, R376). -/
def specWords : List (Word × Instr) :=
  [(0x0040000904050040#64, .add plainHdr { d := 9, a := 4, b := 5, fn := 0, mb := 0x40 }),
   (0x0040C30904050040#64, .add { plainHdr with pe := true, pn := true, pr := 3 } { d := 9, a := 4, b := 5, fn := 0, mb := 0x40 }),
   (0x0060000904050040#64, .add { plainHdr with ss := 2 } { d := 9, a := 4, b := 5, fn := 0, mb := 0x40 }),
   (0x0052000904050000#64, .add { plainHdr with ss := 1, wc := 1 } { d := 9, a := 4, b := 5, fn := 0, mb := 0 }),
   (0x007E000904050000#64, .add { plainHdr with ss := 3, wc := 7 } { d := 9, a := 4, b := 5, fn := 0, mb := 0 }),
   (0x0081E20C04050056#64,
     .sub { plainHdr with u := true, pe := true, pn := true, pk := true, pr := 2 } { d := 12, a := 4, b := 5, fn := 0, mb := 0x56 }),
   (0x0800000801020334#64, .fma plainHdr { d := 8, a := 1, b := 2, c := 3, mb := 0x34 }),
   (0x0E00000205A06410#64, .cmpi plainHdr { d := 2, a := 5, imm := 0xA064, mb := 0x10 }),
   (0x0F0000033F800000#64, .movi plainHdr { d := 3, imm := 0x3F800000 }),
   (0x2000000906002630#64, .cvt plainHdr { d := 9, a := 6, b := 0, fn := 0x26, mb := 0x30 }),
   (0x2400000605070300#64, .shfl plainHdr { d := 6, a := 5, b := 7, fn := 3, mb := 0 }),
   (0x2800A30505060000#64, .sadd { plainHdr with pe := true, pk := true, pr := 3 } { d := 5, a := 5, b := 6, fn := 0, mb := 0 }),
   (0x304000FFFFFD0000#64, .br plainHdr { off := 0xFFFFFD, ck := 0, cn := false, cr := 0, hid := 0, rsv := 0 }),
   (0x3180000000000030#64, .head plainHdr { off := 0, ck := 0, cn := false, cr := 0, hid := 3, rsv := 0 }),
   (0x3240000000200200#64, .barw plainHdr { d := 0, a := 0, sel := 0x2002, x := 0 }),
   (0x3300000C51558001#64, .sow plainHdr { d := 12, sa := 20, sb := 21, sf := 22, x := 1 }),
   (0x3440000700000001#64, .dqkAll plainHdr { d := 7, a := 0, sel := 0, x := 1 }),
   (0x40100007100800FA#64, .ld { plainHdr with ss := 1 } 0 { d := 7, sb := 4, vo := 2, imm := 3, spc := 7, wid := 2 }),
   (0x45000009100800C2#64, .st plainHdr 4 { d := 9, sb := 4, vo := 2, imm := 3, spc := 0, wid := 2 }),
   (0x4B00000A0C10000A#64, .acas plainHdr { d := 10, sb := 3, vo := 4, imm := 0, spc := 1, wid := 2 }),
   (0x5000000A51558000#64, .cpy plainHdr { d := 10, sa := 20, sb := 21, sf := 22, x := 0 }),
   (0x5200000009000200#64, .tlbiPid plainHdr { d := 0, a := 9, sel := 2, x := 0 }),
   (0x600000025166000B#64, .mma plainHdr { d := 2, sa := 20, sb := 22, sf := 24, x := 0xB }),
   (0x7000000C51600001#64, .board plainHdr { d := 12, sa := 20, sb := 22, sf := 0, x := 1 }),
   (0x8240000005060300#64, .datm plainHdr { d := 0, a := 5, b := 6, fn := 3, mb := 0 }),
   (0x82C0000301000600#64, .dtag plainHdr { d := 3, a := 1, imm := 6, mb := 0 }),
   (0x9080000000000700#64, .tmark plainHdr { d := 0, a := 0, imm := 7, mb := 0 }),
   (0x9200000C51500000#64, .tseg plainHdr { d := 12, sa := 20, sb := 21, sf := 0, x := 0 }),
   (0x0000000000000000#64, .unassignedOpcode 0)]

end Sys2Proof

open Sys2Proof Sys2Proof.Machine

/-- R167, R171, R174: the bitwise instructions, the moves and the select, on whole lane words. -/
def Obligations.BitwiseWordsComplete : Prop :=
  WritesLanes .and true (Src2 ruleBits (· = 0#8)) (fun x => x.d.toNat) (fun h x => movedTag h x.a.toNat x.mb)
    (fun h _ x l => h.vreg x.a.toNat l &&& h.vreg x.b.toNat l)
  ∧ WritesLanes .or true (Src2 ruleBits (· = 0#8)) (fun x => x.d.toNat) (fun h x => movedTag h x.a.toNat x.mb)
    (fun h _ x l => h.vreg x.a.toNat l ||| h.vreg x.b.toNat l)
  ∧ WritesLanes .xor true (Src2 ruleBits (· = 0#8)) (fun x => x.d.toNat) (fun h x => movedTag h x.a.toNat x.mb)
    (fun h _ x l => h.vreg x.a.toNat l ^^^ h.vreg x.b.toNat l)
  ∧ WritesLanes .andn true (Src2 ruleBits (· = 0#8)) (fun x => x.d.toNat) (fun h x => movedTag h x.a.toNat x.mb)
    (fun h _ x l => h.vreg x.a.toNat l &&& ~~~ h.vreg x.b.toNat l)
  ∧ WritesLanes .not true (Src1 ruleBits) (fun x => x.d.toNat) (fun h x => movedTag h x.a.toNat x.mb)
    (fun h _ x l => ~~~ h.vreg x.a.toNat l)
  ∧ WritesLanes .mov true (Src1 ruleBits) (fun x => x.d.toNat) (fun h x => movedTag h x.a.toNat x.mb)
    (fun h _ x l => h.vreg x.a.toNat l)
  ∧ WritesLanes .sel true (Src3 ruleBits) (fun x => x.d.toNat) (fun h x => movedTag h x.a.toNat x.mb)
    (fun h _ x l => if (h.vreg x.c.toNat l).getLsbD 0 then h.vreg x.a.toNat l else h.vreg x.b.toNat l)
  ∧ WritesLanes .andi true (SrcImm ruleBits) (fun x => x.d.toNat) (fun h x => movedTag h x.a.toNat x.mb)
    (fun h _ x l => h.vreg x.a.toNat l &&& x.imm.setWidth 32)
  ∧ WritesLanes .ori true (SrcImm ruleBits) (fun x => x.d.toNat) (fun h x => movedTag h x.a.toNat x.mb)
    (fun h _ x l => h.vreg x.a.toNat l ||| x.imm.setWidth 32)
  ∧ WritesLanes .xori true (SrcImm ruleBits) (fun x => x.d.toNat) (fun h x => movedTag h x.a.toNat x.mb)
    (fun h _ x l => h.vreg x.a.toNat l ^^^ x.imm.setWidth 32)
  ∧ WritesLanes .movi true (fun _ _ => True) (fun x => x.d.toNat) (fun _ _ => 0) (fun _ _ x _ => x.imm)

/-- R161, R168 to R170, R175, R178, R179, R182: the native element-wise instructions of one or two sources. -/
def Sys2Proof.NativeElementWordsComplete : Prop :=
  Lane2Word .mulhi ruleInts (· = 0#8) (fun _ => laneMulhi)
  ∧ Lane2Word .shl ruleInts (· = 0#8) (fun _ => bits2 shlEl)
  ∧ Lane2Word .shr ruleInts (· = 0#8) (fun _ => bits2 shrEl)
  ∧ Lane2Word .sar ruleInts (· = 0#8) (fun _ => bits2 sarEl)
  ∧ Lane2Word .rot ruleInts (· = 0#8) (fun _ => bits2 rotEl)
  ∧ Lane1Word .popc ruleInts id (bits2 (fun w u _ => popcEl w u))
  ∧ Lane1Word .clz ruleInts id (bits2 (fun w u _ => clzEl w u))
  ∧ Lane1Word .ctz ruleInts id (bits2 (fun w u _ => ctzEl w u))
  ∧ Lane1Word .brev ruleInts id (bits2 (fun w u _ => brevEl w u))
  ∧ Lane2Word .bfe ruleI (· = 0#8) (fun _ => laneBfe)
  ∧ Lane1Word .fclass ruleF (fun _ => 0) laneClass
  ∧ Lane2Word .ldexp ruleFRmSat (· = 0#8) (fun _ => laneLdexp)
  ∧ Lane2Word .sgnj ruleF (fun fn => fn.toNat < 3) (fun fn => laneSgnj fn.toNat)

/-- R164 to R166, R168, R170, R173, R181, R182: the native words with an immediate, with three sources, and the element
moves. -/
def Sys2Proof.ImmediateAndThreeSourceWordsComplete : Prop :=
  LaneImmWord .addi ruleISat (fun _ => True) id (fun imm f rm sat a => laneAdd f rm sat a (immWord f imm))
  ∧ LaneImmWord .muli ruleISat (fun _ => True) id (fun imm f rm sat a => laneMul f rm sat a (immWord f imm))
  ∧ LaneImmWord .shli ruleInts (fun _ => True) id
      (fun imm f _ _ a => buildWord f (fun i => shlEl (elemWidth f) (element a f i) imm.toNat))
  ∧ LaneImmWord .shri ruleInts (fun _ => True) id
      (fun imm f _ _ a => buildWord f (fun i => shrEl (elemWidth f) (element a f i) imm.toNat))
  ∧ LaneImmWord .sari ruleInts (fun _ => True) id
      (fun imm f _ _ a => buildWord f (fun i => sarEl (elemWidth f) (element a f i) imm.toNat))
  ∧ LaneImmWord .cmpi ruleI (fun imm => imm.toNat / 8192 < 6) (fun _ => 0)
      (fun imm f rm sat a => laneCmp (imm.toNat / 8192) f rm sat a (cmpImm f imm))
  ∧ LaneImmWord .mini ruleI (fun _ => True) id (fun imm f rm sat a => laneMin f rm sat a (immWord f imm))
  ∧ LaneImmWord .maxi ruleI (fun _ => True) id (fun imm f rm sat a => laneMax f rm sat a (immWord f imm))
  ∧ WritesLanes .mad true (Src3 ruleMad) (fun x => x.d.toNat) (fun _ x => mbFmt x.mb) (fun h _ x l =>
      laneFma (mbFmt x.mb) (mbRm x.mb) (mbSat x.mb) (h.vreg x.a.toNat l) (h.vreg x.b.toNat l) (h.vreg x.c.toNat l))
  ∧ WritesLanes .dot4 true (Src3 ruleDot4) (fun x => x.d.toNat) (fun _ x => if mbFmt x.mb = 10 then 1 else 3) (fun h _ x l =>
      laneDot4 (mbFmt x.mb) (mbRm x.mb) (mbSat x.mb) (h.vreg x.a.toNat l) (h.vreg x.b.toNat l) (h.vreg x.c.toNat l))
  ∧ WritesLanes .bfi true (Src3 ruleBits) (fun x => x.d.toNat) (fun h x => movedTag h x.a.toNat x.mb)
      (fun h _ x l => laneBfi (h.vreg x.a.toNat l) (h.vreg x.b.toNat l) (h.vreg x.c.toNat l))
  ∧ WritesLanes .pack true
      (fun h x => Src2 { fmts := [4, 5, 6, 7, 8, 9, 10, 11], rm := .no, sat := [] } (fun _ => True) h x
        ∧ x.fn.toNat < elemCount (mbFmt x.mb)) (fun x => x.d.toNat) (fun _ x => mbFmt x.mb)
      (fun h _ x l => buildWord (mbFmt x.mb) (fun i =>
        if i = x.fn.toNat then element (h.vreg x.b.toNat l) (mbFmt x.mb) 0 else element (h.vreg x.a.toNat l) (mbFmt x.mb) i))
  ∧ WritesLanes .unpk true
      (fun h x => x.a.toNat < h.nregs ∧ x.b = 0#8 ∧ x.fn.toNat < elemCount (mbFmt x.mb)
        ∧ MbOk { fmts := [4, 5, 6, 7, 8, 9, 10, 11], rm := .no, sat := [] } x.mb) (fun x => x.d.toNat) (fun _ x => mbFmt x.mb)
      (fun h _ x l => BitVec.ofNat 32 (element (h.vreg x.a.toNat l) (mbFmt x.mb) x.fn.toNat))
  ∧ (∀ (s : State) (w : Issuer) (h : Herd) (hd : Header) (x : F3),
      Issues s w h → PlainHeader h hd true → x.d.toNat < h.nregs → x.a = 0#8 → x.b = 0#8 → x.fn = 0#8 → MbOk ruleBits x.mb →
      activeLanes h w.f hd ≠ [] →
      ∃ t h', exec (.tag hd x) s = .next t ∧ OnlyHerd s t w h h' ∧
        LanesWritten h h' w.f x.d.toNat [] (mbFmt x.mb) (fun _ => 0) h.holds)

/-- The native arithmetic words. -/
def Obligations.NativeArithmeticWordsComplete : Prop := Sys2Proof.NativeElementWordsComplete ∧ Sys2Proof.ImmediateAndThreeSourceWordsComplete

/-- R134, R160, R162, R163, R165, R172, R175 to R177: the generic-capable arithmetic on native sites, on quickened sites whose
guard holds, and on pinned sites. -/
def Obligations.SettledArithmeticCompletes : Prop := (∀ g ∈ genericF3, SettledCompletes g) ∧ SettledCompletes genericFma

/-- R157, R271 to R274: the first issue of an unresolved arithmetic word. -/
def Sys2Proof.UnresolvedArithmeticResolves : Prop := (∀ g ∈ genericF3, UnresolvedResolves g) ∧ UnresolvedResolves genericFma

/-- R277, R278: a quickened arithmetic word whose guard fails. -/
def Sys2Proof.FailedGuardWidens : Prop := (∀ g ∈ genericF3, GuardFailureWidens g) ∧ GuardFailureWidens genericFma

/-- R157, R271 to R274, R277, R278: an unresolved arithmetic word quickens, and a quickened one whose guard fails widens. -/
def Obligations.SitesRewriteThemselves : Prop := Sys2Proof.UnresolvedArithmeticResolves ∧ Sys2Proof.FailedGuardWidens

/-- R137, R157: no common accepted tag: the trap of an illegal instruction, and no other effect, not even a count. -/
def Obligations.UnresolvedWithoutFormatTraps : Prop := (∀ g ∈ genericF3, NoFormatTraps g) ∧ NoFormatTraps genericFma

/-- R180, R84 to R86: `cvt` on a settled site. The counters grow by the events of its elements; when one crosses the limit a
conversion-limit trap follows, with every lane's result written. A word with U = 1 counts the events of one lane, as R84 has it; that R280 does not speak against it is the
model's reading (log entry 94). -/
def Obligations.ConversionCompletes : Prop :=
  ∀ (s : State) (w : Issuer) (h : Herd) (hd : Header) (x : F3) (f : Nat) (u : Bool) (n : ConvCount),
    Issues s w h → SiteSettled h (activeLanes h w.f hd) hd ruleCvt x.mb [x.a.toNat] (cvtSrcs x f) f u →
    cvtOk (x.fn.toNat % 16) (x.fn.toNat / 16) f = true → x.d.toNat < h.nregs → x.a.toNat < h.nregs → x.b = 0#8 →
    activeLanes h w.f hd ≠ [] →
    n = convSum ((if u then [(activeLanes h w.f hd).headD 0] else activeLanes h w.f hd).map (fun l => (cvtOf h x f l).2)) →
    ∃ t h', OnlyHerd s t w h h' ∧
      LanesWritten h { h' with cvsat := h.cvsat, cvflush := h.cvflush, cvnan := h.cvnan } w.f x.d.toNat
        (activeLanes h w.f hd) (x.fn.toNat % 16)
        (fun l => (cvtOf h x f (if u then (activeLanes h w.f hd).headD 0 else l)).1) h.holds ∧
      h'.cvsat.toNat = min (h.cvsat.toNat + n.sat) 0xFFFFFFFF ∧ h'.cvflush.toNat = min (h.cvflush.toNat + n.flush) 0xFFFFFFFF ∧
      h'.cvnan.toNat = min (h.cvnan.toNat + n.nan) 0xFFFFFFFF ∧
      (crosses h n = false → exec (.cvt hd x) s = .next t) ∧
      (crosses h n = true → TrapFree h (furMask (h.group w.f)) →
        ∃ r, exec (.cvt hd x) s = .next r ∧ TakenAfter s t r h h' w.f (trapAfterWord w h 11 0 0))

/-- R183 to R186, R188, R189: the cross-lane instructions with a vector result. -/
def Obligations.CrossLaneWordsComplete : Prop :=
  WritesLanes .shfl false
    (fun h x => x.a.toNat < h.nregs ∧ x.b.toNat < h.nregs ∧ x.fn.toNat < 4 ∧ x.mb = 0#8) (fun x => x.d.toNat)
    (fun h x => h.tagOf x.a.toNat)
    (fun h ls x l =>
      let src := shflSrc x.fn.toNat l (h.vreg x.b.toNat l).toNat
      if 0 ≤ src ∧ src < h.width ∧ src.toNat ∈ ls then h.vreg x.a.toNat src.toNat else h.vreg x.a.toNat l)
  ∧ WritesLanes .bcast false
    (fun h x => x.a.toNat < h.nregs ∧ x.b = 0#8 ∧ x.fn.toNat < h.width ∧ x.mb = 0#8) (fun x => x.d.toNat)
    (fun h x => h.tagOf x.a.toNat)
    (fun h _ x _ => if h.exited x.fn.toNat then 0#32 else h.vreg x.a.toNat x.fn.toNat)
  ∧ WritesLanes .splat false
    (fun _ x => x.a.toNat < 64 ∧ x.b = 0#8 ∧ x.fn.toNat < 2 ∧ x.mb = 0#8) (fun x => x.d.toNat) (fun _ _ => 0)
    (fun h _ x _ => if x.fn = 0#8 then (h.sreg x.a.toNat).extractLsb' 0 32 else (h.sreg x.a.toNat).extractLsb' 32 32)
  ∧ WritesLanes .hred false
    (fun h x => x.a.toNat < h.nregs ∧ x.b = 0#8 ∧ x.fn.toNat < 6 ∧ MbOk (ruleRed x.fn.toNat) x.mb) (fun x => x.d.toNat)
    (fun _ x => mbFmt x.mb)
    (fun h ls x _ => buildWord (mbFmt x.mb) (fun i => reduceEl x.fn.toNat (mbFmt x.mb) (mbRm x.mb) (mbSat x.mb)
      (ls.map (fun k => element (h.vreg x.a.toNat k) (mbFmt x.mb) i))))
  ∧ WritesLanes .hscan false
    (fun h x => x.a.toNat < h.nregs ∧ x.b = 0#8 ∧ x.fn.toNat < 16 ∧ x.fn.toNat % 8 < 6 ∧ MbOk (ruleRed (x.fn.toNat % 8)) x.mb)
    (fun x => x.d.toNat) (fun _ x => mbFmt x.mb)
    (fun h ls x l => buildWord (mbFmt x.mb) (fun i =>
      reduceEl (x.fn.toNat % 8) (mbFmt x.mb) (mbRm x.mb) (mbSat x.mb)
        ((ls.filter (fun k => decide (k < l) || (x.fn.toNat < 8 && decide (k = l)))).map
          (fun k => element (h.vreg x.a.toNat k) (mbFmt x.mb) i))))

/-- R158, R185, R187: `vote`, `ballot` and `rdlane`. -/
def Sys2Proof.LanesToUniformWordsComplete : Prop :=
  WritesSreg .vote (fun h _ x => x.a.toNat < h.nregs ∧ x.b = 0#8 ∧ x.fn.toNat < 3 ∧ x.mb = 0#8) (fun x => x.d.toNat)
    (fun h ls x =>
      let one := fun l => (h.vreg x.a.toNat l).getLsbD 0
      if x.fn = 0#8 then (if ls.all one then 1#64 else 0#64)
      else if x.fn = 1#8 then (if ls.any one then 1#64 else 0#64)
      else if ls.all one || !ls.any one then 1#64 else 0#64)
  ∧ (∀ (s : State) (w : Issuer) (h : Herd) (hd : Header) (x : F3),
      Issues s w h → PlainHeader h hd false → x.d.toNat < 64 → x.a.toNat < h.nregs → x.b = 0#8 → x.fn = 0#8 → x.mb = 0#8 →
      activeLanes h w.f hd ≠ [] →
      ∃ t h' r, exec (.ballot hd x) s = .next t ∧ OnlyHerd s t w h h' ∧ SregWritten h h' w.f x.d.toNat r ∧
        ∀ l < 64, r.getLsbD l = (decide (l ∈ activeLanes h w.f hd) && (h.vreg x.a.toNat l).getLsbD 0))
  ∧ WritesSreg .rdlane (fun h _ x => x.a.toNat < h.nregs ∧ x.b = 0#8 ∧ x.fn.toNat < h.width ∧ x.mb = 0#8) (fun x => x.d.toNat)
    (fun h _ x => if h.exited x.fn.toNat then 0#64 else (h.vreg x.a.toNat x.fn.toNat).setWidth 64)

/-- R158, R174, R190, R191: the uniform arithmetic and the uniform moves. -/
def Sys2Proof.UniformArithmeticCompletes : Prop :=
  Uni2Word .sadd false (· = 0#8) (fun _ _ a b => a + b)
  ∧ Uni2Word .ssub false (· = 0#8) (fun _ _ a b => a - b)
  ∧ Uni2Word .smul false (· = 0#8) (fun _ _ a b => a * b)
  ∧ Uni2Word .sand false (· = 0#8) (fun _ _ a b => a &&& b)
  ∧ Uni2Word .sor false (· = 0#8) (fun _ _ a b => a ||| b)
  ∧ Uni2Word .sxor false (· = 0#8) (fun _ _ a b => a ^^^ b)
  ∧ Uni2Word .sshl false (· = 0#8) (fun _ _ a b => if b.toNat < 64 then a <<< b.toNat else 0#64)
  ∧ Uni2Word .sshr false (· = 0#8) (fun _ _ a b => if b.toNat < 64 then a >>> b.toNat else 0#64)
  ∧ Uni2Word .ssar false (· = 0#8) (fun _ _ a b => BitVec.ofInt 64 (a.toInt / ((2 ^ min b.toNat 63 : Nat) : Int)))
  ∧ Uni2Word .smin true (· = 0#8) (fun _ f a b => if uniInt f b < uniInt f a then b else a)
  ∧ Uni2Word .smax true (· = 0#8) (fun _ f a b => if uniInt f a < uniInt f b then b else a)
  ∧ (∀ (s : State) (w : Issuer) (h : Herd) (hd : Header) (x : F3),
      Issues s w h → PlainHeader h hd false → UniPred hd → x.d.toNat < 64 → x.a.toNat < 64 → x.b.toNat < 64 →
      x.fn.toNat < 6 → UniMb true x.mb → activeLanes h w.f hd ≠ [] →
      ∃ t h' r, exec (.scmp hd x) s = .next t ∧ OnlyHerd s t w h h' ∧ SregWritten h h' w.f x.d.toNat r ∧
        (condOf x.fn.toNat (uniInt (mbFmt x.mb) (h.sreg x.a.toNat)) (uniInt (mbFmt x.mb) (h.sreg x.b.toNat)) → r = 1#64) ∧
        (¬ condOf x.fn.toNat (uniInt (mbFmt x.mb) (h.sreg x.a.toNat)) (uniInt (mbFmt x.mb) (h.sreg x.b.toNat)) → r = 0#64))
  ∧ WritesSreg .ssel (fun _ hd x => UniPred hd ∧ x.a.toNat < 64 ∧ x.b.toNat < 64 ∧ x.c.toNat < 64 ∧ UniMb false x.mb)
      (fun x => x.d.toNat)
      (fun h _ x => if (h.sreg x.c.toNat).getLsbD 0 then h.sreg x.a.toNat else h.sreg x.b.toNat)
  ∧ WritesSreg .smov (fun _ hd x => UniPred hd ∧ x.a.toNat < 64 ∧ x.b = 0#8 ∧ x.fn = 0#8 ∧ UniMb false x.mb)
      (fun x => x.d.toNat) (fun h _ x => h.sreg x.a.toNat)
  ∧ UniImmWord .saddi (fun imm a => a + imm.signExtend 64)
  ∧ UniImmWord .sandi (fun imm a => a &&& imm.signExtend 64)
  ∧ UniImmWord .sori (fun imm a => a ||| imm.setWidth 64)
  ∧ UniImmWord .sshli (fun imm a => if imm.toNat < 64 then a <<< imm.toNat else 0#64)
  ∧ WritesSreg .movs (fun _ _ _ => True) (fun x => x.d.toNat) (fun _ _ x => x.imm.signExtend 64)
  ∧ WritesSreg .movhs (fun _ _ _ => True) (fun x => x.d.toNat) (fun h _ x => x.imm ++ (h.sreg x.d.toNat).setWidth 32)

/-- The words that write one uniform register. -/
def Obligations.UniformResultsComplete : Prop := Sys2Proof.LanesToUniformWordsComplete ∧ Sys2Proof.UniformArithmeticCompletes

/-- R35, R39, R40, R194 to R196: `br` and `call`. -/
def Sys2Proof.BranchAndCallComplete : Prop :=
  ∀ (s : State) (w : Issuer) (h : Herd) (hd : Header) (x : FB),
    Issues s w h → PlainHeader h hd false → CondOk h x → activeLanes h w.f hd ≠ [] →
    RoomFor h w.f (activeLanes h w.f hd) (branchChoice w h x)
      (keepsTaken (branchTarget w h x) (h.fur w.f).pc (branchChoice w h x)) →
    (∃ t h', exec (.br hd x) s = .next t ∧ OnlyHerd s t w h h' ∧ FurrowsOnly h h' ∧
      Branched h h' w.f (activeLanes h w.f hd) (branchChoice w h x)
        (keepsTaken (branchTarget w h x) (h.fur w.f).pc (branchChoice w h x)))
    ∧ (∃ t h', exec (.call hd x) s = .next t ∧ OnlyHerd s t w h h' ∧
      Branched h h' w.f (activeLanes h w.f hd) (branchChoice w h x)
        (keepsTaken (branchTarget w h x) (h.fur w.f).pc (branchChoice w h x)) ∧
      Linked h h' 14 (standAt h' (h.group w.f) (branchTarget w h x)) ((h.fur w.f).pc + 8#64))

/-- The words with indirect targets, as data: constructor, what R137 asks of its registers, and the target that a lane chooses
(R197, R198). -/
def Sys2Proof.indirectWords : List ((Header → F3 → Instr) × (Herd → F3 → Prop) × (Herd → F3 → Nat → Word)) :=
  [(.jmpi, fun h x => x.d = 0#8 ∧ x.a.toNat < h.nregs ∧ x.b.toNat < 64, tableChoice),
   (.calli, fun h x => x.d.toNat % 2 = 0 ∧ x.d.toNat + 1 < h.nregs ∧ x.a.toNat < h.nregs ∧ x.b.toNat < 64, tableChoice),
   (.ret, fun h x => x.d = 0#8 ∧ x.b = 0#8 ∧ x.a.toNat % 2 = 0 ∧ x.a.toNat + 1 < h.nregs, linkChoice)]

/-- R199, R40: the traps of a word with indirect targets: the first check that a lane fails, at its lowest such lane, and an
overflow of the path stack; nothing of the word happens. -/
def Sys2Proof.IndirectTargetsTrap : Prop :=
  ∀ e ∈ indirectWords, ∀ (s : State) (w : Issuer) (h : Herd) (hd : Header) (x : F3) (ls : List Nat) (dest : Nat → Word),
    Issues s w h → PlainHeader h hd false → x.fn = 0#8 → x.mb = 0#8 → e.2.1 h x → ls = activeLanes h w.f hd → ls ≠ [] →
    dest = e.2.2 h x → TrapFree h (furMask (h.group w.f)) →
    (∀ l ∈ ls, (dest l).toNat % 8 ≠ 0 → (∀ k ∈ ls, k < l → (dest k).toNat % 8 = 0) →
      exec (e.1 hd x) s = .next (trapped s h { trapAtWord w h 1 0 with lane := l, addr := dest l }))
    ∧ (∀ l ∈ ls, (∀ k ∈ ls, (dest k).toNat % 8 = 0) → 7 ≤ fld (dest l) 63 60 → (∀ k ∈ ls, k < l → fld (dest k) 63 60 < 7) →
      exec (e.1 hd x) s = .next (trapped s h { trapAtWord w h 2 1 with lane := l, addr := dest l }))
    ∧ (∀ l ∈ ls, (∀ k ∈ ls, (dest k).toNat % 8 = 0 ∧ fld (dest k) 63 60 < 7) → fld (dest l) 63 48 ≠ 0 →
      (∀ k ∈ ls, k < l → fld (dest k) 63 48 = 0) →
      exec (e.1 hd x) s = .next (trapped s h { trapAtWord w h 2 2 with lane := l, addr := dest l }))
    ∧ (∀ j ∈ h.group w.f, (∀ l ∈ ls, TargetOk (dest l)) → deferredBy dest (keepsLowest (h.fur w.f).pc dest (furLanes j ls)) (furLanes j ls) ≠ [] →
      16 < (h.fur j).stack.length + (deferredBy dest (keepsLowest (h.fur w.f).pc dest (furLanes j ls)) (furLanes j ls)).length →
      exec (e.1 hd x) s = .next (trapped s h (trapAtWord w h 5 0)))

/-- R39, R194, R197, R198: `jmpi`, `calli` and `ret` whose targets pass the checks. -/
def Sys2Proof.IndirectJumpsGo : Prop :=
  ∀ (s : State) (w : Issuer) (h : Herd) (hd : Header) (x : F3),
    Issues s w h → PlainHeader h hd false → x.fn = 0#8 → x.mb = 0#8 → activeLanes h w.f hd ≠ [] →
    (x.d = 0#8 → x.a.toNat < h.nregs → x.b.toNat < 64 → (∀ l ∈ activeLanes h w.f hd, TargetOk (tableChoice h x l)) →
      RoomFor h w.f (activeLanes h w.f hd) (tableChoice h x) (keepsLowest (h.fur w.f).pc (tableChoice h x)) →
      ∃ t h', exec (.jmpi hd x) s = .next t ∧ OnlyHerd s t w h h' ∧ FurrowsOnly h h' ∧
        Branched h h' w.f (activeLanes h w.f hd) (tableChoice h x) (keepsLowest (h.fur w.f).pc (tableChoice h x)))
    ∧ (x.d.toNat % 2 = 0 → x.d.toNat + 1 < h.nregs → x.a.toNat < h.nregs → x.b.toNat < 64 →
      (∀ l ∈ activeLanes h w.f hd, TargetOk (tableChoice h x l)) →
      RoomFor h w.f (activeLanes h w.f hd) (tableChoice h x) (keepsLowest (h.fur w.f).pc (tableChoice h x)) →
      ∃ t h' ls, exec (.calli hd x) s = .next t ∧ OnlyHerd s t w h h' ∧
        Branched h h' w.f (activeLanes h w.f hd) (tableChoice h x) (keepsLowest (h.fur w.f).pc (tableChoice h x)) ∧
        Linked h h' x.d.toNat ls ((h.fur w.f).pc + 8#64) ∧
        (∀ l, l ∈ ls ↔ l ∈ h.lanesOf (h.group w.f) ∧
          ((∀ k ∈ activeLanes h w.f hd, tableChoice h x k = tableChoice h x ((activeLanes h w.f hd).headD 0))
            ∨ furLanes (l / 8) (activeLanes h w.f hd) ≠ [])))
    ∧ (x.d = 0#8 → x.b = 0#8 → x.a.toNat % 2 = 0 → x.a.toNat + 1 < h.nregs →
      (∀ l ∈ activeLanes h w.f hd, TargetOk (linkChoice h x l)) →
      RoomFor h w.f (activeLanes h w.f hd) (linkChoice h x) (keepsLowest (h.fur w.f).pc (linkChoice h x)) →
      ∃ t h', exec (.ret hd x) s = .next t ∧ OnlyHerd s t w h h' ∧ FurrowsOnly h h' ∧
        Branched h h' w.f (activeLanes h w.f hd) (linkChoice h x) (keepsLowest (h.fur w.f).pc (linkChoice h x)))

/-- R39, R40, R194, R197 to R199: `jmpi`, `calli` and `ret`. -/
def Obligations.IndirectJumpsComplete : Prop := Sys2Proof.IndirectJumpsGo ∧ Sys2Proof.IndirectTargetsTrap

/-- R38, R39, R41, R42, R194: whatever `br`, `call`, `head`, `jmpi`, `calli` or `ret` does, be it a trap, no furrow of the herd
loses a lane, and none gets a lane that it had not: the lanes of its current path and its path stack are the same ones after. A
furrow whose lanes stood in one place each has them in one place each after. -/
def Obligations.SplittingKeepsEveryLane : Prop :=
  ∀ (s : State) (w : Issuer) (h : Herd) (hd : Header) (x : FB) (y : F3) (i : Instr),
    Issues s w h → h.handler = none → i ∈ [.br hd x, .call hd x, .head hd x, .jmpi hd y, .calli hd y, .ret hd y] →
    ∃ t h', exec i s = .next t ∧ t.herd? w.key = some h' ∧ h'.furrows.length = h.furrows.length ∧
      ∀ j, (h'.fur j).lanes = (h.fur j).lanes ∧ (EachLaneOnce (h.fur j) → EachLaneOnce (h'.fur j))

/-- R40: a push that would make a seventeenth entry traps with class 5, and nothing of the branch happens. -/
def Sys2Proof.PathStackOverflowTraps : Prop :=
  ∀ (s : State) (w : Issuer) (h : Herd) (hd : Header) (x : FB) (j : Nat),
    Issues s w h → PlainHeader h hd false → CondOk h x → j ∈ h.group w.f → TrapFree h (furMask (h.group w.f)) →
    16 < (h.fur j).stack.length + (deferredBy (branchChoice w h x)
      (keepsTaken (branchTarget w h x) (h.fur w.f).pc (branchChoice w h x) (furLanes j (activeLanes h w.f hd)))
      (furLanes j (activeLanes h w.f hd))).length →
    deferredBy (branchChoice w h x)
      (keepsTaken (branchTarget w h x) (h.fur w.f).pc (branchChoice w h x) (furLanes j (activeLanes h w.f hd)))
      (furLanes j (activeLanes h w.f hd)) ≠ [] →
    exec (.br hd x) s = .next (trapped s h (trapAtWord w h 5 0)) ∧
    exec (.call hd x) s = .next (trapped s h (trapAtWord w h 5 0))

/-- R35, R39, R40, R194 to R196: `br` and `call`. -/
def Obligations.DirectBranchesFollowTheirRules : Prop := Sys2Proof.BranchAndCallComplete ∧ Sys2Proof.PathStackOverflowTraps

/-- R41 to R46, R49: `head n`. A group with empty path stacks stands, and joins the groups that stand there at its PC with an
equal count; what then contains every live furrow passes, as a group does at once under a patience of 0. A path above other
entries merges with its like among the parked ones or parks, and its furrow resumes with its topmost deferred entry, or passes with its
topmost parked one when no other is left, and is saved there when a pre-emption waits (R365); a seventeenth entry traps. That a group whose
furrows have unequal headland counts stays one group, and is joined through any of them, is the model's reading (DEDUCED, log entry 42). -/
def Obligations.HeadlandsCompleteOrHold : Prop :=
  ∀ (s : State) (w : Issuer) (h : Herd) (hd : Header) (x : FB) (n : Nat),
    Issues s w h → HeadOk hd x → n = x.hid.toNat →
    ((∀ j ∈ h.group w.f, (h.fur j).stack = []) → h.group w.f = h.liveFurs → saveNext s h = false →
      ∃ t h', exec (.head hd x) s = .next t ∧ OnlyHerd s t w h h' ∧ FurrowsOnly h h' ∧
        ∀ j, h'.fur j = if j ∈ h.group w.f then passedFur n { h.fur j with grp := (h.group w.f).headD 0 } else h.fur j)
    ∧ ((∀ j ∈ h.group w.f, (h.fur j).stack = []) → Named h → Uniform h → patience s h ≠ 0 →
      (joined h w.f n ≠ h.liveFurs → ∃ t h', exec (.head hd x) s = .next t ∧ OnlyHerd s t w h h' ∧ FurrowsOnly h h' ∧
        ∀ j, h'.fur j = if j ∈ joined h w.f n then { h.fur j with st := .standing n, grp := (joined h w.f n).headD 0 } else h.fur j)
      ∧ (joined h w.f n = h.liveFurs → saveNext s h = false →
        ∃ t h', exec (.head hd x) s = .next t ∧ OnlyHerd s t w h h' ∧ FurrowsOnly h h' ∧
          ∀ j, h'.fur j = if j ∈ h.liveFurs then passedFur n { h.fur j with grp := h.liveFurs.headD 0 } else h.fur j))
    ∧ ((∀ j ∈ h.group w.f, (h.fur j).stack = []) → Named h → patience s h = 0 → saveNext s h = false →
      (∀ j ∈ h.liveFurs, ∀ m, (h.fur j).st ≠ .standing m) →
      ∃ t h', exec (.head hd x) s = .next t ∧ OnlyHerd s t w h h' ∧ FurrowsOnly h h' ∧
        ∀ j, h'.fur j = if j ∈ h.group w.f then passedFur n (h.fur j) else h.fur j)
    ∧ (∀ (st : List PathEntry), h.group w.f = [w.f] → (h.fur w.f).stack ≠ [] → ParkedStack n (h.fur w.f) st → Named h →
      patience s h ≠ 0 →
      ∃ t h', exec (.head hd x) s = .next t ∧ OnlyHerd s t w h h' ∧ Resumed st (h.fur w.f) (h'.fur w.f) ∧
        (∀ j, j ≠ w.f → h'.fur j = h.fur j) ∧ h' = { h with furrows := h'.furrows, holds := resumeHolds s h w.f st })
    ∧ (∀ j ∈ h.group w.f, 16 ≤ (h.fur j).stack.length → (∀ k ∈ (h.fur j).stack, ¬ Merges n (h.fur j) k) →
      TrapFree h (furMask (h.group w.f)) → exec (.head hd x) s = .next (trapped s h (trapAtWord w h 5 0)))

/-- R37, R201: `exit` while a furrow of the group keeps lanes: the active lanes leave, the others go on at PC + 8, and a
furrow without lanes and with an empty stack is not live. -/
def Sys2Proof.ExitRemovesActiveLanes : Prop :=
  ∀ (s : State) (w : Issuer) (h : Herd) (hd : Header) (x : FS),
    Issues s w h → PlainHeader h hd false → x = { d := 0, a := 0, sel := 0, x := 0 } → activeLanes h w.f hd ≠ [] →
    patience s h ≠ 0 → Named h → (∀ j ∈ h.group w.f, (h.fur j).stack = []) →
    (h.fur w.f).path &&& ~~~(leaving (activeLanes h w.f hd) w.f) ≠ 0#8 →
    ∃ t h', exec (.exit hd x) s = .next t ∧ OnlyHerd s t w h h' ∧ FurrowsOnly h h' ∧
      ∀ j, h'.fur j = if j ∈ h.group w.f then
          (if (h.fur j).path &&& ~~~(leaving (activeLanes h w.f hd) j) = 0#8 then
            { h.fur j with path := 0#8, st := .notLive }
          else { h.fur j with path := (h.fur j).path &&& ~~~(leaving (activeLanes h w.f hd) j)
                              pc := (h.fur j).pc + 8#64 })
        else h.fur j

/-- R37, R202: when every lane of a herd's only group leaves, the herd ends: no furrow is live, and of the words that wait for an answer
those remain whose accesses are still performed. That it leaves its slice at once is the model's reading (DEDUCED, log entry 29). -/
def Sys2Proof.LastExitEndsTheHerd : Prop :=
  ∀ (s : State) (w : Issuer) (h : Herd) (hd : Header) (x : FS),
    Issues s w h → PlainHeader h hd false → x = { d := 0, a := 0, sel := 0, x := 0 } → activeLanes h w.f hd ≠ [] →
    h.group w.f = h.liveFurs → (∀ j ∈ h.group w.f, (h.fur j).stack = []) →
    (∀ j ∈ h.group w.f, (h.fur j).path &&& ~~~(leaving (activeLanes h w.f hd) j) = 0#8) →
    ∃ t h', exec (.exit hd x) s = .next t ∧ t.herd? w.key = some h' ∧ h'.ended = true ∧ h'.resident = false ∧
      h'.holds = h.holds.filter (fun y => y.why.outlives) ∧ h'.boarding = none ∧ h'.tape = h.tape.ended ∧ h'.v = h.v ∧ h'.s = h.s ∧ h'.acc = h.acc

/-- R37, R42, R201: when the current path of a group of one furrow leaves, the furrow resumes: its topmost deferred entry, else
its topmost parked one, which passes its headland, and is saved there when a pre-emption waits (R365); with an empty stack it is not live, and the other groups go on as they were. -/
def Sys2Proof.ExitedFurrowResumes : Prop :=
  ∀ (s : State) (w : Issuer) (h : Herd) (hd : Header) (x : FS),
    Issues s w h → PlainHeader h hd false → x = { d := 0, a := 0, sel := 0, x := 0 } → activeLanes h w.f hd ≠ [] →
    patience s h ≠ 0 → Named h → h.group w.f = [w.f] → (h.fur w.f).path &&& ~~~(leaving (activeLanes h w.f hd) w.f) = 0#8 →
    ((h.fur w.f).stack ≠ [] →
      ∃ t h', exec (.exit hd x) s = .next t ∧ OnlyHerd s t w h h' ∧ Resumed (h.fur w.f).stack (h.fur w.f) (h'.fur w.f) ∧
        (∀ j, j ≠ w.f → h'.fur j = h.fur j) ∧
        h' = { h with furrows := h'.furrows, holds := resumeHolds s h w.f (h.fur w.f).stack })
    ∧ ((h.fur w.f).stack = [] → (∃ j ∈ h.liveFurs, j ≠ w.f) → (∀ j ∈ h.liveFurs, ∀ n, (h.fur j).st ≠ .standing n) →
      ∃ t h', exec (.exit hd x) s = .next t ∧ OnlyHerd s { t with nextOrder := s.nextOrder } w h h' ∧
        h' = { h with furrows := h'.furrows, waitAt := h'.waitAt } ∧
        (∀ j, h'.fur j = if j = w.f then { h.fur j with path := 0#8, st := .notLive } else h.fur j) ∧
        (h'.waitAt, t.nextOrder) = if isWaiting h' then (s.nextOrder, s.nextOrder + 1) else (h.waitAt, s.nextOrder))

/-- R37, R43, R46, R201: when the last furrow that a standing group waits for leaves, the group contains every live furrow, and passes. -/
def Sys2Proof.ExitLetsTheStandingPass : Prop :=
  ∀ (s : State) (w : Issuer) (h : Herd) (hd : Header) (x : FS) (f n : Nat),
    Issues s w h → PlainHeader h hd false → x = { d := 0, a := 0, sel := 0, x := 0 } → activeLanes h w.f hd ≠ [] →
    patience s h ≠ 0 → Named h → h.group w.f = [w.f] → (h.fur w.f).path &&& ~~~(leaving (activeLanes h w.f hd) w.f) = 0#8 →
    (h.fur w.f).stack = [] → h.group f ≠ [] → (∀ j ∈ h.group f, (h.fur j).st = .standing n) →
    h.liveFurs.filter (fun j => decide (j ≠ w.f)) = h.group f → saveNext s h = false →
    ∃ t h', exec (.exit hd x) s = .next t ∧ OnlyHerd s t w h h' ∧ FurrowsOnly h h' ∧
      ∀ j, h'.fur j = if j = w.f then { h.fur j with path := 0#8, st := .notLive }
        else if j ∈ h.group f then passedFur n (h.fur j) else h.fur j

/-- R37, R42, R46, R201: `exit`, of a part of a group's lanes, of a furrow's whole path, of the last furrow that a standing group waits for,
and of the herd's last lanes. That an ended herd leaves its slice at once is the model's reading (DEDUCED, log entry 29). -/
def Obligations.ExitRemovesLanes : Prop :=
  Sys2Proof.ExitRemovesActiveLanes ∧ Sys2Proof.ExitedFurrowResumes ∧ Sys2Proof.ExitLetsTheStandingPass ∧ Sys2Proof.LastExitEndsTheHerd

/-- R192, R203, R403: `nop` does nothing; `yield 0` makes the group the youngest; `yield n` holds it, and when its cycles have
passed (YIELD_EXPIRY) the group is ready again and the youngest. -/
def Obligations.NopAndYieldComplete : Prop :=
  ∀ (s : State) (w : Issuer) (h : Herd) (hd : Header) (x : FS),
    Issues s w h → PlainHeader h hd false → x.d = 0#8 → x.a = 0#8 → x.x = 0#8 → activeLanes h w.f hd ≠ [] →
    (x.sel = 0#16 → ∃ t h', exec (.nop hd x) s = .next t ∧ OnlyHerd s t w h h' ∧ FurrowsOnly h h' ∧ Advanced h h' w.f)
    ∧ (x.sel = 0#16 → ∃ t h', exec (.yield hd x) s = .next t ∧ OnlyHerd s { t with nextOrder := s.nextOrder } w h h' ∧
      FurrowsOnly h h' ∧ t.nextOrder = s.nextOrder + 1 ∧
      ∀ j, h'.fur j = if j ∈ h.group w.f then { h.fur j with pc := (h.fur w.f).pc + 8#64, rank := s.nextOrder } else h.fur j)
    ∧ (x.sel ≠ 0#16 → ∃ t h' u g, exec (.yield hd x) s = .next t ∧ OnlyHerd s t w h h' ∧ Advanced h h' w.f ∧
      h' = { h with furrows := h'.furrows
                    holds := h.holds ++ [{ group := furMask (h.group w.f), why := .yield x.sel.toNat }] } ∧
      exec (.yieldExpiry w.key w.f) t = .next u ∧ u = { t with herds := u.herds, nextOrder := t.nextOrder + 1 } ∧
      OneHerd t u w.key g ∧ FurrowsOnly h g ∧
      ∀ j, g.fur j = if j ∈ h.group w.f then { h.fur j with pc := (h.fur w.f).pc + 8#64, rank := t.nextOrder } else h.fur j)

/-- R216, R355, R356: `trap n` and `brk n` are complete when their trap is taken or pends: it resumes past the word and records n. -/
def Obligations.SoftwareAndDebugTrapsAreTaken : Prop :=
  ∀ (s : State) (w : Issuer) (h : Herd) (hd : Header) (x : FS),
    Issues s w h → PlainHeader h hd false → x.d = 0#8 → x.a = 0#8 → x.x = 0#8 → activeLanes h w.f hd ≠ [] →
    trapWaits h (furMask (h.group w.f)) = false →
    ∃ t h' r r', OnlyHerd s t w h h' ∧ FurrowsOnly h h' ∧ Advanced h h' w.f ∧
      exec (.trap hd x) s = .next r ∧ TakenAfter s t r h h' w.f (trapAfterWord w h 13 0 x.sel.toNat) ∧
      exec (.brk hd x) s = .next r' ∧ TakenAfter s t r' h h' w.f (trapAfterWord w h 14 0 x.sel.toNat)

/-- R357, R362: what a trap entry writes, where the handler group begins, and what stays. The holds of the herd's groups end,
so that a stalled `sow` or copy issues again (assumption 7), and so do the traps that pend *before* their words (R356). -/
def Obligations.TrapEntrySavesAndEnters : Prop :=
  ∀ (s : State) (h : Herd) (i : TrapInfo),
    s.herd? h.key = some h → h.handler = none → TrapFree h i.group → h.furrows.length ≤ 8 →
    ∃ t h', run s (takeTrap s h i) = t ∧ t.herd? h.key = some h' ∧
      (∀ k, k ≠ h.key → t.herd? k = s.herd? k) ∧
      t.hbm = putAll s.hbm (entryBytes s h i) ∧
      h'.sup = true ∧ h'.handler = some (furMask (handlerGroup h)) ∧
      h'.sreg 56 = BitVec.ofNat 64 (saveArea s h) ∧ h'.sreg 57 = trapWord h i ∧ h'.sreg 58 = i.pc ∧
      (∀ n, n < 56 ∨ 58 < n → h'.sreg n = h.sreg n) ∧
      (∀ j, h'.fur j = if j ∈ handlerGroup h then
          { h.fur j with
            pc := BitVec.ofNat 64 (fld (s.partReg h.key.crew.part 0x100) 47 12 * 4096 + 128 * i.cls)
            path := (h.fur j).lanes, stack := [], grp := (handlerGroup h).headD 0, st := .running }
        else h.fur j) ∧
      h' = { h with s := h'.s, furrows := h'.furrows, holds := [], handler := h'.handler, sup := true
                    pend := h.pend.filter (fun p => decide (p.1 ≠ i.group) && decide (p.2.resume ≠ p.2.pc)), pendSeen := 0, pendTop := 0
                    late := h.late.filter (fun q => !(handlerGroup h).contains q.fur) } ∧
      t = { s with herds := t.herds, hbm := t.hbm, crews := t.crews, ocache := t.ocache, coreRegs := t.coreRegs } ∧
      t.coreReg h.core 0x106 = BitVec.ofNat 64 (min ((s.coreReg h.core 0x106).toNat + 1) (2 ^ 64 - 1))

/-- R360, R413, R414: a trap while one is in progress: a KIND 2 fault record of the second event, and the field is aborted with every
herd of it ended. That its type-3 completion record stands in the queue at the moment of the abort is the model's choice (log entry 30). -/
def Obligations.DoubleTrapAbortsTheField : Prop :=
  ∀ (s : State) (h : Herd) (i : TrapInfo) (f : FieldRec),
    s.herd? h.key = some h → h.handler ≠ none → h.resident = true → h.stored = false →
    s.field? h.key.crew.part h.key.crew.field = some f → f.aborted = false →
    ∃ t r, run s (takeTrap s h i) = t ∧ t.faults = s.faults ++ [r] ∧ r.part = h.key.crew.part ∧ r.kind = 2 ∧
      r.cls = i.cls ∧ r.cause = i.cause ∧ r.lane = i.lane ∧ r.core = h.core ∧ r.slot = h.slot ∧
      r.field = h.key.crew.field ∧ r.addr = BitVec.ofNat 64 (saveArea s h) ∧
      (∃ g, t.field? h.key.crew.part h.key.crew.field = some g ∧ g.aborted = true) ∧
      (∃ c ∈ t.comps, c.typ = 3 ∧ c.part = h.key.crew.part ∧ c.field = h.key.crew.field) ∧
      (∀ k g, t.herd? k = some g → k.crew.part = h.key.crew.part → k.crew.field = h.key.crew.field → g.ended = true)

/-- R158, R201, R217, R361: what `rft` restores when it acts: the level, s56 to s63, and the furrows; PROG is cleared. The status of a
`board` whose wait ended meanwhile is written, unless a word issued after it has written the register. The registers of a lane
that an edited record brings back into a path are free values (log entry 80). -/
def Obligations.ReturnFromTrapRestores : Prop :=
  ∀ (s : State) (w : Issuer) (h : Herd) (hd : Header) (x : FS) (hg : BitVec 8) (fs : List Furrow),
    Issues s w h → PlainHeader h hd false → x = { d := 0, a := 0, sel := 0, x := 0 } → activeLanes h w.f hd ≠ [] →
    h.sup = true → h.handler = some hg → rftOk s h (h.group w.f) hg = true → h.pend = [] → patience s h ≠ 0 →
    fs = h.idxs.map (rftFurrow h s.hbm (saveArea s h) hg (s.hbm.byte (saveArea s h + 1)) (BitVec.ofNat 64 (s.hbm.num (saveArea s h + 0x10) 8))) →
    (∃ j < h.furrows.length, h.live j = true ∧ hg.getLsbD j = true ∧
      (readRec s.hbm (saveArea s h + 0x400 + 512 * j)).st = 1) →
    ∃ t h', exec (.rft hd x) s = .next t ∧ WordDone s t w h h' ∧
      h'.handler = none ∧ h'.sup = (s.hbm.byte (saveArea s h)).getLsbD 6 ∧
      ((∀ j, (h.fur j).resolved = none) → ∀ n < 64, h'.sreg n =
        if 56 ≤ n then BitVec.ofNat 64 (s.hbm.num (saveArea s h + 0x40 + 8 * (n - 56)) 8) else h.sreg n) ∧
      (∀ j, { h'.fur j with grp := 0 } = { fs.getD j (h.fur j) with grp := 0 }) ∧
      (∀ a, t.hbm.byte a = if a = saveArea s h then s.hbm.byte a &&& 0x7F#8 else s.hbm.byte a) ∧
      (∀ n l, l < 64 → l ∉ rejoined h fs → h'.vreg n l = h.vreg n l) ∧
      (∀ n l i, l < 64 → i < 8 → l ∉ rejoined h fs → h'.datom n l i = h.datom n l i) ∧
      (∀ j c n x, (h.fur j).st = .held → (h.fur j).resolved = some { completed := c, wr := some (n, x), bad := none } →
        (∀ i, i ≠ j → (h.fur i).resolved = none) → j < h.furrows.length → 0 < n → h.lateStands [j] n = true → h'.sreg n = x) ∧
      (∀ j c n x, (h.fur j).st = .held → (h.fur j).resolved = some { completed := c, wr := some (n, x), bad := none } →
        (∀ i, i ≠ j → (h.fur i).resolved = none) → n < 56 → h.lateStands [j] n = false → h'.sreg n = h.sreg n) ∧
      ((∀ j, (h.fur j).resolved = none) → h'.late = h.late) ∧
      h' = { h with s := h'.s, v := h'.v, d := h'.d, furrows := h'.furrows, sup := h'.sup, handler := none, late := h'.late } ∧
      (rejoined h fs = [] → h'.v = h.v ∧ h'.d = h.d ∧ t.freeCtr = s.freeCtr) ∧
      t = { s with herds := t.herds, hbm := t.hbm, crews := t.crews, ocache := t.ocache, coreRegs := t.coreRegs, freeCtr := t.freeCtr }

/-- R143, R217, R219, R221, R252, R309, R328, R384: the privileged words at user level trap with cause 8. -/
def Obligations.PrivilegedWordsTrapAtUserLevel : Prop :=
  ∀ (s : State) (w : Issuer) (h : Herd) (hd : Header), Issues s w h → UserWord h hd w →
    (∀ x : FS, FsZero x false false true → x.d.toNat < 64 → x.a.toNat < 64 →
      exec (.dqk hd x) s = .next (trapped s h (trapAtWord w h 0 8)))
    ∧ (∀ x : FS, x.a = 0#8 → x.sel = 0#16 → x.x.toNat < 2 → x.d.toNat < 64 →
      exec (.dqkAll hd x) s = .next (trapped s h (trapAtWord w h 0 8)))
    ∧ (∀ x : FS, FsZero x true true true → exec (.rft hd x) s = .next (trapped s h (trapAtWord w h 0 8)))
    ∧ (∀ x : FS, FsZero x true false false → x.sel.toNat < 3 → x.a.toNat < 64 →
      exec (.tlbiPage hd x) s = .next (trapped s h (trapAtWord w h 0 8)) ∧
      exec (.tlbiPid hd x) s = .next (trapped s h (trapAtWord w h 0 8)))
    ∧ (∀ x : FS, FsZero x true true false → x.sel.toNat < 3 →
      exec (.tlbiAll hd x) s = .next (trapped s h (trapAtWord w h 0 8)))
    ∧ (∀ x : FS, FsZero x false true false → x.d.toNat < 64 → supervisorReg x.sel.toNat →
      exec (.sget hd x) s = .next (trapped s h (trapAtWord w h 0 8)))
    ∧ (∀ x : FS, FsZero x true false false → x.a.toNat < 64 → supervisorReg x.sel.toNat →
      (x.sel = 0x083#16 → droopBad (h.sreg x.a.toNat) = false) →
      exec (.sset hd x) s = .next (trapped s h (trapAtWord w h 0 8)))
    ∧ (∀ x : FE, x.d.toNat < 64 → x.sb = 0#6 → x.sf = 0#6 → x.x = 0#14 →
      exec (.rpace hd x) s = .next (trapped s h (trapAtWord w h 0 8)) ∧
      exec (.rinst hd x) s = .next (trapped s h (trapAtWord w h 0 8)))
    ∧ (∀ x : FE, x.d.toNat < 64 → x.sf = 0#6 → x.x = 0#14 →
      exec (.tseg hd x) s = .next (trapped s h (trapAtWord w h 0 8)))

/-- R136 step 1: a vector predicate register beyond the allocation traps with cause 3, whatever the word. -/
def Sys2Proof.PredicateBeyondAllocationTraps : Prop :=
  ∀ (s : State) (w : Issuer) (h : Herd) (i : Instr) (hd : Header),
    i.header = some hd → Issues s w h → hd.pe = true → hd.pk = false → h.nregs ≤ hd.pr.toNat →
    h.lanesOf (h.group w.f) ≠ [] → TrapFree h (furMask (h.group w.f)) →
    exec i s = .next (trapped s h (trapAtWord w h 0 3))

/-- R136 step 2: with no active lane every word but `head` is a no-op, which counts nothing. -/
def Sys2Proof.NoActiveLaneIsANoOp : Prop :=
  ∀ (s : State) (w : Issuer) (h : Herd) (i : Instr) (hd : Header),
    i.header = some hd → (∀ x, i ≠ .head hd x) → Issues s w h → activeLanes h w.f hd = [] →
    (hd.pe = true → hd.pk = false → hd.pr.toNat < h.nregs) →
    ∃ t h', exec i s = .next t ∧ t = { s with herds := t.herds } ∧ OneHerd s t w.key h' ∧ FurrowsOnly h h' ∧ Advanced h h' w.f

/-- R137, R140: a word of an unassigned opcode traps with cause 1 when a lane is active. -/
def Sys2Proof.UnassignedOpcodeTraps : Prop :=
  ∀ (s : State) (w : Issuer) (h : Herd) (u : Word),
    Issues s w h → activeLanes h w.f (hdrOf u) ≠ [] → TrapFree h (furMask (h.group w.f)) →
    ((hdrOf u).pe = true → (hdrOf u).pk = false → (hdrOf u).pr.toNat < h.nregs) →
    exec (.unassignedOpcode u) s = .next (trapped s h (trapAtWord w h 0 1))

/-- R87, R356: a group whose turn of the cycle has gone, since a group above it has issued while a trap pends, completes no word: its word
meets a *before* trap, which may be taken, or the pending trap is taken and the word issues again after the handler. That its turn may come after
that of the group above it is the model's (log entry 70). -/
def Sys2Proof.LateGroupsOnlyTrap : Prop :=
  ∀ (s : State) (w : Issuer) (h : Herd) (i : Instr) (hd : Header),
    i.header = some hd → s.issuer = some w → s.herd? w.key = some h → h.canIssue w.f = true → h.lateTurn w.f = true →
    (exec i s = .next (run s (takePending w.key s)) ∨
      ∃ q pre, exec i s = .next (run s ((issueCtx w h hd).finish s (.trap q pre))))
    ∧ (hd.pe = true → hd.pk = false → h.nregs ≤ hd.pr.toNat → h.lanesOf (h.group w.f) ≠ [] → TrapFree h (furMask (h.group w.f)) →
      exec i s = .next (trapped s h (trapAtWord w h 0 3)))
    ∧ ((∀ x, i ≠ .head hd x) → activeLanes h w.f hd = [] → (hd.pe = true → hd.pk = false → hd.pr.toNat < h.nregs) →
      exec i s = .next (run s (takePending w.key s)))

/-- R136, R140: the first steps of every issue, and the unassigned opcodes; what a group does whose turn has gone (log entry 70). The
count of a trapped word is that of log entry 10. -/
def Obligations.IssueFollowsItsOrder : Prop :=
  Sys2Proof.PredicateBeyondAllocationTraps ∧ Sys2Proof.NoActiveLaneIsANoOp ∧ Sys2Proof.UnassignedOpcodeTraps ∧ Sys2Proof.LateGroupsOnlyTrap

/-- R218, R219: `sget`: the herd's own registers, the furrow's counts, the core's and the partition's registers. The reads of
the clocks, and of a cycle counter while what it counts goes on, are free values (assumption 11); they advance what is held. -/
def Sys2Proof.SystemRegisterReadsComplete : Prop :=
  ∀ (s : State) (w : Issuer) (h : Herd) (hd : Header) (x : FS),
    Issues s w h → PlainHeader h hd false → x.d.toNat < 64 → x.a = 0#8 → x.x = 0#8 → activeLanes h w.f hd ≠ [] →
    ((x.sel = 0x000#16 ∨ x.sel = 0x001#16 ∨ counterRuns s h.core x.sel.toNat = true) →
      ∃ t h' v, exec (.sget hd x) s = .next t ∧ t.herd? w.key = some h' ∧ SregWritten h h' w.f x.d.toNat v ∧
        t = { s with herds := t.herds, coreRegs := t.coreRegs, time := t.time, freeCtr := t.freeCtr } ∧
        s.freeCtr < t.freeCtr ∧
        (x.sel = 0x001#16 → ∃ k, v = t.time + BitVec.ofNat 64 (k % 32)) ∧
        (x.sel ≠ 0x001#16 → v = t.coreReg h.core x.sel.toNat ∧ t.time = s.time) ∧
        (x.sel ≠ 0x000#16 → x.sel ≠ 0x001#16 →
          ∃ k, v = BitVec.ofNat 64 (min ((s.coreReg h.core x.sel.toNat).toNat + k) (2 ^ 64 - 1))))
    ∧ (∀ v, (sysAccess x.sel.toNat).isSome = true → ¬ (h.sup = false ∧ supervisorReg x.sel.toNat) →
      x.sel ≠ 0x000#16 → x.sel ≠ 0x001#16 → counterRuns s h.core x.sel.toNat = false →
      v = (if x.sel = 0x040#16 then BitVec.ofNat 64 (min ((s.coreReg h.core 0x040).toNat + 1) (2 ^ 64 - 1))
        else if isCoreReg x.sel.toNat then s.coreReg h.core x.sel.toNat
        else if isPartReg x.sel.toNat then s.partReg w.key.crew.part x.sel.toNat
        else computedReg (issueCtx w h hd) s x.sel.toNat) →
      ∃ t h', exec (.sget hd x) s = .next t ∧ OnlyHerd s t w h h' ∧ SregWritten h h' w.f x.d.toNat v)

/-- R85, R218 to R220, R405, R407: `sset`: reserved bits are dropped, and nothing but the register and the furrows changes; a patience
of 0 passes standing groups, so the frame of that write is left to R46. What is written to sys.ctissue stands over the count of the
`sset` itself (log entry 90), and before sys.droop changes, sys.ctdroop gains what it may have counted (log entry 91). -/
def Sys2Proof.SystemRegisterWritesComplete : Prop :=
  ∀ (s : State) (w : Issuer) (h : Herd) (hd : Header) (x : FS),
    Issues s w h → PlainHeader h hd false → x.d = 0#8 → x.a.toNat < 64 → x.x = 0#8 → activeLanes h w.f hd ≠ [] →
    ((x.sel = 0x020#16 ∨ x.sel = 0x021#16 ∨ x.sel = 0x022#16 ∨ x.sel = 0x023#16) →
      ∃ t h', exec (.sset hd x) s = .next t ∧ OnlyHerd s t w h h' ∧ Advanced h h' w.f ∧
        h' = { h with furrows := h'.furrows
                      cvsat := if x.sel = 0x020#16 then (h.sreg x.a.toNat).extractLsb' 0 32 else h.cvsat
                      cvflush := if x.sel = 0x021#16 then (h.sreg x.a.toNat).extractLsb' 0 32 else h.cvflush
                      cvnan := if x.sel = 0x022#16 then (h.sreg x.a.toNat).extractLsb' 0 32 else h.cvnan
                      cvlim := if x.sel = 0x023#16 then ((h.sreg x.a.toNat).extractLsb' 0 35).setWidth 64 else h.cvlim })
    ∧ (h.sup = true → isPartReg x.sel.toNat = true → x.sel ≠ 0x0D2#16 →
      ∃ t h', exec (.sset hd x) s = .next t ∧ OnlyHerd s { t with partRegs := s.partRegs } w h h' ∧ FurrowsOnly h h' ∧
        Advanced h h' w.f ∧
        t.partReg w.key.crew.part x.sel.toNat = h.sreg x.a.toNat &&& keptBits x.sel.toNat ∧
        ∀ n, n ≠ 4096 * w.key.crew.part + x.sel.toNat → Sparse.get partReset t.partRegs n = Sparse.get partReset s.partRegs n)
    ∧ (h.sup = true → isCoreReg x.sel.toNat = true →
      (x.sel = 0x083#16 → droopBad (h.sreg x.a.toNat) = false) →
      (x.sel = 0x080#16 → fld (h.sreg x.a.toNat) 15 0 ≠ 0 ∧ ∀ g ∈ s.herds, Passed g) →
      ∃ t h', exec (.sset hd x) s = .next t ∧ t.herd? w.key = some h' ∧ FurrowsOnly h h' ∧ Advanced h h' w.f ∧
        (∀ k, k ≠ w.key → t.herd? k = s.herd? k) ∧
        t = { s with herds := t.herds, coreRegs := t.coreRegs
                     freeCtr := if x.sel = 0x083#16 ∧ droopMay (s.coreReg h.core 0x083) = true then s.freeCtr + 1 else s.freeCtr } ∧
        t.coreReg h.core x.sel.toNat = h.sreg x.a.toNat &&& keptBits x.sel.toNat ∧
        (x.sel = 0x083#16 → ∃ n, t.coreReg h.core 0x041 = BitVec.ofNat 64 (min ((s.coreReg h.core 0x041).toNat + n) (2 ^ 64 - 1)) ∧
          (droopMay (s.coreReg h.core 0x083) = false → n = 0)) ∧
        ∀ n, n ≠ 4096 * h.core + x.sel.toNat → n ≠ 4096 * h.core + 0x040 → (x.sel = 0x083#16 → n ≠ 4096 * h.core + 0x041) →
          Sparse.get coreReset t.coreRegs n = Sparse.get coreReset s.coreRegs n)
    ∧ (h.sup = true → x.sel = 0x080#16 → fld (h.sreg x.a.toNat) 15 0 = 0 →
      ∃ t, exec (.sset hd x) s = .next t ∧ t.coreReg h.core 0x080 = 0#64)

/-- R218 to R220, R332, R405: `sget` and `sset`. What `sset` counts and gains first (log entries 90 and 91), and what sys.rgen reads as
without a timetable (log entry 88), are the model's choices. -/
def Obligations.SystemRegisterWordsComplete : Prop := Sys2Proof.SystemRegisterReadsComplete ∧ Sys2Proof.SystemRegisterWritesComplete

/-- R221: `dqk` and `dqk.all` write every word of the objects back, and no other byte of memory changes. -/
def Obligations.DequickeningRestoresObjects : Prop :=
  ∀ (s : State) (w : Issuer) (h : Herd) (hd : Header) (x : FS),
    Issues s w h → PlainHeader h hd false → x.d.toNat < 64 → x.sel = 0#16 → activeLanes h w.f hd ≠ [] → h.sup = true →
    (∀ o ∈ s.objs, x.a.toNat < 64 → x.x = 0#8 →
      s.objs.find? (fun o => decide (o.part = w.key.crew.part) && decide (o.va = h.sreg x.a.toNat)) = some o →
      ∃ t h', exec (.dqk hd x) s = .next t ∧ WordDone s t w h h' ∧ SregWritten h h' w.f x.d.toNat 0#64 ∧
        t.hbm = putAll s.hbm (objectBytes o) ∧
        t = { s with herds := t.herds, coreRegs := t.coreRegs, hbm := t.hbm, crews := t.crews, ocache := t.ocache })
    ∧ (x.a.toNat < 64 → x.x = 0#8 → (∀ o ∈ s.objs, ¬ (o.part = w.key.crew.part ∧ o.va = h.sreg x.a.toNat)) →
      ∃ t h', exec (.dqk hd x) s = .next t ∧ OnlyHerd s t w h h' ∧ SregWritten h h' w.f x.d.toNat 1#64)
    ∧ (x.a = 0#8 → x.x.toNat < 2 →
      ∃ t h', exec (.dqkAll hd x) s = .next t ∧ WordDone s t w h h' ∧ SregWritten h h' w.f x.d.toNat 0#64 ∧
        t.hbm = putAll s.hbm ((s.objs.filter (fun o => decide (o.part = w.key.crew.part))).flatMap objectBytes) ∧
        t = { s with herds := t.herds, coreRegs := t.coreRegs, hbm := t.hbm, crews := t.crews, ocache := t.ocache })

/-- R60, R205, R368: a phase of a herd's barrier has completed: a member that had signalled has passed, one that waited is idle,
and the phase counts one more. -/
def Sys2Proof.PhaseDone (s t : State) (w : Issuer) (h : Herd) (lv idx : Nat) : Prop :=
  (∀ m ∈ otherMembers s w h lv, s.herd? m.key = some m → ∃ m', t.herd? m.key = some m' ∧
    m'.barSt lv idx = if m.barSt lv idx = .signalled then .passed else .idle) ∧
  ∀ f g, s.field? h.key.crew.part h.key.crew.field = some f → t.field? h.key.crew.part h.key.crew.field = some g →
    g.phase (barScope s h lv) lv idx = f.phase (barScope s h lv) lv idx + 1

/-- R57, R59 to R61, R63, R204 to R207: `barw` and `bars`: an arrival that does not complete the phase, the one that does, the
collection of a signalled or passed phase, and misuse: by a herd that is not ganged, of an index that the field does not
declare, and in a state that R205 does not let the word act in. -/
def Obligations.BarriersArriveWaitAndComplete : Prop :=
  ∀ (s : State) (w : Issuer) (h : Herd) (hd : Header) (x : FS) (lv idx : Nat),
    Issues s w h → BarFields w h hd x → lv = barLv x → idx = barIdx x →
    (BarAllowed s h lv idx → (∃ m ∈ otherMembers s w h lv, ¬ arrived m lv idx) →
      ((h.barSt lv idx = .idle ∨ (h.barSt lv idx = .passed ∧ barWt x = false)) →
        ∃ t h', exec (.barw hd x) s = .next t ∧ OnlyHerd s { t with nextOrder := s.nextOrder } w h h' ∧
          BarChanged h h' lv idx .waiting ∧ WaitsAt s t h h' w.f lv idx)
      ∧ ((h.barSt lv idx = .idle ∨ h.barSt lv idx = .passed) → barWt x = false →
        ∃ t h', exec (.bars hd x) s = .next t ∧ OnlyHerd s t w h h' ∧ BarChanged h h' lv idx .signalled ∧
          Advanced h h' w.f ∧ h' = { h with bars := h'.bars, furrows := h'.furrows }))
    ∧ (BarAllowed s h lv idx → (s.herds.map (fun h => h.key)).Nodup → (∀ m ∈ otherMembers s w h lv, arrived m lv idx) →
      (h.handler = none → (h.barSt lv idx = .idle ∨ (h.barSt lv idx = .passed ∧ barWt x = false)) →
        ∃ t h', exec (.barw hd x) s = .next t ∧ t.herd? w.key = some h' ∧ BarChanged h h' lv idx .idle ∧
          (∀ j, h'.fur j = if j ∈ h.group w.f then { h.fur j with pc := (h.fur j).pc + 8#64, st := .running } else h.fur j) ∧
          h' = { h with bars := h'.bars, furrows := h'.furrows, waitAt := s.nextOrder } ∧ PhaseDone s t w h lv idx)
      ∧ ((h.barSt lv idx = .idle ∨ h.barSt lv idx = .passed) → barWt x = false →
        ∃ t h', exec (.bars hd x) s = .next t ∧ t.herd? w.key = some h' ∧ BarChanged h h' lv idx .passed ∧
          Advanced h h' w.f ∧ h' = { h with bars := h'.bars, furrows := h'.furrows } ∧ PhaseDone s t w h lv idx))
    ∧ (BarAllowed s h lv idx → h.barSt lv idx = .signalled → barWt x = true →
      ∃ t h', exec (.barw hd x) s = .next t ∧ OnlyHerd s { t with nextOrder := s.nextOrder } w h h' ∧
        BarChanged h h' lv idx .waiting ∧ WaitsAt s t h h' w.f lv idx)
    ∧ (BarAllowed s h lv idx → h.barSt lv idx = .passed → barWt x = true →
      ∃ t h', exec (.barw hd x) s = .next t ∧ OnlyHerd s { t with l1 := s.l1 } w h h' ∧ BarChanged h h' lv idx .idle ∧
        Advanced h h' w.f ∧ (lv ≠ 0 → ∀ q ∈ t.l1, q.core ≠ h.core))
    ∧ (TrapFree h (furMask (h.group w.f)) →
      ((¬ BarAllowed s h lv idx ∨ h.barSt lv idx = .waiting ∨ (h.barSt lv idx = .signalled ∧ barWt x = false)) →
        exec (.barw hd x) s = .next (trapped s h (trapAtWord w h 12 0)))
      ∧ (barWt x = false → (¬ BarAllowed s h lv idx ∨ h.barSt lv idx = .waiting ∨ h.barSt lv idx = .signalled) →
        exec (.bars hd x) s = .next (trapped s h (trapAtWord w h 12 0))))

/-- R209: an acquire of scope acre or wider. -/
def Sys2Proof.acquires (x : FS) : Bool := x.sel.extractLsb' 4 2 ≠ 2 && 2 ≤ (x.sel.extractLsb' 0 3).toNat

/-- R210: an engine command of the issuing agent, which is the herd when it is ganged and else the group, has not retired. -/
def Sys2Proof.CommandsLeft (s : State) (w : Issuer) (h : Herd) : Prop :=
  (∃ q ∈ s.copies, q.key = w.key ∧ (h.ganged = true ∨ q.group &&& furMask (h.group w.f) ≠ 0#8)) ∨
    ∃ q ∈ s.cmds, q.key = w.key ∧ (h.ganged = true ∨ q.group &&& furMask (h.group w.f) ≠ 0#8)

/-- R260, R261: whether an agent other than the issuing one may lie within a fence's scope: a group of an eight-furrow herd has its herd's
other groups there, and a ganged herd its crew's other herds. -/
def Sys2Proof.OthersInScope (s : State) (h : Herd) (scope : Nat) : Prop :=
  h.ganged = false ∨ 2 ≤ scope ∨ (scope = 1 ∧ ∃ y ∈ s.herds, y.key.crew = h.key.crew ∧ y.key ≠ h.key ∧ y.ended = false)

/-- R259: a release that another agent may observe stands, from its turn on, between each of the agent's posted accesses and its later stores
(log entry 71). -/
def Sys2Proof.ReleaseStands (s t : State) (w : Issuer) (h : Herd) (x : FS) : Prop :=
  (x.sel.extractLsb' 4 2 = 2 → OthersInScope s h (x.sel.extractLsb' 0 3).toNat →
    t.posted = s.posted.map (fun p => if p.own h.key (furMask (h.group w.f)) then { p with fenced := true } else p))
  ∧ (¬ (x.sel.extractLsb' 4 2 = 2 ∧ OthersInScope s h (x.sel.extractLsb' 0 3).toNat) → t.posted = s.posted)

/-- R208 to R210, R388: `fence` completes, and an acquire of scope acre or wider discards the core's L1. With `.eng` it waits
while a command of the issuing agent has not retired, and writes the dirty blocks of the agent's tape streams. -/
def Sys2Proof.FencesIssue : Prop :=
  ∀ (s : State) (w : Issuer) (h : Herd) (hd : Header) (x : FS) (bl : List (Word × List Byte)),
    Issues s w h → PlainHeader h hd false → activeLanes h w.f hd ≠ [] → x.d = 0 → x.a = 0 → x.x = 0 →
    x.sel.extractLsb' 9 7 = 0 → x.sel.extractLsb' 6 2 = 0 → x.sel.extractLsb' 3 1 = 0 → x.sel.extractLsb' 4 2 ≠ 3 →
    (x.sel.extractLsb' 0 3).toNat < 6 → bl = dirtyBlocks (issueCtx w h hd).fencedTape →
    ((x.sel.getLsbD 8 = true → ¬ CommandsLeft s w h ∧ bl = []) →
      ∃ t h', exec (.fence hd x) s = .next t ∧ OnlyHerd s { t with l1 := s.l1, posted := s.posted } w h h' ∧ FurrowsOnly h h' ∧
        Advanced h h' w.f ∧ ReleaseStands s t w h x ∧ t.l1 = if acquires x then s.l1.filter (fun q => q.core ≠ h.core) else s.l1)
    ∧ (x.sel.getLsbD 8 = true → CommandsLeft s w h → exec (.fence hd x) s = .next s)
    ∧ (x.sel.getLsbD 8 = true → ¬ CommandsLeft s w h → bl ≠ [] → (∀ b ∈ bl, b.2.length ≤ 256 ∧ blockOwned s h.tape b.1 = false) →
      bl.Pairwise (fun a b => h.tape.pa a.1 + 256 ≤ h.tape.pa b.1 ∨ h.tape.pa b.1 + 256 ≤ h.tape.pa a.1) →
      ∃ t h', exec (.fence hd x) s = .next t ∧ WordDone s t w h h' ∧ Advanced h h' w.f ∧
        t = { s with herds := t.herds, coreRegs := t.coreRegs, hbm := t.hbm, hbmErr := t.hbmErr, crews := t.crews
                     ocache := t.ocache, l1 := t.l1, freeCtr := t.freeCtr, posted := t.posted } ∧ ReleaseStands s t w h x ∧
        (acquires x = true → ∀ q ∈ t.l1, q.core ≠ h.core) ∧
        h' = { h with furrows := h'.furrows, tape := (issueCtx w h hd).tapeAfterFence } ∧
        (∀ b ∈ bl, ∀ i < b.2.length, t.hbm.byte (h.tape.pa b.1 + i) = b.2.getD i 0#8) ∧
        ∀ p, (∀ b ∈ bl, p < h.tape.pa b.1 ∨ h.tape.pa b.1 + 256 ≤ p) → t.hbm.byte p = s.hbm.byte p)

/-- R207, R209, R210, R215, R253, R256, R257, R259, R264, R265, R413: what waits for a posted access `p` of its agent (log entry 71): an
access after it to the same word, a store behind a release fence that `p` stands before, a word that names a register `p` is to write, and,
at their turn, a full fence, one with `.eng`, an acquire where `p` is a load or an atomic, a release that does not issue on before it
completes, `exit`, and the words before whose effect every earlier access is performed. -/
def Sys2Proof.PostedAccessesAreAwaited : Prop :=
  (∀ (s : State) (i j : Nat) (p q : Posted), s.posted[i]? = some p → s.posted[j]? = some q → i < j → p.key = q.key →
    p.group &&& q.group ≠ 0#8 → (p.loc.meets p.size q.size q.loc = true ∨ (p.fenced = true ∧ q.writes = true)) →
    performWaits s j q = true)
  ∧ (∀ (s : State) (k : HerdKey) (g : BitVec 8) (core n : Nat) (write viaL1 : Bool) (l : Loc), ∀ p ∈ s.posted, p.key = k →
    p.group &&& g ≠ 0#8 → (p.loc.meets p.size n l = true ∨ (p.fenced = true ∧ write = true)) →
    locWaits s k g core n write viaL1 l = true)
  ∧ ∀ (s : State) (h : Herd) (f : Nat) (post : Bool) (word : Word), ∀ p ∈ s.posted, p.key = h.key →
    ((∃ r ∈ p.regs, ∃ n ∈ namedRegs word, n.1 ≤ r ∧ r < n.1 + n.2) → postedWaits s h f post word = true)
    ∧ (∀ hd x, decodeWord word = .exit hd x → postedWaits s h f post word = true)
    ∧ (p.group &&& furMask (h.group f) ≠ 0#8 →
      (∀ hd x, decodeWord word = .fence hd x →
        (x.sel.getLsbD 8 = true ∨ x.sel.extractLsb' 4 2 = 0 ∨ (x.sel.extractLsb' 4 2 = 2 ∧ post = false)
          ∨ (x.sel.extractLsb' 4 2 = 1 ∧ p.reads = true)) → postedWaits s h f post word = true)
      ∧ ((∃ r ∈ orderedOps, r.1 ≤ opOf word ∧ opOf word ≤ r.2) → postedWaits s h f post word = true))

/-- R208 to R210, R257, R259, R388: `fence`, and what waits for accesses that are posted. -/
def Obligations.FencesComplete : Prop := Sys2Proof.FencesIssue ∧ Sys2Proof.PostedAccessesAreAwaited

/-- R211 to R215, R411: `sow`: the card read writes its status; status 0 appends it to the queue under the partition's next
field id, and a full queue answers 1 to `.try` and else holds the group. A `sow` before which others stalled on the queue stand, `n` of
them, does not pass them (R214): a queue with room for them alone is full for it, and with more room it issues again behind them. The
place of a group of an eight-furrow herd is the model's choice (log entry 74). -/
def Sys2Proof.CardsArePosted : Prop :=
  ∀ (s : State) (w : Issuer) (h : Herd) (hd : Header) (x : FE) (acc : LaneAcc) (card0 card : Card) (core st n : Nat) (full : Bool),
    Issues s w h → PlainHeader h hd false → activeLanes h w.f hd ≠ [] → x.d.toNat < 64 → x.x.toNat < 4 →
    (x.x.getLsbD 1 = true → x.sb = 0#6) → (h.sreg x.sa.toNat).toNat % 64 = 0 → fld (h.sreg x.sa.toNat) 63 60 = 0 →
    acc = checkLane s h .load 64 (some 0) 255 (h.sreg x.sa.toNat) → acc.flt = none →
    locWaits s h.key (furMask (h.group w.f)) h.core 64 false true acc.loc = false → poisoned s h.core true acc.loc = false →
    card0 = cardOf (readLoc s h.core 64 true acc.loc) →
    card = (if x.sf = 0#6 then card0 else { card0 with w1 := h.sreg x.sf.toNat }) →
    core = (if x.x.getLsbD 1 then h.core else (h.sreg x.sb.toNat).toNat) →
    st = cardStatus s w.key.crew.part card0 core true (!h.sup) →
    n = sowsBefore s core card.prio (postRank h core card.prio (furMask (h.group w.f))) →
    full = decide (64 ≤ (seedQueue s core card.prio).length + n) →
    (st = 0 → full = false → n ≠ 0 → exec (.sow hd x) s = .next s)
    ∧ ((st = 0 → full = false → n = 0) → ∃ t h', exec (.sow hd x) s = .next t ∧ WordDone s t w h h' ∧
        t = { s with herds := t.herds, coreRegs := t.coreRegs, tlb := t.tlb, l1 := t.l1, freeCtr := t.freeCtr, crews := t.crews
                     counts := t.counts, fields := t.fields, seeds := t.seeds, ocache := t.ocache } ∧
        (st ≠ 0 → SregWritten h h' w.f x.d.toNat (BitVec.ofNat 64 st) ∧ t.seeds = s.seeds ∧ t.fields = s.fields ∧
          t.counts = s.counts) ∧
        (st = 0 → full = false → SregWritten h h' w.f x.d.toNat 0#64 ∧
          t.seeds = s.seeds ++ [{ core := core, prio := card.prio, part := w.key.crew.part
                                  field := (nextFieldId s w.key.crew.part).toNat }] ∧
          t.fields = s.fields ++ [{ part := w.key.crew.part, id := (nextFieldId s w.key.crew.part).toNat, card := card
                                    home := core, admitted := 0, ended := 0, aborted := false, phases := [] }]) ∧
        (st = 0 → full = true → x.x.getLsbD 0 = true → SregWritten h h' w.f x.d.toNat 1#64 ∧
          t.seeds = s.seeds ∧ t.fields = s.fields) ∧
        (st = 0 → full = true → x.x.getLsbD 0 = false →
          h' = { h with holds := h.holds ++ [{ group := furMask (h.group w.f), why := .sow card core x.d.toNat }] } ∧
          t.seeds = s.seeds ∧ t.fields = s.fields))

/-- R212: the card's address: a misaligned one, one outside global space, and one that a load of the herd cannot read. -/
def Sys2Proof.CardAddressesTrap : Prop :=
  ∀ (s : State) (w : Issuer) (h : Herd) (hd : Header) (x : FE) (a : Word) (acc : LaneAcc),
    Issues s w h → PlainHeader h hd false → activeLanes h w.f hd ≠ [] → x.d.toNat < 64 → x.x.toNat < 4 →
    (x.x.getLsbD 1 = true → x.sb = 0#6) → a = h.sreg x.sa.toNat → acc = checkLane s h .load 64 (some 0) 255 a →
    (TrapFree h (furMask (h.group w.f)) →
      (a.toNat % 64 ≠ 0 → exec (.sow hd x) s = .next (trapped s h { trapAtWord w h 1 0 with addr := a }))
      ∧ (a.toNat % 64 = 0 → fld a 63 60 ≠ 0 → exec (.sow hd x) s = .next (trapped s h { trapAtWord w h 2 2 with addr := a }))
      ∧ (∀ cls cause, a.toNat % 64 = 0 → fld a 63 60 = 0 → acc.flt = some (cls, cause) → cls ≠ 4 →
        ∃ t0, exec (.sow hd x) s = .next (run t0 (takeTrap t0 h { trapAtWord w h cls cause with addr := a })) ∧
          t0 = { counted s h with tlb := t0.tlb, freeCtr := t0.freeCtr })
      ∧ (a.toNat % 64 = 0 → fld a 63 60 = 0 → acc.flt = none →
        locWaits s h.key (furMask (h.group w.f)) h.core 64 false true acc.loc = false → poisoned s h.core true acc.loc = true →
        ∃ t0, exec (.sow hd x) s = .next (run t0 (takeTrap t0 h { trapAtWord w h 2 10 with addr := a })) ∧
          t0 = { counted s h with tlb := t0.tlb, freeCtr := t0.freeCtr }))
    ∧ (∀ cause, a.toNat % 64 = 0 → fld a 63 60 = 0 → acc.flt = some (4, cause) →
      ∃ t h', exec (.sow hd x) s = .next t ∧ ParksOn s t w.key h h' (h.group w.f) cause 255 a ∧
        t = { s with herds := t.herds, coreRegs := t.coreRegs, tlb := t.tlb, freeCtr := t.freeCtr, counts := t.counts
                     faults := t.faults, parked := t.parked, nextOrder := s.nextOrder + 1 })

/-- R211 to R215, R411: `sow`. -/
def Obligations.SowPostsCards : Prop := Sys2Proof.CardsArePosted ∧ Sys2Proof.CardAddressesTrap

/-- R102, R227, R229, R230, R269 to R279: a load whose lanes meet no fault. Performed at its turn, each active lane's registers hold what
its location holds, with the format that the site settles; memory does not change. With its accesses posted (R257; log entry 71) they
come last of those still to be performed: one for each aligned word of each lane, or of the lowest for all the lanes of a word with U. -/
def Sys2Proof.LoadsIssue : Prop :=
  ∀ (s : State) (w : Issuer) (h : Herd) (hd : Header) (nib : BitVec 4) (x : FM) (accs : List LaneAcc) (word : Word) (p : Plan),
    Issues s w h → MemHeader h hd nib.toNat x → x.d.toNat % regCount x.wid.toNat = 0 →
    x.d.toNat + regCount x.wid.toNat ≤ h.nregs → x.vo.toNat < h.nregs → activeLanes h w.f hd ≠ [] →
    accs = memAccs (issueCtx w h hd) s .load x → encode (.ld hd nib x) = some word →
    p = planOf (siteOf (.ld hd nib x) (issueCtx w h hd) true [x.vo.toNat] (memEa (issueCtx w h hd) x)) nib.toNat hd.u
      (accs.map (fun a => a.fmt)) →
    fmtRefused (siteOf (.ld hd nib x) (issueCtx w h hd) true [x.vo.toNat] (memEa (issueCtx w h hd) x)) x.wid.toNat
      (accs.map (fun a => a.fmt)) p = false →
    (PerformsNow s w accs → AccessesOk s w h (2 ^ x.wid.toNat) false true true accs →
      ∃ t h', exec (.ld hd nib x) s = .next t ∧ WordDone s t w h h' ∧
        t = { s with herds := t.herds, coreRegs := t.coreRegs, tlb := t.tlb, l1 := t.l1, freeCtr := t.freeCtr, crews := t.crews
                     ocache := t.ocache } ∧
        (∀ c a, tileByte t c a = tileByte s c a) ∧
        BlockWritten h h' w.f x.d.toNat (regCount x.wid.toNat) (activeLanes h w.f hd) (p.nib % 16)
          (fun j l => loadWord p.nib x.wid.toNat (laneBytes s h (2 ^ x.wid.toNat) accs p.uni l) j) (holdsOf w h p word))
    ∧ (AccessesPosted s w h (2 ^ x.wid.toNat) false true accs →
      ∃ t h', exec (.ld hd nib x) s = .next t ∧ WordPosted s t w h h'
        ((if p.uni then accs.take 1 else accs).flatMap (fun a => (List.range (regCount x.wid.toNat)).map (fun j =>
          postedOf w h (a.loc.shift (4 * j)) (min x.wid.toNat 2) (.load (x.d.toNat + j) p.nib)
            (if p.uni then activeLanes h w.f hd else [a.lane])))) (holdsOf w h p word))

/-- R227, R256, R257: a posted load is performed, once nothing before it waits: its lanes' register holds what its location holds then. -/
def Sys2Proof.PostedLoadsPerform : Prop :=
  ∀ (s : State) (i reg nib : Nat) (p : Posted) (h : Herd),
    s.posted[i]? = some p → p.op = .load reg nib → p.wid ≤ 2 → s.herd? p.key = some h → (∀ l ∈ p.lanes, l < 64) →
    (performWaits s i p = true → run s (outsideActs (.perform i) s) = s)
    ∧ (performWaits s i p = false → ∃ t h', run s (outsideActs (.perform i) s) = t ∧
      t = { s with herds := t.herds, l1 := t.l1, crews := t.crews, ocache := t.ocache, posted := s.posted.eraseIdx i } ∧
      (∀ c a, tileByte t c a = tileByte s c a) ∧ t.herd? p.key = some h' ∧ (∀ k, k ≠ p.key → t.herd? k = s.herd? k) ∧
      (∀ l ∈ p.lanes, h'.vreg reg l =
        loadWord nib p.wid (BitVec.ofNat 128 (leNat (readLoc s p.core (2 ^ p.wid) true p.loc))) 0) ∧
      (∀ n l, l < 64 → ¬ (n = reg ∧ l ∈ p.lanes) → h'.vreg n l = h.vreg n l) ∧
      (∀ n, h'.tagOf n = if n = reg then nib % 16 else h.tagOf n) ∧ h' = { h with v := h'.v, vtag := h'.vtag })

/-- R102, R227, R229, R230, R257, R269 to R279: the loads, at their turn and, posted, when they are performed. -/
def Obligations.LoadsComplete : Prop := Sys2Proof.LoadsIssue ∧ Sys2Proof.PostedLoadsPerform

/-- R102, R228 to R230, R269 to R279: a store whose lanes meet no fault. Performed at its turn, the bytes of the lanes' operands stand in
ascending lane order at the locations of their addresses, every other byte stands as before, and no register changes. With its accesses
posted (R257; log entry 71) they come last of those still to be performed, in that order, one for each aligned word of each lane. -/
def Sys2Proof.StoresIssue : Prop :=
  ∀ (s : State) (w : Issuer) (h : Herd) (hd : Header) (nib : BitVec 4) (x : FM) (accs : List LaneAcc) (word : Word)
    (srcs : List Nat) (p : Plan),
    Issues s w h → MemHeader h hd nib.toNat x → x.d.toNat % regCount x.wid.toNat = 0 →
    x.d.toNat + regCount x.wid.toNat ≤ h.nregs → x.vo.toNat < h.nregs → activeLanes h w.f hd ≠ [] →
    accs = memAccs (issueCtx w h hd) s .store x → encode (.st hd nib x) = some word →
    srcs = x.vo.toNat :: (List.range (regCount x.wid.toNat)).map (fun j => x.d.toNat + j) →
    p = planOf (siteOf (.st hd nib x) (issueCtx w h hd) true srcs (memEa (issueCtx w h hd) x)) nib.toNat hd.u
      (accs.map (fun a => a.fmt)) →
    fmtRefused (siteOf (.st hd nib x) (issueCtx w h hd) true srcs (memEa (issueCtx w h hd) x)) x.wid.toNat
      (accs.map (fun a => a.fmt)) p = false →
    (PerformsNow s w accs → AccessesOk s w h (2 ^ x.wid.toNat) true false false accs →
      ∃ t h', exec (.st hd nib x) s = .next t ∧ WordDone s t w h h' ∧
        t = { s with herds := t.herds, coreRegs := t.coreRegs, tlb := t.tlb, l1 := t.l1, freeCtr := t.freeCtr, crews := t.crews
                     ocache := t.ocache, hbm := t.hbm, hbmErr := t.hbmErr } ∧
        Stored s t (accs.map (fun a => (a.loc, leBytes (2 ^ x.wid.toNat) (operandOf h x.d.toNat x.wid.toNat a.lane).toNat))) ∧
        Advanced h h' w.f ∧ h' = { h with furrows := h'.furrows, holds := holdsOf w h p word })
    ∧ (AccessesPosted s w h (2 ^ x.wid.toNat) true false accs →
      ∃ t h', exec (.st hd nib x) s = .next t ∧ WordPosted s t w h h'
        ((if p.uni then accs.take 1 else accs).flatMap (fun a => (List.range (regCount x.wid.toNat)).map (fun j =>
          postedOf w h (a.loc.shift (4 * j)) (min x.wid.toNat 2)
            (.store (leBytes (2 ^ min x.wid.toNat 2) (operandOf h (x.d.toNat + j) (min x.wid.toNat 2) a.lane).toNat))
            (if p.uni then activeLanes h w.f hd else [a.lane])))) (holdsOf w h p word))

/-- R228, R256, R257: a posted store is performed, once nothing before it waits: its bytes stand at its location. -/
def Sys2Proof.PostedStoresPerform : Prop :=
  ∀ (s : State) (i : Nat) (p : Posted) (bs : List Byte), s.posted[i]? = some p → p.op = .store bs →
    (performWaits s i p = true → run s (outsideActs (.perform i) s) = s)
    ∧ (performWaits s i p = false → ∃ t, run s (outsideActs (.perform i) s) = t ∧ Stored s t [(p.loc, bs)] ∧
      t = { s with hbm := t.hbm, crews := t.crews, l1 := t.l1, ocache := t.ocache, posted := s.posted.eraseIdx i })

/-- R102, R228 to R230, R257, R269 to R279: the stores, at their turn and, posted, when they are performed. -/
def Obligations.StoresComplete : Prop := Sys2Proof.StoresIssue ∧ Sys2Proof.PostedStoresPerform

/-- R234, R235, R237, R238: the atomics and reductions whose lanes meet no fault. Performed at its turn, each lane in turn, ascending,
finds the word that the lanes before it left, and what it writes stands; a reduction returns nothing. Two names of one word are two
addresses (log entry 56), and a quickened word with U = 1 keeps it with one active lane alone (log entry 57). With its accesses posted
(R257; log entry 71), in that order, they come last of those still to be performed; those of an `acas` two lanes of which name one word
never are. -/
def Sys2Proof.AtomicsIssue : Prop :=
  ∀ e ∈ atomics, ∀ (s : State) (w : Issuer) (h : Herd) (hd : Header) (x : FM) (accs as : List LaneAcc) (word : Word) (p : Plan)
    (tr : List (LaneAcc × Lane × Bool × Lane)),
    Issues s w h → MemHeader h hd 0 x → x.wid = 2#3 → x.d.toNat % atomRegs e.2.1 = 0 →
    x.d.toNat + atomRegs e.2.1 ≤ h.nregs → x.vo.toNat < h.nregs → activeLanes h w.f hd ≠ [] →
    accs = memAccs (issueCtx w h hd) s .atomic x → encode (e.1 hd x) = some word →
    p = planOf (atomSite (e.1 hd x) (issueCtx w h hd) x) 0 hd.u [] →
    as = (if p.uni then accs.take 1 else accs) →
    tr = atomTrace e.2.1 (fixedSpace hd x) (h.vreg x.d.toNat) (h.vreg (x.d.toNat + 1))
      (fun l => BitVec.ofNat 32 (leNat (readLoc s h.core 4 false l))) [] as →
    (PerformsNow s w as ∨ (e.2.1 = .cas ∧ ¬ (as.map (fun a => a.loc.word)).Nodup) → AccessesOk s w h 4 true true false accs →
      ∃ t h', exec (e.1 hd x) s = .next t ∧ WordDone s t w h h' ∧
        t = { s with herds := t.herds, coreRegs := t.coreRegs, tlb := t.tlb, l1 := t.l1, freeCtr := t.freeCtr, crews := t.crews
                     ocache := t.ocache, hbm := t.hbm } ∧
        Stored s t ((tr.filter (fun r => r.2.2.1)).map (fun r => (r.1.loc, leBytes 4 r.2.2.2.toNat))) ∧
        (e.2.2 = false → Advanced h h' w.f ∧ h' = { h with furrows := h'.furrows, holds := holdsOf w h p word }) ∧
        (e.2.2 = true → e.2.1 ≠ .cas → LanesWritten h h' w.f x.d.toNat (activeLanes h w.f hd) (atomTag e.2.1)
          (fun l => (atomFound tr p.uni l).1) (holdsOf w h p word)) ∧
        (e.2.2 = true → e.2.1 = .cas →
          BlockWritten h { h' with vtag := Sparse.set zeros h'.vtag (x.d.toNat + 1) 0#4 } w.f x.d.toNat 2
            (activeLanes h w.f hd) 0 (fun j l => if j = 0 then (atomFound tr p.uni l).1
              else if (atomFound tr p.uni l).2 then 1#32 else 0#32) (holdsOf w h p word) ∧
          h'.tagOf (x.d.toNat + 1) = 2))
    ∧ (e.2.1 ≠ .cas ∨ (as.map (fun a => a.loc.word)).Nodup → AccessesPosted s w h 4 true false accs →
      ∃ t h', exec (e.1 hd x) s = .next t ∧ WordPosted s t w h h'
        (as.map (fun a => postedOf w h a.loc 2
          (.atomic e.2.1 (h.vreg x.d.toNat a.lane) (h.vreg (x.d.toNat + 1) a.lane) (if e.2.2 then some x.d.toNat else none))
          (if p.uni then activeLanes h w.f hd else [a.lane]))) (holdsOf w h p word))

/-- R234, R235, R237, R238, R256, R257: a posted atomic or reduction is performed, once nothing before it waits: it finds the word at its
location, and what it leaves stands there, unless it is an `acas` that finds another word than V[D]; what it returns goes to its lanes. -/
def Sys2Proof.PostedAtomicsPerform : Prop :=
  ∀ (s : State) (i : Nat) (p : Posted) (op : AtomOp) (x y old : Lane) (ret : Option Nat) (wins : Bool),
    s.posted[i]? = some p → p.op = .atomic op x y ret → (∀ l ∈ p.lanes, l < 64) →
    old = BitVec.ofNat 32 (leNat (readLoc s p.core 4 false p.loc)) → wins = (if op = .cas then decide (old = x) else true) →
    (performWaits s i p = true → run s (outsideActs (.perform i) s) = s)
    ∧ (performWaits s i p = false → ∃ t, run s (outsideActs (.perform i) s) = t ∧
      Stored s t (if wins then [(p.loc, leBytes 4 (if op = .cas then y else atomOp op old x).toNat)] else []) ∧
      t = { s with herds := t.herds, hbm := t.hbm, crews := t.crews, l1 := t.l1, ocache := t.ocache, posted := s.posted.eraseIdx i } ∧
      (∀ k, k ≠ p.key → t.herd? k = s.herd? k) ∧ (ret = none → t.herds = s.herds) ∧
      ∀ d h, ret = some d → s.herd? p.key = some h → ∃ h', t.herd? p.key = some h' ∧ h' = { h with v := h'.v, vtag := h'.vtag } ∧
        (∀ l ∈ p.lanes, h'.vreg d l = old ∧ (op = .cas → h'.vreg (d + 1) l = if wins then 1#32 else 0#32)) ∧
        (∀ n l, l < 64 → ¬ ((n = d ∨ (op = .cas ∧ n = d + 1)) ∧ l ∈ p.lanes) → h'.vreg n l = h.vreg n l) ∧
        ∀ n, h'.tagOf n = if n = d then atomTag op else if op = .cas ∧ n = d + 1 then 2 else h.tagOf n)

/-- R234, R235, R237, R238, R257: the atomics and reductions, at their turn and, posted, when they are performed. -/
def Obligations.AtomicsComplete : Prop := Sys2Proof.AtomicsIssue ∧ Sys2Proof.PostedAtomicsPerform

/-- R103: lane access `a` meets the one fault that an instruction takes: of the first class, at its lowest lane. -/
def Sys2Proof.TakesFault (accs : List LaneAcc) (a : LaneAcc) (cls cause : Nat) : Prop :=
  a ∈ accs ∧ a.flt = some (cls, cause) ∧ 1 ≤ cls ∧ cls ≤ 4 ∧
    ∀ b ∈ accs, ∀ q, b.flt = some q → 1 ≤ q.1 ∧ (cls < q.1 ∨ (cls = q.1 ∧ a.lane ≤ b.lane))

/-- R103, R120, R226, R271: a word whose lanes meet a fault traps with it, or parks its group on a page fault, before anything else
of it happens. -/
def Sys2Proof.FaultsOver (i : Instr) (s : State) (w : Issuer) (h : Herd) (accs : List LaneAcc) : Prop :=
  ∀ (a : LaneAcc) (cls cause : Nat), TakesFault accs a cls cause →
    (cls < 4 → TrapFree h (furMask (h.group w.f)) →
      ∃ t0, exec i s = .next (run t0 (takeTrap t0 h { trapAtWord w h cls cause with lane := a.lane, addr := a.addr })) ∧
        t0 = { counted s h with tlb := t0.tlb, freeCtr := t0.freeCtr })
    ∧ (cls = 4 → ∃ t h', exec i s = .next t ∧ ParksOn s t w.key h h' (h.group w.f) cause a.lane a.addr ∧
      t = { s with herds := t.herds, coreRegs := t.coreRegs, tlb := t.tlb, freeCtr := t.freeCtr, counts := t.counts
                   faults := t.faults, parked := t.parked, nextOrder := s.nextOrder + 1 })

/-- R232, R271: a word of which a lane's read meets an uncorrectable error traps at the lowest such lane. Nothing is written but what
its site has settled: the word that `p` gives, where memory still holds the one issued. -/
def Sys2Proof.PoisonTraps (i : Instr) (s : State) (w : Issuer) (h : Herd) (viaL1 : Bool) (did : List LaneAcc) (word : Word) (p : Plan) : Prop :=
  ∀ a, did.find? (fun a => poisoned s h.core viaL1 a.loc) = some a → TrapFree h (furMask (h.group w.f)) →
    (p.rw.isSome = true → lineOwned s w.pa 8 = false) →
    ∃ t0, exec i s = .next (run t0 (takeTrap t0 h { trapAtWord w h 2 10 with lane := a.lane, addr := a.addr })) ∧
      t0.herds = s.herds ∧
      (p.rw = none → t0 = { counted s h with tlb := t0.tlb, freeCtr := t0.freeCtr }) ∧
      (∀ r, p.rw = some r → t0 = { s with coreRegs := t0.coreRegs, tlb := t0.tlb, freeCtr := t0.freeCtr, hbm := t0.hbm
                                          crews := t0.crews, ocache := t0.ocache } ∧
        (∀ q, q < w.pa ∨ w.pa + 8 ≤ q → t0.hbm.byte q = s.hbm.byte q) ∧
        (s.hbm.num w.pa 8 = word.toNat → t0.hbm.num w.pa 8 = r.1.toNat) ∧
        (s.hbm.num w.pa 8 ≠ word.toNat → t0.hbm = s.hbm))

/-- R103, R118, R120, R226, R232: the faults of the loads and stores. -/
def Sys2Proof.LoadsAndStoresFault : Prop :=
  ∀ (s : State) (w : Issuer) (h : Herd) (hd : Header) (nib : BitVec 4) (x : FM) (accs : List LaneAcc),
    Issues s w h → MemHeader h hd nib.toNat x → x.d.toNat % regCount x.wid.toNat = 0 →
    x.d.toNat + regCount x.wid.toNat ≤ h.nregs → x.vo.toNat < h.nregs → activeLanes h w.f hd ≠ [] →
    (accs = memAccs (issueCtx w h hd) s .store x → FaultsOver (.st hd nib x) s w h accs) ∧
    (accs = memAccs (issueCtx w h hd) s .load x → FaultsOver (.ld hd nib x) s w h accs ∧
      ∀ (word : Word) (p : Plan), encode (.ld hd nib x) = some word → AccessesOk s w h (2 ^ x.wid.toNat) false false true accs →
        p = planOf (siteOf (.ld hd nib x) (issueCtx w h hd) true [x.vo.toNat] (memEa (issueCtx w h hd) x)) nib.toNat hd.u
          (accs.map (fun a => a.fmt)) →
        fmtRefused (siteOf (.ld hd nib x) (issueCtx w h hd) true [x.vo.toNat] (memEa (issueCtx w h hd) x)) x.wid.toNat
          (accs.map (fun a => a.fmt)) p = false →
        PoisonTraps (.ld hd nib x) s w h true (if p.uni then accs.take 1 else accs) word p)

/-- R103, R118, R120, R226, R232 to R238: the faults of the atomics and reductions. -/
def Sys2Proof.AtomicsFault : Prop :=
  ∀ e ∈ atomics, ∀ (s : State) (w : Issuer) (h : Herd) (hd : Header) (x : FM) (accs : List LaneAcc) (word : Word) (p : Plan),
    Issues s w h → MemHeader h hd 0 x → x.wid = 2#3 → x.d.toNat % atomRegs e.2.1 = 0 →
    x.d.toNat + atomRegs e.2.1 ≤ h.nregs → x.vo.toNat < h.nregs → activeLanes h w.f hd ≠ [] →
    accs = memAccs (issueCtx w h hd) s .atomic x →
    FaultsOver (e.1 hd x) s w h accs ∧
    (encode (e.1 hd x) = some word → p = planOf (atomSite (e.1 hd x) (issueCtx w h hd) x) 0 hd.u [] →
      AccessesOk s w h 4 true false false accs → PoisonTraps (e.1 hd x) s w h false (if p.uni then accs.take 1 else accs) word p)

/-- R103, R118, R120, R226, R232 to R238: the faults of the loads, the stores, the atomics and the reductions over their lanes: classes
1 to 3 trap, a page fault parks the group, and a read that meets an uncorrectable error traps with cause 10. -/
def Obligations.MemoryFaultsTrap : Prop := Sys2Proof.LoadsAndStoresFault ∧ Sys2Proof.AtomicsFault

/-- R249 to R252, R258: prefetch and maintenance change no byte of memory and no register. -/
def Obligations.MaintenanceCompletes : Prop :=
  (∀ (s : State) (w : Issuer) (h : Herd) (hd : Header) (x : FM),
    Issues s w h → PlainHeader h hd false → MaintOk h x → activeLanes h w.f hd ≠ [] →
    (∃ t h', exec (.pf hd x) s = .next t ∧ OnlyHerd s { t with tlb := s.tlb, l1 := s.l1, freeCtr := s.freeCtr } w h h' ∧
      FurrowsOnly h h' ∧ Advanced h h' w.f ∧
      ∀ q ∈ t.l1, q ∈ s.l1 ∨ (q.core = h.core ∧ q.data = s.hbm.bytes (64 * q.sec) 64))
    ∧ (∃ t h', exec (.cinv hd x) s = .next t ∧ OnlyHerd s { t with tlb := s.tlb, l1 := s.l1, freeCtr := s.freeCtr } w h h' ∧
      FurrowsOnly h h' ∧ Advanced h h' w.f ∧ (∀ q ∈ t.l1, q ∈ s.l1) ∧
      ∀ a ∈ maintAccs (issueCtx w h hd) s x 1, ∀ pa, a.flt = none → a.loc = .mem pa →
        ∀ q ∈ t.l1, ¬ (q.core = h.core ∧ q.sec = pa / 64))
    ∧ ((∀ a ∈ maintAccs (issueCtx w h hd) s x (2 ^ x.wid.toNat), a.flt = none) →
      ∃ t h', exec (.cwb hd x) s = .next t ∧ OnlyHerd s { t with tlb := s.tlb, freeCtr := s.freeCtr } w h h' ∧
        FurrowsOnly h h' ∧ Advanced h h' w.f))
  ∧ (∀ (s : State) (w : Issuer) (h : Herd) (hd : Header) (x : FS),
    Issues s w h → PlainHeader h hd false → x.d = 0#8 → x.sel.toNat < 3 → x.x = 0#8 → h.sup = true →
    activeLanes h w.f hd ≠ [] →
    (x.a.toNat < 64 → ∃ t h', exec (.tlbiPage hd x) s = .next t ∧ OnlyHerd s { t with tlb := s.tlb } w h h' ∧
      FurrowsOnly h h' ∧ Advanced h h' w.f ∧ t.tlb = s.tlb.filter (fun e =>
        !(decide (e.part = w.key.crew.part) && decide (e.vpn = fld (h.sreg x.a.toNat) 47 0 / leafSize e.level))))
    ∧ (x.a = 0#8 → ∃ t h', exec (.tlbiAll hd x) s = .next t ∧ OnlyHerd s { t with tlb := s.tlb } w h h' ∧
      FurrowsOnly h h' ∧ Advanced h h' w.f ∧ t.tlb = s.tlb.filter (fun e => decide (e.part ≠ w.key.crew.part)))
    ∧ (x.a.toNat < 64 → ∃ t h', exec (.tlbiPid hd x) s = .next t ∧ OnlyHerd s { t with tlb := s.tlb } w h h' ∧
      FurrowsOnly h h' ∧ Advanced h h' w.f ∧ t.tlb = s.tlb.filter (fun e =>
        !(decide (e.part = w.key.crew.part) && decide (fld e.leaf 59 56 = fld (h.sreg x.a.toNat) 3 0)))))
  ∧ (∀ (s : State) (core sector : Nat), ∃ t, exec (.l1SectorEviction core sector) s = .next t ∧
    t = { s with l1 := t.l1 } ∧ t.l1 = s.l1.filter (fun q => decide (q.core ≠ core ∨ q.sec ≠ sector)))

/-- R241 to R243: `cpy` and `cpyg` whose checks find nothing take their ticket and start, or hold the group until they
can. -/
def Sys2Proof.CopiesIssue : Prop :=
  ∀ (s : State) (w : Issuer) (h : Herd) (hd : Header) (x : FE),
    Issues s w h → PlainHeader h hd false → x.d.toNat < 64 → x.x = 0#14 → activeLanes h w.f hd ≠ [] →
    (CopyOk s h (cpyReq h x) false → ∃ t h', exec (.cpy hd x) s = .next t ∧ CopyIssued s t w h h' (cpyReq h x))
    ∧ (x.sf.toNat % 2 = 0 → CopyOk s h (cpygReq h x) true →
      ∃ t h', exec (.cpyg hd x) s = .next t ∧ CopyIssued s t w h h' (cpygReq h x))

/-- R245: `cwait`: 3 for a ticket not yet issued, 0 or the latched error once every earlier copy has retired, 2 for a probe of
one that has not. -/
def Sys2Proof.CopyWaitsComplete : Prop :=
  ∀ (s : State) (w : Issuer) (h : Herd) (hd : Header) (x : FE) (k : Nat),
    Issues s w h → PlainHeader h hd false → x.d.toNat % 2 = 0 → x.d.toNat < 64 → x.sb = 0#6 → x.sf = 0#6 → x.x.toNat < 2 →
    activeLanes h w.f hd ≠ [] → k = (h.sreg x.sa.toNat).toNat →
    (h.copies.toNat < k ∨ (∀ y ∈ s.copies, y.key = w.key → k < y.ticket) ∨ x.x = 1#14) →
    ∃ t h' r0 r1, exec (.cwait hd x) s = .next t ∧ OnlyHerd s t w h h' ∧ Advanced h h' w.f ∧
      (x.d.toNat ≠ 0 → h'.sreg x.d.toNat = r0) ∧ h'.sreg (x.d.toNat + 1) = r1 ∧
      (∀ n, n ≠ x.d.toNat → n ≠ x.d.toNat + 1 → h'.sreg n = h.sreg n) ∧
      h' = { h with s := h'.s, latch := h'.latch, more := h'.more, furrows := h'.furrows
                    late := h.overrules [x.d.toNat, x.d.toNat + 1] } ∧
      (h.copies.toNat < k → r0 = 3#64 ∧ r1 = 0#64 ∧ h'.latch = h.latch ∧ h'.more = h.more) ∧
      (k ≤ h.copies.toNat → (∃ y ∈ s.copies, y.key = w.key ∧ y.ticket ≤ k) → r0 = 2#64 ∧ r1 = 0#64 ∧ h'.latch = h.latch) ∧
      (k ≤ h.copies.toNat → (∀ y ∈ s.copies, y.key = w.key → k < y.ticket) →
        (∀ q, h.latch = some q → q.ticket ≤ k →
          r0 = BitVec.ofNat 64 (1 + 2 ^ 8 * q.cause + 2 ^ 16 * h.more.toNat) ∧ r1 = q.addr ∧ h'.latch = none ∧ h'.more = 0) ∧
        ((∀ q, h.latch = some q → k < q.ticket) → r0 = 0#64 ∧ r1 = 0#64 ∧ h'.latch = h.latch ∧ h'.more = h.more))

/-- R116, R243: a held copy starts once it can: its checks were made at its issue (log entry 76), and its global destination is translated
now (log entry 95). -/
def Sys2Proof.HeldCopyStarts : Prop :=
  ∀ (s : State) (k : HerdKey) (f : Nat) (h : Herd) (x : Hold) (r : CopyReq),
    s.herd? k = some h → h.heldBy [f] = some x → x.why = .copy r → copyMayStart s { h with sup := r.sup } r = true →
    r.total ≠ 0 → h.furrows.length ≤ 8 → (∀ j ∈ bitsOf x.group 8, j < h.furrows.length) →
    ∃ t h', exec (.copyStart k f) s = .next t ∧ t.herd? k = some h' ∧ (∀ k', k' ≠ k → t.herd? k' = s.herd? k') ∧
      t = { s with herds := t.herds, copies := t.copies, tlb := t.tlb, freeCtr := t.freeCtr } ∧
      (fld r.dst 63 60 ≠ 0 → t.tlb = s.tlb ∧ t.freeCtr = s.freeCtr) ∧
      t.copies = s.copies ++ [{ key := k, group := x.group, ticket := (h.copies + 1#64).toNat, core := h.core, req := r
                                ents := copyEnts s h r, lines := copyLines s { h with sup := r.sup } r
                                pages := destPages s { h with sup := r.sup } r, got := [] }] ∧
      h'.sreg r.d = (if r.d = 0 then 0#64 else h.copies + 1#64) ∧ (∀ n, n ≠ r.d → h'.sreg n = h.sreg n) ∧
      (∀ j, h'.fur j = if j ∈ bitsOf x.group 8 then
        { h.fur j with pc := (h.fur ((bitsOf x.group 8).headD 0)).pc + 8#64 } else h.fur j) ∧
      h' = { h with s := h'.s, furrows := h'.furrows, copies := h.copies + 1#64, holds := h.holds.filter (fun y => decide (y ≠ x))
                    late := h.overrule r.d }

/-- R97, R99, R100, R101, R105, R242: the fault of one range of a copy of `n` bytes from its first to its last, after alignment. -/
def Sys2Proof.CopyRangesFault : Prop :=
  ∀ (s : State) (h : Herd) (a : Word) (n : Nat) (dst : Bool),
    (7 ≤ fld a 63 60 → rangeFault s h a n dst = some (2, 1))
    ∧ (∀ sp, fld a 63 60 = sp → sp < 7 → zeroFieldBad sp a = true → rangeFault s h a n dst = some (2, 2))
    ∧ (∀ sp, fld a 63 60 = sp → zeroFieldBad sp a = false →
      ((sp = 0 ∨ sp = 6) → 2 ^ 48 < fld a 47 0 + n → rangeFault s h a n dst = some (2, 2))
      ∧ (sp = 3 → rangeFault s h a n dst = some (2, 7))
      ∧ (sp = 4 → dst = true → rangeFault s h a n dst = some (2, 3))
      ∧ (sp = 4 → dst = false → (heldSlot s h.core (fld a 19 16) h.key.crew = none ∨ 65536 < fld a 15 0 + n) →
        rangeFault s h a n dst = some (2, 6))
      ∧ (sp = 2 → (∀ c, s.crew? { h.key.crew with crew := fld a 43 28 } = some c → crewOver s c = true ∨ acreOf c.core ≠ acreOf h.core) →
        rangeFault s h a n dst = some (2, 5))
      ∧ (∀ c, sp = 2 → acreTarget s h a = some c → c.tileLen < fld a 20 0 + n → rangeFault s h a n dst = some (3, 0))
      ∧ (∀ c, sp = 1 → s.crew? h.key.crew = some c →
        ((∃ v ∈ c.windows, overlaps v.tile v.len (fld a 20 0) n = true) → n ≠ 0 → rangeFault s h a n dst = some (2, 5))
        ∧ ((∀ v ∈ c.windows, overlaps v.tile v.len (fld a 20 0) n = false) → c.tileLen < fld a 20 0 + n →
          rangeFault s h a n dst = some (3, 0))
        ∧ ((∀ v ∈ c.windows, overlaps v.tile v.len (fld a 20 0) n = false) → fld a 20 0 + n ≤ c.tileLen →
          rangeFault s h a n dst = none)))

/-- R103, R240 to R242: the traps of `cpy` and `cpyg` at issue, which take no ticket: a misaligned address, a shape out of range, and
the fault of a range, that of the first class where both have one. Of a misaligned source and a shape out of range the source is
named (log entry 60), and of two faults of one class either may be taken (log entry 47). -/
def Sys2Proof.CopiesTrap : Prop :=
  ∀ (s : State) (w : Issuer) (h : Herd) (hd : Header) (x : FE) (g : Bool) (r : CopyReq) (i : Instr),
    Issues s w h → PlainHeader h hd false → x.d.toNat < 64 → x.x = 0#14 → activeLanes h w.f hd ≠ [] → (g = true → x.sf.toNat % 2 = 0) →
    r = (if g then cpygReq h x else cpyReq h x) → i = (if g then .cpyg hd x else .cpy hd x) → TrapFree h (furMask (h.group w.f)) →
    (r.dst.toNat % 4 ≠ 0 → exec i s = .next (trapped s h { trapAtWord w h 1 0 with addr := r.dst }))
    ∧ (r.dst.toNat % 4 = 0 → r.src.toNat % 4 ≠ 0 → exec i s = .next (trapped s h { trapAtWord w h 1 0 with addr := r.src }))
    ∧ (r.dst.toNat % 4 = 0 → r.src.toNat % 4 = 0 →
      (r.shapeOk g = false → exec i s = .next (trapped s h { trapAtWord w h 1 0 with addr := r.dst }))
      ∧ (∀ fd fs, r.shapeOk g = true → fd = rangeFault s h r.dst (rowSpan r.rows r.len r.dpitch) true →
        fs = rangeFault s h r.src (rowSpan r.rows r.len r.spitch) false →
        (∀ cls cause, fd = some (cls, cause) → (∀ q, fs = some q → cls < q.1) →
          exec i s = .next (trapped s h { trapAtWord w h cls cause with addr := r.dst }))
        ∧ (∀ cls cause, fs = some (cls, cause) → (∀ q, fd = some q → cls < q.1) →
          exec i s = .next (trapped s h { trapAtWord w h cls cause with addr := r.src }))
        ∧ (∀ cls cd cs, fd = some (cls, cd) → fs = some (cls, cs) →
          ∃ t0 q, exec i s = .next (run t0 (takeTrap t0 h q)) ∧ t0 = { counted s h with freeCtr := s.freeCtr + 1 } ∧
            (q = { trapAtWord w h cls cd with addr := r.dst } ∨ q = { trapAtWord w h cls cs with addr := r.src }))))

/-- R116, R240 to R245: copies up to their retirement, and their traps at issue. -/
def Obligations.CopiesStartAndAreAwaited : Prop :=
  Sys2Proof.CopiesIssue ∧ Sys2Proof.CopyWaitsComplete ∧ Sys2Proof.HeldCopyStarts ∧ Sys2Proof.CopiesTrap ∧ Sys2Proof.CopyRangesFault

/-- R116: a running copy may read source sectors before it retires, which ones a free value says (log entry 12): what it reads is kept for
its retirement, a sector's pieces are read at one moment and none twice, and nothing is written. -/
def Sys2Proof.CopiesReadAhead : Prop :=
  ∀ (s : State) (k : HerdKey) (n : Nat) (cp : Copy) (h g : Herd),
    s.copies.find? (fun x => decide (x.key = k) && decide (x.ticket = n)) = some cp → s.herd? k = some h →
    g = { h with core := cp.core, sup := cp.req.sup } →
    ∃ t got, run s (copyReadActs k n s) = t ∧
      t = { s with copies := t.copies, tlb := t.tlb, freeCtr := t.freeCtr, crews := t.crews, ocache := t.ocache } ∧
      t.copies = s.copies.map (fun y => if y = cp then { cp with got := cp.got ++ got } else y) ∧
      (∀ c, (t.crew? c).map (fun x => x.tile) = (s.crew? c).map (fun x => x.tile)) ∧
      (∀ c ∈ cp.req.chunks, ∀ d ∈ cp.req.chunks, (cp.req.src.toNat % 64 + c.so) / 64 = (cp.req.src.toNat % 64 + d.so) / 64 →
        (∃ r ∈ got, r.lin = c.lin) → (∀ q ∈ cp.got, q.lin ≠ d.lin) → ∃ r ∈ got, r.lin = d.lin) ∧
      ∀ r ∈ got, (∀ q ∈ cp.got, q.lin ≠ r.lin) ∧ ∃ c ∈ cp.req.chunks,
        r = readPiece s cp.core cp.req { bytes := [], failed := [] } c (srcLane s g (cp.req.src + BitVec.ofNat 64 c.so))

/-- R116, R121, R243, R244, R258: a copy retires: the pieces of every sector that met no error stand at the destination, no L1
is brought up to date, and the first error is latched; a herd that is saved has its latch written to its save area. The bytes
written are those of the pieces read before, and of the rest what the source holds when the copy retires. -/
def Sys2Proof.CopyRetires : Prop :=
  ∀ (s : State) (k : HerdKey) (n : Nat) (env : CopyEnv) (cp : Copy) (h : Herd) (named : Bool) (xs good : List ChunkRun)
    (e : Option (Nat × Word)),
    s.copies.find? (fun x => decide (x.key = k) && decide (x.ticket = n)) = some cp → s.herd? k = some h →
    named = namedOverlap { h with core := cp.core, sup := cp.req.sup } cp.req →
    xs = (if named then []
      else cp.req.chunks.map (chunkRun s { h with core := cp.core, sup := cp.req.sup } cp env)) →
    e = (if named then some (16, cp.req.dst) else firstError xs) → behindOwner s cp xs = false →
    good = xs.filter (fun x => !(xs.any (fun y => y.failed && decide (y.sector = x.sector)))) →
    ∃ t h', exec (.copyRetire k n env) s = .next t ∧ t.herd? k = some h' ∧ (∀ k', k' ≠ k → t.herd? k' = s.herd? k') ∧
      t.copies = s.copies.filter (fun y => decide (y ≠ cp)) ∧
      t = { s with herds := t.herds, copies := t.copies, hbm := t.hbm, hbmErr := t.hbmErr, crews := t.crews, ocache := t.ocache
                   tlb := t.tlb, freeCtr := t.freeCtr, slots := t.slots, hostMem := t.hostMem } ∧
      Stored s t (good.map (fun x => (x.dst.loc, x.data))
        ++ (if h.stored then [(.mem (h.saveAt + 0xA0), latchBytes h')] else [])) ∧
      (∀ a, t.hostMem.byte a = if fld cp.req.dst 63 60 = 6 then
        lastStore (good.map (fun x => (fld x.dst.addr 47 0, x.data))) a (s.hostMem.byte a) else s.hostMem.byte a) ∧
      h' = { h with latch := h'.latch, more := h'.more } ∧
      (e = none → h' = h) ∧
      (∀ c a, e = some (c, a) → h.latch = none → h'.latch = some { ticket := n, cause := c, addr := a } ∧ h'.more = h.more) ∧
      (∀ c a l, e = some (c, a) → h.latch = some l →
        h'.latch = some (if n < l.ticket then { ticket := n, cause := c, addr := a } else l) ∧
        h'.more.toNat = min (h.more.toNat + 1) 0xFFFF)

/-- R116, R121, R243, R244, R258: a copy reads its source sectors, each once, and retires. When it reads them (assumption 12), which byte an
error names (assumption 58), that ranges overlap row by row (assumption 93) and that a global destination lies where it lay at the start
(assumption 95) are the model's. -/
def Obligations.CopiesRetire : Prop := Sys2Proof.CopiesReadAhead ∧ Sys2Proof.CopyRetires

/-- R106 to R108, R246: `smap` whose checks find nothing maps a window with every sector unfilled. -/
def Sys2Proof.WindowsMap : Prop :=
  ∀ (s : State) (w : Issuer) (h : Herd) (hd : Header) (x : FE) (cr : Crew) (as : List LaneAcc),
    Issues s w h → PlainHeader h hd false → x.d.toNat < 64 → x.x = 0#14 → activeLanes h w.f hd ≠ [] →
    s.crew? w.key.crew = some cr → smapFault cr (h.sreg x.sa.toNat) (h.sreg x.sb.toNat) (h.sreg x.sf.toNat).toNat = none →
    mapWaits s cr.key (fld (h.sreg x.sa.toNat) 20 0) (h.sreg x.sf.toNat).toNat = false →
    as = pageAccs s h .map (h.sreg x.sb.toNat) (h.sreg x.sf.toNat).toNat → (∀ a ∈ as, a.flt = none) →
    ∃ t h' cr', exec (.smap hd x) s = .next t ∧ WordDone s t w h h' ∧
      SregWritten h h' w.f x.d.toNat (BitVec.ofNat 64 (freeWindow cr)) ∧
      t = { s with herds := t.herds, coreRegs := t.coreRegs, crews := t.crews, tlb := t.tlb, freeCtr := t.freeCtr } ∧
      t.crew? w.key.crew = some cr' ∧ (∀ c, c ≠ w.key.crew → t.crew? c = s.crew? c) ∧
      cr'.windows = cr.windows ++ [{ id := freeWindow cr, tile := fld (h.sreg x.sa.toNat) 20 0, va := h.sreg x.sb.toNat
                                     len := (h.sreg x.sf.toNat).toNat, pages := as.map pageBase, secs := [] }] ∧
      cr' = { cr with windows := cr'.windows }

/-- R108, R109, R247, R248: `sunmap` leaves the filled sectors' bytes in the tile store and zeros elsewhere in the window's
range; an id that no window has answers 1; a recalled sector is unfilled. -/
def Sys2Proof.WindowsUnmap : Prop :=
  (∀ (s : State) (w : Issuer) (h : Herd) (hd : Header) (x : FE) (cr : Crew),
    Issues s w h → PlainHeader h hd false → x.d.toNat < 64 → x.sb = 0#6 → x.sf = 0#6 → x.x = 0#14 →
    activeLanes h w.f hd ≠ [] → s.crew? w.key.crew = some cr →
    (∀ v, cr.windows.find? (fun v => decide (v.id = (h.sreg x.sa.toNat).toNat)) = some v → v.len % 64 = 0 →
      mapWaits s cr.key v.tile v.len = false →
      ∃ t h' cr', exec (.sunmap hd x) s = .next t ∧ WordDone s t w h h' ∧ SregWritten h h' w.f x.d.toNat 0#64 ∧
        t = { s with herds := t.herds, coreRegs := t.coreRegs, crews := t.crews, ocache := t.ocache } ∧
        t.crew? w.key.crew = some cr' ∧ (∀ c, c ≠ w.key.crew → t.crew? c = s.crew? c) ∧
        cr'.windows = cr.windows.filter (fun u => decide (u.id ≠ v.id)) ∧
        (∀ i < v.len, cr'.tile.byte (v.tile + i) = if v.secs.any (fun q => decide (q.1 = i / 64)) then
          s.hbm.byte (v.pa (64 * (i / 64)) + i % 64) else 0#8) ∧
        (∀ a, ¬ (v.tile ≤ a ∧ a < v.tile + v.len) → cr'.tile.byte a = cr.tile.byte a))
    ∧ ((∀ v ∈ cr.windows, v.id ≠ (h.sreg x.sa.toNat).toNat) →
      ∃ t h', exec (.sunmap hd x) s = .next t ∧ OnlyHerd s t w h h' ∧ SregWritten h h' w.f x.d.toNat 1#64))
  ∧ (∀ (s : State) (c : CrewKey) (i n : Nat) (cr : Crew), s.crew? c = some cr →
    ∃ t cr', exec (.windowSectorRecall c i n) s = .next t ∧ t = { s with crews := t.crews, ocache := t.ocache } ∧
      t.crew? c = some cr' ∧ (∀ c', c' ≠ c → t.crew? c' = s.crew? c') ∧
      cr'.windows = cr.windows.map (fun v =>
        if v.id = i then { v with secs := v.secs.filter (fun q => decide (q.1 ≠ n)) } else v) ∧
      cr' = { cr with windows := cr'.windows })

/-- R97, R104, R106, R246: what refuses an `smap` before its pages are translated: an address of another space or with a bit of a zero
field set, a range past the address space, a window that is misaligned or too long, a ninth one, one that overlaps another, and the
end of the tile store. -/
def Sys2Proof.WindowsAreRefused : Prop :=
  ∀ (cr : Crew) (t g : Word) (n : Nat),
    (7 ≤ fld t 63 60 → smapFault cr t g n = some (2, 1, t))
    ∧ (fld t 63 60 < 7 → (fld t 63 60 ≠ 1 ∨ fld t 59 21 ≠ 0) → smapFault cr t g n = some (2, 2, t))
    ∧ (fld t 63 60 = 1 → fld t 59 21 = 0 →
      (7 ≤ fld g 63 60 → smapFault cr t g n = some (2, 1, g))
      ∧ (fld g 63 60 < 7 → (fld g 63 60 ≠ 0 ∨ fld g 59 48 ≠ 0) → smapFault cr t g n = some (2, 2, g))
      ∧ (fld g 63 48 = 0 → 2 ^ 48 < fld g 47 0 + n → smapFault cr t g n = some (2, 2, g))
      ∧ (fld g 63 48 = 0 → fld g 47 0 + n ≤ 2 ^ 48 →
        ((t.toNat % 256 ≠ 0 ∨ g.toNat % 256 ≠ 0 ∨ n % 256 ≠ 0 ∨ 2 ^ 20 < n ∨ 8 ≤ cr.windows.length ∨
            ∃ v ∈ cr.windows, overlaps v.tile v.len (fld t 20 0) n = true) → smapFault cr t g n = some (2, 5, t))
        ∧ (t.toNat % 256 = 0 → g.toNat % 256 = 0 → n % 256 = 0 → n ≤ 2 ^ 20 → cr.windows.length < 8 →
          (∀ v ∈ cr.windows, overlaps v.tile v.len (fld t 20 0) n = false) →
          smapFault cr t g n = if cr.tileLen < fld t 20 0 + n then some (3, 0, t) else none)))

/-- R103, R118, R120, R246: the faults of `smap`, which maps nothing: what refuses it traps, and so does the lowest page that meets a
protection fault (a code page, or one without permission to write); a page that does not translate parks the group. -/
def Sys2Proof.WindowsFault : Prop :=
  ∀ (s : State) (w : Issuer) (h : Herd) (hd : Header) (x : FE) (cr : Crew) (t g : Word) (n : Nat),
    Issues s w h → PlainHeader h hd false → x.d.toNat < 64 → x.x = 0#14 → activeLanes h w.f hd ≠ [] →
    s.crew? w.key.crew = some cr → t = h.sreg x.sa.toNat → g = h.sreg x.sb.toNat → n = (h.sreg x.sf.toNat).toNat →
    (∀ cls cause a, smapFault cr t g n = some (cls, cause, a) → TrapFree h (furMask (h.group w.f)) →
      exec (.smap hd x) s = .next (trapped s h { trapAtWord w h cls cause with addr := a }))
    ∧ (∀ (pre post : List LaneAcc) (a : LaneAcc) (cls cause : Nat), smapFault cr t g n = none →
      mapWaits s cr.key (fld t 20 0) n = false → pageAccs s h .map g n = pre ++ a :: post → (∀ b ∈ pre, b.flt = none) →
      a.flt = some (cls, cause) →
      (cls ≠ 4 → TrapFree h (furMask (h.group w.f)) →
        ∃ t0, exec (.smap hd x) s = .next (run t0 (takeTrap t0 h { trapAtWord w h cls cause with addr := a.addr })) ∧
          t0 = { counted s h with tlb := t0.tlb, freeCtr := t0.freeCtr })
      ∧ (cls = 4 → ∃ u h', exec (.smap hd x) s = .next u ∧ ParksOn s u w.key h h' (h.group w.f) cause 255 a.addr ∧
        u = { s with herds := u.herds, coreRegs := u.coreRegs, tlb := u.tlb, freeCtr := u.freeCtr, counts := u.counts
                     faults := u.faults, parked := u.parked, nextOrder := s.nextOrder + 1 }))

/-- R104, R106 to R109, R246 to R248: stash windows, with their statuses and faults. That a window of length zero is accepted (log entry
68), and which address a refused `smap` names (log entry 86), are the model's choices. -/
def Obligations.WindowsMapAndUnmap : Prop :=
  Sys2Proof.WindowsMap ∧ Sys2Proof.WindowsUnmap ∧ Sys2Proof.WindowsAreRefused ∧ Sys2Proof.WindowsFault

/-- R287 to R290, R292, R297, R306: the matrix words enter their slice's queue; `mst`, `mabs` and `mrd` hold their group. -/
def Obligations.MatrixWordsQueue : Prop :=
  MxWord .mma (fun h x => ∀ u ∈ mmaUses h x, u.causes h = []) mmaCmd mmaFaults false
  ∧ MxWord .mzero (fun h x => x.d.toNat < h.nacc ∧ x.sa = 0#6 ∧ x.sb = 0#6 ∧ x.sf = 0#6 ∧ x.x = 0#14)
      (fun c s x => mxCmd c s 0x181 x.d.toNat x.x 0) (fun _ _ _ => []) false
  ∧ MxWord .mld (fun h x => x.d.toNat < h.nacc ∧ x.sa.toNat % 2 = 0 ∧ x.sb = 0#6 ∧ x.sf = 0#6 ∧ x.x = 0#14 ∧
        descBad h (h.sreg x.sa.toNat) (h.sreg (x.sa.toNat + 1)) 64 1 false = false)
      (fun c s x => { mxCmd c s 0x182 x.d.toNat x.x 0 with
        a0 := c.h.sreg x.sa.toNat, a1 := c.h.sreg (x.sa.toNat + 1)
        ents := opEnt c (c.h.sreg x.sa.toNat) (c.h.sreg (x.sa.toNat + 1)) 64 1 false, slots := opSlot (c.h.sreg x.sa.toNat) })
      (fun c s x => [slotFault s c (c.h.sreg x.sa.toNat) (c.h.sreg (x.sa.toNat + 1)) 64 1,
        boundFault s c (c.h.sreg x.sa.toNat) (c.h.sreg (x.sa.toNat + 1)) 64 1]) false
  ∧ MxWord .mst (fun h x => x.d.toNat < h.nacc ∧ x.sa.toNat % 2 = 0 ∧ x.sb = 0#6 ∧ xfld x 13 7 = 0 ∧
        (mxClass (xfld x 3 0)).isSome = true ∧
        descBad h (h.sreg x.sa.toNat) (h.sreg (x.sa.toNat + 1)) (lineLW (xfld x 3 0)) 1 false = false)
      (fun c s x => { mxCmd c s 0x183 x.d.toNat x.x ((mxClass (xfld x 3 0)).getD 0) with
        a0 := c.h.sreg x.sa.toNat, a1 := c.h.sreg (x.sa.toNat + 1), sf := c.h.sreg x.sf.toNat, useSf := x.sf.toNat ≠ 0
        ents := opEnt c (c.h.sreg x.sa.toNat) (c.h.sreg (x.sa.toNat + 1)) (lineLW (xfld x 3 0)) 1 true })
      (fun c s x => [if opKind (c.h.sreg x.sa.toNat) = 4 then some (2, 3, c.h.sreg x.sa.toNat) else none,
        poisonFault s c x.d.toNat true,
        boundFault s c (c.h.sreg x.sa.toNat) (c.h.sreg (x.sa.toNat + 1)) (lineLW (xfld x 3 0)) 1]) true
  ∧ MxWord .mabs (fun h x => x.d.toNat < h.nregs ∧ mxTile x.x < h.nacc ∧ x.sa = 0#6 ∧ x.sb = 0#6 ∧ x.sf = 0#6 ∧
        xfld x 13 6 = 0 ∧ (mxG x.x + 1) * h.width ≤ 64)
      (fun c s x => mxCmd c s 0x184 x.d.toNat x.x 0) (fun c s x => [poisonFault s c (mxTile x.x) true]) true
  ∧ MxWord .mmov (fun h x => x.d.toNat < h.nacc ∧ mxTile x.x < h.nacc ∧ x.sa = 0#6 ∧ x.sb = 0#6 ∧ x.sf = 0#6 ∧
        xfld x 13 4 = 0)
      (fun c s x => mxCmd c s 0x185 x.d.toNat x.x 0) (fun c s x => [poisonFault s c (mxTile x.x) true]) false
  ∧ MxWord .mrd (fun h x => x.d.toNat < h.nregs ∧ mxTile x.x < h.nacc ∧ x.sa = 0#6 ∧ x.sb = 0#6 ∧ x.sf = 0#6 ∧
        xfld x 13 12 = 0 ∧ (mxG x.x + 1) * h.width ≤ 64)
      (fun c s x => mxCmd c s 0x186 x.d.toNat x.x 0) (fun c s x => [poisonFault s c (mxTile x.x) true]) true

/-- A herd whose word no longer holds its group. -/
def Sys2Proof.letGo (h : Herd) (x : Hold) : Herd := { h with holds := h.holds.filter (fun y => decide (y ≠ x)) }

/-- R20, R289 to R297, R299 to R301, R306, R307: leave is granted in order while it fits, the read phase obtains the result,
and the retirement writes it. The operands are read at the end of the read phase (assumption 12), and a landing slot given up before is
released at the retirement of its last reader (R323); a waiting word traps at its retirement on a poisoned tile (assumption 21), and words
that meet an error read free values
(assumption 63). -/
def Obligations.MatrixCommandsRun : Prop :=
  (∀ (s : State) (core slice : Nat) (m : MCmd),
    (sliceQueue s core slice).head? = some m → m.phase = 0 →
    s.leaveQ.find? (fun p => decide (dieOf p.1 = dieOf core)) = some (core, slice) →
    (leaveOut s (dieOf core) + m.cost ≤ leavePool s (dieOf core) →
      ∃ t n, exec (.leaveGrant core slice) s = .next t ∧
        t = { s with cmds := t.cmds, leaveQ := t.leaveQ, coreRegs := t.coreRegs, freeCtr := s.freeCtr + 1 } ∧
        t.coreReg core 0x042 = BitVec.ofNat 64 (min ((s.coreReg core 0x042).toNat + n) (2 ^ 64 - 1)) ∧
        (∀ i, i ≠ 4096 * core + 0x042 → Sparse.get coreReset t.coreRegs i = Sparse.get coreReset s.coreRegs i) ∧
        t.cmds = s.cmds.map (fun q => if q.id = m.id then { m with phase := 1 } else q) ∧
        t.leaveQ = s.leaveQ.filter (fun p => decide (p ≠ (core, slice))))
    ∧ (leavePool s (dieOf core) < leaveOut s (dieOf core) + m.cost → exec (.leaveGrant core slice) s = .next s))
  ∧ (∀ (s : State) (core slice : Nat) (m : MCmd) (h : Herd) (bad : Bool),
    HeadCmd s core slice m h → m.phase = 1 → m.core = core →
    bad = (readsPoison h m || (readLocs s m).any (poisoned s core false)) → locsOwned s (readLocs s m) = false →
    ∃ t, exec (.matrixReadPhaseEnd core slice) s = .next t ∧
      t = { s with cmds := t.cmds, crews := t.crews, ocache := t.ocache, coreRegs := t.coreRegs, freeCtr := t.freeCtr
                   l1 := t.l1, slots := t.slots } ∧
      (∀ q ∈ t.l1, q ∈ s.l1) ∧ (∀ y, y ∈ t.slots ↔ y ∈ s.slots ∧ (y.freeing = true → slotRead t y.core y.idx = true)) ∧
      (∀ c a, tileByte t c a = tileByte s c a) ∧
      t.cmds = s.cmds.map (fun q => if q.id = m.id then
        { m with phase := 2, bad := bad, result := if bad then List.replicate 4096 0x7FC00000#32 else mxResult s h m
                 ents := m.ents.filter (fun e => e.dst) } else q))
  ∧ (∀ (s : State) (core slice : Nat) (m : MCmd) (h : Herd),
    HeadCmd s core slice m h → m.phase = 2 → mxHold h m = none → m.op ∈ [0x180, 0x181, 0x182, 0x185] → m.d < h.acc.length →
    m.d < 8 → m.result.length = 4096 →
    ∃ t h', exec (.matrixCommandRetire core slice) s = .next t ∧ t.herd? m.key = some h' ∧ MxGone s t core m ∧
      t = { s with herds := t.herds, cmds := t.cmds, leaveQ := t.leaveQ, coreRegs := t.coreRegs, slots := t.slots, ocache := t.ocache } ∧
      (∀ i j, i < 64 → j < 64 → h'.accEl m.d i j = m.result.getD (64 * i + j) 0) ∧
      (∀ n i j, n ≠ m.d → h'.accEl n i j = h.accEl n i j) ∧ h'.accPoison.getLsbD m.d = m.bad ∧
      (∀ n, n ≠ m.d → h'.accPoison.getLsbD n = h.accPoison.getLsbD n) ∧
      (∀ k, k ∈ h'.accErr ↔ k ∈ h.accErr ∧ k / 4096 ≠ m.d) ∧
      h' = { h with acc := h'.acc, accPoison := h'.accPoison, accErr := h'.accErr })
  ∧ (∀ (s : State) (core slice : Nat) (m : MCmd) (h g : Herd) (x : Hold),
    HeadCmd s core slice m h → m.phase = 2 → mxHold h m = some x → m.op ∈ [0x184, 0x186] → g = accRead s h m →
    h.accPoison.getLsbD (mxTile m.x) = false → h.width ≤ 64 → (∀ j ∈ bitsOf x.group 8, j < h.furrows.length) →
    ∃ t h', exec (.matrixCommandRetire core slice) s = .next t ∧ t.herd? m.key = some h' ∧ MxGone s t core m ∧
      t = { s with herds := t.herds, cmds := t.cmds, leaveQ := t.leaveQ, coreRegs := t.coreRegs, freeCtr := t.freeCtr
                   slots := t.slots, ocache := t.ocache } ∧ Released h h' x ∧
      (∀ l < h.width, h'.vreg m.d l = if m.op = 0x184 then rowMax g (mxTile m.x) (mxG m.x * h.width + l)
        else g.accEl (mxTile m.x) (mxG m.x * h.width + l) (fld (m.x.setWidth 64) 11 6)) ∧
      (∀ n l, l < 64 → ¬ (n = m.d ∧ l < h.width) → h'.vreg n l = h.vreg n l) ∧
      (∀ n, h'.tagOf n = if n = m.d then 3 else h.tagOf n) ∧
      h' = { h with v := h'.v, vtag := h'.vtag, holds := h'.holds, furrows := h'.furrows })
  ∧ (∀ (s : State) (core slice : Nat) (m : MCmd) (h g : Herd) (x : Hold),
    HeadCmd s core slice m h → m.phase = 2 → mxHold h m = some x → m.op = 0x183 → g = accRead s h m → h.accPoison.getLsbD m.d = false →
    locsOwned s (mstLocs s m) = false → (∀ j ∈ bitsOf x.group 8, j < h.furrows.length) →
    (crosses g (mstCount g m) = true → h.handler = none ∧ TrapFree (Sys2Proof.letGo h x) x.group) →
    ∃ t h', t.herd? m.key = some h' ∧ MxGone s t core m ∧
      t = { s with herds := t.herds, cmds := t.cmds, leaveQ := t.leaveQ, coreRegs := t.coreRegs, hbm := t.hbm
                   hbmErr := t.hbmErr, crews := t.crews, ocache := t.ocache, l1 := t.l1, freeCtr := t.freeCtr, slots := t.slots } ∧ Released h h' x ∧
      Stored s t (mstStores s g m) ∧ h'.cvsat = convAdd h.cvsat (mstCount g m).sat ∧
      h'.cvflush = convAdd h.cvflush (mstCount g m).flush ∧ h'.cvnan = convAdd h.cvnan (mstCount g m).nan ∧
      h' = { h with cvsat := h'.cvsat, cvflush := h'.cvflush, cvnan := h'.cvnan, holds := h'.holds, furrows := h'.furrows } ∧
      exec (.matrixCommandRetire core slice) s = .next (if crosses g (mstCount g m) then run t (trapEntry t h'
        { cls := 11, cause := 0, code := 0, lane := 255, addr := 0, tile := 0, group := x.group
          pc := (h.fur ((bitsOf x.group 8).headD 0)).pc, resume := (h.fur ((bitsOf x.group 8).headD 0)).pc + 8#64 }) else t))
  ∧ (∀ (s : State) (core slice : Nat) (m : MCmd) (h : Herd) (x : Hold),
    HeadCmd s core slice m h → m.phase = 2 → mxHold h m = some x → m.op ∈ [0x183, 0x184, 0x186] →
    h.accPoison.getLsbD (mxSource m) = true → locsOwned s (mstLocs s m) = false →
    h.handler = none → TrapFree (Sys2Proof.letGo h x) x.group →
    ∃ t0 h0, t0.herd? m.key = some h0 ∧ MxGone s t0 core m ∧ h0 = Sys2Proof.letGo h x ∧
      t0 = { s with herds := t0.herds, cmds := t0.cmds, leaveQ := t0.leaveQ, coreRegs := t0.coreRegs, slots := t0.slots
                    ocache := t0.ocache } ∧
      exec (.matrixCommandRetire core slice) s = .next (run t0 (trapEntry t0 h0
        { cls := 2, cause := 10, code := 0, lane := 255, addr := 0, tile := 0, group := x.group
          pc := (h.fur ((bitsOf x.group 8).headD 0)).pc, resume := (h.fur ((bitsOf x.group 8).headD 0)).pc })))
  ∧ (∀ (s : State) (h : Herd) (m : MCmd) (n i j : Nat), i < 64 → j < 64 → 64 * i + j + 4096 * n ∉ h.accErr.filter (readsAcc h m) →
    (accRead s h m).accEl n i j = h.accEl n i j)

/-- R158, R317, R319: `board`: a status above 0 registers nothing; an open window registers; a miss answers 1 to `.try` and else
registers and waits, with its status a late write. -/
def Sys2Proof.BoardCompletes : Prop :=
  ∀ (s : State) (w : Issuer) (h : Herd) (hd : Header) (x : FE) (a b : Word),
    Issues s w h → PlainHeader h hd false → x.d.toNat < 64 → x.sf = 0#6 → x.x.toNat < 2 → activeLanes h w.f hd ≠ [] →
    a = h.sreg x.sa.toNat → b = h.sreg x.sb.toNat →
    (boardStatus s h a b ≠ 0 →
      ∃ t h', exec (.board hd x) s = .next t ∧ OnlyHerd s t w h h' ∧
        SregWritten h h' w.f x.d.toNat (BitVec.ofNat 64 (boardStatus s h a b)))
    ∧ (boardStatus s h a b = 0 → windowClosed s.ring (dieOf h.core) (ldTrack a) (ldLayer a) = false →
      ∃ t h' r, exec (.board hd x) s = .next t ∧ OnlyHerd s t w h h' ∧ h'.boarding = some r ∧ Registered a b r ∧
        SregWritten { h with boarding := some r } h' w.f x.d.toNat 0#64)
    ∧ (boardStatus s h a b = 0 → windowClosed s.ring (dieOf h.core) (ldTrack a) (ldLayer a) = true → x.x.getLsbD 0 = true →
      ∃ t h', exec (.board hd x) s = .next t ∧ t = { s with herds := t.herds, coreRegs := t.coreRegs } ∧
        t.herd? w.key = some h' ∧ (∀ k, k ≠ w.key → t.herd? k = s.herd? k) ∧ SregWritten h h' w.f x.d.toNat 1#64 ∧
        t.coreReg h.core 0x0D6 = BitVec.ofNat 64 (min ((s.coreReg h.core 0x0D6).toNat + 1) (2 ^ 64 - 1)))
    ∧ (boardStatus s h a b = 0 → windowClosed s.ring (dieOf h.core) (ldTrack a) (ldLayer a) = true → x.x.getLsbD 0 = false →
      ∃ t h' r, exec (.board hd x) s = .next t ∧
        t = { s with herds := t.herds, coreRegs := t.coreRegs, nextOrder := s.nextOrder + 1 } ∧
        t.herd? w.key = some h' ∧ (∀ k, k ≠ w.key → t.herd? k = s.herd? k) ∧ h'.boarding = some r ∧ Registered a b r ∧
        WaitsOn h h' w.f (.board x.d.toNat) ∧
        h' = { h with
          boarding := some r, furrows := h'.furrows, waitAt := s.nextOrder
          late := ({ h with late := h.late.filter (fun q => !(h.group w.f).contains q.fur) } : Herd).awaited (h.group w.f) [x.d.toNat] } ∧
        t.coreReg h.core 0x0D6 = BitVec.ofNat 64 (min ((s.coreReg h.core 0x0D6).toNat + 1) (2 ^ 64 - 1)))

/-- R321: no tile of the ring waits for the boarding of herd k. -/
def Sys2Proof.NoHold (s : State) (k : HerdKey) : Prop := ∀ u ∈ s.ring.tiles, ∀ p ∈ u.blocked, p.1 ≠ k

/-- R158, R320, R322, R325: `rtile`: a landed tile is taken, a faulty one traps with its slot released, a Cut boarding without one
traps, none is reported to `.try`, and else the group waits; a group that has waited was judged at its issue, so that its predicate and
header do not count again (log entry 82). -/
def Sys2Proof.RtileCompletes : Prop :=
  ∀ (s : State) (w : Issuer) (h : Herd) (hd : Header) (x : FE),
    Issues s w h → x.d.toNat % 2 = 0 → x.d.toNat < 64 → x.sa = 0#6 → x.sb = 0#6 → x.sf = 0#6 →
    x.x.toNat < 2 → ((∃ q ∈ h.late, q.fur ∈ h.group w.f) ∨ PlainHeader h hd false ∧ activeLanes h w.f hd ≠ []) →
    (h.boarding = none →
      ∃ t h', exec (.rtile hd x) s = .next t ∧ OnlyHerd s t w h h' ∧ Advanced h h' w.f ∧
        RtileWritten h h' (h.group w.f) x.d.toNat 0#64 (BitVec.ofNat 64 (2 ^ 63)) ∧
        h' = { h with s := h'.s, furrows := h'.furrows, late := h'.late })
    ∧ (∀ b i r y, h.boarding = some b → b.landed = i :: r → i ∉ r → landedSlot s w.key h.core i = some y → y.crcBad = false →
      y.poison = false → (boardingAfter b (b.taken + 1) b.gone r = none → NoHold s w.key) →
      ∃ t h', exec (.rtile hd x) s = .next t ∧ WordDone s t w h h' ∧ Advanced h h' w.f ∧
        t = { s with herds := t.herds, coreRegs := t.coreRegs, slots := t.slots, slotGen := t.slotGen } ∧
        RtileWritten h h' (h.group w.f) x.d.toNat (BitVec.ofNat 64 (4 * 2 ^ 60 + i * 2 ^ 16))
          (BitVec.ofNat 64 (y.track * 2 ^ 48 + y.layer * 2 ^ 32 + y.tile)) ∧
        h'.boarding = boardingAfter b (b.taken + 1) b.gone r ∧
        (∃ z ∈ t.slots, z = { y with crew := some w.key.crew, board := z.board }) ∧
        h' = { h with s := h'.s, furrows := h'.furrows, boarding := h'.boarding, late := h'.late })
    ∧ (∀ b i r y, h.boarding = some b → b.landed = i :: r → i ∉ r → landedSlot s w.key h.core i = some y →
      (y.crcBad = true ∨ y.poison = true) → TrapFree h (furMask (h.group w.f)) →
      ∃ t0 h0, exec (.rtile hd x) s = .next (run t0 (takeTrap t0 h0
          { trapAtWord w h 10 (if y.crcBad then 1 else 2) with
            tile := BitVec.ofNat 64 (y.track * 2 ^ 48 + y.layer * 2 ^ 32 + y.tile) })) ∧
        t0.herd? w.key = some h0 ∧ y ∉ t0.slots ∧ h0.boarding = boardingAfter b b.taken (b.gone + 1) r ∧
        h0 = { h with boarding := h0.boarding } ∧
        t0 = { s with herds := t0.herds, coreRegs := t0.coreRegs, slots := t0.slots, ocache := t0.ocache
                      ring := t0.ring, freeCtr := t0.freeCtr })
    ∧ (∀ b c, h.boarding = some b → b.landed = [] → b.st = .cut c → TrapFree h (furMask (h.group w.f)) →
      ∃ t0, exec (.rtile hd x) s = .next (run t0 (takeTrap t0 { h with boarding := none } (trapAtWord w h 10 c))) ∧
        t0.herd? w.key = some { h with boarding := none } ∧
        t0 = { s with herds := t0.herds, coreRegs := t0.coreRegs, slots := t0.slots, ring := t0.ring, freeCtr := t0.freeCtr })
    ∧ (∀ b, h.boarding = some b → b.landed = [] → (∀ c, b.st ≠ .cut c) →
      (x.x.getLsbD 0 = true → ∃ t h', exec (.rtile hd x) s = .next t ∧ OnlyHerd s t w h h' ∧ Advanced h h' w.f ∧
        RtileWritten h h' (h.group w.f) x.d.toNat 0#64 (BitVec.ofNat 64 (2 ^ 62)) ∧
        h' = { h with s := h'.s, furrows := h'.furrows, late := h'.late })
      ∧ (x.x.getLsbD 0 = false → ∃ t h', exec (.rtile hd x) s = .next t ∧
        t = { s with herds := t.herds, nextOrder := s.nextOrder + 1 } ∧ OneHerd s t w.key h' ∧ WaitsOn h h' w.f .rtile ∧
        h' = { h with furrows := h'.furrows, waitAt := s.nextOrder, late := h.awaited (h.group w.f) [x.d.toNat, x.d.toNat + 1] }))

/-- R323, R324: `rfree` gives up a slot that the crew holds, released at once unless a copy or command reads it; `alight` ends
the boarding, and its part of each hold (R321), and releases what landed and was not taken. -/
def Sys2Proof.SlotsAreGivenUp : Prop :=
  ∀ (s : State) (w : Issuer) (h : Herd) (hd : Header) (x : FE),
    Issues s w h → PlainHeader h hd false → x.d.toNat < 64 → x.sb = 0#6 → x.sf = 0#6 → x.x = 0#14 →
    activeLanes h w.f hd ≠ [] →
    (∀ y, heldSlot s h.core (fld (h.sreg x.sa.toNat) 19 16) w.key.crew = some y → fld (h.sreg x.sa.toNat) 63 60 = 4 →
      fld (h.sreg x.sa.toNat) 59 20 = 0 → fld (h.sreg x.sa.toNat) 15 0 = 0 →
      ∃ t h', exec (.rfree hd x) s = .next t ∧ WordDone s t w h h' ∧ SregWritten h h' w.f x.d.toNat 0#64 ∧
        t = { s with herds := t.herds, coreRegs := t.coreRegs, slots := t.slots, ocache := t.ocache } ∧
        t.slots = if slotRead s y.core y.idx then s.slots.map (fun z => if z = y then { z with crew := none, freeing := true } else z)
          else s.slots.filter (fun z => decide (z ≠ y)))
    ∧ ((heldSlot s h.core (fld (h.sreg x.sa.toNat) 19 16) w.key.crew = none ∨ fld (h.sreg x.sa.toNat) 63 60 ≠ 4 ∨
        fld (h.sreg x.sa.toNat) 59 20 ≠ 0 ∨ fld (h.sreg x.sa.toNat) 15 0 ≠ 0) →
      ∃ t h', exec (.rfree hd x) s = .next t ∧ OnlyHerd s t w h h' ∧ SregWritten h h' w.f x.d.toNat 1#64)
    ∧ (x.sa = 0#6 → h.boarding = none →
      ∃ t h', exec (.alight hd x) s = .next t ∧ OnlyHerd s t w h h' ∧ SregWritten h h' w.f x.d.toNat 1#64)
    ∧ (x.sa = 0#6 → h.boarding ≠ none → (∀ j, (h.fur j).st ≠ .waiting .rtile ∧ ∀ d, (h.fur j).st ≠ .waiting (.board d)) →
      ∃ t h', exec (.alight hd x) s = .next t ∧ t.herd? w.key = some h' ∧ (∀ k, k ≠ w.key → t.herd? k = s.herd? k) ∧
        h'.boarding = none ∧ SregWritten { h with boarding := none } h' w.f x.d.toNat 0#64 ∧
        t = { s with herds := t.herds, coreRegs := t.coreRegs, slots := t.slots, ring := t.ring, freeCtr := t.freeCtr } ∧
        t.coreReg h.core 0x040 = BitVec.ofNat 64 (min ((s.coreReg h.core 0x040).toNat + 1) (2 ^ 64 - 1)) ∧
        (∀ n, n ≠ 4096 * h.core + 0x040 → ((∀ core, n ≠ 4096 * core + 0x0D5) ∨ NoHold s w.key) →
          Sparse.get coreReset t.coreRegs n = Sparse.get coreReset s.coreRegs n) ∧
        t.ring = { s.ring with tiles := s.ring.tiles.map (fun u => { u with blocked := u.blocked.filter (fun p => decide (p.1 ≠ w.key)) }) } ∧
        t.slots = (s.slots.filter (fun z => !(decide (z.board = some w.key) && z.crew.isNone && !z.freeing))).map
          (fun z => if z.board = some w.key then { z with board := none } else z))

/-- R308 to R310, R326, R328: the ring's report, pace and timetable words. -/
def Sys2Proof.RingControlCompletes : Prop :=
  ∀ (s : State) (w : Issuer) (h : Herd) (hd : Header) (x : FE),
    Issues s w h → PlainHeader h hd false → x.d.toNat < 64 → x.sb = 0#6 → x.sf = 0#6 → x.x = 0#14 →
    activeLanes h w.f hd ≠ [] →
    (∃ t h' r, exec (.rpos hd x) s = .next t ∧ OnlyHerd s t w h h' ∧ SregWritten h h' w.f x.d.toNat r ∧
      r = rposWord s (dieOf h.core) (h.sreg x.sa.toNat))
    ∧ (x.sa = 0#6 → ∃ t h' r, exec (.rstat hd x) s = .next t ∧ OnlyHerd s t w h h' ∧ SregWritten h h' w.f x.d.toNat r ∧
      ((∀ b, h.boarding = some b → b.quota ≤ 16 ∧ b.track < 16 ∧ b.layer < 2 ^ 16 ∧ b.landed.length ≤ 16 ∧ b.taken < 2 ^ 24 ∧
        ∀ c, b.st = .cut c → c < 8) →
        statFields h.boarding = (fld r 63 62, fld r 61 59, fld r 55 52, fld r 51 48, fld r 47 32, fld r 28 24, fld r 23 0)))
    ∧ (h.sup = true → (h.sreg x.sa.toNat).toNat ≤ 256 →
      ∃ t h', exec (.rpace hd x) s = .next t ∧ OnlyHerd s { t with partRegs := s.partRegs } w h h' ∧
        SregWritten h h' w.f x.d.toNat 0#64 ∧ t.partReg w.key.crew.part 0x0D2 = h.sreg x.sa.toNat ∧
        ∀ n, n ≠ 4096 * w.key.crew.part + 0x0D2 → Sparse.get partReset t.partRegs n = Sparse.get partReset s.partRegs n)
    ∧ (h.sup = true → 256 < (h.sreg x.sa.toNat).toNat →
      ∃ t h', exec (.rpace hd x) s = .next t ∧ OnlyHerd s t w h h' ∧ SregWritten h h' w.f x.d.toNat 1#64)
    ∧ (∀ b, h.sup = true → h.sreg x.sa.toNat = 0#64 → s.cfg = some b →
      ∃ t h', exec (.rinst hd x) s = .next t ∧ OnlyHerd s { t with ring := s.ring } w h h' ∧
        SregWritten h h' w.f x.d.toNat (if b.ringOwner = w.key.crew.part then 0#64 else 1#64) ∧
        t.ring = if b.ringOwner = w.key.crew.part then { s.ring with pending := some { gen := 0, grants := [], ents := [] } }
          else s.ring)
    ∧ (∀ (a : Word) (hdr as : List LaneAcc) (hb : List Byte) (n : Nat) (body : List Byte), h.sup = true →
      a = h.sreg x.sa.toNat → a ≠ 0#64 → a.toNat % 64 = 0 → fld a 63 60 = 0 →
      hdr = [checkLane s h .load 64 (some 0) 255 a] → hb = loadRange s h.core hdr 64 (fld a 47 0) →
      n = headerEnts hb → rangeOwned s w.key hdr (fld a 47 0) 64 = false →
      as = (if n = 0 then hdr else pageAccs s h .load a (64 + 32 * n)) → (∀ q ∈ hdr ++ as, q.flt = none) →
      rangeOwned s w.key as (fld a 47 0) (64 + 32 * n) = false → rangePoisoned s h.core as (fld a 47 0) (64 + 32 * n) = false →
      body = loadRange s h.core as (32 * n) (fld a 47 0 + 64) →
      ∃ t h', exec (.rinst hd x) s = .next t ∧ OnlyHerd s { t with ring := s.ring, tlb := s.tlb, freeCtr := s.freeCtr } w h h' ∧
        SregWritten h h' w.f x.d.toNat (BitVec.ofNat 64 ((rinstJudge s w.key.crew.part hb body).1
          + (rinstJudge s w.key.crew.part hb body).2.1 * 2 ^ 32)) ∧
        t.ring = if (rinstJudge s w.key.crew.part hb body).1 = 0 then
          { s.ring with pending := some (rinstJudge s w.key.crew.part hb body).2.2 } else s.ring)

/-- R308 to R310, R316 to R328: the ring's words. That the loads of `rinst` fill no L1 sector (log entry 22) and that the trap record of a
Cut boarding names TILE 0 (log entry 89) are the model's choices. -/
def Obligations.RingWordsComplete : Prop := Sys2Proof.BoardCompletes ∧ Sys2Proof.RtileCompletes ∧ Sys2Proof.SlotsAreGivenUp ∧ Sys2Proof.RingControlCompletes

/-- A tile of the ring in a landing slot (R101, R321). -/
def Sys2Proof.slotOf (u : RTile) (h : Herd) (i : Nat) : Slot :=
  { core := h.core, idx := i, board := some h.key, crew := none, track := u.track, layer := u.layer, tile := u.tile
    payload := u.payload, crcBad := u.crcBad, poison := u.poison, errs := [], freeing := false }

/-- A tile's landing for one boarding (R321, R332). -/
def Sys2Proof.Landed (s t : State) (u : RTile) (h : Herd) (b : Boarding) (i : Nat) : Prop :=
  t.slots = s.slots ++ [slotOf u h i] ∧ (∃ h', t.herd? h.key = some h' ∧ h'.boarding = some { b with landed := b.landed ++ [i] }) ∧
    Counted1 s t h.core 0x0D4

/-- R311, R318, R329: a pending timetable is installed at a seam: its buffer is empty, its windows open, and a boarding whose layer it
does not carry for the herd's partition is Cut, or ends with the missed `board` that waits for it. That an empty timetable leaves none
installed is the model's choice (log entry 22). -/
def Sys2Proof.TimetablesInstall : Prop :=
  ∀ (s : State) (tt : Timetable), s.ring.pending = some tt → s.ring.inLap = false → s.ring.tiles = [] →
    (s.herds.map (fun h => h.key)).Nodup →
    ∃ t, exec .timetableInstall s = .next t ∧
      t.ring = { s.ring with
        installed := if tt.ents = [] then none else some tt, pending := none, inLap := !tt.ents.isEmpty, ent := 0, tile := 0
        buffer := [], closed := [] } ∧
      t = { s with ring := t.ring, herds := t.herds, slots := t.slots, nextOrder := t.nextOrder } ∧
      (∀ k h, s.herd? k = some h → ∃ h', t.herd? k = some h' ∧
        h' = { h with boarding := h'.boarding, furrows := h'.furrows, s := h'.s, late := h'.late, readyAt := h'.readyAt } ∧
        ∀ b, h.boarding = some b →
          (tt.grants? b.track k.crew.part = true → tt.layerEnts b.track b.layer ≠ [] → h'.boarding = some b) ∧
          ((tt.grants? b.track k.crew.part = false ∨ tt.layerEnts b.track b.layer = []) → (∀ c, b.st ≠ .cut c) →
            (h.unresolved WaitOn.isBoard = [] → h'.boarding = some { b with st := .cut 5 }) ∧
            (h.unresolved WaitOn.isBoard ≠ [] → h'.boarding = none)))

/-- R266, R311 to R315: the next tile of the lap sequence goes onto the ring at its owning stop, with its lap, its generation and the CRC
of its payload and header: each sector as the stop has read it ahead, and one that it has not read as memory holds it now. That a stop reads
at its TILE_INJECTION turns alone is the model's choice (log entry 12), and so is the lap of a tile whose stop the lap's first tile has not
reached (log entry 116). -/
def Sys2Proof.TilesAreInjected : Prop :=
  ∀ (s : State) (tt : Timetable) (e : TEntry) (b : RTile), s.ring.installed = some tt → tt.ents[s.ring.ent]? = some e →
    b = bufferedTile s tt e → s.ring.inLap = true → holding s.ring = false → ringPace s tt ≠ 0 →
    (∀ u ∈ s.ring.tiles, u.same (nextTile s tt e) = false) →
    orderBlocked s.ring (nextTile s tt e) e.die = false → b.owned s (e.addr + 65536 * s.ring.tile) = false →
    ∃ t u, exec .tileInjection s = .next t ∧ t.ring.tiles = s.ring.tiles ++ [u] ∧
      u = { nextTile s tt e with stop := e.die, passed := false, sent := false, held := u.held, blocked := u.blocked } ∧
      u.tile = e.first + s.ring.tile ∧
      u.lap = (if s.ring.ent = 0 ∧ s.ring.tile = 0 then Sparse.get zeros s.ring.laps e.die + 1#32 else curLap s.ring tt) ∧
      u.crc = crc32c (Memory.bytes u.payload 0 65536 ++ u.headBody) ∧
      (∀ p < 65536, u.payload.byte p = if b.left.testBit (p / 64) then s.hbm.byte (e.addr + 65536 * s.ring.tile + p)
        else b.payload.byte p) ∧
      (s.ring.buffer.find? (fun b => b.at s.ring.ent s.ring.tile e) = none →
        (∀ p < 65536, u.payload.byte p = s.hbm.byte (e.addr + 65536 * s.ring.tile + p)) ∧ u.gen = tt.gen ∧ u.die = e.die ∧
          u.track = e.track ∧ u.layer = e.layer) ∧
      (t.ring.ent, t.ring.tile, t.ring.inLap) =
        (if s.ring.tile + 1 < e.count then (s.ring.ent, s.ring.tile + 1, true)
         else if s.ring.ent + 1 < tt.ents.length then (s.ring.ent + 1, 0, true)
         else (0, 0, decide (s.ring.pending = none))) ∧
      t = { s with ring := t.ring, herds := t.herds, slots := t.slots, coreRegs := t.coreRegs, nextOrder := t.nextOrder
                   freeCtr := t.freeCtr }

/-- R11, R318, R320, R321: a tile that completes its hop is dropped at its origin, or arrives and lands for the boardings that it
matches; under a hold only one that was on its way does. A header makes the boardings registered for its layer Boarded, one without a tile
under the timetable's T apart (log entry 62), and a missed `board` completes, its status written unless a word issued later has written the
register (R158, R319); a held tile lands once its boardings have their slots. -/
def Sys2Proof.TilesArrive : Prop :=
  (∀ (s : State) (stop : Nat) (bad : Bool) (u : RTile),
    (∀ v ∈ s.ring.tiles, v.stop = stop → v.held = true → lacking s stop v ≠ []) → (s.herds.map (fun h => h.key)).Nodup →
    s.ring.tiles.find? (fun v => v.passed && !v.held && (v.sent || !holding s.ring) && decide ((v.stop + 1) % 12 = stop)
      && (decide (v.die = stop) || !orderBlocked s.ring v stop)) = some u → u.blocked = [] →
    (u.die = stop → ∃ t, exec (.tileArrival stop bad) s = .next t ∧ t = { s with ring := t.ring } ∧
      t.ring = { s.ring with tiles := s.ring.tiles.filter (fun v => !v.same u) })
    ∧ (u.die ≠ stop → u.tile ≠ 0 → landTargets s stop u = [] → isLapFirst s.ring u = false →
      ∃ t, exec (.tileArrival stop bad) s = .next t ∧ t = { s with ring := t.ring } ∧
        t.ring.tiles = s.ring.tiles.map (fun v => if v.same u then
          { u with stop := stop, passed := false, sent := false, crcBad := u.crcBad || bad, held := false, blocked := [] } else v))
    ∧ (∀ h b i, u.die ≠ stop → u.tile ≠ 0 → landTargets s stop u = [h] → s.herd? h.key = some h → h.boarding = some b →
      quotaLeft s h = true → freeSlotIdx s h.core = some i →
      ∃ t, exec (.tileArrival stop bad) s = .next t ∧ Landed s t { u with crcBad := u.crcBad || bad } h b i)
    ∧ (∀ h b tt, u.die ≠ stop → u.tile = 0 → s.herd? h.key = some h → h.boarding = some b → dieOf h.core = stop →
      b.st = .registered → b.track = u.track → b.layer = u.layer → s.ring.installed = some tt →
      ∃ t h', exec (.tileArrival stop bad) s = .next t ∧ t.herd? h.key = some h' ∧
        (shardTiles b.first b.count (tt.tileCount b.track b.layer) = 0 → h'.boarding = none) ∧
        (shardTiles b.first b.count (tt.tileCount b.track b.layer) ≠ 0 → ∃ b', h'.boarding = some b' ∧ b'.st = .boarded ∧
          b'.lap = u.lap ∧ b'.count = shardTiles b.first b.count (tt.tileCount b.track b.layer)) ∧
        ∀ j d, h.resident = true → h.handler = none → h.unresolved WaitOn.isBoard = [j] → (h.fur j).st = .waiting (.board d) → d ≠ 0 →
          (h'.fur j).st = .running ∧ (h'.fur j).pc = (h.fur j).pc + 8#64 ∧
          h'.sreg d = if h.lateStands [j] d then 0#64 else h.sreg d))
  ∧ (∀ (s : State) (stop : Nat) (bad : Bool) (u : RTile) (h : Herd) (b : Boarding) (i : Nat),
    (s.herds.map (fun h => h.key)).Nodup →
    s.ring.tiles.find? (fun v => decide (v.stop = stop) && v.held && (lacking s stop v).isEmpty) = some u →
    landTargets s stop u = [h] → s.herd? h.key = some h → h.boarding = some b → freeSlotIdx s h.core = some i →
    ∃ t, exec (.tileArrival stop bad) s = .next t ∧ Landed s t u h b i ∧
      t.ring.tiles = s.ring.tiles.map (fun v => if v.same u then { u with held := false, blocked := [] } else v))

/-- R318, R321: a tile passes its stop, under a hold too, and the window of its layer opens exactly when every tile of the layer's
lap has passed and the next lap's header has not arrived; under a hold it goes no further. The hold limit cuts a Boarded boarding whose
slot is still missing, and no other. -/
def Sys2Proof.TilesPassAndHoldsEnd : Prop :=
  (∀ (s : State) (stop : Nat) (u u' : RTile), u' = { u with passed := true, sent := !holding s.ring } →
    s.ring.tiles.find? (fun v => decide (v.stop = stop) && !v.passed) = some u →
    ∃ t, exec (.tilePassed stop) s = .next t ∧ t = { s with ring := t.ring } ∧
      t.ring.tiles = s.ring.tiles.map (fun v => if v.same u then u' else v) ∧
      t.ring = { s.ring with tiles := t.ring.tiles, closed := t.ring.closed } ∧
      (∀ p, p ≠ (stop, u.track, u.layer) → (p ∈ t.ring.closed ↔ p ∈ s.ring.closed)) ∧
      ∀ tt, s.ring.installed = some tt → ((stop, u.track, u.layer) ∈ t.ring.closed ↔ (stop, u.track, u.layer) ∈ s.ring.closed ∧
        (layerPassed (setTile s.ring u') tt stop u = false ∨ headerAhead (setTile s.ring u') stop u = true)))
  ∧ (∀ (s : State) (k : HerdKey) (h : Herd) (b : Boarding), s.herd? k = some h → h.boarding = some b →
    (b.st = .boarded → (∃ v ∈ s.ring.tiles, v.held = true ∧ ∃ y ∈ lacking s v.stop v, y.key = k) →
      ∃ t h', exec (.holdLimitExpiry k) s = .next t ∧ t.herd? k = some h' ∧ h'.boarding = some { b with st := .cut 3 } ∧
        t = { s with ring := t.ring, herds := t.herds, slots := t.slots, coreRegs := t.coreRegs, nextOrder := t.nextOrder
                     freeCtr := t.freeCtr })
    ∧ ((b.st ≠ .boarded ∨ ∀ v ∈ s.ring.tiles, v.held = true → ∀ y ∈ lacking s v.stop v, y.key ≠ k) →
      exec (.holdLimitExpiry k) s = .next s))

/-- R321, R332: what each step does at its end: a held tile waits for exactly the boardings that lack a slot for it now (of two with one
slot left, the later herd: log entry 92). Nothing else changes but the counters of the cores that no held tile waits for any more, and
nothing at all while no tile is held. -/
def Sys2Proof.HoldsAreJudged : Prop :=
  ∀ s : State, ∃ t, judged (.next s) = .next t ∧ t = { s with ring := t.ring, coreRegs := t.coreRegs, freeCtr := t.freeCtr } ∧
    t.ring = { s.ring with tiles := s.ring.tiles.map (fun u =>
      { u with blocked := if u.held then (lacking s u.stop u).map (fun h => (h.key, h.core)) else u.blocked }) } ∧
    (∀ n, (∀ core, n ≠ 4096 * core + 0x0D5) → Sparse.get coreReset t.coreRegs n = Sparse.get coreReset s.coreRegs n) ∧
    ((∀ u ∈ s.ring.tiles, u.held = false) → t = s)

/-- R11, R266, R311 to R315, R318, R320, R321, R329, R332: the ring's events. When a stop reads the sectors of a tile (log entry 12), a
boarding without a tile under the timetable (log entry 62), which of two boardings lacks the last slot (log entry 92) and that an empty
timetable is none installed (log entry 22) are the model's choices. -/
def Obligations.RingMoves : Prop :=
  Sys2Proof.TimetablesInstall ∧ Sys2Proof.TilesAreInjected ∧ Sys2Proof.TilesArrive ∧ Sys2Proof.TilesPassAndHoldsEnd
    ∧ Sys2Proof.HoldsAreJudged

/-- R348, R349, R350, R354: distribution words that write elements at once. -/
def Sys2Proof.ElementWordsComplete : Prop :=
  WritesElems dNeg (fun x => x.d.toNat) (fun h x => h.dmask x.a.toNat)
    (fun h x l => mapElem (fun v => v ^^^ 0x80000000#32) (canonical (h.delem x.a.toNat l)))
  ∧ WritesElems dScl (fun x => x.d.toNat) (fun h x => h.dmask x.a.toNat)
    (fun h x l => mapElem (fun v => (if x.fn = 0#8 then dopMul else dopAdd) v (h.vreg x.b.toNat l)) (canonical (h.delem x.a.toNat l)))
  ∧ WritesElems dPt (fun x => x.d.toNat) (fun _ _ => 0#16)
    (fun h x l => { w := 2 ^ 24, x := canonNan (h.vreg x.a.toNat l) }
      :: List.replicate 7 { w := 0, x := canonNan (h.vreg x.a.toNat l) })
  ∧ WritesElems dTag (fun x => x.d.toNat) (fun _ x => x.imm) (fun h x l => h.delem x.a.toNat l)
  ∧ ∀ (s : State) (w : Issuer) (h : Herd) (hd : Header) (x : F3),
    Issues s w h → PlainHeader h hd false → x.d.toNat < 16 → x.a.toNat < h.nregs → x.b.toNat < h.nregs → x.mb = 0#8 →
    x.fn.toNat < 8 → activeLanes h w.f hd ≠ [] → DistFree s w.key [x.d.toNat] →
    ∃ t h', exec (.datm hd x) s = .next t ∧ OnlyHerd s t w h h' ∧ Advanced h h' w.f ∧
      (∀ l ∈ activeLanes h w.f hd, h'.datom x.d.toNat l x.fn.toNat = h.vreg x.b.toNat l ++ h.vreg x.a.toNat l) ∧
      (∀ n l i, l < 64 → i < 8 → ¬ (n = x.d.toNat ∧ l ∈ activeLanes h w.f hd ∧ i = x.fn.toNat) →
        h'.datom n l i = h.datom n l i) ∧
      h' = { h with d := h'.d, furrows := h'.furrows }

/-- R348 to R352, R354: distribution words that the condenser has no part in: `dneg`, `dscl`, `dpt`, `dtag` and `datm`
write elements, `dget`, `dmom`, `dqnt` and `dcdf` read into a vector register, and a lane that reads an erroneous
element traps. That an element's error mark stays after `datm` is the model's reading (log entry 25). -/
def Obligations.DirectDistributionWords : Prop :=
  Sys2Proof.ElementWordsComplete
  ∧ ReadsElems dGet (fun x => x.d.toNat) (fun x => mbFmt x.mb) (fun h x l => gotAtom h x l)
  ∧ ReadsElems dMom (fun x => x.d.toNat) (fun _ => 3) (fun h x l =>
      BitVec.ofNat 32 (encodeArith (momentOf x.fn.toNat (canonical (h.delem x.a.toNat l))) 3 (mbRm x.mb) (mbSat x.mb)))
  ∧ ReadsElems dQnt (fun x => x.d.toNat) (fun _ => 3) (fun h x l =>
      quantile (canonical (h.delem x.a.toNat l)) (f32 (h.vreg x.b.toNat l)))
  ∧ ReadsElems dCdf (fun x => x.d.toNat) (fun _ => 3) (fun h x l => cumAt (canonical (h.delem x.a.toNat l)) (f32 (h.vreg x.b.toNat l)))
  ∧ (∀ g ∈ [dNeg, dScl, dGet, dMom, dQnt, dCdf], BadElemTraps g) ∧ BadElemTraps dTag

/-- R338 to R342, R346, R347, R353, R354: the words of the condenser are queued with the values of their lanes, and the oldest
of a slice writes its elements. That they read their operands at issue (log entries 12 and 24) and that the oldest element of a slice is written
first (log entry 24) are the model's readings (DEDUCED). -/
def Obligations.CondenserOperations : Prop :=
  (∀ g ∈ dBins, QueuesElems g.1 (fun h x l =>
    condense ((if comonotone h x then pairCom else pairInd) g.2 (canonical (h.delem x.a.toNat l)) (canonical (h.delem x.b.toNat l)))))
  ∧ QueuesElems dMix (fun h x l =>
      mixElem (canonical (h.delem x.a.toNat l)) (canonical (h.delem x.b.toNat l)) (f32 (h.vreg x.fn.toNat l)))
  ∧ (∀ g ∈ dBins, BadElemTraps g.1) ∧ BadElemTraps dMix
  ∧ ∀ (s : State) (pre post : List CondOp) (o : CondOp) (h : Herd),
    s.conds = pre ++ o :: post → (∀ q ∈ pre, ¬ (q.core = o.core ∧ q.slice = o.slice)) → s.herd? o.key = some h →
    (o.lanes.map (fun p => p.1)).Nodup → (∀ p ∈ o.lanes, p.1 < 64 ∧ p.2.length = 8) →
    ∃ t h', exec (.condenserComplete o.core o.slice) s = .next t ∧ t = { s with herds := t.herds, conds := pre ++ post } ∧
      t.herd? o.key = some h' ∧ (∀ k, k ≠ o.key → t.herd? k = s.herd? k) ∧
      (∀ p ∈ o.lanes, ∀ i, i < 8 → h'.datom o.d p.1 i = p.2.getD i 0#64) ∧
      (∀ n l i, l < 64 → i < 8 → ¬ (n = o.d ∧ l ∈ o.lanes.map (fun p => p.1)) → h'.datom n l i = h.datom n l i) ∧
      h' = { h with d := h'.d, derr := h'.derr }

/-- R378, R380, R381: the recording words and the pops. -/
def Obligations.TapeWordsComplete : Prop :=
  Records tRec ∧ Records tRbr ∧ Records tMark ∧ Pops .tply 0 ∧ Pops .tplb 1 ∧ Pops .tpmk 2

/-- R374, R375, R380: a pop finds the record that was recorded last, gives back what it held, and leaves the stream as it was
before the record. -/
def Obligations.PoppingUndoesRecording : Prop :=
  (∀ (x : Stream) (m : BitVec 8) (v : Nat → Lane), AtHand x →
    ∃ r, topRec (recorded x (valueRec x m v)) = some r ∧ r.kind = 0 ∧ undo (recorded x (valueRec x m v)) r = x ∧
      ∀ j, j < 8 → m.getLsbD j = true → popWord 0 (recorded x (valueRec x m v)) r j = v j)
  ∧ (∀ (x : Stream) (m bits : BitVec 8), AtHand x →
    ∃ r, topRec (recorded x (maskRec x m bits)) = some r ∧ r.kind = 1 ∧ undo (recorded x (maskRec x m bits)) r = x ∧
      ∀ j, j < 8 → popWord 1 (recorded x (maskRec x m bits)) r j = if bits.getLsbD j then 1#32 else 0#32)
  ∧ (∀ (x : Stream) (imm : BitVec 16), AtHand x →
    ∃ r, topRec (recorded x (markRec x imm)) = some r ∧ r.kind = 2 ∧ undo (recorded x (markRec x imm)) r = x ∧
      ∀ j, popWord 2 (recorded x (markRec x imm)) r j = imm.setWidth 32)

/-- R372, R379, R383 to R385, R388: `tbgn`, `tend` and `tseg` with their statuses, and the engine's block write. -/
def Obligations.TapeContextCompletes : Prop :=
  (∀ (s : State) (w : Issuer) (h : Herd) (hd : Header) (x : FE) (a b : Word),
    Issues s w h → PlainHeader h hd false → x.d.toNat < 64 → x.sf = 0#6 → x.x = 0#14 → activeLanes h w.f hd ≠ [] →
    a = h.sreg x.sa.toNat → b = h.sreg x.sb.toNat →
    (h.tape.active = true →
      ∃ t h', exec (.tbgn hd x) s = .next t ∧ OnlyHerd s t w h h' ∧ SregWritten h h' w.f x.d.toNat 1#64)
    ∧ (h.tape.active = false → segOk a b = false →
      ∃ t h', exec (.tbgn hd x) s = .next t ∧ OnlyHerd s t w h h' ∧ SregWritten h h' w.f x.d.toNat 2#64)
    ∧ (h.tape.active = false → segOk a b = true → pageFault (pageAccs s h .seg a (b.toNat - a.toNat)) = none →
      ∃ t h', exec (.tbgn hd x) s = .next t ∧ OnlyHerd s { t with tlb := s.tlb, freeCtr := s.freeCtr } w h h' ∧
        SregWritten { h with tape := h'.tape } h' w.f x.d.toNat 0#64 ∧ TapeBegun h a b h'.tape ∧
        h'.tape.pages = (pageAccs s h .seg a (b.toNat - a.toNat)).map (fun p => (fld p.addr 47 0 / 65536, pageBase p)))
    ∧ (h.sup = true → h.tape.active = false →
      ∃ t h', exec (.tseg hd x) s = .next t ∧ OnlyHerd s t w h h' ∧ SregWritten h h' w.f x.d.toNat 1#64)
    ∧ (h.sup = true → h.tape.active = true → segOk a b = false →
      ∃ t h', exec (.tseg hd x) s = .next t ∧ OnlyHerd s t w h h' ∧ SregWritten h h' w.f x.d.toNat 2#64)
    ∧ (h.sup = true → h.tape.active = true → segOk a b = true →
      pageFault (pageAccs s h .seg a (b.toNat - a.toNat)) = none →
      ∃ t h', exec (.tseg hd x) s = .next t ∧ OnlyHerd s { t with tlb := s.tlb, freeCtr := s.freeCtr } w h h' ∧
        SregWritten { h with tape := h'.tape } h' w.f x.d.toNat 0#64 ∧
        h'.tape = { h.tape with sbase := a, slim := b, next := a, obase := h.tape.sbase, olim := h.tape.slim
                                pages := h'.tape.pages, streams := h'.tape.streams } ∧
        h'.tape.streams.length = h.tape.streams.length ∧
        ∀ f, f < h.tape.streams.length →
          h'.tape.stream f = if h.live f then { h.tape.stream f with cutp := true } else h.tape.stream f))
  ∧ (∀ (s : State) (w : Issuer) (h : Herd) (hd : Header) (x : FS),
    Issues s w h → PlainHeader h hd false → x.d.toNat < 64 → x.a = 0#8 → x.sel = 0#16 → x.x = 0#8 → activeLanes h w.f hd ≠ [] →
    (h.tape.active = false →
      ∃ t h', exec (.tend hd x) s = .next t ∧ OnlyHerd s t w h h' ∧ SregWritten h h' w.f x.d.toNat 1#64)
    ∧ (h.tape.active = true → h.tape.closed = [] → (∀ y ∈ h.tape.streams, y.dirty = false) →
      ∃ t h', exec (.tend hd x) s = .next t ∧ OnlyHerd s t w h h' ∧ h'.tape = TapeCtx.none ∧
        SregWritten { h with tape := TapeCtx.none } h' w.f x.d.toNat 0#64)
    ∧ (∀ f, h.tape.active = true → h.tape.closed = [] → f < h.tape.streams.length → (h.tape.stream f).dirty = true →
      (∀ j, j ≠ f → (h.tape.stream j).dirty = false) → blockOwned s h.tape (h.tape.stream f).cur = false →
      (blockBytes f (h.tape.stream f)).length ≤ 256 →
      ∃ t h', exec (.tend hd x) s = .next t ∧ WordDone s t w h h' ∧ h'.tape = TapeCtx.none ∧
        SregWritten { h with tape := TapeCtx.none } h' w.f x.d.toNat 0#64 ∧
        (∀ i, i < (blockBytes f (h.tape.stream f)).length →
          t.hbm.byte (h.tape.pa (h.tape.stream f).cur + i) = (blockBytes f (h.tape.stream f)).getD i 0#8) ∧
        ∀ p, p < h.tape.pa (h.tape.stream f).cur ∨ h.tape.pa (h.tape.stream f).cur + 256 ≤ p → t.hbm.byte p = s.hbm.byte p))
  ∧ (∀ (s : State) (k : HerdKey) (h : Herd) (a : Word) (bs : List Byte) (r : List (Word × List Byte)),
    s.herd? k = some h → h.tape.closed = (a, bs) :: r → blockOwned s h.tape a = false → bs.length ≤ 256 →
    ∃ t, exec (.tapeBlockWrite k) s = .next t ∧ t.herd? k = some { h with tape := { h.tape with closed := r } } ∧
      (∀ j, j ≠ k → t.herd? j = s.herd? j) ∧
      (∀ i, i < bs.length → t.hbm.byte (h.tape.pa a + i) = bs.getD i 0#8) ∧
      (∀ p, p < h.tape.pa a ∨ h.tape.pa a + 256 ≤ p → t.hbm.byte p = s.hbm.byte p) ∧
      (∀ q ∈ t.hbmErr, q ∈ s.hbmErr) ∧
      t = { s with herds := t.herds, hbm := t.hbm, hbmErr := t.hbmErr, l1 := t.l1, crews := t.crews, ocache := t.ocache
                   freeCtr := s.freeCtr + 256 })

/-- R46, R57, R58, R203, R403: a group that has stood for its patience passes its headland; a yielding group is ready again, with the
youngest rank; the herd that has waited longest makes room for a ready one; and the herd that became ready first becomes resident, a
stored one with the context of its save area. What the save makes of its tape and its waits, and the order of herds that became ready
together, are the model's readings (log entries 31 to 33, 35, 55). -/
def Obligations.SchedulerEventsComplete : Prop :=
  (∀ (s : State) (k : HerdKey) (h : Herd) (f n : Nat), s.herd? k = some h → h.resident = true → h.group f ≠ [] →
    h.heldBy (h.group f) = none → (∀ j ∈ h.group f, (h.fur j).st = .standing n) → saveNext s h = false →
    ∃ t h', exec (.patienceExpiry k f) s = .next t ∧ t = { s with herds := t.herds } ∧ OneHerd s t k h' ∧ FurrowsOnly h h' ∧
      ∀ j, h'.fur j = if j ∈ h.group f then passedFur n (h.fur j) else h.fur j)
  ∧ (∀ (s : State) (k : HerdKey) (h : Herd) (f n : Nat) (x : Hold), s.herd? k = some h → HeldBy h f x → x.why = .yield n →
    (∀ j ∈ bitsOf x.group 8, j < h.furrows.length) →
    ∃ t h', exec (.yieldExpiry k f) s = .next t ∧ t = { s with herds := t.herds, nextOrder := s.nextOrder + 1 } ∧
      OneHerd s t k h' ∧ h' = { h with holds := holdsWithout h x, furrows := h'.furrows } ∧
      ∀ j, h'.fur j = if j ∈ bitsOf x.group 8 then { h.fur j with rank := s.nextOrder } else h.fur j)
  ∧ (∀ (s : State) (k : HerdKey) (h y : Herd), s.herd? k = some h → HerdShape h → h.resident = true → isWaiting h = true →
    waitsLongest s h = true → savePending s k = false → y ∈ readyHerds s h.core h.slice → roomBase s y = none → h.tape.closed = [] →
    (∀ x ∈ h.tape.streams, x.dirty = false) →
    ∃ t h', exec (.penning k) s = .next t ∧ OneHerd s t k h' ∧
      h' = { h with resident := false, stored := true, saveAt := saveArea s h, holds := [], tape := h.tape.cleaned } ∧
      (∀ i, i < 64 → t.hbm.num (saveArea s h + 0x100 + 8 * i) 8 = (h.sreg i).toNat) ∧
      (∀ n l, n < h.nregs → l < h.width →
        h.exited l = false → t.hbm.num (saveArea s h + 0x3000 + 4 * (n * h.width + l)) 4 = (h.vreg n l).toNat) ∧
      (∀ p, p < saveArea s h ∨ saveArea s h + 0x44000 ≤ p → t.hbm.byte p = s.hbm.byte p) ∧
      Counted1 s t h.core 0x045 ∧
      t = { s with herds := t.herds, hbm := t.hbm, crews := t.crews, ocache := t.ocache, coreRegs := t.coreRegs, freeCtr := t.freeCtr })
  ∧ (∀ (s : State) (k : HerdKey) (h : Herd) (b : Nat), s.herd? k = some h → isReady s h = true →
    (∀ y ∈ readyHerds s h.core h.slice, readyBefore y h = false) → roomBase s h = some b →
    (h.stored = false → ∃ t, exec (.herdResidency k) s = .next t ∧ t = { s with herds := t.herds } ∧
      OneHerd s t k { h with resident := true, base := b, stored := false })
    ∧ (h.stored = true → h.saveAt = saveArea s h → restoreBad s.hbm h.saveAt (savedProg s.hbm h.saveAt) h = false →
      (∀ j q, (h.fur j).resolved = some q → q.wr = none ∧ q.bad = none) → savedProg s.hbm h.saveAt = false →
      ∃ t h', exec (.herdResidency k) s = .next t ∧ t = { s with herds := t.herds } ∧ OneHerd s t k h' ∧
        h'.resident = true ∧ h'.base = b ∧ h'.stored = false ∧ h'.handler = none ∧
        (∀ i, 0 < i → i < 64 → h'.sreg i = BitVec.ofNat 64 (s.hbm.num (h.saveAt + 0x100 + 8 * i) 8)) ∧
        (∀ j q, j < h.furrows.length → (h.fur j).resolved = some q →
          (h'.fur j).st = .running ∧ (h'.fur j).resolved = none ∧
          (h'.fur j).pc = BitVec.ofNat 64 (s.hbm.num (h.saveAt + 0x400 + 512 * j) 8) + if q.completed then 8#64 else 0#64) ∧
        ∀ j, j < h.furrows.length → (h.fur j).resolved = none → (readRec s.hbm (h.saveAt + 0x400 + 512 * j)).st = 1 →
          (h'.fur j).st = .running ∧ (h'.fur j).pc = BitVec.ofNat 64 (s.hbm.num (h.saveAt + 0x400 + 512 * j) 8))
    ∧ (h.stored = true → restoreBad s.hbm h.saveAt (savedProg s.hbm h.saveAt) h = true →
      exec (.herdResidency k) s = .next (run s (doubleTrap s h 15 2 255))))

/-- R6, R58, R85, R297, R354, R362, R363, R389, R390: with the save area left as the save wrote it, a restore gives back every register,
tag, tile and counter of the herd with the marks of its uncorrectable errors, its furrow records and its tape context; without a trap in
progress the reserved fields of the trap record are zero. The words of lanes that have exited are free values (log entry 80), of which
nothing is said. -/
def Obligations.SavingAndRestoringKeepsTheContext : Prop :=
  ∀ (s : State) (h g : Herd) (a : Nat) (m : Memory),
    HerdShape h → HerdShape g → g.nregs = h.nregs → g.width = h.width → g.nacc = h.nacc → g.furrows.length = h.furrows.length →
    m = (run s (saveContext s h a)).hbm →
    SameContext h ((restoreRegs m a g).foldl Herd.act g) ∧
    (∀ f, f < h.furrows.length →
      SameFurrow (h.fur f) (readRec m (a + (if h.handler.isSome then 0x1400 else 0x400) + 512 * f))) ∧
    ((∀ k ∈ h.derr, k / 64 < 16 ∧ k % 64 < h.width ∧ h.exited (k % 64) = false) → keptDerr m a h = h.derr) ∧
    ((∀ k ∈ h.accErr, k / 4096 < h.nacc) → keptAccErr m a h = h.accErr) ∧
    (h.handler = none → savedProg m a = false ∧ m.byte (a + 7) = 0#8 ∧ m.byte (a + 3) = 0#8 ∧ (m.byte a) &&& 0x30#8 = 0#8 ∧
      ∀ i, 0x28 ≤ i → i < 0x40 → m.byte (a + i) = 0#8) ∧ (h.handler.isSome = true → savedProg m a = savedProg s.hbm a) ∧
    (h.tape.active = false → restoreTape m a g = TapeCtx.none) ∧
    (h.tape.active = true → (∀ f, f < h.furrows.length → StreamShape (h.tape.stream f)) →
      SameTape h.tape (restoreTape m a g) h.furrows.length)

/-- R202, R213, R214, R230 to R232, R274, R275, R277, R278, R417: the words whose completion waits for an answer. A site's compare-and-swap stores
the new word when the memory word is still the old one; a stalled `sow` posts its card, the first of those that wait for the queue; a
remote load or store completes with its answers, which a store's local lanes wait for where a format is to come; a format that the WID
refuses traps with class 0 cause 7 and no lane stores; and a local lane's error traps with cause 10, an answer with an error, or none in
time from the peers, with cause 8. A herd that has ended meanwhile takes no trap (R202). The order of those three traps (log entry 73), that
all lanes of a word are answered in one event (log entry 19), what such a trap leaves of the site's word (log entry 20), and the place of a
group among stalled posts (log entry 74), are the model's choices. -/
def Obligations.HeldWordsComplete : Prop :=
  (∀ (s : State) (k : HerdKey) (h : Herd) (f pa : Nat) (x : Hold) (old new : Word) (widen : Bool),
    s.herd? k = some h → HeldBy h f x → x.why = .rewrite pa old new widen → lineOwned s pa 8 = false →
    ∃ t, exec (.siteRewrite k f) s = .next t ∧ OneHerd s t k { h with holds := holdsWithout h x } ∧
      (s.hbm.num pa 8 ≠ old.toNat → t = { s with herds := t.herds }) ∧
      (s.hbm.num pa 8 = old.toNat →
        t = { s with herds := t.herds, hbm := t.hbm, coreRegs := t.coreRegs, crews := t.crews, ocache := t.ocache } ∧
        t.hbm.num pa 8 = new.toNat ∧ (∀ p, p < pa ∨ pa + 8 ≤ p → t.hbm.byte p = s.hbm.byte p) ∧
        t.coreReg h.core (if widen then 0x044 else 0x043)
          = BitVec.ofNat 64 (min ((s.coreReg h.core (if widen then 0x044 else 0x043)).toNat + 1) (2 ^ 64 - 1))))
  ∧ (∀ (s : State) (k : HerdKey) (h : Herd) (f core d : Nat) (x : Hold) (card : Card),
    s.herd? k = some h → HeldBy h f x → x.why = .sow card core d → queueFull s core card.prio = false →
    sowsBefore s core card.prio (postRank h core card.prio x.group) = 0 → (∀ j ∈ bitsOf x.group 8, j < h.furrows.length) →
    ∃ t h', exec (.sowStalledPost k f) s = .next t ∧ OneHerd s t k h' ∧ HeldAdvanced h h' x ∧
      t = { s with herds := t.herds, counts := t.counts, fields := t.fields, seeds := t.seeds } ∧
      h' = { h with s := h'.s, furrows := h'.furrows, holds := holdsWithout h x, late := h.overrule d } ∧ h'.sreg d = 0#64 ∧
      (∀ n, n ≠ d → h'.sreg n = h.sreg n) ∧
      t.seeds = s.seeds ++ [{ core := core, prio := card.prio, part := k.crew.part, field := (nextFieldId s k.crew.part).toNat }] ∧
      t.fields = s.fields ++ [{ part := k.crew.part, id := (nextFieldId s k.crew.part).toNat, card := card, home := core
                                admitted := 0, ended := 0, aborted := false, phases := [] }])
  ∧ (∀ (s : State) (k : HerdKey) (h : Herd) (f core d : Nat) (x : Hold) (card : Card),
    s.herd? k = some h → HeldBy h f x → x.why = .sow card core d →
    (queueFull s core card.prio = true ∨ sowsBefore s core card.prio (postRank h core card.prio x.group) ≠ 0) →
    exec (.sowStalledPost k f) s = .next s)
  ∧ (∀ (s : State) (k : HerdKey) (h : Herd) (f : Nat) (x : Hold) (r : RemoteOp) (ans : List LaneAnswer) (p : Plan),
    s.herd? k = some h → HeldBy h f x → x.why = .remote r → ans.map (fun a => a.lane) = r.waiting.map (fun q => q.1) →
    (r.site.isSome = true → lineOwned s r.pa 8 = false) → laterWaits s k x.group h.core r = false → (∀ j ∈ bitsOf x.group 8, j < h.furrows.length) →
    p = r.plan (answerFmts s r ans) →
    (fmtRefused r.site r.wid (answerFmts s r ans) p = true → TrapFree h x.group →
      ∃ t0, exec (.remoteAnswer k f ans) s = .next (run t0 (if h.ended then [] else
          takeTrap t0 { h with holds := holdsWithout h x } (heldTrap h x.group 0 7 255 0))) ∧
        OneHerd s t0 k { h with holds := holdsWithout h x } ∧
        t0 = { s with herds := t0.herds, hbm := t0.hbm, coreRegs := t0.coreRegs, crews := t0.crews, ocache := t0.ocache } ∧
        (∀ q, q < r.pa ∨ r.pa + 8 ≤ q → t0.hbm.byte q = s.hbm.byte q) ∧ (∀ y, r.site = some y → y.ss ≠ 2 → t0.hbm = s.hbm) ∧
        ∀ y new b, r.site = some y → y.ss = 2 → p.rw = some (new, b) → s.hbm.num r.pa 8 = y.word.toNat → t0.hbm.num r.pa 8 = new.toNat)
    ∧ (∀ tr : TrapReq, fmtRefused r.site r.wid (answerFmts s r ans) p = false → TrapFree h x.group →
      ((∃ b, r.spoilt = some b ∧ tr = trapAt 2 10 b.1 b.2) ∨
        (r.spoilt = none ∧ ∃ q, r.waiting.find? (answerFails s r ans) = some q ∧ tr = trapAt 2 8 q.1 q.2.1)) →
      ∃ t0, exec (.remoteAnswer k f ans) s = .next (run t0 (if h.ended then [] else
          takeTrap t0 { h with holds := holdsWithout h x } (heldTrap h x.group 2 tr.cause tr.lane tr.addr))) ∧
        OneHerd s t0 k { h with holds := holdsWithout h x } ∧
        t0 = { s with herds := t0.herds, hostMem := t0.hostMem, hbm := t0.hbm, hbmErr := t0.hbmErr, coreRegs := t0.coreRegs
                      crews := t0.crews, ocache := t0.ocache, l1 := t0.l1 } ∧
        (hostStores s r ans = [] → t0.hostMem = s.hostMem) ∧
        (r.site = none → r.later = [] → r.seen = [] → t0 = { s with herds := t0.herds, hostMem := t0.hostMem }) ∧
        (p.rw = none → r.spoilt = none → Stored s t0 ((r.stores s).map (fun q => (q.2.1, leBytes (2 ^ r.wid) q.2.2.toNat)))) ∧
        (p.rw = none → r.spoilt.isSome = true → t0.hbm = s.hbm ∧ t0.crews = s.crews) ∧
        ∀ y new, r.site = some y → p.rw = some (new, true) → s.hbm.num r.pa 8 = y.word.toNat → t0.hbm.num r.pa 8 = new.toNat)
    ∧ (r.kind = 1 → r.op = none → fmtRefused r.site r.wid (answerFmts s r ans) p = false → p.rw = none → r.spoilt = none → r.seen = [] →
      (∀ q ∈ r.waiting, answerFails s r ans q = false ∧ r.space q.2.1 = 5) →
      ∃ t h', exec (.remoteAnswer k f ans) s = .next t ∧ OneHerd s t k h' ∧ HeldAdvanced h h' x ∧
        h' = { h with furrows := h'.furrows, holds := holdsWithout h x } ∧
        t = { s with herds := t.herds, hbm := t.hbm, hbmErr := t.hbmErr, crews := t.crews, ocache := t.ocache, l1 := t.l1 } ∧
        Stored s t ((r.stores s).map (fun q => (q.2.1, leBytes (2 ^ r.wid) q.2.2.toNat))))
    ∧ (r.site = none → r.later = [] → r.seen = [] → r.spoilt = none → r.kind = 0 → r.op = none → r.uni = false → (∀ q ∈ r.waiting, answerFails s r ans q = false) →
      (∀ l ∈ r.active, l < 64 ∧ l ∈ (r.waiting.map (fun q => q.1))) → r.vals = [] → (r.waiting.map (fun q => q.1)).Nodup →
      ∃ t h', exec (.remoteAnswer k f ans) s = .next t ∧ t = { s with herds := t.herds } ∧ OneHerd s t k h' ∧
        HeldAdvanced h h' x ∧ h' = { h with v := h'.v, vtag := h'.vtag, furrows := h'.furrows, holds := holdsWithout h x } ∧
        (∀ l ∈ r.active, ∀ j, j < regCount r.wid →
          h'.vreg (r.d + j) l = loadWord r.nib r.wid (answerData ans l) j) ∧
        (∀ j, j < regCount r.wid → h'.tagOf (r.d + j) = r.nib % 16) ∧
        (∀ n l, l < 64 → ¬ (r.d ≤ n ∧ n < r.d + regCount r.wid ∧ l ∈ r.active) → h'.vreg n l = h.vreg n l))
    ∧ (r.site = none → r.later = [] → r.seen = [] → r.spoilt = none → r.kind = 1 → r.op = none → (∀ q ∈ r.waiting, answerFails s r ans q = false) →
      (∀ q ∈ r.waiting, r.space q.2.1 = 6) → (r.waiting.map (fun q => fld q.2.1 47 0 / 2 ^ r.wid)).Nodup →
      (∀ q ∈ r.waiting, fld q.2.1 47 0 % 2 ^ r.wid = 0) →
      ∃ t h', exec (.remoteAnswer k f ans) s = .next t ∧ t = { s with herds := t.herds, hostMem := t.hostMem } ∧ OneHerd s t k h' ∧
        HeldAdvanced h h' x ∧ h' = { h with furrows := h'.furrows, holds := holdsWithout h x } ∧
        (∀ q ∈ r.waiting, ∀ i, i < 2 ^ r.wid →
          t.hostMem.byte (fld q.2.1 47 0 + i) = BitVec.ofNat 8 (q.2.2.toNat / 2 ^ (8 * i))) ∧
        (∀ p, (∀ q ∈ r.waiting, p < fld q.2.1 47 0 ∨ fld q.2.1 47 0 + 2 ^ r.wid ≤ p) → t.hostMem.byte p = s.hostMem.byte p)))
  ∧ (∀ (s : State) (k : HerdKey) (h : Herd) (f : Nat) (x : Hold) (r : RemoteOp) (q : Nat × Word × BitVec 128)
    (rest : List (Nat × Word × BitVec 128)),
    s.herd? k = some h → HeldBy h f x → x.why = .remote r → r.waiting = q :: rest → (∀ u ∈ r.waiting, r.space u.2.1 = 5) →
    r.site = none → r.later = [] → r.seen = [] → r.spoilt = none → TrapFree h x.group →
    exec (.peerTimeout k f) s = .next (run { s with herds := (s.act (.herd k (.holds (holdsWithout h x)))).herds }
      (if h.ended then [] else takeTrap { s with herds := (s.act (.herd k (.holds (holdsWithout h x)))).herds }
        { h with holds := holdsWithout h x } (heldTrap h x.group 2 8 q.1 q.2.1))))

/-- R33, R215, R400 to R402: the head of a core's queue admits its next crew onto its home core, in the lowest admission slots that no
herd has nor keeps a context for (log entry 44), and the core's L1 is empty after (log entry 43); a head that crews of lower priority
keep out, with none of its requests unfinished, asks, of those that hold some of what it lacks, for the one of the lowest
priority that was admitted last, with its field where the field has acre or field barriers. -/
def Sys2Proof.AdmissionCompletes : Prop :=
  (∀ (s : State) (core : Nat) (q : Seed) (f : FieldRec), seedHead s core = some q → s.field? q.part q.field = some f →
    f.card.ab = 0 → f.card.fb = 0 → planHead s core = [core] →
    ∃ t, exec (.admission core) s = .next t ∧
      t = { s with herds := t.herds, crews := t.crews, fields := t.fields, seeds := t.seeds, coreRegs := t.coreRegs, l1 := t.l1
                   nextOrder := s.nextOrder + 1 + f.card.herds } ∧
      t.herds = s.herds ++ newHerds s f.card ⟨q.part, q.field, f.admitted⟩ core ∧
      unasked t.crews = unasked (s.crews ++ [Crew.fresh { key := ⟨q.part, q.field, f.admitted⟩, core := core
                                                          herds := f.card.herds, tileLen := 1024 * f.card.tilek
                                                          order := s.nextOrder }]) ∧
      t.field? q.part q.field = some { f with admitted := f.admitted + 1 } ∧ Counted1 s t core 0x046 ∧
      (∀ z, z ∈ t.l1 ↔ z ∈ s.l1 ∧ z.core ≠ core) ∧
      t.seeds = if f.card.crews ≤ f.admitted + 1 then s.seeds.filter (fun z => decide (z.part ≠ q.part ∨ z.field ≠ q.field))
        else s.seeds)
  ∧ (∀ (s : State) (core : Nat) (q : Seed) (f : FieldRec) (v : Crew) (lacked : Crew → Bool), seedHead s core = some q →
    s.field? q.part q.field = some f → planHead s core = [] → (∀ c ∈ s.crews, ∀ r, c.pre = some r → r.core ≠ some core) →
    headRoom (without s (fun c => c.pre.isSome)) core q f < headRoom (without (without s (fun c => c.pre.isSome)) (fun x =>
      (lowerOn s core q.prio).any (fun u => withCrew s u x))) core q f →
    v ∈ lowerOn s core q.prio → v.pre = none → lacked = holdsLacked (without s (fun c => c.pre.isSome)) f.card core
      (planned (headPlan (without s (fun c => c.pre.isSome)) core q f) core) → lacked v = true →
    (∀ c ∈ lowerOn s core q.prio, c.pre = none → lacked c = true → c ≠ v → v.prio s < c.prio s ∨ (v.prio s = c.prio s ∧ c.order < v.order)) →
    (s.crews.map (fun c => c.key)).Nodup →
    ∃ t, exec (.admission core) s = .next t ∧ t = { s with crews := t.crews } ∧
      t.crews = s.crews.map (fun c => if withCrew s v c && c.saved.isNone then
        { c with pre := some { area := c.pre.bind (fun r => r.area), host := c.pre.any (fun r => r.host), core := some core } } else c))

/-- R202, R413: an ended crew gives its resources back; the last crew of a field ends the field, with a completion record when
the card asks for one; that its DETAIL is 0 and it stands at once is the model's choice (log entry 29). -/
def Sys2Proof.CrewReleaseCompletes : Prop :=
  ∀ (s : State) (c : CrewKey) (cr : Crew) (f : FieldRec), s.crew? c = some cr → cr.pre = none → crewBusy s c = false →
    (∀ h ∈ s.herds, h.key.crew = c → h.ended = true ∧ h.tape.closed = []) → s.field? c.part c.field = some f →
    f.aborted = false →
    ∃ t, exec (.crewRelease c) s = .next t ∧
      t = { s with herds := t.herds, crews := t.crews, slots := t.slots, ocache := t.ocache, fields := t.fields, comps := t.comps } ∧
      t.crews = s.crews.filter (fun x => decide (x.key ≠ c)) ∧ t.slots = s.slots.filter (fun x => decide (x.crew ≠ some c)) ∧
      t.ocache = s.ocache.filter (fun e => decide (e.crew ≠ c)) ∧ (∀ h, h ∈ t.herds ↔ h ∈ s.herds ∧ h.key.crew ≠ c) ∧
      (f.ended + 1 < f.card.crews → t.field? c.part c.field = some { f with ended := f.ended + 1 } ∧ t.comps = s.comps) ∧
      (f.card.crews ≤ f.ended + 1 → t.fields = s.fields.filter (fun x => decide (x.part ≠ f.part ∨ x.id ≠ f.id)) ∧
        t.comps = if f.card.notify then
          s.comps ++ [{ part := c.part, typ := 1, status := 0, tag := f.card.tag, field := f.id, detail := 0 }] else s.comps)

/-- R33, R202, R215, R400 to R402, R413: admission and the release of an ended crew: the head of a core's queue admits its next crew,
or asks for the pre-emption of a crew of lower priority, and an ended crew gives its resources back. That the core's L1 is discarded at
an admission (log entry 43) and which admission slots its herds take (log entry 44) are the model's, and so are the fields
of the type-1 record of a released field (log entry 29). -/
def Obligations.AdmissionAndReleaseComplete : Prop := Sys2Proof.AdmissionCompletes ∧ Sys2Proof.CrewReleaseCompletes

/-- R365, R366: the grant of the lowest free save area (log entry 44), the save of a herd at a save point, whose waits end or go on (log
entry 32), and the timeout's stop and forced save, which counts in both counters (log entry 31). -/
def Sys2Proof.HerdsAreSaved : Prop :=
  (∀ (s : State) (c : CrewKey) (cr : Crew) (r : PreReq) (i : Nat), s.crew? c = some cr → cr.pre = some r → r.area = none →
    i < fld (s.partReg c.part 0x104) 15 0 → areaUsed s c.part i = false → (∀ j, j < i → areaUsed s c.part j = true) →
    ∃ t, exec (.crewSaveAreaGrant c) s = .next t ∧ t = { s with crews := t.crews } ∧
      t.crew? c = some { cr with pre := some { r with area := some i } } ∧ ∀ d, d ≠ c → t.crew? d = s.crew? d)
  ∧ (∀ (s : State) (k : HerdKey) (h : Herd) (cr : Crew), s.herd? k = some h → HerdShape h → s.crew? k.crew = some cr →
    unsaved s h = true → atSavePoint s h = true → h.resident = true → h.boarding = none → h.pend = [] → h.tape.closed = [] →
    (∀ y ∈ h.tape.streams, y.dirty = false) →
    ∃ t h', exec (.preemptHerdSave k) s = .next t ∧ OneHerd s t k h' ∧
      h' = { h with resident := false, stored := true, saveAt := saveArea s h, holds := [], tape := h.tape.cleaned
                    furrows := h.furrows.map waitSaved, late := lateSaved h } ∧
      (∀ i, i < 64 → t.hbm.num (saveArea s h + 0x100 + 8 * i) 8 = (h.sreg i).toNat) ∧
      (∀ p, p < saveArea s h ∨ saveArea s h + 0x44000 ≤ p → t.hbm.byte p = s.hbm.byte p) ∧
      (∃ cr', t.crew? k.crew = some cr' ∧ cr'.savedHerds = cr.savedHerds ++ [k.herd] ∧ cr'.pre = cr.pre) ∧
      (∀ q, q ∈ t.parked ↔ q ∈ s.parked ∧ q.key ≠ some k) ∧ Counted1 s t h.core 0x107 ∧
      t = { s with herds := t.herds, hbm := t.hbm, crews := t.crews, ocache := t.ocache, parked := t.parked, coreRegs := t.coreRegs
                   freeCtr := t.freeCtr })
  ∧ (∀ (s : State) (c : CrewKey) (h : Herd), (crewHerds s c).filter (unsaved s) = [h] → s.herd? h.key = some h →
    h.resident = true → h.boarding = none → h.pend = [] → HerdShape h → h.tape.closed = [] → (∀ y ∈ h.tape.streams, y.dirty = false) →
    (forceWaits s c [h] = true → (∀ x ∈ h.holds, x.why ≠ .stop) →
      ∃ t, exec (.preemptTimeout c) s = .next t ∧ t = { s with herds := t.herds } ∧
        OneHerd s t h.key { h with holds := h.holds ++ [{ group := 0xFF#8, why := .stop }] })
    ∧ (forceWaits s c [h] = false →
      ∃ t h', exec (.preemptTimeout c) s = .next t ∧ OneHerd s t h.key h' ∧
        h' = { h with resident := false, stored := true, saveAt := saveArea s h, holds := [], tape := h.tape.cleaned
                      furrows := h.furrows.map waitSaved, late := lateSaved h } ∧
        (∀ i, i < 64 → t.hbm.num (saveArea s h + 0x100 + 8 * i) 8 = (h.sreg i).toNat) ∧
        Counted1 s t h.core 0x107 ∧ Counted1 s t h.core 0x108))

/-- R367 to R369, R414: the crew save area, and the readmission of a saved crew whose field declares no acre or field barrier; one that
comes back on another core has left its landing slots behind (log entry 81), and that core's L1 is discarded (DEDUCED, log entry 43);
copies that disagree are a double trap, whose record names the crew's first herd (log entry 105). -/
def Sys2Proof.CrewsAreSavedAndRestored : Prop :=
  (∀ (s : State) (c : CrewKey) (cr : Crew) (f : FieldRec) (i : Nat) (o : Option Nat), s.crews.filter (fun y => decide (y.key = c)) = [cr] →
    s.field? c.part c.field = some f → f.card.ab = 0 → f.card.fb = 0 → f.card.cb ≤ 16 →
    cr.pre = some { area := some i, host := false, core := o } → cr.saved = none → crewOver s cr = false → crewBusy s c = false →
    herdsSaved s cr = true → cr.tileLen ≤ 2 ^ 21 →
    ∃ t, exec (.crewSaveComplete c) s = .next t ∧
      (∃ cr', t.crew? c = some cr' ∧ cr'.saved = some i ∧ cr'.pre = none ∧ cr'.savedHerds = [] ∧
        ∀ w ∈ cr'.windows, w.secs = []) ∧
      (∀ o, o < cr.tileLen → t.hbm.byte (crewArea s c.part i + 0x10000 + o) = cr.tile.byte o) ∧
      t.hbm.num (crewArea s c.part i) 8 = cr.tileLen ∧
      (∀ b, b < f.card.cb → t.hbm.num (crewArea s c.part i + 0x400 + 32 * b + 0x10) 4
        = (f.phase c.crew 0 b).toNat) ∧
      (∀ p, p < crewArea s c.part i ∨ crewArea s c.part i + 0x210000 ≤ p → t.hbm.byte p = s.hbm.byte p) ∧
      (∀ e ∈ t.ocache, e.crew ≠ c) ∧ t = { s with hbm := t.hbm, crews := t.crews, ocache := t.ocache })
  ∧ (∀ (s : State) (c : CrewKey) (cr : Crew) (f : FieldRec) (i x : Nat), s.crews.filter (fun y => decide (y.key = c)) = [cr] →
    s.field? c.part c.field = some f → f.card.ab = 0 → f.card.fb = 0 → cr.saved = some i → crewOver s cr = false →
    restorePlan s f [cr] [] = some [x] → restoreFits s f [cr] [x] = true →
    (s.herds.map (fun h => h.key)).Nodup →
    ∃ t cr', exec (.crewRestore c) s = .next t ∧ t.crew? c = some cr' ∧ cr'.saved = none ∧ cr'.core = x ∧
      (∀ o, o < cr.tileLen → cr'.tile.byte o = s.hbm.byte (crewArea s c.part i + 0x10000 + o)) ∧
      (∀ h ∈ s.herds, h.key.crew = c → ∃ h', t.herd? h.key = some h' ∧ h'.slice = h.slice ∧
        h' = { h with bars := h'.bars, readyAt := s.nextOrder, core := x, slot := h'.slot
                      boarding := if x = cr.core then h.boarding else h.boarding.map (fun y => { y with landed := [] }) } ∧
        ∀ b, b < f.card.cb → h'.barSt 0 b = barFromCopy s cr (0, b) h.key.herd) ∧
      (∀ h ∈ s.herds, h.key.crew ≠ c → t.herd? h.key = some h) ∧
      (x = cr.core → t.l1 = s.l1) ∧ (x ≠ cr.core → ∀ z, z ∈ t.l1 ↔ z ∈ s.l1 ∧ z.core ≠ x) ∧
      t.lends = s.lends.map (fun l => { l with saved := l.saved.filter (fun k => k ≠ c) }) ∧
      (x = cr.core → t.slots = s.slots) ∧
      (x ≠ cr.core → (∀ h ∈ s.herds, h.key.crew = c → h.boarding.isSome = true → ∀ y ∈ t.slots, y.board ≠ some h.key) ∧
        ∀ y ∈ s.slots, (∀ h ∈ s.herds, h.key.crew = c → y.board ≠ some h.key) → y ∈ t.slots) ∧
      t = { s with herds := t.herds, crews := t.crews, fields := t.fields, ocache := t.ocache, l1 := t.l1, lends := t.lends
                   slots := t.slots, nextOrder := s.nextOrder + 1 })
  ∧ (∀ (s : State) (c : CrewKey) (cr : Crew) (f : FieldRec) (cs : List Crew) (l : List Nat) (h : Herd) (hs : List Herd),
    s.crew? c = some cr → s.field? c.part c.field = some f → cr.saved.isSome = true → crewOver s cr = false →
    cs = s.crews.filter (fun y => withCrew s cr y && !crewOver s y) → (∀ y ∈ cs, y.saved.isSome = true) →
    restorePlan s f cs [] = some l → restoreFits s f cs l = true → copiesDisagree s cs f.card = true → crewHerds s c = h :: hs →
    exec (.crewRestore c) s = .next (run s (doubleTrap s h 15 3 255)))

/-- R364 to R369: the pre-emption of a crew, from its save area to its readmission. That the lowest free save area is
granted (log entry 44), that slots are left behind (log entry 81) and which herd a record names (log entry 105) are the model's choices; that
a forced save counts in both counters (log entry 31), which waits survive a save (log entry 32) and that a restore on another core discards
that core's L1 (log entry 43) are its readings. -/
def Obligations.PreemptionEventsComplete : Prop := Sys2Proof.HerdsAreSaved ∧ Sys2Proof.CrewsAreSavedAndRestored

/-- R116, R396, R397, R410, R412, R414: the doorbell, the read of a launch-queue entry, which waits for a copy that owns the entry's line and
for the `sow`s stalled on its queue, and the writes of completion and fault records; the fields that no rule fills are the model's choice (log entries 30, 38). -/
def Obligations.HostQueueEventsComplete : Prop :=
  (∀ (s : State) (p : Nat) (v : BitVec 64), hostOn s p = true →
    ∃ t, exec (.lqtail p v) s = .next t ∧ t = { s with hostRegs := t.hostRegs } ∧ HostRegSet s t p 0x018 v)
  ∧ (∀ (s : State) (p : Nat), EntryWaits s p →
    (readEntry s p (entryAddr s p) = .later → exec (.launchQueueEntryRead p) s = .next s)
    ∧ (∀ bs c, readEntry s p (entryAddr s p) = .card bs → c = cardOf bs →
      (cardStatus s p c c.home false false ≠ 0 → ∃ t, exec (.launchQueueEntryRead p) s = .next t ∧
        t = { s with hostRegs := t.hostRegs, comps := t.comps } ∧ HostRegSet s t p 0x010 (s.hostReg p 0x010 + 1) ∧
        t.comps = s.comps ++ [{ part := p, typ := 2, status := cardStatus s p c c.home false false, tag := c.tag, field := 0
                                detail := BitVec.ofNat 64 (cardStatus s p c c.home false false) }])
      ∧ (cardStatus s p c c.home false false = 0 → queueFull s c.home c.prio = false → sowsStalled s c.home c.prio = [] →
        ∃ t, exec (.launchQueueEntryRead p) s = .next t ∧ HostRegSet s t p 0x010 (s.hostReg p 0x010 + 1) ∧
          t = { s with hostRegs := t.hostRegs, counts := t.counts, fields := t.fields, seeds := t.seeds } ∧
          t.seeds = s.seeds ++ [{ core := c.home, prio := c.prio, part := p, field := (nextFieldId s p).toNat }] ∧
          t.fields = s.fields ++ [{ part := p, id := (nextFieldId s p).toNat, card := c, home := c.home, admitted := 0, ended := 0
                                    aborted := false, phases := [] }])
      ∧ (cardStatus s p c c.home false false = 0 → (queueFull s c.home c.prio = true ∨ sowsStalled s c.home c.prio ≠ []) →
        exec (.launchQueueEntryRead p) s = .next s))
    ∧ (∀ cls cause, readEntry s p (entryAddr s p) = .fault cls cause →
      (cls ≠ 4 → ∃ t, exec (.launchQueueEntryRead p) s = .next t ∧ t = { s with hostRegs := t.hostRegs, comps := t.comps } ∧
        HostRegSet s t p 0x010 (s.hostReg p 0x010 + 1) ∧
        t.comps = s.comps ++ [{ part := p, typ := 2, status := 6, tag := 0, field := 0
                                detail := BitVec.ofNat 64 (6 + 2 ^ 8 * cls + 2 ^ 16 * cause) }])
      ∧ (cls = 4 → ∃ t, exec (.launchQueueEntryRead p) s = .next t ∧
        t = { s with counts := t.counts, faults := t.faults, parked := t.parked } ∧
        t.faults = s.faults ++ [{ part := p, seq := (nextSeq s p).toNat, kind := 1, cause := cause, core := 0xFF, slot := 0xFF
                                  addr := entryAddr s p, field := 0, lane := 0xFF, cls := 0 }] ∧
        ∃ q, t.parked = s.parked ++ [q] ∧ q.part = p ∧ q.seq = (nextSeq s p).toNat ∧ q.key = none)))
  ∧ (∀ (s : State) (p : Nat) (pre post : List Comp) (c : Comp), s.comps = pre ++ c :: post → (∀ x ∈ pre, x.part ≠ p) → c.part = p →
    hostOn s p = true → queueOpen s p 0x020 = true → c.tag < 2 ^ 32 → c.status < 2 ^ 24 → c.typ < 2 ^ 8 → c.field < 2 ^ 64 →
    ∃ t, exec (.completionRecordWrite p) s = .next t ∧ t.comps = pre ++ post ∧
      RecordAt s t (recordAddr s p 0x020) (c.tag * 2 ^ 32 + c.status * 2 ^ 8 + c.typ) c.field c.detail.toNat ∧
      HostRegSet s t p 0x038 (s.hostReg p 0x038 + 1) ∧
      t = { s with comps := t.comps, hostMem := t.hostMem, hostRegs := t.hostRegs, time := t.time, freeCtr := s.freeCtr + 1 })
  ∧ (∀ (s : State) (p : Nat) (pre post : List FaultRec) (r : FaultRec), s.faults = pre ++ r :: post → (∀ x ∈ pre, x.part ≠ p) →
    r.part = p → hostOn s p = true → queueOpen s p 0x040 = true → r.seq < 2 ^ 32 → r.kind < 2 ^ 8 → r.cause < 2 ^ 8 →
    r.core < 2 ^ 8 → r.slot < 2 ^ 8 → r.field < 2 ^ 32 → r.lane < 2 ^ 8 → r.cls < 2 ^ 4 →
    ∃ t, exec (.faultRecordWrite p) s = .next t ∧ t.faults = pre ++ post ∧
      RecordAt s t (recordAddr s p 0x040)
        (r.slot * 2 ^ 56 + r.core * 2 ^ 48 + r.cause * 2 ^ 40 + r.kind * 2 ^ 32 + r.seq) r.addr.toNat
        (r.cls * 2 ^ 40 + r.lane * 2 ^ 32 + r.field) ∧
      HostRegSet s t p 0x058 (s.hostReg p 0x058 + 1) ∧
      t = { s with faults := t.faults, hostMem := t.hostMem, hostRegs := t.hostRegs, time := t.time, freeCtr := s.freeCtr + 1 })

/-- R120, R410, R414: the plain registers of the page, and the answer to a parked page fault. -/
def Sys2Proof.HostAnswersComplete : Prop :=
  (∀ (s : State) (p off : Nat) (v : BitVec 64), hostOn s p = true →
    (off ∈ [0x030, 0x050, 0x080, 0x088, 0x090] ∨ (off ∈ [0x000, 0x008] ∧ s.hostReg p 0x010 = s.hostReg p 0x018)
      ∨ (off ∈ [0x020, 0x028] ∧ s.hostReg p 0x030 = s.hostReg p 0x038)
      ∨ (off ∈ [0x040, 0x048] ∧ s.hostReg p 0x050 = s.hostReg p 0x058) →
      ∃ t, exec (.hostRegisterWrite p off v) s = .next t ∧ t = { s with hostRegs := t.hostRegs } ∧ HostRegSet s t p off v)
    ∧ (off ∉ [0x000, 0x008, 0x020, 0x028, 0x030, 0x040, 0x048, 0x050, 0x080, 0x088, 0x090] →
      exec (.hostRegisterWrite p off v) s = .next s)
    ∧ (off ∈ [0x000, 0x008] → s.hostReg p 0x010 ≠ s.hostReg p 0x018 → exec (.hostRegisterWrite p off v) s = .next s))
  ∧ (∀ (s : State) (p : Nat) (v : BitVec 64), (∀ x ∈ s.parked, ¬ (x.part = p ∧ x.seq = fld v 31 0)) →
    exec (.fresp p v) s = .next s)
  ∧ (∀ (s : State) (p : Nat) (v : BitVec 64) (q : Parked) (k : HerdKey) (h : Herd),
    s.parked.find? (fun x => decide (x.part = p) && decide (x.seq = fld v 31 0)) = some q → q.key = some k → s.herd? k = some h →
    (v.getLsbD 32 = false → h.resident = true → h.handler = none →
      ∃ t h', exec (.fresp p v) s = .next t ∧ t = { s with herds := t.herds, parked := t.parked } ∧
        (∀ x, x ∈ t.parked ↔ x ∈ s.parked ∧ x ≠ q) ∧ OneHerd s t k h' ∧ FurrowsOnly h h' ∧
        ∀ j, h'.fur j = if j ∈ h.waitingOn (.fault q.seq) then { h.fur j with st := .running } else h.fur j)
    ∧ (v.getLsbD 32 = true → h.resident = true → h.handler = none → TrapFree h (furMask (h.waitingOn (.fault q.seq))) →
      ∃ t1 h1, exec (.fresp p v) s
          = .next (run t1 (takeTrap t1 h1 (faultTrap h q (h.waitingOn (.fault q.seq))))) ∧
        t1 = { s with herds := t1.herds, parked := t1.parked } ∧ OneHerd s t1 k h1 ∧ FurrowsOnly h h1 ∧ q ∉ t1.parked ∧
        ∀ j, h1.fur j = if j ∈ h.waitingOn (.fault q.seq) then { h.fur j with st := .running } else h.fur j))
  ∧ (∀ (s : State) (p : Nat) (v : BitVec 64) (q : Parked),
    s.parked.find? (fun x => decide (x.part = p) && decide (x.seq = fld v 31 0)) = some q → q.key = none → v.getLsbD 32 = false →
    ∃ t, exec (.fresp p v) s = .next t ∧ t = { s with parked := t.parked } ∧ ∀ x, x ∈ t.parked ↔ x ∈ s.parked ∧ x ≠ q)

/-- The report of a request: over the nonce, the firmware's and the blob's digests, and the objects by arena address (R284, R421). -/
def Sys2Proof.reportOf (s : State) (r : AttestReq) (n : Nat) : List Byte :=
  Config.attestReport n (Memory.bytes s.hostMem r.addr.toNat 64) s.fwDigest s.blobDigest r.objs

/-- R284, R415, R416, R421: registration with its SHA-384 measurement, pre-emption requests and attestation. That the device reads the
image when the registration completes (log entry 37), and the event fields that no rule fills (log entry 30), are the model's choices. -/
def Sys2Proof.HostRequestsComplete : Prop :=
  (∀ (s : State) (p : Nat) (v : BitVec 64), hostOn s p = true →
    (∃ t, exec (.reggo p v) s = .next t ∧ t = { s with regs := t.regs } ∧
      t.regs = s.regs ++ [{ part := p, va := s.hostReg p 0x080, src := s.hostReg p 0x090, len := fld (s.hostReg p 0x088) 20 0
                            tag := fld v 31 0 }])
    ∧ (∃ t, exec (.attest p v) s = .next t ∧ t = { s with attests := t.attests } ∧
      t.attests = s.attests ++ [{ part := p, addr := v
                                  objs := (s.objs.filter (fun o => decide (o.part = p))).map (fun o => (o.va, o.digest)) }])
    ∧ ((∀ c ∈ s.crews, ¬ (c.key.part = p ∧ c.key.field = fld v 31 0)) →
      ∃ t, exec (.preempt p v) s = .next t ∧ t = { s with comps := t.comps } ∧
        t.comps = s.comps ++ [{ part := p, typ := 5, status := 1, tag := 0, field := fld v 31 0, detail := 0 }])
    ∧ (∀ f, s.field? p (fld v 31 0) = some f → f.aborted = false →
      (∃ c ∈ s.crews, c.key.part = p ∧ c.key.field = fld v 31 0 ∧ c.saved = none) →
      ∃ t, exec (.preempt p v) s = .next t ∧ t = { s with crews := t.crews } ∧ t.crews.length = s.crews.length ∧
        ∀ c ∈ t.crews, c.key.part = p → c.key.field = fld v 31 0 → c.saved = none → ∃ r, c.pre = some r ∧ r.host = true))
  ∧ (∀ (s : State) (p : Nat) (pre post : List RegReq) (r : RegReq) (err : Bool) (o : CodeObj),
    s.regs = pre ++ r :: post → (∀ x ∈ pre, x.part ≠ p) → r.part = p →
    (regStatus s p r.va r.len err ≠ 0 →
      ∃ t, exec (.registrationComplete p err) s = .next t ∧ t = { s with regs := t.regs, comps := t.comps } ∧ t.regs = pre ++ post ∧
        t.comps = s.comps ++ [{ part := p, typ := 4, status := regStatus s p r.va r.len err, tag := r.tag, field := 0
                                detail := r.va }])
    ∧ (regStatus s p r.va r.len err = 0 → o.part = p → o.va = r.va → o.words.length = r.len →
      (∀ i, i < r.len → (o.words.getD i 0#64).toNat = s.hostMem.num (r.src.toNat + 8 * i) 8) →
      some o.pages = objPages s p r.va r.len → o.digest = sha384 (o.words.flatMap (fun z => leBytes 8 z.toNat)) →
      ∃ t, exec (.registrationComplete p err) s = .next t ∧ t.regs = pre ++ post ∧
        t.objs = s.objs.filter (fun x => decide (x.part ≠ p ∨ x.va ≠ r.va)) ++ [o] ∧ t.hbm = putAll s.hbm (objectBytes o) ∧
        t.comps = s.comps ++ [{ part := p, typ := 4, status := 0, tag := r.tag, field := 0, detail := r.va }] ∧
        t = { s with regs := t.regs, comps := t.comps, objs := t.objs, hbm := t.hbm, crews := t.crews, ocache := t.ocache }))
  ∧ (∀ (s : State) (p : Nat) (pre post : List AttestReq) (r : AttestReq), s.attests = pre ++ r :: post → (∀ x ∈ pre, x.part ≠ p) →
    r.part = p →
    ∃ t n, exec (.attestationWritten p) s = .next t ∧ t.attests = pre ++ post ∧
      (∀ i, i < (reportOf s r n).length → t.hostMem.byte (r.addr.toNat + 64 + i) = (reportOf s r n).getD i 0#8) ∧
      (∀ a, a < r.addr.toNat + 64 ∨ r.addr.toNat + 64 + (reportOf s r n).length ≤ a → t.hostMem.byte a = s.hostMem.byte a) ∧
      t.comps = s.comps ++ [{ part := p, typ := 6, status := 0, tag := 0, field := 0, detail := 0 }] ∧
      t = { s with attests := t.attests, hostMem := t.hostMem, comps := t.comps, freeCtr := s.freeCtr + 1 })

/-- R417: accesses by peers, and the links. -/
def Sys2Proof.PeersAreServed : Prop :=
  (∀ (s : State) (r : PeerRequest), servesPeer s r = false → exec (.peerAccessRequest r) s = .next s)
  ∧ (∀ (s : State) (r : PeerRequest) (l e : Nat) (pa : Nat), servesPeer s r = true → hostOn s r.target = true →
    r.va.toNat % peerWidth r.op = 0 → walk s r.target r.va.toNat = .leaf l (BitVec.ofNat 64 e) →
    pa = leafPA l (BitVec.ofNat 64 e) r.va.toNat → permFault (peerKind r.op) false (BitVec.ofNat 64 e) = none →
    lineOwned s pa (peerWidth r.op) = false → s.hbmErr.contains (sectorOf pa) = false →
    (∀ n, r.op = .load n → exec (.peerAccessRequest r) s = .next s)
    ∧ (∀ n x, r.op = .store n x → ∃ t, exec (.peerAccessRequest r) s = .next t ∧ t.hbm = s.hbm.put pa (leBytes n x.toNat) ∧
      t = { s with hbm := t.hbm, crews := t.crews, ocache := t.ocache })
    ∧ (∀ o x y, r.op = .atomic o x y → o ≠ .cas → ∃ t, exec (.peerAccessRequest r) s = .next t ∧
      t.hbm = s.hbm.put pa (leBytes 4 (atomOp o (BitVec.ofNat 32 (s.hbm.num pa 4)) x).toNat) ∧
      t = { s with hbm := t.hbm, crews := t.crews, ocache := t.ocache }))
  ∧ (∀ (s : State) (l : Nat), l < 16 →
    (∃ t, exec (.poljorLinkDown l) s = .next t ∧ t = { s with linksDown := t.linksDown } ∧
      ∀ m, m ∈ t.linksDown ↔ m = l ∨ m ∈ s.linksDown)
    ∧ (∃ t, exec (.poljorLinkUp l) s = .next t ∧ t = { s with linksDown := t.linksDown } ∧
      ∀ m, m ∈ t.linksDown ↔ m ≠ l ∧ m ∈ s.linksDown))

/-- R120, R284, R410, R414 to R417, R421: what the host and the peers do through the register page and the links. Fields of
records that no rule fills (log entry 30), the order of a registration's checks (log entry 37), unused bits of the page (log entry 39) and
the level of a peer's request (log entry 40) are the model's. -/
def Obligations.HostAndPeerEventsComplete : Prop := Sys2Proof.HostAnswersComplete ∧ Sys2Proof.HostRequestsComplete ∧ Sys2Proof.PeersAreServed

/-- R418 to R420: lending and recall of an acre, and boot with its recovery. -/
def Obligations.ManagementEventsComplete : Prop :=
  (∀ (s : State) (acre p d j : Nat) (c : PartCfg) (b : Blob), s.boot = .enabled → s.cfg = some b → s.partCfg p = some c → 0 < d →
    d ≤ 65535 → lendOf s acre = none → ownsAcre s p acre = false → (∃ q ∈ b.parts, acre ∈ q.acres) →
    (∀ x ∈ s.crews, acreOf x.core = acre → ownsAcre s x.key.part acre = false) → j < c.lmax → slotHeld s p j = false →
    (∀ i, i < j → slotHeld s p i = true) →
    ∃ t, exec (.lend acre p d) s = .next t ∧ t = { s with lends := t.lends } ∧
      lendOf t acre = some { acre := acre, borrower := p, deadline := d, slot := j, recalling := false, done := false, saved := [] } ∧
      (∀ core, acreOf core = acre → coreInPart t p core = true ∧ ∀ q, q ≠ p → coreInPart t q core = false) ∧
      ∀ l ∈ s.lends, l.done = false → l ∈ t.lends)
  ∧ (∀ (s : State) (acre p d : Nat) (c : PartCfg), s.partCfg p = some c → (∀ j, j < c.lmax → slotHeld s p j = true) →
    exec (.lend acre p d) s = .next s)
  ∧ (∀ (s : State) (acre : Nat) (l : Lend), lendOf s acre = some l → l.recalling = false →
    ∃ t, exec (.recallAcre acre) s = .next t ∧ t = { s with lends := t.lends, crews := t.crews } ∧
      lendOf t acre = some { l with recalling := true } ∧ recalling t acre = true ∧
      ∀ c ∈ t.crews, acreOf c.core = acre → c.saved = none → c.pre.isSome = true)
  ∧ (∀ (s : State) (acre : Nat) (l : Lend), lendOf s acre = some l → l.recalling = true →
    (∀ y ∈ s.lends, y.acre = acre → y.done = false → y = l) → (∀ c ∈ s.crews, acreOf c.core = acre → c.saved.isSome = true) →
    ∃ t, exec (.recallComplete acre) s = .next t ∧ t = { s with lends := t.lends } ∧
      (∀ q core, acreOf core = acre → coreInPart t q core = ownsAcre s q acre) ∧
      ∀ c ∈ s.crews, acreOf c.core = acre → c.key.part = l.borrower → (∀ x ∈ s.lends, c.key ∉ x.saved) →
        ∃ y ∈ t.lends, y.acre = acre ∧ y.borrower = l.borrower ∧ y.slot = l.slot ∧ y.done = true ∧ c.key ∈ y.saved)
  ∧ Boots .boot .reset ∧ Boots .recoveryImageReplace .failed

/-- R24, R125, R136, R158, R185, R253, R257, R356: at a group's turn, step is exec of the instruction that the eight bytes at its PC decode
to, in the state that its fetch leaves and with the group as the issuer, unless a pending trap has its turn, or the word names a register
that a word of another group is still to write (log entry 82) or waits for accesses that are posted (log entry 71), so that the turn passes.
The turn `post` posts the word's accesses, and what a group issues comes after each access that one of its furrows has posted. At an event's
turn step is exec of the event; and what comes from outside acts by itself. That the word is the one which memory holds in the turn that
issues it is the model's choice (log entry 83; R125 and R286 allow an older one). At the end of a step the holds of the ring are judged,
which changes nothing while no tile is held (R321). Which turn takes a pending trap is log entry 70. -/
def Obligations.StepRunsTheDecodedWord : Prop :=
  (∀ (s : State) (k : HerdKey) (f : Nat) (post : Bool) (ts : List Turn) (h : Herd) (s0 : State),
    s.schedule = (if post then .post k f else .issue k f) :: ts → s.herd? k = some h → s0 = { s with schedule := ts } →
    (trapTurn h f = true → step s = judged (.next (run s0 (takePending k s0))))
    ∧ ∀ (pa : Nat) (word : Word) (i : Instr), trapTurn h f = false → h.canIssue f = true →
      fetchWord s0 h (h.fur f).pc = .word pa word → decodeBytes (s.hbm.bytes pa 8) = .ok (i, []) →
      (regBusy h word = true ∨ postedWaits s h f post word = true → step s = judged (.next s0)) ∧
      (regBusy h word = false → postedWaits s h f post word = false → ∃ u, step s = judged (exec i u) ∧
        u = { run s0 (fetchTrace s0 h (h.fur f).pc ++ seenActs h f) with
                posted := s.posted.map (fun p => if p.own h.key (furMask (h.group f))
                  then { p with group := p.group ||| furMask (h.group f) } else p)
                issuer := some { key := k, f := f, pa := pa, post := post } }))
  ∧ (∀ (s : State) (e : Instr) (ts : List Turn), s.schedule = .event e :: ts → e.header = none →
    step s = judged (exec e { s with schedule := ts, issuer := none }))
  ∧ (∀ (s : State) (o : Outside) (ts : List Turn), s.schedule = .outside o :: ts →
    step s = judged (.next (run { s with schedule := ts } (outsideActs o { s with schedule := ts }))))
  ∧ ∀ s : State, (∀ u ∈ s.ring.tiles, u.held = false) → judged (.next s) = .next s

/-- What a fetch traps with (R97, R103, R118, R125, R199, R422): a misaligned PC, a reserved space code, a non-zero field, a page with
CA = 0, as every page outside the code arena has (R283), or a word with an uncorrectable error (log entry 69). -/
def Sys2Proof.FetchTraps (s : State) (h : Herd) (pc : Word) (cls cause : Nat) : Prop :=
  (pc.toNat % 8 ≠ 0 ∧ (cls, cause) = (1, 0)) ∨
  (pc.toNat % 8 = 0 ∧ 7 ≤ fld pc 63 60 ∧ (cls, cause) = (2, 1)) ∨
  (pc.toNat % 8 = 0 ∧ fld pc 63 60 < 7 ∧ fld pc 63 48 ≠ 0 ∧ (cls, cause) = (2, 2)) ∨
  (pc.toNat % 8 = 0 ∧ fld pc 63 48 = 0 ∧ ∃ l e, (xlate s h.core h.key.crew.part (fld pc 47 0)).res = .leaf l e ∧
    ((e.getLsbD 7 = false ∧ (cls, cause) = (2, 9)) ∨
     (e.getLsbD 7 = true ∧ (e.getLsbD 5 = true ∨ h.sup = true) ∧ sectorOf (leafPA l e (fld pc 47 0)) ∈ s.hbmErr ∧
       (cls, cause) = (2, 10))))

/-- What a fetch parks with (R118, R120, R422): the walk's causes, and cause 3 at user level on a page with US = 0. -/
def Sys2Proof.FetchParks (s : State) (h : Herd) (pc : Word) (cause : Nat) : Prop :=
  pc.toNat % 8 = 0 ∧ fld pc 63 48 = 0 ∧ ((xlate s h.core h.key.crew.part (fld pc 47 0)).res = .bad cause ∨
    ∃ l e, (xlate s h.core h.key.crew.part (fld pc 47 0)).res = .leaf l e ∧ e.getLsbD 7 = true ∧ e.getLsbD 5 = false ∧
      h.sup = false ∧ cause = 3)

/-- R118, R120, R125, R199, R357, R360, R422: a fetch that meets a fault traps at the PC, a double trap in a herd with a trap in
progress, and one that meets a page fault parks its group. -/
def Obligations.FetchFaultsTrapOrPark : Prop :=
  ∀ (s : State) (k : HerdKey) (f : Nat) (ts : List Turn) (h : Herd) (pc : Word) (s0 : State),
    s.schedule = .issue k f :: ts → s.herd? k = some h → h.canIssue f = true → pc = (h.fur f).pc → s0 = { s with schedule := ts } →
    h.pend = [] →
    (∀ cls cause, FetchTraps s0 h pc cls cause → h.handler = none → trapWaits h (furMask (h.group f)) = false →
      step s = judged (.next (run s0 (fetchTrace s0 h pc ++ trapEntry s0 h
        { cls := cls, cause := cause, code := 0, lane := 255, addr := pc, tile := 0, group := furMask (h.group f), pc := pc, resume := pc }))))
    ∧ (∀ cls cause, FetchTraps s0 h pc cls cause → h.handler.isSome = true →
      step s = judged (.next (run s0 (fetchTrace s0 h pc ++ doubleTrap s0 h cls cause 255))))
    ∧ (∀ cause, FetchParks s0 h pc cause → ∃ t h', step s = judged (.next t) ∧ ParksOn s0 t k h h' (h.group f) cause 255 pc)

/-- R125 to R131, R139, R140: words that the manual writes out decode to the instructions that it gives beside them. -/
def Obligations.WordsOfTheManualDecode : Prop :=
  (∀ p ∈ specWords, decodeBytes (leBytes 8 p.1.toNat) = .ok (p.2, [])) ∧ ∀ bs, bs.length < 8 → decodeBytes bs = .error .shortWord

/-- R126, R127, R139, R142: decoding the bytes of the word of a well-formed instruction gives it back, every operand at every
value. -/
def Obligations.DecodeOfEncode : Prop :=
  ∀ (i : Instr) (w : Word) (rest : List Byte), i.wf = true → encode i = some w → decodeBytes (leBytes 8 w.toNat ++ rest) = .ok (i, rest)

/-- R126, R127, R139, R140: what any word decodes to is well-formed, and its word is that one: each word has one meaning. -/
def Obligations.EncodeOfDecode : Prop := ∀ w : Word, (decodeWord w).wf = true ∧ encode (decodeWord w) = some w

/-- R22, R33, R96, R218: every step keeps the canonical form of memory, registers and counters, s0 unwritten, and a herd's
furrows at eight or fewer. -/
def Obligations.StepKeepsSoundState : Prop := ∀ s t : State, Inv s → step s = .next t → Inv t

/-- R7, R46, R57, R327, R370, R407, R409, R410, R420: reset leaves a sound state: the registers at the values that their tables
give, every counter and page register at zero, no herd, crew, card or copy, an idle ring, and no virtual function enabled. That
the five registers of R409 are zero before boot (log entry 4), and the lap counters at reset (log entry 88), is the model's choice. -/
def Obligations.ResetIsSound : Prop :=
  Inv State.reset ∧
  (∀ core, State.reset.coreReg core 0x080 = 2048#64 ∧ State.reset.coreReg core 0x081 = 50#64 ∧
    State.reset.coreReg core 0x083 = 0x48#64 ∧ ∀ n, n < 4096 → n ≠ 0x080 → n ≠ 0x081 → n ≠ 0x083 → State.reset.coreReg core n = 0#64) ∧
  (∀ p, State.reset.partReg p 0x105 = 20#64 ∧ State.reset.partReg p 0x0D2 = 256#64 ∧
    ∀ n ∈ [0x082, 0x100, 0x102, 0x103, 0x104], State.reset.partReg p n = 0#64) ∧
  (∀ p off, State.reset.hostReg p off = 0#64 ∧ hostOn State.reset p = false) ∧
  State.reset.herds = [] ∧ State.reset.crews = [] ∧ State.reset.seeds = [] ∧ State.reset.copies = [] ∧ State.reset.cmds = [] ∧
  State.reset.ring = Ring.reset ∧ State.reset.boot = .reset ∧ pickTurn State.reset = none

/-- R33: a herd begins with the state of the table, and state that the table does not name starts at zero. -/
def Obligations.NewHerdsBeginAsTheTableSays : Prop :=
  ∀ (i : HerdInit) (h : Herd), h = Herd.fresh i → i.width = 8 ∨ i.width = 16 ∨ i.width = 32 ∨ i.width = 64 →
    (h.sreg 0 = 0#64 ∧ ∀ n x, ((h.act (.s n x)).sreg 0 = 0#64)) ∧
    h.sreg 1 = i.args ∧ h.sreg 2 = BitVec.ofNat 64 i.key.herd ∧ h.sreg 3 = BitVec.ofNat 64 i.key.crew.crew ∧
    h.sreg 4 = BitVec.ofNat 64 i.core ∧ (∀ n, 5 ≤ n → h.sreg n = 0#64) ∧
    (∀ l, l < i.width → h.vreg 1 l = BitVec.ofNat 32 l) ∧ h.tagOf 1 = 2 ∧
    (∀ n l, n ≠ 1 → l < 64 → h.vreg n l = 0#32 ∧ h.tagOf n = 0) ∧
    (∀ n l, h.delem n l = { w := 2 ^ 24, x := 0#32 } :: List.replicate 7 { w := 0, x := 0#32 } ∧ h.dmask n = 0#16) ∧
    (∀ t r c, h.accEl t r c = 0#32) ∧ h.accPoison = 0 ∧
    h.furrows = List.replicate (i.width / 8) { pc := i.entry, path := 0xFF#8, stack := [], grp := 0, st := .running
                                               hcnt := List.replicate 16 0#16, rank := i.order, resolved := none } ∧
    (∀ f, f < i.width / 8 → h.group 0 = List.range (i.width / 8) ∧ h.pathLanes f = (List.range 8).map (fun b => 8 * f + b)) ∧
    h.tape = TapeCtx.none ∧ h.tape.active = false ∧ h.tape.streams = [] ∧
    h.cvsat = 0 ∧ h.cvflush = 0 ∧ h.cvnan = 0 ∧ h.cvlim = 0 ∧ h.copies = 0 ∧ h.latch = none ∧ h.more = 0 ∧
    h.boarding = none ∧ h.bars = [] ∧ h.holds = [] ∧ h.handler = none ∧ h.pend = [] ∧ h.derr = [] ∧ h.accErr = []

/-- R70, R160, R161, R163, R168: the integer arithmetic of the lanes is that of bit vectors, element by element, and saturates
under `.sat`; and `mulhi`, the high half of the product, completes with it. -/
def Obligations.IntegerLanesAreBitVectors : Prop :=
  Lane2Word .mulhi ruleInts (· = 0#8) (fun _ => laneMulhi) ∧
  ∀ (x y : Lane) (rm : RMode) (sat : Bool) (c w n i : Nat), (c, w, n) ∈ [(1, 32, 1), (2, 32, 1), (10, 8, 4), (11, 16, 2)] → i < n →
    el w i (laneMulhi c rm sat x y) = BitVec.ofInt w (elInt c w i x * elInt c w i y / 2 ^ w) ∧
    el w i (laneAdd c rm false x y) = el w i x + el w i y ∧ el w i (laneSub c rm false x y) = el w i x - el w i y ∧
    el w i (laneMul c rm false x y) = el w i x * el w i y ∧ el w i (laneNeg c rm false x y) = - el w i x ∧
    el w i (laneAbs c rm false x y) = BitVec.ofInt w (elInt c w i x).natAbs ∧
    elInt c w i (laneAdd c rm true x y) = clampInt c w (elInt c w i x + elInt c w i y) ∧
    elInt c w i (laneSub c rm true x y) = clampInt c w (elInt c w i x - elInt c w i y) ∧
    elInt c w i (laneMul c rm true x y) = clampInt c w (elInt c w i x * elInt c w i y) ∧
    elInt c w i (laneMin c rm sat x y) = min (elInt c w i x) (elInt c w i y) ∧
    elInt c w i (laneMax c rm sat x y) = max (elInt c w i x) (elInt c w i y) ∧
    el w i (bits2 shlEl c rm sat x y) = el w i x <<< (el w i y).toNat ∧ el w i (bits2 shrEl c rm sat x y) = el w i x >>> (el w i y).toNat ∧
    el w i (bits2 sarEl c rm sat x y) = (el w i x).sshiftRight (el w i y).toNat ∧
    el w i (bits2 rotEl c rm sat x y) = (el w i x).rotateLeft (el w i y).toNat

/-- R335 to R337, R342: every element reads canonically, an element that is canonical reads as itself, and what the condenser makes of
pairs whose NaNs are canonical is a canonical element, whose list stays in atom order through its merges (log entry 26). -/
def Obligations.CanonicalReadingIsCanonical : Prop :=
  (∀ e : List Atom, e.length = 8 → IsCanonical (canonical e)) ∧ (∀ e : List Atom, IsCanonical e → canonical e = e) ∧
  ∀ p : List Atom, (p.map (fun a => a.w)).sum = 2 ^ 48 → (∀ a ∈ p, isNan32 a.x = true → a.x = nan32) → IsCanonical (condense p)
end

