-- ==== Sys2Proof/Laws/Encoding.lean ====
section
/-! SUPPORT. The fields of a word that the encoder builds: each format, the header and the opcode read back as they were
put (R126, R127). -/

namespace Sys2Proof

theorem getLsbD_wordOf_low (op : Nat) (h : Header) (b : BitVec 40) (i : Nat) (hi : i < 40) :
    (wordOf op h b).getLsbD i = b.getLsbD i :=
  (BitVec.getLsbD_append ..).trans (by rw [if_pos hi])

theorem getLsbD_wordOf_high (op : Nat) (h : Header) (b : BitVec 40) (i : Nat) :
    (wordOf op h b).getLsbD (40 + i) = (headBits op h).getLsbD i :=
  (BitVec.getLsbD_append ..).trans (by rw [if_neg (by omega)]; congr 1; omega)

/-- A field of bits [39:0] of a word is that field of its body. -/
theorem extract_wordOf_low (op : Nat) (h : Header) (b : BitVec 40) (lo n : Nat) (hn : lo + n ≤ 40) :
    (wordOf op h b).extractLsb' lo n = b.extractLsb' lo n := by
  apply BitVec.eq_of_getLsbD_eq
  intro i hi
  rw [BitVec.getLsbD_extractLsb', BitVec.getLsbD_extractLsb', getLsbD_wordOf_low _ _ _ _ (by omega)]

/-- A field of bits [63:40] of a word is that field of its head. -/
theorem extract_wordOf_high (op : Nat) (h : Header) (b : BitVec 40) (lo n : Nat) :
    (wordOf op h b).extractLsb' (40 + lo) n = (headBits op h).extractLsb' lo n := by
  apply BitVec.eq_of_getLsbD_eq
  intro i hi
  rw [BitVec.getLsbD_extractLsb', BitVec.getLsbD_extractLsb', Nat.add_assoc, getLsbD_wordOf_high]

/-- A field that lies in the low part of an append. -/
theorem extract_append_low {w v : Nat} (x : BitVec w) (y : BitVec v) (lo n : Nat) (hn : lo + n ≤ v) :
    (x ++ y).extractLsb' lo n = y.extractLsb' lo n := by
  apply BitVec.eq_of_getLsbD_eq
  intro i hi
  rw [BitVec.getLsbD_extractLsb', BitVec.getLsbD_extractLsb', BitVec.getLsbD_append, if_pos (by omega)]

/-- A field that lies in the high part of an append. -/
theorem extract_append_high {w v : Nat} (x : BitVec w) (y : BitVec v) (lo n : Nat) :
    (x ++ y).extractLsb' (v + lo) n = x.extractLsb' lo n := by
  apply BitVec.eq_of_getLsbD_eq
  intro i hi
  rw [BitVec.getLsbD_extractLsb', BitVec.getLsbD_extractLsb', BitVec.getLsbD_append, if_neg (by omega)]
  congr 2; omega

theorem extract_self {v : Nat} (y : BitVec v) : y.extractLsb' 0 v = y := by
  apply BitVec.eq_of_getLsbD_eq
  intro i hi
  rw [BitVec.getLsbD_extractLsb']; simp [hi]

theorem getLsbD_append_low {w v : Nat} (x : BitVec w) (y : BitVec v) (i : Nat) (hi : i < v) :
    (x ++ y).getLsbD i = y.getLsbD i := by rw [BitVec.getLsbD_append, if_pos hi]

theorem getLsbD_append_high {w v : Nat} (x : BitVec w) (y : BitVec v) (i : Nat) :
    (x ++ y).getLsbD (v + i) = x.getLsbD i := by
  rw [BitVec.getLsbD_append, if_neg (by omega)]; congr 1; omega

theorem getLsbD_ofBool (b : Bool) : (BitVec.ofBool b).getLsbD 0 = b := by cases b <;> rfl

/-- The header reads back as it was put. -/
theorem hdrOf_wordOf (op : Nat) (h : Header) (b : BitVec 40) : hdrOf (wordOf op h b) = h := by
  obtain ⟨ss, wc, u, pe, pn, pk, pr⟩ := h
  simp only [hdrOf, Header.mk.injEq]
  refine ⟨?_, ?_, ?_, ?_, ?_, ?_, ?_⟩
  · exact (extract_wordOf_high _ _ _ 12 2).trans <| (extract_append_high _ pr 7 2).trans <|
      (extract_append_high _ (BitVec.ofBool pk) 6 2).trans <| (extract_append_high _ (BitVec.ofBool pn) 5 2).trans <|
      (extract_append_high _ (BitVec.ofBool pe) 4 2).trans <| (extract_append_high _ (BitVec.ofBool u) 3 2).trans <|
      (extract_append_high _ wc 0 2).trans <| (extract_append_low _ ss 0 2 (by omega)).trans (extract_self ss)
  · exact (extract_wordOf_high _ _ _ 9 3).trans <| (extract_append_high _ pr 4 3).trans <|
      (extract_append_high _ (BitVec.ofBool pk) 3 3).trans <| (extract_append_high _ (BitVec.ofBool pn) 2 3).trans <|
      (extract_append_high _ (BitVec.ofBool pe) 1 3).trans <| (extract_append_high _ (BitVec.ofBool u) 0 3).trans <|
      (extract_append_low _ wc 0 3 (by omega)).trans (extract_self wc)
  · exact (getLsbD_wordOf_high _ _ _ 8).trans <| (getLsbD_append_high _ pr 3).trans <|
      (getLsbD_append_high _ (BitVec.ofBool pk) 2).trans <| (getLsbD_append_high _ (BitVec.ofBool pn) 1).trans <|
      (getLsbD_append_high _ (BitVec.ofBool pe) 0).trans <| (getLsbD_append_low _ (BitVec.ofBool u) 0 (by omega)).trans
      (getLsbD_ofBool u)
  · exact (getLsbD_wordOf_high _ _ _ 7).trans <| (getLsbD_append_high _ pr 2).trans <|
      (getLsbD_append_high _ (BitVec.ofBool pk) 1).trans <| (getLsbD_append_high _ (BitVec.ofBool pn) 0).trans <|
      (getLsbD_append_low _ (BitVec.ofBool pe) 0 (by omega)).trans (getLsbD_ofBool pe)
  · exact (getLsbD_wordOf_high _ _ _ 6).trans <| (getLsbD_append_high _ pr 1).trans <|
      (getLsbD_append_high _ (BitVec.ofBool pk) 0).trans <|
      (getLsbD_append_low _ (BitVec.ofBool pn) 0 (by omega)).trans (getLsbD_ofBool pn)
  · exact (getLsbD_wordOf_high _ _ _ 5).trans <| (getLsbD_append_high _ pr 0).trans <|
      (getLsbD_append_low _ (BitVec.ofBool pk) 0 (by omega)).trans (getLsbD_ofBool pk)
  · exact (extract_wordOf_high _ _ _ 0 5).trans <| (extract_append_low _ pr 0 5 (by omega)).trans (extract_self pr)

/-- The opcode reads back as it was put. -/
theorem opOf_wordOf (op : Nat) (h : Header) (b : BitVec 40) (hop : op < 1024) : opOf (wordOf op h b) = op := by
  have e : (wordOf op h b).extractLsb' 54 10 = BitVec.ofNat 10 op := by
    obtain ⟨ss, wc, u, pe, pn, pk, pr⟩ := h
    exact (extract_wordOf_high _ _ _ 14 10).trans <| (extract_append_high _ pr 9 10).trans <|
      (extract_append_high _ (BitVec.ofBool pk) 8 10).trans <| (extract_append_high _ (BitVec.ofBool pn) 7 10).trans <|
      (extract_append_high _ (BitVec.ofBool pe) 6 10).trans <| (extract_append_high _ (BitVec.ofBool u) 5 10).trans <|
      (extract_append_high _ wc 2 10).trans <| (extract_append_high _ ss 0 10).trans (extract_self _)
  unfold opOf
  rw [e]; simp; omega

theorem f3Of_wordOf (op : Nat) (h : Header) (x : F3) : f3Of (wordOf op h x.bits) = x := by
  obtain ⟨d, a, b, fn, mb⟩ := x
  simp only [f3Of, F3.mk.injEq]
  refine ⟨?_, ?_, ?_, ?_, ?_⟩ <;> rw [extract_wordOf_low _ _ _ _ _ (by omega)]
  · exact (extract_append_high _ mb 24 8).trans <| (extract_append_high _ fn 16 8).trans <|
      (extract_append_high _ b 8 8).trans <| (extract_append_high _ a 0 8).trans (extract_self d)
  · exact (extract_append_high _ mb 16 8).trans <| (extract_append_high _ fn 8 8).trans <|
      (extract_append_high _ b 0 8).trans <| (extract_append_low _ a 0 8 (by omega)).trans (extract_self a)
  · exact (extract_append_high _ mb 8 8).trans <| (extract_append_high _ fn 0 8).trans <|
      (extract_append_low _ b 0 8 (by omega)).trans (extract_self b)
  · exact (extract_append_high _ mb 0 8).trans <| (extract_append_low _ fn 0 8 (by omega)).trans (extract_self fn)
  · exact (extract_append_low _ mb 0 8 (by omega)).trans (extract_self mb)

theorem f4Of_wordOf (op : Nat) (h : Header) (x : F4) : f4Of (wordOf op h x.bits) = x := by
  obtain ⟨d, a, b, c, mb⟩ := x
  have e := f3Of_wordOf op h { d := d, a := a, b := b, fn := c, mb := mb }
  simp only [f3Of, F3.mk.injEq] at e
  simp only [f4Of, F4.mk.injEq]
  exact e

theorem fiOf_wordOf (op : Nat) (h : Header) (x : FI) : fiOf (wordOf op h x.bits) = x := by
  obtain ⟨d, a, imm, mb⟩ := x
  simp only [fiOf, FI.mk.injEq]
  refine ⟨?_, ?_, ?_, ?_⟩ <;> rw [extract_wordOf_low _ _ _ _ _ (by omega)]
  · exact (extract_append_high _ mb 24 8).trans <| (extract_append_high _ imm 8 8).trans <|
      (extract_append_high _ a 0 8).trans (extract_self d)
  · exact (extract_append_high _ mb 16 8).trans <| (extract_append_high _ imm 0 8).trans <|
      (extract_append_low _ a 0 8 (by omega)).trans (extract_self a)
  · exact (extract_append_high _ mb 0 16).trans <| (extract_append_low _ imm 0 16 (by omega)).trans (extract_self imm)
  · exact (extract_append_low _ mb 0 8 (by omega)).trans (extract_self mb)

theorem flOf_wordOf (op : Nat) (h : Header) (x : FL) : flOf (wordOf op h x.bits) = x := by
  obtain ⟨d, imm⟩ := x
  simp only [flOf, FL.mk.injEq]
  refine ⟨?_, ?_⟩ <;> rw [extract_wordOf_low _ _ _ _ _ (by omega)]
  · exact (extract_append_high _ imm 0 8).trans (extract_self d)
  · exact (extract_append_low _ imm 0 32 (by omega)).trans (extract_self imm)

theorem fmOf_wordOf (op : Nat) (h : Header) (x : FM) : fmOf (wordOf op h x.bits) = x := by
  obtain ⟨d, sb, vo, imm, spc, wid⟩ := x
  simp only [fmOf, FM.mk.injEq]
  refine ⟨?_, ?_, ?_, ?_, ?_, ?_⟩ <;> rw [extract_wordOf_low _ _ _ _ _ (by omega)]
  · exact (extract_append_high _ wid 29 8).trans <| (extract_append_high _ spc 26 8).trans <|
      (extract_append_high _ imm 14 8).trans <| (extract_append_high _ vo 6 8).trans <|
      (extract_append_high _ sb 0 8).trans (extract_self d)
  · exact (extract_append_high _ wid 23 6).trans <| (extract_append_high _ spc 20 6).trans <|
      (extract_append_high _ imm 8 6).trans <| (extract_append_high _ vo 0 6).trans <|
      (extract_append_low _ sb 0 6 (by omega)).trans (extract_self sb)
  · exact (extract_append_high _ wid 15 8).trans <| (extract_append_high _ spc 12 8).trans <|
      (extract_append_high _ imm 0 8).trans <| (extract_append_low _ vo 0 8 (by omega)).trans (extract_self vo)
  · exact (extract_append_high _ wid 3 12).trans <| (extract_append_high _ spc 0 12).trans <|
      (extract_append_low _ imm 0 12 (by omega)).trans (extract_self imm)
  · exact (extract_append_high _ wid 0 3).trans <| (extract_append_low _ spc 0 3 (by omega)).trans (extract_self spc)
  · exact (extract_append_low _ wid 0 3 (by omega)).trans (extract_self wid)

theorem fbOf_wordOf (op : Nat) (h : Header) (x : FB) : fbOf (wordOf op h x.bits) = x := by
  obtain ⟨off, ck, cn, cr, hid, rsv⟩ := x
  simp only [fbOf, FB.mk.injEq]
  refine ⟨?_, ?_, ?_, ?_, ?_, ?_⟩
  · rw [extract_wordOf_low _ _ _ _ _ (by omega)]
    exact (extract_append_high _ rsv 12 24).trans <| (extract_append_high _ hid 8 24).trans <|
      (extract_append_high _ cr 3 24).trans <| (extract_append_high _ (BitVec.ofBool cn) 2 24).trans <|
      (extract_append_high _ ck 0 24).trans (extract_self off)
  · rw [extract_wordOf_low _ _ _ _ _ (by omega)]
    exact (extract_append_high _ rsv 10 2).trans <| (extract_append_high _ hid 6 2).trans <|
      (extract_append_high _ cr 1 2).trans <| (extract_append_high _ (BitVec.ofBool cn) 0 2).trans <|
      (extract_append_low _ ck 0 2 (by omega)).trans (extract_self ck)
  · rw [getLsbD_wordOf_low _ _ _ _ (by omega)]
    exact (getLsbD_append_high _ rsv 9).trans <| (getLsbD_append_high _ hid 5).trans <|
      (getLsbD_append_high _ cr 0).trans <| (getLsbD_append_low _ (BitVec.ofBool cn) 0 (by omega)).trans
      (getLsbD_ofBool cn)
  · rw [extract_wordOf_low _ _ _ _ _ (by omega)]
    exact (extract_append_high _ rsv 4 5).trans <| (extract_append_high _ hid 0 5).trans <|
      (extract_append_low _ cr 0 5 (by omega)).trans (extract_self cr)
  · rw [extract_wordOf_low _ _ _ _ _ (by omega)]
    exact (extract_append_high _ rsv 0 4).trans <| (extract_append_low _ hid 0 4 (by omega)).trans (extract_self hid)
  · rw [extract_wordOf_low _ _ _ _ _ (by omega)]
    exact (extract_append_low _ rsv 0 4 (by omega)).trans (extract_self rsv)

theorem feOf_wordOf (op : Nat) (h : Header) (x : FE) : feOf (wordOf op h x.bits) = x := by
  obtain ⟨d, sa, sb, sf, e⟩ := x
  simp only [feOf, FE.mk.injEq]
  refine ⟨?_, ?_, ?_, ?_, ?_⟩ <;> rw [extract_wordOf_low _ _ _ _ _ (by omega)]
  · exact (extract_append_high _ e 18 8).trans <| (extract_append_high _ sf 12 8).trans <|
      (extract_append_high _ sb 6 8).trans <| (extract_append_high _ sa 0 8).trans (extract_self d)
  · exact (extract_append_high _ e 12 6).trans <| (extract_append_high _ sf 6 6).trans <|
      (extract_append_high _ sb 0 6).trans <| (extract_append_low _ sa 0 6 (by omega)).trans (extract_self sa)
  · exact (extract_append_high _ e 6 6).trans <| (extract_append_high _ sf 0 6).trans <|
      (extract_append_low _ sb 0 6 (by omega)).trans (extract_self sb)
  · exact (extract_append_high _ e 0 6).trans <| (extract_append_low _ sf 0 6 (by omega)).trans (extract_self sf)
  · exact (extract_append_low _ e 0 14 (by omega)).trans (extract_self e)

theorem fsOf_wordOf (op : Nat) (h : Header) (x : FS) : fsOf (wordOf op h x.bits) = x := by
  obtain ⟨d, a, sel, e⟩ := x
  simp only [fsOf, FS.mk.injEq]
  refine ⟨?_, ?_, ?_, ?_⟩ <;> rw [extract_wordOf_low _ _ _ _ _ (by omega)]
  · exact (extract_append_high _ e 24 8).trans <| (extract_append_high _ sel 8 8).trans <|
      (extract_append_high _ a 0 8).trans (extract_self d)
  · exact (extract_append_high _ e 16 8).trans <| (extract_append_high _ sel 0 8).trans <|
      (extract_append_low _ a 0 8 (by omega)).trans (extract_self a)
  · exact (extract_append_high _ e 0 16).trans <| (extract_append_low _ sel 0 16 (by omega)).trans (extract_self sel)
  · exact (extract_append_low _ e 0 8 (by omega)).trans (extract_self e)

end Sys2Proof
end

