-- ==== Sys2Proof/Laws/State.lean ====
section
/-! SUPPORT. What an act does to each field: one lemma per field, over every act, true by unfolding the act. -/

namespace Sys2Proof.Machine

@[simp] theorem State.act_schedule (s : State) (a : Act) : (s.act a).schedule = s.schedule := by
  cases a with | crew c a => cases a <;> rfl | _ => rfl

@[simp] theorem State.act_freeCtr (s : State) (a : Act) : (s.act a).freeCtr =
    (match a with
    | .free n => s.freeCtr + n
    | _ => s.freeCtr) := by
  cases a with | crew c a => cases a <;> rfl | _ => rfl

@[simp] theorem State.act_issuer (s : State) (a : Act) : (s.act a).issuer = s.issuer := by
  cases a with | crew c a => cases a <;> rfl | _ => rfl

@[simp] theorem State.act_boot (s : State) (a : Act) : (s.act a).boot =
    (match a with
    | .boot b _ => b
    | _ => s.boot) := by
  cases a with | crew c a => cases a <;> rfl | _ => rfl

@[simp] theorem State.act_cfg (s : State) (a : Act) : (s.act a).cfg =
    (match a with
    | .boot _ c => c
    | _ => s.cfg) := by
  cases a with | crew c a => cases a <;> rfl | _ => rfl

@[simp] theorem State.act_time (s : State) (a : Act) : (s.act a).time =
    (match a with
    | .time x => x
    | _ => s.time) := by
  cases a with | crew c a => cases a <;> rfl | _ => rfl

@[simp] theorem State.act_hbm (s : State) (a : Act) : (s.act a).hbm =
    (match a with
    | .mem pa bs _ => Memory.put s.hbm pa bs
    | .memZero pa n => Sparse.clear s.hbm pa (pa + n)
    | _ => s.hbm) := by
  cases a with | crew c a => cases a <;> rfl | _ => rfl

@[simp] theorem State.act_hbmErr (s : State) (a : Act) : (s.act a).hbmErr =
    (match a with
    | .memErr l => l
    | _ => s.hbmErr) := by
  cases a with | crew c a => cases a <;> rfl | _ => rfl

@[simp] theorem State.act_hostMem (s : State) (a : Act) : (s.act a).hostMem =
    (match a with
    | .hostMem a bs => Memory.put s.hostMem a bs
    | _ => s.hostMem) := by
  cases a with | crew c a => cases a <;> rfl | _ => rfl

@[simp] theorem State.act_coreRegs (s : State) (a : Act) : (s.act a).coreRegs =
    (match a with
    | .coreReg k x => Sparse.set coreReset s.coreRegs k x
    | .bump k n => Sparse.set coreReset s.coreRegs k
      (BitVec.ofNat 64 (min ((Sparse.get coreReset s.coreRegs k).toNat + n) (2 ^ 64 - 1)))
    | _ => s.coreRegs) := by
  cases a with | crew c a => cases a <;> rfl | _ => rfl

@[simp] theorem State.act_partRegs (s : State) (a : Act) : (s.act a).partRegs =
    (match a with
    | .partReg k x => Sparse.set partReset s.partRegs k x
    | _ => s.partRegs) := by
  cases a with | crew c a => cases a <;> rfl | _ => rfl

@[simp] theorem State.act_hostRegs (s : State) (a : Act) : (s.act a).hostRegs =
    (match a with
    | .hostReg k x => Sparse.set zeros s.hostRegs k x
    | _ => s.hostRegs) := by
  cases a with | crew c a => cases a <;> rfl | _ => rfl

@[simp] theorem State.act_counts (s : State) (a : Act) : (s.act a).counts =
    (match a with
    | .count k x => Sparse.set zeros s.counts k x
    | _ => s.counts) := by
  cases a with | crew c a => cases a <;> rfl | _ => rfl

@[simp] theorem State.act_l1 (s : State) (a : Act) : (s.act a).l1 =
    (match a with
    | .l1add l => capL1 (s.l1 ++ l)
    | .l1drop core => s.l1.filter (fun x => decide (x.core ≠ core))
    | .l1dropSec core sec => s.l1.filter (fun x => decide (x.core ≠ core ∨ x.sec ≠ sec))
    | .l1put core pa n => s.l1.map (l1Refresh s.hbm core pa n)
    | _ => s.l1) := by
  cases a with | crew c a => cases a <;> rfl | _ => rfl

@[simp] theorem State.act_tlb (s : State) (a : Act) : (s.act a).tlb =
    (match a with
    | .tlb l => l
    | .tlbAdd l => capTlb (s.tlb ++ l)
    | _ => s.tlb) := by
  cases a with | crew c a => cases a <;> rfl | _ => rfl

@[simp] theorem State.act_posted (s : State) (a : Act) : (s.act a).posted =
    (match a with
    | .posted l => l
    | _ => s.posted) := by
  cases a with | crew c a => cases a <;> rfl | _ => rfl

@[simp] theorem State.act_herds (s : State) (a : Act) : (s.act a).herds =
    (match a with
    | .herd k a => s.herds.map (fun h => if h.key = k then h.act a else h)
    | .addHerd i => s.herds ++ [Herd.fresh i]
    | .dropHerd k => s.herds.filter (fun h => decide (h.key ≠ k))
    | _ => s.herds) := by
  cases a with | crew c a => cases a <;> rfl | _ => rfl

@[simp] theorem State.act_crews (s : State) (a : Act) : (s.act a).crews =
    (match a with
    | .crew c a => s.crews.map (fun x => if x.key = c then x.act s.hbmErr a else x)
    | .addCrew i => s.crews ++ [Crew.fresh i]
    | .dropCrew c => s.crews.filter (fun x => decide (x.key ≠ c))
    | .mem pa bs own => s.crews.map (recallSectors pa bs.length own)
    | .memZero pa n => s.crews.map (recallSectors pa n none)
    | _ => s.crews) := by
  cases a with | crew c a => cases a <;> rfl | _ => rfl

@[simp] theorem State.act_fields (s : State) (a : Act) : (s.act a).fields =
    (match a with
    | .fields l => l
    | _ => s.fields) := by
  cases a with | crew c a => cases a <;> rfl | _ => rfl

@[simp] theorem State.act_seeds (s : State) (a : Act) : (s.act a).seeds =
    (match a with
    | .seeds l => l
    | _ => s.seeds) := by
  cases a with | crew c a => cases a <;> rfl | _ => rfl

@[simp] theorem State.act_copies (s : State) (a : Act) : (s.act a).copies =
    (match a with
    | .copies l => l
    | _ => s.copies) := by
  cases a with | crew c a => cases a <;> rfl | _ => rfl

@[simp] theorem State.act_cmds (s : State) (a : Act) : (s.act a).cmds =
    (match a with
    | .cmds l => l
    | _ => s.cmds) := by
  cases a with | crew c a => cases a <;> rfl | _ => rfl

@[simp] theorem State.act_nextCmd (s : State) (a : Act) : (s.act a).nextCmd =
    (match a with
    | .nextCmd n => n
    | _ => s.nextCmd) := by
  cases a with | crew c a => cases a <;> rfl | _ => rfl

@[simp] theorem State.act_ocache (s : State) (a : Act) : (s.act a).ocache =
    (match a with
    | .ocache l => l
    | .crew c (.tile lo bs) => dropCovered c lo bs.length s.ocache
    | .crew c (.touch id sec dirty) => dropTouched s.crews c id sec dirty s.ocache
    | .mem pa bs own => dropRecalled s.crews pa bs.length own s.ocache
    | .memZero pa n => dropRecalled s.crews pa n none s.ocache
    | _ => s.ocache) := by
  cases a with | crew c a => cases a <;> rfl | _ => rfl

@[simp] theorem State.act_ocLast (s : State) (a : Act) : (s.act a).ocLast =
    (match a with
    | .ocLast l => l
    | _ => s.ocLast) := by
  cases a with | crew c a => cases a <;> rfl | _ => rfl

@[simp] theorem State.act_leaveQ (s : State) (a : Act) : (s.act a).leaveQ =
    (match a with
    | .leaveQ l => l
    | _ => s.leaveQ) := by
  cases a with | crew c a => cases a <;> rfl | _ => rfl

@[simp] theorem State.act_conds (s : State) (a : Act) : (s.act a).conds =
    (match a with
    | .conds l => l
    | _ => s.conds) := by
  cases a with | crew c a => cases a <;> rfl | _ => rfl

@[simp] theorem State.act_slots (s : State) (a : Act) : (s.act a).slots =
    (match a with
    | .slots l => l
    | _ => s.slots) := by
  cases a with | crew c a => cases a <;> rfl | _ => rfl

@[simp] theorem State.act_slotGen (s : State) (a : Act) : (s.act a).slotGen =
    (match a with
    | .slotGen k x => Sparse.set zeros s.slotGen k x
    | _ => s.slotGen) := by
  cases a with | crew c a => cases a <;> rfl | _ => rfl

@[simp] theorem State.act_ring (s : State) (a : Act) : (s.act a).ring =
    (match a with
    | .ring r => r
    | _ => s.ring) := by
  cases a with | crew c a => cases a <;> rfl | _ => rfl

@[simp] theorem State.act_objs (s : State) (a : Act) : (s.act a).objs =
    (match a with
    | .objs l => l
    | _ => s.objs) := by
  cases a with | crew c a => cases a <;> rfl | _ => rfl

@[simp] theorem State.act_parked (s : State) (a : Act) : (s.act a).parked =
    (match a with
    | .parked l => l
    | _ => s.parked) := by
  cases a with | crew c a => cases a <;> rfl | _ => rfl

@[simp] theorem State.act_comps (s : State) (a : Act) : (s.act a).comps =
    (match a with
    | .comps l => l
    | _ => s.comps) := by
  cases a with | crew c a => cases a <;> rfl | _ => rfl

@[simp] theorem State.act_faults (s : State) (a : Act) : (s.act a).faults =
    (match a with
    | .faults l => l
    | _ => s.faults) := by
  cases a with | crew c a => cases a <;> rfl | _ => rfl

@[simp] theorem State.act_regs (s : State) (a : Act) : (s.act a).regs =
    (match a with
    | .regs l => l
    | _ => s.regs) := by
  cases a with | crew c a => cases a <;> rfl | _ => rfl

@[simp] theorem State.act_attests (s : State) (a : Act) : (s.act a).attests =
    (match a with
    | .attests l => l
    | _ => s.attests) := by
  cases a with | crew c a => cases a <;> rfl | _ => rfl

@[simp] theorem State.act_lends (s : State) (a : Act) : (s.act a).lends =
    (match a with
    | .lends l => l
    | _ => s.lends) := by
  cases a with | crew c a => cases a <;> rfl | _ => rfl

@[simp] theorem State.act_linksDown (s : State) (a : Act) : (s.act a).linksDown =
    (match a with
    | .linksDown l => l
    | _ => s.linksDown) := by
  cases a with | crew c a => cases a <;> rfl | _ => rfl

@[simp] theorem State.act_nextOrder (s : State) (a : Act) : (s.act a).nextOrder =
    (match a with
    | .nextOrder n => n
    | _ => s.nextOrder) := by
  cases a with | crew c a => cases a <;> rfl | _ => rfl

@[simp] theorem State.act_fwDigest (s : State) (a : Act) : (s.act a).fwDigest =
    (match a with
    | .digests fw _ => fw
    | _ => s.fwDigest) := by
  cases a with | crew c a => cases a <;> rfl | _ => rfl

@[simp] theorem State.act_blobDigest (s : State) (a : Act) : (s.act a).blobDigest =
    (match a with
    | .digests _ bl => bl
    | _ => s.blobDigest) := by
  cases a with | crew c a => cases a <;> rfl | _ => rfl

@[simp] theorem Herd.act_key (h : Herd) (a : HAct) : (h.act a).key = h.key := by
  cases a <;> rfl

@[simp] theorem Herd.act_core (h : Herd) (a : HAct) : (h.act a).core =
    (match a with
    | .place core _ _ => core
    | _ => h.core) := by
  cases a <;> rfl

@[simp] theorem Herd.act_slice (h : Herd) (a : HAct) : (h.act a).slice =
    (match a with
    | .place _ slice _ => slice
    | _ => h.slice) := by
  cases a <;> rfl

@[simp] theorem Herd.act_base (h : Herd) (a : HAct) : (h.act a).base =
    (match a with
    | .reside base => base
    | _ => h.base) := by
  cases a <;> rfl

@[simp] theorem Herd.act_slot (h : Herd) (a : HAct) : (h.act a).slot =
    (match a with
    | .place _ _ slot => slot
    | _ => h.slot) := by
  cases a <;> rfl

@[simp] theorem Herd.act_width (h : Herd) (a : HAct) : (h.act a).width = h.width := by
  cases a <;> rfl

@[simp] theorem Herd.act_nregs (h : Herd) (a : HAct) : (h.act a).nregs = h.nregs := by
  cases a <;> rfl

@[simp] theorem Herd.act_nacc (h : Herd) (a : HAct) : (h.act a).nacc = h.nacc := by
  cases a <;> rfl

@[simp] theorem Herd.act_sup (h : Herd) (a : HAct) : (h.act a).sup =
    (match a with
    | .sup b => b
    | _ => h.sup) := by
  cases a <;> rfl

@[simp] theorem Herd.act_resident (h : Herd) (a : HAct) : (h.act a).resident =
    (match a with
    | .reside _ => true
    | .leave _ => false
    | .gone => false
    | _ => h.resident) := by
  cases a <;> rfl

@[simp] theorem Herd.act_stored (h : Herd) (a : HAct) : (h.act a).stored =
    (match a with
    | .reside _ => false
    | .leave _ => true
    | .gone => false
    | _ => h.stored) := by
  cases a <;> rfl

@[simp] theorem Herd.act_saveAt (h : Herd) (a : HAct) : (h.act a).saveAt =
    (match a with
    | .leave addr => addr
    | _ => h.saveAt) := by
  cases a <;> rfl

@[simp] theorem Herd.act_order (h : Herd) (a : HAct) : (h.act a).order = h.order := by
  cases a <;> rfl

@[simp] theorem Herd.act_readyAt (h : Herd) (a : HAct) : (h.act a).readyAt =
    (match a with
    | .ready n => n
    | _ => h.readyAt) := by
  cases a <;> rfl

@[simp] theorem Herd.act_waitAt (h : Herd) (a : HAct) : (h.act a).waitAt =
    (match a with
    | .waitAt n => n
    | _ => h.waitAt) := by
  cases a <;> rfl

@[simp] theorem Herd.act_s (h : Herd) (a : HAct) : (h.act a).s =
    (match a with
    | .s n x => if n = 0 then h.s else Sparse.set zeros h.s n x
    | .reload n x => if n = 0 then h.s else Sparse.set zeros h.s n x
    | _ => h.s) := by
  cases a <;> rfl

@[simp] theorem Herd.act_v (h : Herd) (a : HAct) : (h.act a).v =
    (match a with
    | .v lo xs => Sparse.write zeros h.v lo xs
    | _ => h.v) := by
  cases a <;> rfl

@[simp] theorem Herd.act_vtag (h : Herd) (a : HAct) : (h.act a).vtag =
    (match a with
    | .vtag n c => Sparse.set zeros h.vtag n c
    | _ => h.vtag) := by
  cases a <;> rfl

@[simp] theorem Herd.act_d (h : Herd) (a : HAct) : (h.act a).d =
    (match a with
    | .d lo xs => Sparse.write atomReset h.d lo xs
    | _ => h.d) := by
  cases a <;> rfl

@[simp] theorem Herd.act_dtag (h : Herd) (a : HAct) : (h.act a).dtag =
    (match a with
    | .dtag n m => Sparse.set zeros h.dtag n m
    | _ => h.dtag) := by
  cases a <;> rfl

@[simp] theorem Herd.act_derr (h : Herd) (a : HAct) : (h.act a).derr =
    (match a with
    | .d lo xs => h.derr.filter (fun k => !(decide (lo ≤ 8 * k) && decide (8 * k + 8 ≤ lo + xs.length)))
    | .derr l => l
    | _ => h.derr) := by
  cases a <;> rfl

@[simp] theorem Herd.act_acc (h : Herd) (a : HAct) : (h.act a).acc =
    (match a with
    | .acc t lo xs => h.acc.set t (Sparse.write zeros (h.acc.getD t []) lo xs)
    | _ => h.acc) := by
  cases a <;> rfl

@[simp] theorem Herd.act_accPoison (h : Herd) (a : HAct) : (h.act a).accPoison =
    (match a with
    | .accPoison m => m
    | _ => h.accPoison) := by
  cases a <;> rfl

@[simp] theorem Herd.act_accErr (h : Herd) (a : HAct) : (h.act a).accErr =
    (match a with
    | .acc t lo xs => h.accErr.filter (fun k => !(decide (4096 * t + lo ≤ k) && decide (k < 4096 * t + lo + xs.length)))
    | .accErr l => l
    | _ => h.accErr) := by
  cases a <;> rfl

@[simp] theorem Herd.act_cvsat (h : Herd) (a : HAct) : (h.act a).cvsat =
    (match a with
    | .conv sat _ _ => sat
    | _ => h.cvsat) := by
  cases a <;> rfl

@[simp] theorem Herd.act_cvflush (h : Herd) (a : HAct) : (h.act a).cvflush =
    (match a with
    | .conv _ flush _ => flush
    | _ => h.cvflush) := by
  cases a <;> rfl

@[simp] theorem Herd.act_cvnan (h : Herd) (a : HAct) : (h.act a).cvnan =
    (match a with
    | .conv _ _ nan => nan
    | _ => h.cvnan) := by
  cases a <;> rfl

@[simp] theorem Herd.act_cvlim (h : Herd) (a : HAct) : (h.act a).cvlim =
    (match a with
    | .cvlim x => x
    | _ => h.cvlim) := by
  cases a <;> rfl

@[simp] theorem Herd.act_copies (h : Herd) (a : HAct) : (h.act a).copies =
    (match a with
    | .copies n => n
    | _ => h.copies) := by
  cases a <;> rfl

@[simp] theorem Herd.act_latch (h : Herd) (a : HAct) : (h.act a).latch =
    (match a with
    | .latch l => l
    | _ => h.latch) := by
  cases a <;> rfl

@[simp] theorem Herd.act_more (h : Herd) (a : HAct) : (h.act a).more =
    (match a with
    | .more m => m
    | _ => h.more) := by
  cases a <;> rfl

@[simp] theorem Herd.act_furrows (h : Herd) (a : HAct) : (h.act a).furrows =
    (match a with
    | .furrow f r => h.furrows.set f r
    | _ => h.furrows) := by
  cases a <;> rfl

@[simp] theorem Herd.act_holds (h : Herd) (a : HAct) : (h.act a).holds =
    (match a with
    | .holds hs => hs
    | .gone => h.holds.filter (fun x => x.why.outlives)
    | _ => h.holds) := by
  cases a <;> rfl

@[simp] theorem Herd.act_tape (h : Herd) (a : HAct) : (h.act a).tape =
    (match a with
    | .tape t => t
    | _ => h.tape) := by
  cases a <;> rfl

@[simp] theorem Herd.act_boarding (h : Herd) (a : HAct) : (h.act a).boarding =
    (match a with
    | .boarding b => b
    | .gone => none
    | _ => h.boarding) := by
  cases a <;> rfl

@[simp] theorem Herd.act_bars (h : Herd) (a : HAct) : (h.act a).bars =
    (match a with
    | .bar lv idx st => assocSet .idle h.bars (lv, idx) st
    | _ => h.bars) := by
  cases a <;> rfl

@[simp] theorem Herd.act_handler (h : Herd) (a : HAct) : (h.act a).handler =
    (match a with
    | .handler g => g
    | .gone => none
    | _ => h.handler) := by
  cases a <;> rfl

@[simp] theorem Herd.act_pend (h : Herd) (a : HAct) : (h.act a).pend =
    (match a with
    | .pend l _ _ => l
    | .gone => []
    | _ => h.pend) := by
  cases a <;> rfl

@[simp] theorem Herd.act_pendSeen (h : Herd) (a : HAct) : (h.act a).pendSeen =
    (match a with
    | .pend _ seen _ => seen
    | .gone => 0
    | _ => h.pendSeen) := by
  cases a <;> rfl

@[simp] theorem Herd.act_pendTop (h : Herd) (a : HAct) : (h.act a).pendTop =
    (match a with
    | .pend _ _ top => top
    | .gone => 0
    | _ => h.pendTop) := by
  cases a <;> rfl

@[simp] theorem Herd.act_late (h : Herd) (a : HAct) : (h.act a).late =
    (match a with
    | .s n _ => h.overrule n
    | .await fs regs => h.awaited fs regs
    | .lateDone fs => h.late.filter (fun w => !fs.contains w.fur)
    | .gone => []
    | _ => h.late) := by
  cases a <;> rfl

@[simp] theorem Crew.act_key (c : Crew) (e : List Nat) (a : CAct) : (c.act e a).key = c.key := by
  cases a <;> rfl

@[simp] theorem Crew.act_core (c : Crew) (e : List Nat) (a : CAct) : (c.act e a).core =
    (match a with
    | .place core _ => core
    | _ => c.core) := by
  cases a <;> rfl

@[simp] theorem Crew.act_acre (c : Crew) (e : List Nat) (a : CAct) : (c.act e a).acre = c.acre := by
  cases a <;> rfl

@[simp] theorem Crew.act_herds (c : Crew) (e : List Nat) (a : CAct) : (c.act e a).herds = c.herds := by
  cases a <;> rfl

@[simp] theorem Crew.act_tileLen (c : Crew) (e : List Nat) (a : CAct) : (c.act e a).tileLen = c.tileLen := by
  cases a <;> rfl

@[simp] theorem Crew.act_tile (c : Crew) (e : List Nat) (a : CAct) : (c.act e a).tile =
    (match a with
    | .tile lo bs => Memory.put c.tile lo bs
    | _ => c.tile) := by
  cases a <;> rfl

@[simp] theorem Crew.act_tileErr (c : Crew) (e : List Nat) (a : CAct) : (c.act e a).tileErr =
    (match a with
    | .tileErr l => l
    | .touch id sec _ => touchErrs e c id sec
    | _ => c.tileErr) := by
  cases a <;> rfl

@[simp] theorem Crew.act_windows (c : Crew) (e : List Nat) (a : CAct) : (c.act e a).windows =
    (match a with
    | .windows ws => ws
    | .touch id sec dirty => c.windows.map (touchWindow id sec dirty)
    | _ => c.windows) := by
  cases a <;> rfl

@[simp] theorem Crew.act_order (c : Crew) (e : List Nat) (a : CAct) : (c.act e a).order =
    (match a with
    | .place _ order => order
    | _ => c.order) := by
  cases a <;> rfl

@[simp] theorem Crew.act_pre (c : Crew) (e : List Nat) (a : CAct) : (c.act e a).pre =
    (match a with
    | .pre p => p
    | _ => c.pre) := by
  cases a <;> rfl

@[simp] theorem Crew.act_saved (c : Crew) (e : List Nat) (a : CAct) : (c.act e a).saved =
    (match a with
    | .saved a => a
    | _ => c.saved) := by
  cases a <;> rfl

@[simp] theorem Crew.act_savedHerds (c : Crew) (e : List Nat) (a : CAct) : (c.act e a).savedHerds =
    (match a with
    | .savedHerds l => l
    | _ => c.savedHerds) := by
  cases a <;> rfl

end Sys2Proof.Machine
end

