-- ==== Sys2Proof/Laws/Run.lean ====
section
/-! SUPPORT. Running lists of acts: sequences, chains, and what acts on one herd leave alone. -/

namespace Sys2Proof.Machine

@[simp] theorem run_nil (s : State) : run s [] = s := rfl
@[simp] theorem run_cons (s : State) (a : Act) (l : List Act) : run s (a :: l) = run (s.act a) l := rfl
@[simp] theorem run_append (s : State) (a b : List Act) : run s (a ++ b) = run (run s a) b := by
  simp [run, List.foldl_append]

/-- A chain judges each part in the state that the parts before it leave. -/
theorem run_chain : ∀ (gs : List (State → List Act)) (s : State),
    run s (chain s gs) = gs.foldl (fun s g => run s (g s)) s
  | [], _ => rfl
  | g :: gs, s => by
    simp only [chain, run_append, List.foldl_cons]
    exact run_chain gs (run s (g s))

/-- Acts on one herd, in order. -/
def Herd.acts (h : Herd) (l : List HAct) : Herd := l.foldl Herd.act h

@[simp] theorem Herd.acts_nil (h : Herd) : h.acts [] = h := rfl
@[simp] theorem Herd.acts_cons (h : Herd) (a : HAct) (l : List HAct) : h.acts (a :: l) = (h.act a).acts l := rfl
@[simp] theorem Herd.acts_append (h : Herd) (a b : List HAct) : h.acts (a ++ b) = (h.acts a).acts b := by
  simp [Herd.acts, List.foldl_append]

@[simp] theorem Herd.acts_key : ∀ (l : List HAct) (h : Herd), (h.acts l).key = h.key
  | [], _ => rfl
  | a :: l, h => by simp [Herd.acts_key l (h.act a)]

/-- Acts on one herd change that herd's entry and nothing else. -/
theorem run_herdActs : ∀ (l : List HAct) (s : State) (k : HerdKey),
    run s (herdActs k l) = { s with herds := s.herds.map (fun h => if h.key = k then h.acts l else h) }
  | [], s, k => by simp [herdActs]
  | a :: l, s, k => by
    have ih := run_herdActs l (s.act (.herd k a)) k
    simp only [herdActs] at ih
    simp only [herdActs, List.map_cons, run_cons, ih]
    simp only [State.act, List.map_map]
    congr 1
    apply List.map_congr_left
    intro h _
    simp only [Function.comp]
    by_cases hk : h.key = k <;> simp [hk]

theorem find_map_key (p : Herd → Herd) (hp : ∀ h, (p h).key = h.key) (k : HerdKey) :
    ∀ (l : List Herd), (l.map p).find? (fun h => decide (h.key = k)) = (l.find? (fun h => decide (h.key = k))).map p
  | [] => rfl
  | a :: l => by
    by_cases h : a.key = k
    · simp [hp, h]
    · simp [hp, h, find_map_key p hp k l]

/-- A herd after acts on herds of the same name. -/
theorem herd?_herdActs_self (s : State) (k : HerdKey) (l : List HAct) :
    (run s (herdActs k l)).herd? k = (s.herd? k).map (fun h => h.acts l) := by
  rw [run_herdActs]
  simp only [State.herd?]
  rw [find_map_key (fun h => if h.key = k then h.acts l else h) (by intro h; split <;> simp)]
  cases hf : s.herds.find? (fun h => decide (h.key = k)) with
  | none => rfl
  | some h =>
    have := List.find?_some hf
    simp only [decide_eq_true_eq] at this
    simp [this]

/-- A herd after acts on another. -/
theorem herd?_herdActs_other (s : State) (k k' : HerdKey) (l : List HAct) (h : k' ≠ k) :
    (run s (herdActs k l)).herd? k' = s.herd? k' := by
  rw [run_herdActs]
  simp only [State.herd?]
  rw [find_map_key (fun h => if h.key = k then h.acts l else h) (by intro h; split <;> simp)]
  cases hf : s.herds.find? (fun h => decide (h.key = k')) with
  | none => rfl
  | some x =>
    have := List.find?_some hf
    simp only [decide_eq_true_eq] at this
    simp [this, h]

theorem herd?_congr (s t : State) (h : t.herds = s.herds) (k : HerdKey) : t.herd? k = s.herd? k := by
  simp [State.herd?, h]

/-- Acts that touch no herd. -/
def Act.herdless : Act → Bool
  | .herd _ _ => false
  | .addHerd _ => false
  | .dropHerd _ => false
  | _ => true

theorem herds_of_herdless : ∀ (l : List Act) (s : State), (∀ a ∈ l, a.herdless = true) → (run s l).herds = s.herds
  | [], _, _ => rfl
  | a :: l, s, h => by
    rw [run_cons, herds_of_herdless l _ (fun b hb => h b (by simp [hb]))]
    have := h a (by simp)
    cases a <;> simp_all [Act.herdless]

/-- The furrows of a herd that acts not naming furrows leave. -/
theorem Herd.acts_furrows : ∀ (l : List HAct) (h : Herd), (∀ a ∈ l, ∀ f r, a ≠ .furrow f r) → (h.acts l).furrows = h.furrows
  | [], _, _ => rfl
  | a :: l, h, ha => by
    rw [Herd.acts_cons, Herd.acts_furrows l _ (fun b hb => ha b (by simp [hb]))]
    have := ha a (by simp)
    cases a <;> simp_all

@[simp] theorem Herd.acts_length (l : List HAct) (h : Herd) : (h.acts l).furrows.length = h.furrows.length := by
  induction l generalizing h with
  | nil => rfl
  | cons a l ih => rw [Herd.acts_cons, ih]; cases a <;> simp

end Sys2Proof.Machine
end

