-- ==== Sys2Proof/Laws/Sparse.lean ====
section
/-! SUPPORT. The laws of the sparse stores: reading after writing, and that each operation keeps the canonical form. -/

namespace Sys2Proof.Machine

theorem Sparse.get_of_notMem {n : Nat} (dflt : Nat → BitVec n) :
    ∀ (m : Sparse n) (k : Nat), (∀ c ∈ m, c.1 ≠ k) → Sparse.get dflt m k = dflt k
  | [], _, _ => rfl
  | (j, v) :: r, k, h => by
    have hj : j ≠ k := h (j, v) (by simp)
    simp only [Sparse.get, if_neg hj]
    exact Sparse.get_of_notMem dflt r k (fun c hc => h c (by simp [hc]))

theorem Sparse.get_append {n : Nat} (dflt : Nat → BitVec n) (b : Sparse n) (k : Nat) :
    ∀ (a : Sparse n), Sparse.get dflt (a ++ b) k
      = if (∃ c ∈ a, c.1 = k) then Sparse.get dflt a k else Sparse.get dflt b k
  | [] => by simp
  | (j, v) :: r => by
    by_cases hj : j = k
    · subst hj; simp [Sparse.get]
    · have ih := Sparse.get_append dflt b k r
      simp only [List.cons_append, Sparse.get, if_neg hj, ih]
      by_cases h : ∃ c ∈ r, c.1 = k
      · rw [if_pos h, if_pos (by obtain ⟨c, hc, e⟩ := h; exact ⟨c, by simp [hc], e⟩)]
      · rw [if_neg h, if_neg]
        rintro ⟨c, hc, e⟩
        rcases List.mem_cons.mp hc with rfl | hc
        · exact hj e
        · exact h ⟨c, hc, e⟩

theorem Sparse.get_filter {n : Nat} (dflt : Nat → BitVec n) (p : Nat → Bool) (k : Nat) (hk : p k = true) :
    ∀ (m : Sparse n), Sparse.get dflt (m.filter (fun c => p c.1)) k = Sparse.get dflt m k
  | [] => rfl
  | (j, v) :: r => by
    have ih := Sparse.get_filter dflt p k hk r
    by_cases hj : j = k
    · subst hj; simp [List.filter, hk, Sparse.get]
    · by_cases hp : p j = true
      · simp [List.filter, hp, Sparse.get, hj, ih]
      · simp [List.filter, hp, Sparse.get, hj, ih]

theorem Sparse.mem_cells {n : Nat} (dflt : Nat → BitVec n) :
    ∀ (vs : List (BitVec n)) (lo : Nat) (c : Nat × BitVec n), c ∈ Sparse.cells dflt lo vs →
      lo ≤ c.1 ∧ c.1 < lo + vs.length ∧ c.2 ≠ dflt c.1
  | [], _, _, h => by simp [Sparse.cells] at h
  | v :: vs, lo, c, h => by
    unfold Sparse.cells at h
    by_cases hv : v = dflt lo
    · rw [if_pos hv] at h
      have := Sparse.mem_cells dflt vs (lo + 1) c h
      simp only [List.length_cons]
      exact ⟨by omega, by omega, this.2.2⟩
    · rw [if_neg hv] at h
      rcases List.mem_cons.mp h with rfl | h
      · exact ⟨Nat.le_refl _, by simp, hv⟩
      · have := Sparse.mem_cells dflt vs (lo + 1) c h
        simp only [List.length_cons]
        exact ⟨by omega, by omega, this.2.2⟩

theorem Sparse.get_cells {n : Nat} (dflt : Nat → BitVec n) :
    ∀ (vs : List (BitVec n)) (lo k : Nat), lo ≤ k → k < lo + vs.length →
      Sparse.get dflt (Sparse.cells dflt lo vs) k = vs.getD (k - lo) (dflt k)
  | [], lo, k, h1, h2 => by simp at h2; omega
  | v :: vs, lo, k, h1, h2 => by
    unfold Sparse.cells
    by_cases hk : k = lo
    · subst hk
      by_cases hv : v = dflt k
      · rw [if_pos hv, Sparse.get_of_notMem]
        · simp [hv]
        · intro c hc; have := Sparse.mem_cells dflt vs (k + 1) c hc; omega
      · rw [if_neg hv]; simp [Sparse.get]
    · have ih := Sparse.get_cells dflt vs (lo + 1) k (by omega) (by simp at h2; omega)
      have e : k - lo = (k - (lo + 1)) + 1 := by omega
      by_cases hv : v = dflt lo
      · rw [if_pos hv, ih, e]; simp
      · rw [if_neg hv]
        simp only [Sparse.get, if_neg (Ne.symm hk), ih]
        rw [e]; simp

/-- Reading after writing consecutive values. -/
theorem Sparse.get_write {n : Nat} (dflt : Nat → BitVec n) (m : Sparse n) (lo : Nat) (vs : List (BitVec n)) (k : Nat) :
    Sparse.get dflt (Sparse.write dflt m lo vs) k
      = if lo ≤ k ∧ k < lo + vs.length then vs.getD (k - lo) (dflt k) else Sparse.get dflt m k := by
  unfold Sparse.write
  rw [Sparse.get_append, Sparse.get_append]
  by_cases h : lo ≤ k ∧ k < lo + vs.length
  · rw [if_pos h]
    have h1 : ¬ ∃ c ∈ m.filter (fun c => decide (c.1 < lo)), c.1 = k := by
      rintro ⟨c, hc, e⟩; simp at hc; omega
    have h3 : Sparse.get dflt (m.filter (fun c => decide (lo + vs.length ≤ c.1))) k = dflt k := by
      apply Sparse.get_of_notMem; intro c hc; simp at hc; omega
    rw [if_neg h1, h3, Sparse.get_cells dflt vs lo k h.1 h.2]
    split
    · rfl
    · next hn =>
      have : Sparse.get dflt (Sparse.cells dflt lo vs) k = dflt k := by
        apply Sparse.get_of_notMem
        intro c hc e
        exact hn ⟨c, by simp [hc], e⟩
      rw [← Sparse.get_cells dflt vs lo k h.1 h.2, this]
  · rw [if_neg h]
    have h2 : ¬ ∃ c ∈ Sparse.cells dflt lo vs, c.1 = k := by
      rintro ⟨c, hc, e⟩; have := Sparse.mem_cells dflt vs lo c hc; omega
    by_cases hk : k < lo
    · have f1 := Sparse.get_filter dflt (fun j => decide (j < lo)) k (by simpa using hk) m
      have f3 : Sparse.get dflt (m.filter (fun c => decide (lo + vs.length ≤ c.1))) k = dflt k := by
        apply Sparse.get_of_notMem; intro c hc; simp at hc; omega
      have f2 : Sparse.get dflt (Sparse.cells dflt lo vs) k = dflt k := by
        apply Sparse.get_of_notMem
        intro c hc e; exact h2 ⟨c, hc, e⟩
      by_cases e1 : ∃ c ∈ m.filter (fun c => decide (c.1 < lo)), c.1 = k
      · have e2 : ∃ c ∈ m.filter (fun c => decide (c.1 < lo)) ++ Sparse.cells dflt lo vs, c.1 = k := by
          obtain ⟨c, hc, e⟩ := e1; exact ⟨c, by simp only [List.mem_append]; exact Or.inl hc, e⟩
        rw [if_pos e2, if_pos e1]; exact f1
      · have g : Sparse.get dflt m k = dflt k := by
          rw [← f1]; apply Sparse.get_of_notMem; intro c hc e; exact e1 ⟨c, hc, e⟩
        split <;> simp only [f2, f3, g]
    · have f3 := Sparse.get_filter dflt (fun j => decide (lo + vs.length ≤ j)) k (by simp; omega) m
      have e2 : ¬ ∃ c ∈ m.filter (fun c => decide (c.1 < lo)) ++ Sparse.cells dflt lo vs, c.1 = k := by
        rintro ⟨c, hc, e⟩
        rcases List.mem_append.mp hc with hc | hc
        · simp at hc; omega
        · exact h2 ⟨c, hc, e⟩
      rw [if_neg e2]; exact f3

theorem Sparse.get_set {n : Nat} (dflt : Nat → BitVec n) (m : Sparse n) (k : Nat) (v : BitVec n) (j : Nat) :
    Sparse.get dflt (Sparse.set dflt m k v) j = if j = k then v else Sparse.get dflt m j := by
  unfold Sparse.set
  rw [Sparse.get_write]
  by_cases h : j = k
  · subst h; simp
  · rw [if_neg h, if_neg (by simp; omega)]

theorem Sparse.get_clear {n : Nat} (dflt : Nat → BitVec n) (m : Sparse n) (lo hi k : Nat) (h : ¬ (lo ≤ k ∧ k < hi)) :
    Sparse.get dflt (Sparse.clear m lo hi) k = Sparse.get dflt m k :=
  Sparse.get_filter dflt (fun j => decide (j < lo) || decide (hi ≤ j)) k (by simp; omega) m

theorem Sparse.pairwise_cells {n : Nat} (dflt : Nat → BitVec n) :
    ∀ (vs : List (BitVec n)) (lo : Nat), (Sparse.cells dflt lo vs).Pairwise (fun a b => a.1 < b.1)
  | [], _ => by simp [Sparse.cells]
  | v :: vs, lo => by
    unfold Sparse.cells
    split
    · exact Sparse.pairwise_cells dflt vs (lo + 1)
    · refine List.pairwise_cons.mpr ⟨?_, Sparse.pairwise_cells dflt vs (lo + 1)⟩
      intro c hc
      have := Sparse.mem_cells dflt vs (lo + 1) c hc
      show lo < c.1
      omega

theorem Sparse.wf_nil {n : Nat} (dflt : Nat → BitVec n) : Sparse.wf dflt [] := by simp [Sparse.wf]

/-- Writing keeps the canonical form. -/
theorem Sparse.wf_write {n : Nat} (dflt : Nat → BitVec n) (m : Sparse n) (lo : Nat) (vs : List (BitVec n))
    (h : Sparse.wf dflt m) : Sparse.wf dflt (Sparse.write dflt m lo vs) := by
  obtain ⟨hp, hv⟩ := h
  unfold Sparse.write
  constructor
  · rw [List.pairwise_append, List.pairwise_append]
    refine ⟨⟨hp.filter _, Sparse.pairwise_cells dflt vs lo, ?_⟩, hp.filter _, ?_⟩
    · intro a ha b hb
      have := Sparse.mem_cells dflt vs lo b hb
      simp at ha; omega
    · intro a ha b hb
      simp only [List.mem_filter, decide_eq_true_eq] at hb
      rcases List.mem_append.mp ha with ha | ha
      · simp only [List.mem_filter, decide_eq_true_eq] at ha; omega
      · have := Sparse.mem_cells dflt vs lo a ha; omega
  · intro c hc
    rcases List.mem_append.mp hc with hc | hc
    · rcases List.mem_append.mp hc with hc | hc
      · exact hv c (List.mem_filter.mp hc).1
      · exact (Sparse.mem_cells dflt vs lo c hc).2.2
    · exact hv c (List.mem_filter.mp hc).1

theorem Sparse.wf_set {n : Nat} (dflt : Nat → BitVec n) (m : Sparse n) (k : Nat) (v : BitVec n)
    (h : Sparse.wf dflt m) : Sparse.wf dflt (Sparse.set dflt m k v) := Sparse.wf_write dflt m k [v] h

theorem Sparse.wf_clear {n : Nat} (dflt : Nat → BitVec n) (m : Sparse n) (lo hi : Nat)
    (h : Sparse.wf dflt m) : Sparse.wf dflt (Sparse.clear m lo hi) :=
  ⟨h.1.filter _, fun c hc => h.2 c (List.mem_filter.mp hc).1⟩

/-- A key that a write does not cover stays unlisted. -/
theorem Sparse.write_avoids {n : Nat} (dflt : Nat → BitVec n) (m : Sparse n) (lo : Nat) (vs : List (BitVec n)) (k : Nat)
    (hk : ¬ (lo ≤ k ∧ k < lo + vs.length)) (h : ∀ c ∈ m, c.1 ≠ k) : ∀ c ∈ Sparse.write dflt m lo vs, c.1 ≠ k := by
  intro c hc
  rcases List.mem_append.mp hc with hc | hc
  · rcases List.mem_append.mp hc with hc | hc
    · exact h c (List.mem_filter.mp hc).1
    · have := Sparse.mem_cells dflt vs lo c hc; omega
  · exact h c (List.mem_filter.mp hc).1

/-- One byte after a write of bytes. -/
theorem Memory.byte_put (m : Memory) (a : Nat) (bs : List Byte) (k : Nat) :
    (m.put a bs).byte k = if a ≤ k ∧ k < a + bs.length then bs.getD (k - a) 0#8 else m.byte k :=
  Sparse.get_write zeros m a bs k

theorem Memory.byte_put_of_lt (m : Memory) (a : Nat) (bs : List Byte) (k : Nat) (h : k < a ∨ a + bs.length ≤ k) :
    (m.put a bs).byte k = m.byte k := by
  rw [Memory.byte_put, if_neg (by omega)]

theorem Memory.wf_put (m : Memory) (a : Nat) (bs : List Byte) (h : m.wf) : (m.put a bs).wf := Sparse.wf_write zeros m a bs h

theorem Memory.length_bytes (m : Memory) : ∀ (n a : Nat), (m.bytes a n).length = n
  | 0, _ => rfl
  | n + 1, a => by simp [Memory.bytes, Memory.length_bytes m n (a + 1)]

theorem Memory.getD_bytes (m : Memory) : ∀ (n a i : Nat), i < n → (m.bytes a n).getD i 0#8 = m.byte (a + i)
  | 0, _, _, h => by omega
  | n + 1, a, 0, _ => by simp [Memory.bytes]
  | n + 1, a, i + 1, h => by
    have := Memory.getD_bytes m n (a + 1) i (by omega)
    simp only [Memory.bytes, List.getD_cons_succ, this]
    congr 1; omega

/-- A read of what was written gives it back. -/
theorem Memory.bytes_put (m : Memory) (a : Nat) (bs : List Byte) : (m.put a bs).bytes a bs.length = bs := by
  apply List.ext_getElem
  · exact Memory.length_bytes _ _ _
  · intro i h1 h2
    have e := Memory.getD_bytes (m.put a bs) bs.length a i h2
    rw [Memory.byte_put, if_pos ⟨by omega, by omega⟩] at e
    rw [List.getD_eq_getElem _ _ h1, show a + i - a = i from by omega, List.getD_eq_getElem _ _ h2] at e
    exact e

end Sys2Proof.Machine
end

