-- ==== Sys2Proof/Laws/Inv.lean ====
section
/-! SUPPORT. Every act keeps a sound state sound, and the next state of every instruction and event is a run of acts. -/

namespace Sys2Proof.Machine

theorem herdInv_fresh (i : HerdInit) : HerdInv (Herd.fresh i) := by
  refine ⟨?_, ?_, ?_, ?_, ?_, ?_, ?_, ?_⟩
  · exact Sparse.wf_write _ _ _ _ (Sparse.wf_nil _)
  · exact Sparse.write_avoids _ _ _ _ _ (by omega) (by simp)
  · exact Sparse.wf_write _ _ _ _ (Sparse.wf_nil _)
  · exact Sparse.wf_write _ _ _ _ (Sparse.wf_nil _)
  · exact Sparse.wf_nil _
  · exact Sparse.wf_nil _
  · intro t ht
    have : t = [] := by
      simp only [Herd.fresh] at ht
      exact List.eq_of_mem_replicate ht
    subst this
    exact Sparse.wf_nil _
  · simp [Herd.fresh]

theorem herdInv_act {h : Herd} (hi : HerdInv h) (a : HAct) : HerdInv (h.act a) := by
  obtain ⟨i1, i2, i3, i4, i5, i6, i7, i8⟩ := hi
  cases a with
  | s n x | reload n x =>
    refine ⟨?_, ?_, i3, i4, i5, i6, i7, i8⟩
    · simp only [Herd.act_s]; split
      · exact i1
      · exact Sparse.wf_set _ _ _ _ i1
    · simp only [Herd.act_s]; split
      · exact i2
      · exact Sparse.write_avoids _ _ _ _ _ (by simp; omega) i2
  | v lo xs => exact ⟨i1, i2, Sparse.wf_write _ _ _ _ i3, i4, i5, i6, i7, i8⟩
  | vtag n c => exact ⟨i1, i2, i3, Sparse.wf_set _ _ _ _ i4, i5, i6, i7, i8⟩
  | d lo xs => exact ⟨i1, i2, i3, i4, Sparse.wf_write _ _ _ _ i5, i6, i7, i8⟩
  | dtag n m => exact ⟨i1, i2, i3, i4, i5, Sparse.wf_set _ _ _ _ i6, i7, i8⟩
  | acc t lo xs =>
    refine ⟨i1, i2, i3, i4, i5, i6, ?_, i8⟩
    intro x hx
    simp only [Herd.act_acc] at hx
    have hw : Sparse.wf zeros (h.acc.getD t []) := by
      by_cases ht : t < h.acc.length
      · rw [List.getD_eq_getElem _ _ ht]; exact i7 _ (List.getElem_mem ht)
      · rw [List.getD_eq_default _ _ (by omega)]; exact Sparse.wf_nil _
    rcases List.mem_or_eq_of_mem_set hx with hx | rfl
    · exact i7 x hx
    · exact Sparse.wf_write _ _ _ _ hw
  | furrow f r => exact ⟨i1, i2, i3, i4, i5, i6, i7, by simpa using i8⟩
  | _ => exact ⟨i1, i2, i3, i4, i5, i6, i7, i8⟩

/-- Every act keeps a sound state sound. -/
theorem act_inv {s : State} (hi : Inv s) (a : Act) : Inv (s.act a) := by
  obtain ⟨i1, i2, i3, i4, i5, i6, i7, i8, i9⟩ := hi
  have tilesMem : ∀ (pa n : Nat) (own : Option (CrewKey × Nat)),
      ∀ c ∈ s.crews.map (recallSectors pa n own), Memory.wf c.tile := by
    intro pa n own c hc
    obtain ⟨x, hx, rfl⟩ := List.mem_map.mp hc
    exact i4 x hx
  cases a with
  | herd k a =>
    refine ⟨i1, i2, ?_, i4, i5, i6, i7, i8, i9⟩
    intro h hh
    simp only [State.act_herds] at hh
    obtain ⟨x, hx, rfl⟩ := List.mem_map.mp hh
    split
    · exact herdInv_act (i3 x hx) a
    · exact i3 x hx
  | addHerd i =>
    refine ⟨i1, i2, ?_, i4, i5, i6, i7, i8, i9⟩
    intro h hh
    simp only [State.act_herds, List.mem_append, List.mem_singleton] at hh
    rcases hh with hh | rfl
    · exact i3 h hh
    · exact herdInv_fresh i
  | dropHerd k => exact ⟨i1, i2, fun h hh => i3 h (List.mem_filter.mp hh).1, i4, i5, i6, i7, i8, i9⟩
  | crew c a =>
    have ht : ∀ x ∈ s.crews.map (fun x => if x.key = c then x.act s.hbmErr a else x), Memory.wf x.tile := by
      intro x hx
      obtain ⟨y, hy, rfl⟩ := List.mem_map.mp hx
      split
      · rw [Crew.act_tile]
        cases a <;> first | exact Memory.wf_put _ _ _ (i4 y hy) | exact i4 y hy
      · exact i4 y hy
    exact ⟨by simpa using i1, by simpa using i2, by simpa using i3, by simpa using ht, by simpa using i5, by simpa using i6,
      by simpa using i7, by simpa using i8, by simpa using i9⟩
  | addCrew i =>
    refine ⟨i1, i2, i3, ?_, i5, i6, i7, i8, i9⟩
    intro c hc
    simp only [State.act_crews, List.mem_append, List.mem_singleton] at hc
    rcases hc with hc | rfl
    · exact i4 c hc
    · exact Sparse.wf_nil _
  | dropCrew c => exact ⟨i1, i2, i3, fun x hx => i4 x (List.mem_filter.mp hx).1, i5, i6, i7, i8, i9⟩
  | mem pa bs own => exact ⟨Memory.wf_put _ _ _ i1, i2, i3, tilesMem _ _ _, i5, i6, i7, i8, i9⟩
  | memZero pa n => exact ⟨Sparse.wf_clear _ _ _ _ i1, i2, i3, tilesMem _ _ _, i5, i6, i7, i8, i9⟩
  | hostMem x bs => exact ⟨i1, Memory.wf_put _ _ _ i2, i3, i4, i5, i6, i7, i8, i9⟩
  | coreReg k x => exact ⟨i1, i2, i3, i4, Sparse.wf_set _ _ _ _ i5, i6, i7, i8, i9⟩
  | bump k n => exact ⟨i1, i2, i3, i4, Sparse.wf_set _ _ _ _ i5, i6, i7, i8, i9⟩
  | partReg k x => exact ⟨i1, i2, i3, i4, i5, Sparse.wf_set _ _ _ _ i6, i7, i8, i9⟩
  | hostReg k x => exact ⟨i1, i2, i3, i4, i5, i6, Sparse.wf_set _ _ _ _ i7, i8, i9⟩
  | count k x => exact ⟨i1, i2, i3, i4, i5, i6, i7, Sparse.wf_set _ _ _ _ i8, i9⟩
  | slotGen k x => exact ⟨i1, i2, i3, i4, i5, i6, i7, i8, Sparse.wf_set _ _ _ _ i9⟩
  | _ => exact ⟨i1, i2, i3, i4, i5, i6, i7, i8, i9⟩

/-- Every run of acts keeps a sound state sound. -/
theorem run_inv : ∀ (l : List Act) {s : State}, Inv s → Inv (run s l)
  | [], _, h => h
  | a :: l, _, h => run_inv l (act_inv h a)

/-- An issue answers a run of acts, or stops for want of an issuer. -/
theorem issue_cases (hd : Header) (lg : Ctx → Option Nat) (eff : Ctx → State → Res) (s : State) :
    issue hd lg eff s = .fault .noIssuer ∨ ∃ l, issue hd lg eff s = .next (run s l) := by
  simp only [issue]
  cases ctxOf hd s with
  | none => exact Or.inl rfl
  | some c => exact Or.inr ⟨_, rfl⟩

/-- What a step can do: the next state of every instruction and event is a run of acts. -/
theorem exec_cases (i : Instr) (s : State) : exec i s = .fault .noIssuer ∨ ∃ l, exec i s = .next (run s l) := by
  cases i with
  | head h x =>
    simp only [exec, execHead]
    cases ctxOf h s with
    | none => exact Or.inl rfl
    | some c => exact Or.inr ⟨_, rfl⟩
  | rtile h x =>
    simp only [exec, execRtile]
    cases ctxOf h s with
    | none => exact Or.inl rfl
    | some c => exact Or.inr ⟨_, rfl⟩
  | _ => first | exact issue_cases _ _ _ s | exact Or.inr ⟨_, rfl⟩

end Sys2Proof.Machine
end

