-- ==== Sys2Proof/Laws/Issue.lean ====
section
/-! SUPPORT. The issue of a word (R136): when it reaches its effect, and what an effect that completes on its own herd does. -/

namespace Sys2Proof.Machine

/-- The issue that State.issuer names. -/
theorem ctxOf_issues {s : State} {w : Issuer} {h : Herd} (hi : Issues s w h) (hd : Header) :
    ctxOf hd s = some (issueCtx w h hd) := by
  simp [ctxOf, hi.who, hi.herd, hi.may, issueCtx, activeLanes]

/-- A group whose turn it is has the outcome of its word (R356). -/
theorem close_inTurn {s : State} {w : Issuer} {h : Herd} (hi : Issues s w h) (hd : Header) (x : State) (r : Res) :
    (issueCtx w h hd).close x r = (issueCtx w h hd).finish x r := by
  have e : (issueCtx w h hd).h.lateTurn (issueCtx w h hd).f = false := hi.turn
  simp [Ctx.close, e]

/-- A meaning that is an issue answers a next state. -/
theorem issue_next {s : State} {w : Issuer} {h : Herd} (hi : Issues s w h) (hd : Header) (lg : Ctx → Option Nat)
    (eff : Ctx → State → Res) :
    issue hd lg eff s
      = .next (run s ((issueCtx w h hd).finish s (issueRes (issueCtx w h hd) lg eff s))) := by
  simp [issue, ctxOf_issues hi, close_inTurn hi]

theorem predBad_false {w : Issuer} {h : Herd} {hd : Header} (hp : PredOk h hd) : (issueCtx w h hd).predBad = false := by
  obtain ⟨_, h2⟩ := hp
  simp only [Ctx.predBad, issueCtx]
  cases he : hd.pe <;> cases hk : hd.pk <;> simp_all
  exact decide_eq_false (by omega)

/-- With an active lane and nothing illegal the issue is the effect. -/
theorem issueRes_eff {w : Issuer} {h : Herd} {hd : Header} (hp : PredOk h hd) (ha : activeLanes h w.f hd ≠ [])
    (lg : Ctx → Option Nat) (hl : lg (issueCtx w h hd) = none) (eff : Ctx → State → Res) (s : State) :
    issueRes (issueCtx w h hd) lg eff s = eff (issueCtx w h hd) s := by
  have : (issueCtx w h hd).act.isEmpty = false := by
    simp only [issueCtx, List.isEmpty_eq_false_iff]; exact ha
  simp [issueRes, predBad_false hp, this, hl]

theorem hdrCauses_nil {h : Herd} {hd : Header} {u : Bool} (hh : PlainHeader h hd u) : hdrCauses u hd = [] := by
  obtain ⟨⟨h1, _⟩, hs, hw, hu⟩ := hh
  unfold hdrCauses
  cases he : hd.pe <;> cases hx : hd.u <;> simp_all

/-- A word with a legal header and no cause is legal. -/
theorem legal_none {w : Issuer} {h : Herd} {hd : Header} {u : Bool} (hh : PlainHeader h hd u) (uses : List Use)
    (hu : ∀ x ∈ uses, x.causes h = []) : legal u uses (issueCtx w h hd) = none := by
  have e : uses.flatMap (fun x => x.causes h) = [] := by
    rw [List.flatMap_eq_nil_iff]; exact hu
  simp [legal, lowest, issueCtx, hdrCauses_nil hh, e]

/-- The lowest cause exists as soon as one does. -/
theorem lowest_isSome {l : List Nat} (h : l ≠ []) : ∃ m, lowest l = some m ∧ m ∈ l ∧ ∀ x ∈ l, m ≤ x := by
  cases hm : l.min? with
  | none => simp at hm; exact absurd hm h
  | some m => exact ⟨m, hm, List.min?_mem hm, fun x hx => by
      obtain ⟨_, h2⟩ := List.min?_eq_some_iff.mp hm
      exact h2 x hx⟩

/-- Acts on furrows, seen from one furrow. -/
theorem fur_acts (h0 : Herd) (g : Nat → Furrow → Furrow) : ∀ (fs : List Nat) (h : Herd) (j : Nat),
    (∀ f ∈ fs, f < h.furrows.length) →
    (h.acts (fs.map (fun f => furAct h0 f (g f)))).fur j = if j ∈ fs then g j (h0.fur j) else h.fur j
  | [], h, j, _ => by simp
  | f :: fs, h, j, hf => by
    have ih := fur_acts h0 g fs (h.act (furAct h0 f (g f))) j (by
      intro x hx
      have := hf x (by simp [hx])
      simpa [furAct] using this)
    rw [List.map_cons, Herd.acts_cons, ih]
    by_cases hj : j ∈ fs
    · simp [hj]
    · rw [if_neg hj]
      by_cases e : j = f
      · subst e
        have hl := hf j (by simp)
        simp [furAct, Herd.fur, List.getD_eq_getElem?_getD, hl]
      · simp only [List.mem_cons, e, hj, or_self, if_false]
        simp [furAct, Herd.fur, List.getD_eq_getElem?_getD, Ne.symm e]

/-- Writes of one word to each of some lanes, seen from one register key. -/
theorem v_lanes (d : Nat) (f : Nat → Lane) : ∀ (ls : List Nat) (h : Herd) (k : Nat),
    Sparse.get zeros (h.acts (ls.map (fun l => HAct.v (vkey d l) [f l]))).v k
      = if 64 * d ≤ k ∧ k - 64 * d ∈ ls then f (k - 64 * d) else Sparse.get zeros h.v k
  | [], h, k => by simp
  | l :: ls, h, k => by
    rw [List.map_cons, Herd.acts_cons, v_lanes d f ls]
    by_cases hk : 64 * d ≤ k ∧ k - 64 * d ∈ ls
    · rw [if_pos hk, if_pos ⟨hk.1, by simp [hk.2]⟩]
    · rw [if_neg hk]
      simp only [Herd.act_v, Sparse.get_write, vkey, List.length_cons, List.length_nil]
      by_cases e : 64 * d + l ≤ k ∧ k < 64 * d + l + (0 + 1)
      · have : k = 64 * d + l := by omega
        subst this
        rw [if_pos e, if_pos ⟨by omega, by simp⟩]
        simp
      · rw [if_neg e, if_neg]
        rintro ⟨h1, h2⟩
        rcases List.mem_cons.mp h2 with h2 | h2
        · omega
        · exact hk ⟨h1, h2⟩

theorem acts_only_v (h : Herd) : ∀ (l : List HAct), (∀ a ∈ l, (∃ lo xs, a = HAct.v lo xs) ∨ (∃ n c, a = HAct.vtag n c)
      ∨ ∃ f r, a = HAct.furrow f r) →
    h.acts l = { h with v := (h.acts l).v, vtag := (h.acts l).vtag, furrows := (h.acts l).furrows } := by
  intro l
  induction l generalizing h with
  | nil => intro _; rfl
  | cons a l ih =>
    intro hl
    have e := ih (h.act a) (fun b hb => hl b (by simp [hb]))
    rw [Herd.acts_cons, e]
    rcases hl a (by simp) with ⟨lo, xs, rfl⟩ | ⟨n, c, rfl⟩ | ⟨f, r, rfl⟩ <;> rfl

theorem acts_only_furrow (h : Herd) : ∀ (l : List HAct), (∀ a ∈ l, ∃ f r, a = HAct.furrow f r) →
    h.acts l = { h with furrows := (h.acts l).furrows } := by
  intro l
  induction l generalizing h with
  | nil => intro _; rfl
  | cons a l ih =>
    intro hl
    have e := ih (h.act a) (fun b hb => hl b (by simp [hb]))
    rw [Herd.acts_cons, e]
    obtain ⟨f, r, rfl⟩ := hl a (by simp)
    rfl

/-- Every lane of a group lies below 8 times its herd's furrows. -/
theorem lanesOf_lt (h : Herd) (fs : List Nat) (hf : ∀ f ∈ fs, f < h.furrows.length) :
    ∀ l ∈ h.lanesOf fs, l < 8 * h.furrows.length := by
  intro l hl
  simp only [Herd.lanesOf, Herd.pathLanes, bitsOf, List.mem_flatMap, List.mem_map, List.mem_filter, List.mem_range] at hl
  obtain ⟨f, h1, b, ⟨h2, _⟩, rfl⟩ := hl
  have := hf f h1
  omega

theorem group_lt (h : Herd) (f : Nat) : ∀ j ∈ h.group f, j < h.furrows.length := by
  intro j hj
  simp only [Herd.group, Herd.idxs, List.mem_filter, List.mem_range] at hj
  exact hj.1

theorem activeLanes_lt (h : Herd) (f : Nat) (hd : Header) (h8 : h.furrows.length ≤ 8) :
    ∀ l ∈ activeLanes h f hd, l < 64 := by
  intro l hl
  have := lanesOf_lt h (h.group f) (group_lt h f) l (List.mem_filter.mp hl).1
  omega

/-- The acts of a word that completes on its own herd. -/
theorem finish_done_herd {s : State} {w : Issuer} {h : Herd} (hi : Issues s w h) (hd : Header) (l : List HAct) :
    OnlyHerd s (run s ((issueCtx w h hd).finish s (.done (herdActs w.key l)))) w h
      ((h.acts l).acts (moveTo h (h.group w.f) ((h.fur w.f).pc + 8#64))) := by
  have e : (issueCtx w h hd).finish s (.done (herdActs w.key l))
      = bumpCore h.core 0x040 :: herdActs w.key (l ++ moveTo h (h.group w.f) ((h.fur w.f).pc + 8#64)) := by
    simp [Ctx.finish, Ctx.count, Ctx.core, Ctx.advance, issueCtx, herdActs]
  have hh := hi.herd
  rw [e]
  rw [run_cons]
  refine ⟨?_, ?_, ?_, ?_, ?_, ?_, ?_, ?_⟩
  · rw [herd?_herdActs_self, herd?_congr s _ (by simp [bumpCore])]
    simp [hh]
  · rw [run_herdActs]; simp [bumpCore, State.act]
  · intro k hk
    rw [herd?_herdActs_other _ _ _ _ hk, herd?_congr s _ (by simp [bumpCore])]
  · simp [run_herdActs, State.coreReg, bumpCore, Sparse.get_set]
  · intro n hn
    simp [run_herdActs, bumpCore, Sparse.get_set, hn]
  · intro a; simp [run_herdActs, bumpCore]
  · intro a; simp [run_herdActs, bumpCore]
  · simp [run_herdActs, bumpCore]

/-- The herd after a word that writes one vector register's lanes. -/
theorem lanesWritten_vec {h : Herd} {f d tag : Nat} (h8 : h.furrows.length ≤ 8) (ht : tag < 16) (hd : Header) (g : Nat → Lane) :
    LanesWritten h
      ((h.acts ((activeLanes h f hd).map (fun l => HAct.v (vkey d l) [g l]) ++ [.vtag d (BitVec.ofNat 4 tag)])).acts
        (moveTo h (h.group f) ((h.fur f).pc + 8#64))) f d (activeLanes h f hd) tag g h.holds := by
  have hv : ∀ (x : Herd) (l : List HAct), (∀ a ∈ l, ∃ f r, a = HAct.furrow f r) → (x.acts l).v = x.v ∧ (x.acts l).vtag = x.vtag := by
    intro x l
    induction l generalizing x with
    | nil => intro _; exact ⟨rfl, rfl⟩
    | cons a l ih =>
      intro hl
      obtain ⟨i1, i2⟩ := ih (x.act a) (fun b hb => hl b (by simp [hb]))
      obtain ⟨f, r, rfl⟩ := hl a (by simp)
      exact ⟨by rw [Herd.acts_cons, i1]; rfl, by rw [Herd.acts_cons, i2]; rfl⟩
  have hm : ∀ a ∈ moveTo h (h.group f) ((h.fur f).pc + 8#64), ∃ f r, a = HAct.furrow f r := by
    intro a ha
    simp only [moveTo, List.mem_map] at ha
    obtain ⟨j, _, rfl⟩ := ha
    exact ⟨_, _, rfl⟩
  have hvt : ∀ (ls : List Nat) (x : Herd), (x.acts (ls.map (fun l => HAct.v (vkey d l) [g l]))).vtag = x.vtag := by
    intro ls
    induction ls with
    | nil => intro x; rfl
    | cons a ls ih => intro x; rw [List.map_cons, Herd.acts_cons, ih]; rfl
  refine ⟨?_, ?_, ?_, ?_, ?_, ?_⟩
  · intro l hl
    simp only [Herd.vreg]
    rw [(hv _ _ hm).1, Herd.acts_append, Herd.acts_cons, Herd.acts_nil]
    simp only [Herd.act_v]
    rw [v_lanes, if_pos ⟨by omega, by rw [show 64 * d + l - 64 * d = l from by omega]; exact hl⟩]
    congr 1; omega
  · intro n l hl hn
    simp only [Herd.vreg]
    rw [(hv _ _ hm).1, Herd.acts_append, Herd.acts_cons, Herd.acts_nil]
    simp only [Herd.act_v]
    rw [v_lanes, if_neg]
    rintro ⟨h1, h2⟩
    have := activeLanes_lt h f hd h8 _ h2
    apply hn
    have e : n = d := by omega
    subst e
    exact ⟨rfl, by rw [show 64 * n + l - 64 * n = l from by omega] at h2; exact h2⟩
  · simp only [Herd.tagOf]
    rw [(hv _ _ hm).2, Herd.acts_append, Herd.acts_cons, Herd.acts_nil]
    simp [Sparse.get_set, Nat.mod_eq_of_lt ht]
  · intro n hn
    simp only [Herd.tagOf]
    rw [(hv _ _ hm).2, Herd.acts_append, Herd.acts_cons, Herd.acts_nil]
    simp [Sparse.get_set, hn, hvt]
  · intro j
    have e1 : ∀ j, (h.acts ((activeLanes h f hd).map (fun l => HAct.v (vkey d l) [g l]) ++ [.vtag d (BitVec.ofNat 4 tag)])).fur j = h.fur j := by
      intro j
      simp only [Herd.fur]
      rw [Herd.acts_furrows]
      intro a ha f r e
      subst e
      simp at ha
    simp only [moveTo]
    rw [fur_acts h (fun _ r => { r with pc := (h.fur f).pc + 8#64 }) (h.group f) _ j (by
      intro x hx; rw [Herd.acts_length]; exact group_lt h f x hx), e1]
  · rw [← Herd.acts_append]
    apply acts_only_v
    intro a ha
    rcases List.mem_append.mp ha with ha | ha
    · rcases List.mem_append.mp ha with ha | ha
      · obtain ⟨l, _, rfl⟩ := List.mem_map.mp ha; exact Or.inl ⟨_, _, rfl⟩
      · simp at ha; subst ha; exact Or.inr (Or.inl ⟨_, _, rfl⟩)
    · exact Or.inr (Or.inr (hm a ha))

/-- The herd after a word that writes one uniform register. -/
theorem sregWritten_s (h : Herd) (f d : Nat) (x : Word) :
    SregWritten h ((h.acts [HAct.s d x]).acts (moveTo h (h.group f) ((h.fur f).pc + 8#64))) f d x := by
  have hm : ∀ a ∈ moveTo h (h.group f) ((h.fur f).pc + 8#64), ∃ f r, a = HAct.furrow f r := by
    intro a ha
    simp only [moveTo, List.mem_map] at ha
    obtain ⟨j, _, rfl⟩ := ha
    exact ⟨_, _, rfl⟩
  have hs : ∀ (x : Herd) (l : List HAct), (∀ a ∈ l, ∃ f r, a = HAct.furrow f r) → (x.acts l).s = x.s := by
    intro x l
    induction l generalizing x with
    | nil => intro _; rfl
    | cons a l ih =>
      intro hl
      have i1 := ih (x.act a) (fun b hb => hl b (by simp [hb]))
      obtain ⟨f, r, rfl⟩ := hl a (by simp)
      rw [Herd.acts_cons, i1]; rfl
  have e : ∀ n, ((h.acts [HAct.s d x]).acts (moveTo h (h.group f) ((h.fur f).pc + 8#64))).sreg n
      = if n = 0 then 0#64 else if n = d then x else h.sreg n := by
    intro n
    simp only [Herd.sreg]
    rw [hs _ _ hm]
    by_cases h0 : n = 0
    · simp [h0]
    · by_cases hd : d = 0
      · simp [h0, hd]
      · simp [h0, hd, Sparse.get_set]
  refine ⟨?_, ?_, ?_, ?_⟩
  · rw [e]; by_cases h0 : d = 0 <;> simp [h0]
  · intro n hn
    rw [e, if_neg hn]
    by_cases h0 : n = 0 <;> simp [h0, Herd.sreg]
  · intro j
    have e1 : ∀ j, (h.acts [HAct.s d x]).fur j = h.fur j := by intro j; simp [Herd.fur]
    simp only [moveTo]
    rw [fur_acts h (fun _ r => { r with pc := (h.fur f).pc + 8#64 }) (h.group f) _ j (by
      intro x hx; rw [Herd.acts_length]; exact group_lt h f x hx), e1]
  · rw [acts_only_furrow _ _ hm]
    rfl

end Sys2Proof.Machine
end

