-- ==== Sys2Proof/Laws/Ops.lean ====
section
/-! SUPPORT. What the shared operations of Machine/Ops and Machine/Issue do: the bytes, registers and herds that a list of
acts leaves, a trap taken at a word and the herd that trap entry leaves, a parked group, and bytes written to a place. -/

namespace Sys2Proof.Machine

/-- Whether an act writes byte x of device memory. -/
def Act.stores (x : Nat) : Act → Bool
  | .mem pa bs _ => decide (pa ≤ x) && decide (x < pa + bs.length)
  | .memZero pa n => decide (pa ≤ x) && decide (x < pa + n)
  | _ => false

/-- A byte of device memory that no act of a list writes. -/
theorem byte_run : ∀ (l : List Act) (s : State) (x : Nat), (∀ a ∈ l, a.stores x = false) →
    (run s l).hbm.byte x = s.hbm.byte x
  | [], _, _, _ => rfl
  | a :: l, s, x, h => by
    rw [run_cons, byte_run l _ x (fun b hb => h b (by simp [hb]))]
    have := h a (by simp)
    cases a with
    | mem pa bs o =>
      simp only [Act.stores, Bool.and_eq_false_iff, decide_eq_false_iff_not] at this
      rw [State.act_hbm, Memory.byte_put_of_lt]
      omega
    | memZero pa n =>
      simp only [Act.stores, Bool.and_eq_false_iff, decide_eq_false_iff_not] at this
      rw [State.act_hbm]
      exact Sparse.get_clear _ _ _ _ _ (by omega)
    | _ => rw [State.act_hbm]

/-- Host memory after acts of which none writes it. -/
theorem hostMem_run : ∀ (l : List Act) (s : State), (∀ a ∈ l, ∀ x bs, a ≠ .hostMem x bs) → (run s l).hostMem = s.hostMem
  | [], _, _ => rfl
  | a :: l, s, h => by
    rw [run_cons, hostMem_run l _ (fun b hb => h b (by simp [hb]))]
    have := h a (by simp)
    cases a <;> simp_all

/-- A register of a core that no act of a list writes. -/
theorem coreReg_run : ∀ (l : List Act) (s : State) (n : Nat),
    (∀ a ∈ l, (∀ x, a ≠ .coreReg n x) ∧ ∀ m, a ≠ .bump n m) →
    Sparse.get coreReset (run s l).coreRegs n = Sparse.get coreReset s.coreRegs n
  | [], _, _, _ => rfl
  | a :: l, s, n, h => by
    rw [run_cons, coreReg_run l _ n (fun b hb => h b (by simp [hb]))]
    obtain ⟨h1, h2⟩ := h a (by simp)
    rw [State.act_coreRegs]
    cases a with
    | coreReg k x => rw [Sparse.get_set, if_neg (fun e => h1 x (by rw [e]))]
    | bump k m => rw [Sparse.get_set, if_neg (fun e => h2 m (by rw [e]))]
    | _ => rfl

/-- The registers of partitions after acts of which none writes one. -/
theorem partRegs_run : ∀ (l : List Act) (s : State), (∀ a ∈ l, ∀ k x, a ≠ .partReg k x) → (run s l).partRegs = s.partRegs
  | [], _, _ => rfl
  | a :: l, s, h => by
    rw [run_cons, partRegs_run l _ (fun b hb => h b (by simp [hb]))]
    have := h a (by simp)
    cases a <;> simp_all

/-- R356, R357, R360: a trap is a double trap in a handler, waits for another group's instruction or trap, or is entered. -/
theorem takeTrap_cases (s : State) (h : Herd) (t : TrapInfo) :
    (h.handler.isSome = true ∧ takeTrap s h t = doubleTrap s h t.cls t.cause t.lane)
    ∨ (h.handler.isSome = false ∧ ¬ TrapFree h t.group ∧ takeTrap s h t = [])
    ∨ (h.handler.isSome = false ∧ TrapFree h t.group ∧ takeTrap s h t = trapEntry s h t) := by
  unfold takeTrap TrapFree
  cases h.handler.isSome <;> cases trapWaits h t.group <;> cases pendBefore h t.group <;> simp

/-- A trap that nothing delays is taken, whether or not its word could issue again to meet it. -/
theorem raiseTrap_free {h : Herd} {t : TrapInfo} (hw : TrapFree h t.group) (s : State) : raiseTrap s h t = takeTrap s h t := by
  simp [raiseTrap, hw.1, hw.2]

/-- A herd with no pending trap takes none. -/
theorem takePending_none {s : State} {k : HerdKey} {h : Herd} (hh : s.herd? k = some h) (hp : h.pend = []) :
    takePending k s = [] := by
  simp [takePending, hh, hp, sortBy]

/-- The herd itself is untouched by the count of an instruction issued. -/
theorem counted_herd {s : State} {w : Issuer} {h : Herd} (hi : Issues s w h) : (counted s h).herd? w.key = some h := by
  rw [herd?_congr s _ (by simp [counted, bumpCore])]; exact hi.herd

/-- The herd in the state in which its trap is judged. -/
theorem trapBase_herd {s : State} {w : Issuer} {h : Herd} (hi : Issues s w h) (cls : Nat) :
    (trapBase s h cls).herd? w.key = some h := by
  unfold trapBase; split
  · exact hi.herd
  · exact counted_herd hi

/-- A *before* trap that an issue raises, with nothing done first: an illegal word is not counted, another is, and the trap is
taken. -/
theorem run_finish_trap {s : State} {w : Issuer} {h : Herd} (hi : Issues s w h) (hd : Header) (t : TrapReq)
    (hw : TrapFree h (furMask (h.group w.f))) :
    run s ((issueCtx w h hd).finish s (.trap t []))
      = trapped s h ((issueCtx w h hd).info t (h.fur w.f).pc) := by
  have hc := trapBase_herd hi t.cls
  have e : run s ((issueCtx w h hd).trapCount t.cls ++ []) = trapBase s h t.cls := by
    simp only [Ctx.trapCount, trapBase, counted, issueCtx, Ctx.count, Ctx.core]
    split <;> rfl
  simp only [Ctx.finish, issueCtx, hw.1, hw.2, Bool.or_self, Bool.false_eq_true, if_false, thenTrap, run_chain]
  simp only [issueCtx] at e
  simp only [List.foldl_cons, List.foldl_nil, e, hc, trapped, Ctx.info]

/-- A word that stalls changes nothing. -/
theorem run_finish_stall (c : Ctx) (s : State) : run s (c.finish s .stall) = s := rfl

/-- A word with no active lane is a no-op (R136). -/
theorem issueRes_idle {w : Issuer} {h : Herd} {hd : Header} (hp : PredOk h hd) (ha : activeLanes h w.f hd = [])
    (lg : Ctx → Option Nat) (eff : Ctx → State → Res) (s : State) :
    issueRes (issueCtx w h hd) lg eff s = .noop := by
  have : (issueCtx w h hd).act.isEmpty = true := by simp only [issueCtx, List.isEmpty_iff]; exact ha
  simp [issueRes, predBad_false hp, this]

/-- A word that breaks a rule, with an active lane, traps with the lowest of its causes (R136, R137). -/
theorem issueRes_illegal {w : Issuer} {h : Herd} {hd : Header} (hp : PredOk h hd) (ha : activeLanes h w.f hd ≠ [])
    (lg : Ctx → Option Nat) {cause : Nat} (hl : lg (issueCtx w h hd) = some cause) (eff : Ctx → State → Res) (s : State) :
    issueRes (issueCtx w h hd) lg eff s = .trap (trapOf 0 cause) [] := by
  have : (issueCtx w h hd).act.isEmpty = false := by
    simp only [issueCtx, List.isEmpty_eq_false_iff]; exact ha
  simp [issueRes, predBad_false hp, this, hl]

/-- An illegal word's next state. -/
theorem issue_illegal {s : State} {w : Issuer} {h : Herd} {hd : Header} (hi : Issues s w h) (hp : PredOk h hd)
    (ha : activeLanes h w.f hd ≠ []) (lg : Ctx → Option Nat) {cause : Nat} (hl : lg (issueCtx w h hd) = some cause)
    (hw : TrapFree h (furMask (h.group w.f))) (eff : Ctx → State → Res) :
    issue hd lg eff s = .next (trapped s h (trapAtWord w h 0 cause)) := by
  rw [issue_next hi, issueRes_illegal hp ha lg hl, run_finish_trap hi hd _ hw]
  rfl

/-- A legal word's next state is what the outcome of its effect does. -/
theorem issue_legal {s : State} {w : Issuer} {h : Herd} {hd : Header} (hi : Issues s w h) (hp : PredOk h hd)
    (ha : activeLanes h w.f hd ≠ []) (lg : Ctx → Option Nat) (hl : lg (issueCtx w h hd) = none) (eff : Ctx → State → Res) :
    issue hd lg eff s = .next (run s ((issueCtx w h hd).finish s (eff (issueCtx w h hd) s))) := by
  rw [issue_next hi, issueRes_eff hp ha lg hl]

/-- The acts of trap entry on the herd (R357). -/
def entryHActs (s : State) (h : Herd) (t : TrapInfo) : List HAct :=
  (handlerGroup h).map (fun f => furAct h f (fun r =>
      { r with pc := trapVector s h.key.crew.part t.cls, path := r.lanes, stack := [], grp := (handlerGroup h).headD 0, st := .running }))
    ++ [.holds [], .handler (some (furMask (handlerGroup h))), .pend (pendAfter h t) 0 0, .lateDone (handlerGroup h), .sup true,
        .reload 56 (BitVec.ofNat 64 (saveArea s h)), .reload 57 (trapWord h t), .reload 58 t.pc]

/-- Trap entry, seen from the herds: the acts on its own. -/
theorem trapEntry_herds (s : State) (h : Herd) (t : TrapInfo) (k : HerdKey) :
    (run s (trapEntry s h t)).herd? k = (run s (herdActs h.key (entryHActs s h t))).herd? k := by
  have e : trapEntry s h t = [Act.mem (saveArea s h) (trapRec h t) none,
      .mem (saveArea s h + 0x40) ((List.range 8).flatMap (fun i => leBytes 8 (h.sreg (56 + i)).toNat)) none,
      .mem (saveArea s h + 0x400) (furrowRecs h) none]
      ++ (herdActs h.key (entryHActs s h t) ++ [dropSlice s h.core h.slice, bumpCore h.core 0x106]) := by
    simp [trapEntry, entryHActs]
  have d : ∀ x : State, (run x [dropSlice s h.core h.slice, bumpCore h.core 0x106]).herd? k = x.herd? k :=
    fun x => herd?_congr x (run x [dropSlice s h.core h.slice, bumpCore h.core 0x106]) (by simp [dropSlice, bumpCore]) k
  rw [e, run_append, run_append, d]
  apply herd?_congr
  rw [run_herdActs, run_herdActs]
  simp

/-- The herd that trap entry leaves (R357). -/
theorem trapEntry_herd {s : State} {h : Herd} (hh : s.herd? h.key = some h) (t : TrapInfo) :
    (run s (trapEntry s h t)).herd? h.key = some (h.acts (entryHActs s h t)) := by
  rw [trapEntry_herds, herd?_herdActs_self, hh]; rfl

/-- Trap entry leaves every other herd as it was. -/
theorem trapEntry_other (s : State) (h : Herd) (t : TrapInfo) (k : HerdKey) (hk : k ≠ h.key) :
    (run s (trapEntry s h t)).herd? k = s.herd? k := by
  rw [trapEntry_herds, herd?_herdActs_other _ _ _ _ hk]

/-- After trap entry the herd is in its handler, at supervisor level, with no hold (R357). -/
theorem trapEntry_level {s : State} {h : Herd} (hh : s.herd? h.key = some h) (t : TrapInfo) :
    ∃ h', (run s (trapEntry s h t)).herd? h.key = some h' ∧ h'.handler = some (furMask (handlerGroup h)) ∧ h'.sup = true ∧
      h'.holds = [] := by
  refine ⟨_, trapEntry_herd hh t, ?_, ?_, ?_⟩ <;>
    (unfold entryHActs; rw [Herd.acts_append]; simp)

/-- Bytes written to device memory by a place of memory or of a window are the bytes there. -/
theorem writeLoc_hbm (s : State) (core pa : Nat) (bs : List Byte) :
    (run s (writeLoc core bs (.mem pa))).hbm = s.hbm.put pa bs ∧
    ∀ c id sec off, (run s (writeLoc core bs (.win c id sec pa off))).hbm = s.hbm.put pa bs := by
  constructor
  · simp [writeLoc]
  · intro c id sec off; simp [writeLoc]

/-- Bytes written to a tile store leave device memory. -/
theorem writeLoc_tile (s : State) (core off : Nat) (c : CrewKey) (bs : List Byte) :
    (run s (writeLoc core bs (.tile c off))).hbm = s.hbm := by simp [writeLoc]

end Sys2Proof.Machine
end

