-- ==== Sys2Proof/Laws/PerInstr.lean ====
section
/-! SUPPORT. What holds of every instruction as syntax, one lemma per constructor: its word carries its header (R126), and an
event has neither a header nor a word. -/

namespace Sys2Proof.Laws.HeaderInWord

open Sys2Proof

/-- R126: an instruction has a word exactly when it has a header, and the word carries it. -/
def Statement (i : Instr) : Prop := (encode i).map hdrOf = i.header

theorem add (h : Header) (x : F3) : Statement (.add h x) := congrArg some (hdrOf_wordOf _ _ _)
theorem sub (h : Header) (x : F3) : Statement (.sub h x) := congrArg some (hdrOf_wordOf _ _ _)
theorem mul (h : Header) (x : F3) : Statement (.mul h x) := congrArg some (hdrOf_wordOf _ _ _)
theorem mulhi (h : Header) (x : F3) : Statement (.mulhi h x) := congrArg some (hdrOf_wordOf _ _ _)
theorem min (h : Header) (x : F3) : Statement (.min h x) := congrArg some (hdrOf_wordOf _ _ _)
theorem max (h : Header) (x : F3) : Statement (.max h x) := congrArg some (hdrOf_wordOf _ _ _)
theorem abs (h : Header) (x : F3) : Statement (.abs h x) := congrArg some (hdrOf_wordOf _ _ _)
theorem neg (h : Header) (x : F3) : Statement (.neg h x) := congrArg some (hdrOf_wordOf _ _ _)
theorem and (h : Header) (x : F3) : Statement (.and h x) := congrArg some (hdrOf_wordOf _ _ _)
theorem or (h : Header) (x : F3) : Statement (.or h x) := congrArg some (hdrOf_wordOf _ _ _)
theorem xor (h : Header) (x : F3) : Statement (.xor h x) := congrArg some (hdrOf_wordOf _ _ _)
theorem andn (h : Header) (x : F3) : Statement (.andn h x) := congrArg some (hdrOf_wordOf _ _ _)
theorem not (h : Header) (x : F3) : Statement (.not h x) := congrArg some (hdrOf_wordOf _ _ _)
theorem shl (h : Header) (x : F3) : Statement (.shl h x) := congrArg some (hdrOf_wordOf _ _ _)
theorem shr (h : Header) (x : F3) : Statement (.shr h x) := congrArg some (hdrOf_wordOf _ _ _)
theorem sar (h : Header) (x : F3) : Statement (.sar h x) := congrArg some (hdrOf_wordOf _ _ _)
theorem rot (h : Header) (x : F3) : Statement (.rot h x) := congrArg some (hdrOf_wordOf _ _ _)
theorem popc (h : Header) (x : F3) : Statement (.popc h x) := congrArg some (hdrOf_wordOf _ _ _)
theorem clz (h : Header) (x : F3) : Statement (.clz h x) := congrArg some (hdrOf_wordOf _ _ _)
theorem ctz (h : Header) (x : F3) : Statement (.ctz h x) := congrArg some (hdrOf_wordOf _ _ _)
theorem brev (h : Header) (x : F3) : Statement (.brev h x) := congrArg some (hdrOf_wordOf _ _ _)
theorem bfe (h : Header) (x : F3) : Statement (.bfe h x) := congrArg some (hdrOf_wordOf _ _ _)
theorem mov (h : Header) (x : F3) : Statement (.mov h x) := congrArg some (hdrOf_wordOf _ _ _)
theorem cmp (h : Header) (x : F3) : Statement (.cmp h x) := congrArg some (hdrOf_wordOf _ _ _)
theorem fma (h : Header) (x : F4) : Statement (.fma h x) := congrArg some (hdrOf_wordOf _ _ _)
theorem mad (h : Header) (x : F4) : Statement (.mad h x) := congrArg some (hdrOf_wordOf _ _ _)
theorem sel (h : Header) (x : F4) : Statement (.sel h x) := congrArg some (hdrOf_wordOf _ _ _)
theorem bfi (h : Header) (x : F4) : Statement (.bfi h x) := congrArg some (hdrOf_wordOf _ _ _)
theorem dot4 (h : Header) (x : F4) : Statement (.dot4 h x) := congrArg some (hdrOf_wordOf _ _ _)
theorem addi (h : Header) (x : FI) : Statement (.addi h x) := congrArg some (hdrOf_wordOf _ _ _)
theorem muli (h : Header) (x : FI) : Statement (.muli h x) := congrArg some (hdrOf_wordOf _ _ _)
theorem andi (h : Header) (x : FI) : Statement (.andi h x) := congrArg some (hdrOf_wordOf _ _ _)
theorem ori (h : Header) (x : FI) : Statement (.ori h x) := congrArg some (hdrOf_wordOf _ _ _)
theorem xori (h : Header) (x : FI) : Statement (.xori h x) := congrArg some (hdrOf_wordOf _ _ _)
theorem shli (h : Header) (x : FI) : Statement (.shli h x) := congrArg some (hdrOf_wordOf _ _ _)
theorem shri (h : Header) (x : FI) : Statement (.shri h x) := congrArg some (hdrOf_wordOf _ _ _)
theorem sari (h : Header) (x : FI) : Statement (.sari h x) := congrArg some (hdrOf_wordOf _ _ _)
theorem cmpi (h : Header) (x : FI) : Statement (.cmpi h x) := congrArg some (hdrOf_wordOf _ _ _)
theorem mini (h : Header) (x : FI) : Statement (.mini h x) := congrArg some (hdrOf_wordOf _ _ _)
theorem maxi (h : Header) (x : FI) : Statement (.maxi h x) := congrArg some (hdrOf_wordOf _ _ _)
theorem movi (h : Header) (x : FL) : Statement (.movi h x) := congrArg some (hdrOf_wordOf _ _ _)
theorem movs (h : Header) (x : FL) : Statement (.movs h x) := congrArg some (hdrOf_wordOf _ _ _)
theorem movhs (h : Header) (x : FL) : Statement (.movhs h x) := congrArg some (hdrOf_wordOf _ _ _)
theorem div (h : Header) (x : F3) : Statement (.div h x) := congrArg some (hdrOf_wordOf _ _ _)
theorem sqrt (h : Header) (x : F3) : Statement (.sqrt h x) := congrArg some (hdrOf_wordOf _ _ _)
theorem rsqrt (h : Header) (x : F3) : Statement (.rsqrt h x) := congrArg some (hdrOf_wordOf _ _ _)
theorem rcp (h : Header) (x : F3) : Statement (.rcp h x) := congrArg some (hdrOf_wordOf _ _ _)
theorem exp2 (h : Header) (x : F3) : Statement (.exp2 h x) := congrArg some (hdrOf_wordOf _ _ _)
theorem log2 (h : Header) (x : F3) : Statement (.log2 h x) := congrArg some (hdrOf_wordOf _ _ _)
theorem sin (h : Header) (x : F3) : Statement (.sin h x) := congrArg some (hdrOf_wordOf _ _ _)
theorem cos (h : Header) (x : F3) : Statement (.cos h x) := congrArg some (hdrOf_wordOf _ _ _)
theorem tanh (h : Header) (x : F3) : Statement (.tanh h x) := congrArg some (hdrOf_wordOf _ _ _)
theorem fclass (h : Header) (x : F3) : Statement (.fclass h x) := congrArg some (hdrOf_wordOf _ _ _)
theorem rint (h : Header) (x : F3) : Statement (.rint h x) := congrArg some (hdrOf_wordOf _ _ _)
theorem ldexp (h : Header) (x : F3) : Statement (.ldexp h x) := congrArg some (hdrOf_wordOf _ _ _)
theorem sgnj (h : Header) (x : F3) : Statement (.sgnj h x) := congrArg some (hdrOf_wordOf _ _ _)
theorem cvt (h : Header) (x : F3) : Statement (.cvt h x) := congrArg some (hdrOf_wordOf _ _ _)
theorem tag (h : Header) (x : F3) : Statement (.tag h x) := congrArg some (hdrOf_wordOf _ _ _)
theorem pack (h : Header) (x : F3) : Statement (.pack h x) := congrArg some (hdrOf_wordOf _ _ _)
theorem unpk (h : Header) (x : F3) : Statement (.unpk h x) := congrArg some (hdrOf_wordOf _ _ _)
theorem shfl (h : Header) (x : F3) : Statement (.shfl h x) := congrArg some (hdrOf_wordOf _ _ _)
theorem bcast (h : Header) (x : F3) : Statement (.bcast h x) := congrArg some (hdrOf_wordOf _ _ _)
theorem vote (h : Header) (x : F3) : Statement (.vote h x) := congrArg some (hdrOf_wordOf _ _ _)
theorem ballot (h : Header) (x : F3) : Statement (.ballot h x) := congrArg some (hdrOf_wordOf _ _ _)
theorem hred (h : Header) (x : F3) : Statement (.hred h x) := congrArg some (hdrOf_wordOf _ _ _)
theorem hscan (h : Header) (x : F3) : Statement (.hscan h x) := congrArg some (hdrOf_wordOf _ _ _)
theorem rdlane (h : Header) (x : F3) : Statement (.rdlane h x) := congrArg some (hdrOf_wordOf _ _ _)
theorem splat (h : Header) (x : F3) : Statement (.splat h x) := congrArg some (hdrOf_wordOf _ _ _)
theorem sadd (h : Header) (x : F3) : Statement (.sadd h x) := congrArg some (hdrOf_wordOf _ _ _)
theorem ssub (h : Header) (x : F3) : Statement (.ssub h x) := congrArg some (hdrOf_wordOf _ _ _)
theorem smul (h : Header) (x : F3) : Statement (.smul h x) := congrArg some (hdrOf_wordOf _ _ _)
theorem sand (h : Header) (x : F3) : Statement (.sand h x) := congrArg some (hdrOf_wordOf _ _ _)
theorem sor (h : Header) (x : F3) : Statement (.sor h x) := congrArg some (hdrOf_wordOf _ _ _)
theorem sxor (h : Header) (x : F3) : Statement (.sxor h x) := congrArg some (hdrOf_wordOf _ _ _)
theorem sshl (h : Header) (x : F3) : Statement (.sshl h x) := congrArg some (hdrOf_wordOf _ _ _)
theorem sshr (h : Header) (x : F3) : Statement (.sshr h x) := congrArg some (hdrOf_wordOf _ _ _)
theorem ssar (h : Header) (x : F3) : Statement (.ssar h x) := congrArg some (hdrOf_wordOf _ _ _)
theorem smin (h : Header) (x : F3) : Statement (.smin h x) := congrArg some (hdrOf_wordOf _ _ _)
theorem smax (h : Header) (x : F3) : Statement (.smax h x) := congrArg some (hdrOf_wordOf _ _ _)
theorem scmp (h : Header) (x : F3) : Statement (.scmp h x) := congrArg some (hdrOf_wordOf _ _ _)
theorem ssel (h : Header) (x : F4) : Statement (.ssel h x) := congrArg some (hdrOf_wordOf _ _ _)
theorem smov (h : Header) (x : F3) : Statement (.smov h x) := congrArg some (hdrOf_wordOf _ _ _)
theorem saddi (h : Header) (x : FI) : Statement (.saddi h x) := congrArg some (hdrOf_wordOf _ _ _)
theorem sandi (h : Header) (x : FI) : Statement (.sandi h x) := congrArg some (hdrOf_wordOf _ _ _)
theorem sori (h : Header) (x : FI) : Statement (.sori h x) := congrArg some (hdrOf_wordOf _ _ _)
theorem sshli (h : Header) (x : FI) : Statement (.sshli h x) := congrArg some (hdrOf_wordOf _ _ _)
theorem nop (h : Header) (x : FS) : Statement (.nop h x) := congrArg some (hdrOf_wordOf _ _ _)
theorem br (h : Header) (x : FB) : Statement (.br h x) := congrArg some (hdrOf_wordOf _ _ _)
theorem jmpi (h : Header) (x : F3) : Statement (.jmpi h x) := congrArg some (hdrOf_wordOf _ _ _)
theorem call (h : Header) (x : FB) : Statement (.call h x) := congrArg some (hdrOf_wordOf _ _ _)
theorem calli (h : Header) (x : F3) : Statement (.calli h x) := congrArg some (hdrOf_wordOf _ _ _)
theorem ret (h : Header) (x : F3) : Statement (.ret h x) := congrArg some (hdrOf_wordOf _ _ _)
theorem head (h : Header) (x : FB) : Statement (.head h x) := congrArg some (hdrOf_wordOf _ _ _)
theorem exit (h : Header) (x : FS) : Statement (.exit h x) := congrArg some (hdrOf_wordOf _ _ _)
theorem yield (h : Header) (x : FS) : Statement (.yield h x) := congrArg some (hdrOf_wordOf _ _ _)
theorem barw (h : Header) (x : FS) : Statement (.barw h x) := congrArg some (hdrOf_wordOf _ _ _)
theorem bars (h : Header) (x : FS) : Statement (.bars h x) := congrArg some (hdrOf_wordOf _ _ _)
theorem fence (h : Header) (x : FS) : Statement (.fence h x) := congrArg some (hdrOf_wordOf _ _ _)
theorem sow (h : Header) (x : FE) : Statement (.sow h x) := congrArg some (hdrOf_wordOf _ _ _)
theorem trap (h : Header) (x : FS) : Statement (.trap h x) := congrArg some (hdrOf_wordOf _ _ _)
theorem rft (h : Header) (x : FS) : Statement (.rft h x) := congrArg some (hdrOf_wordOf _ _ _)
theorem sget (h : Header) (x : FS) : Statement (.sget h x) := congrArg some (hdrOf_wordOf _ _ _)
theorem sset (h : Header) (x : FS) : Statement (.sset h x) := congrArg some (hdrOf_wordOf _ _ _)
theorem dqk (h : Header) (x : FS) : Statement (.dqk h x) := congrArg some (hdrOf_wordOf _ _ _)
theorem dqkAll (h : Header) (x : FS) : Statement (.dqkAll h x) := congrArg some (hdrOf_wordOf _ _ _)
theorem brk (h : Header) (x : FS) : Statement (.brk h x) := congrArg some (hdrOf_wordOf _ _ _)
theorem ld (h : Header) (nib : BitVec 4) (x : FM) : Statement (.ld h nib x) := congrArg some (hdrOf_wordOf _ _ _)
theorem st (h : Header) (nib : BitVec 4) (x : FM) : Statement (.st h nib x) := congrArg some (hdrOf_wordOf _ _ _)
theorem aaddI32 (h : Header) (x : FM) : Statement (.aaddI32 h x) := congrArg some (hdrOf_wordOf _ _ _)
theorem aaddF32 (h : Header) (x : FM) : Statement (.aaddF32 h x) := congrArg some (hdrOf_wordOf _ _ _)
theorem aminI32 (h : Header) (x : FM) : Statement (.aminI32 h x) := congrArg some (hdrOf_wordOf _ _ _)
theorem aminN32 (h : Header) (x : FM) : Statement (.aminN32 h x) := congrArg some (hdrOf_wordOf _ _ _)
theorem aminF32 (h : Header) (x : FM) : Statement (.aminF32 h x) := congrArg some (hdrOf_wordOf _ _ _)
theorem amaxI32 (h : Header) (x : FM) : Statement (.amaxI32 h x) := congrArg some (hdrOf_wordOf _ _ _)
theorem amaxN32 (h : Header) (x : FM) : Statement (.amaxN32 h x) := congrArg some (hdrOf_wordOf _ _ _)
theorem amaxF32 (h : Header) (x : FM) : Statement (.amaxF32 h x) := congrArg some (hdrOf_wordOf _ _ _)
theorem aand (h : Header) (x : FM) : Statement (.aand h x) := congrArg some (hdrOf_wordOf _ _ _)
theorem aor (h : Header) (x : FM) : Statement (.aor h x) := congrArg some (hdrOf_wordOf _ _ _)
theorem axor (h : Header) (x : FM) : Statement (.axor h x) := congrArg some (hdrOf_wordOf _ _ _)
theorem axch (h : Header) (x : FM) : Statement (.axch h x) := congrArg some (hdrOf_wordOf _ _ _)
theorem acas (h : Header) (x : FM) : Statement (.acas h x) := congrArg some (hdrOf_wordOf _ _ _)
theorem raddI32 (h : Header) (x : FM) : Statement (.raddI32 h x) := congrArg some (hdrOf_wordOf _ _ _)
theorem raddF32 (h : Header) (x : FM) : Statement (.raddF32 h x) := congrArg some (hdrOf_wordOf _ _ _)
theorem rminI32 (h : Header) (x : FM) : Statement (.rminI32 h x) := congrArg some (hdrOf_wordOf _ _ _)
theorem rminN32 (h : Header) (x : FM) : Statement (.rminN32 h x) := congrArg some (hdrOf_wordOf _ _ _)
theorem rminF32 (h : Header) (x : FM) : Statement (.rminF32 h x) := congrArg some (hdrOf_wordOf _ _ _)
theorem rmaxI32 (h : Header) (x : FM) : Statement (.rmaxI32 h x) := congrArg some (hdrOf_wordOf _ _ _)
theorem rmaxN32 (h : Header) (x : FM) : Statement (.rmaxN32 h x) := congrArg some (hdrOf_wordOf _ _ _)
theorem rmaxF32 (h : Header) (x : FM) : Statement (.rmaxF32 h x) := congrArg some (hdrOf_wordOf _ _ _)
theorem rand (h : Header) (x : FM) : Statement (.rand h x) := congrArg some (hdrOf_wordOf _ _ _)
theorem ror (h : Header) (x : FM) : Statement (.ror h x) := congrArg some (hdrOf_wordOf _ _ _)
theorem rxor (h : Header) (x : FM) : Statement (.rxor h x) := congrArg some (hdrOf_wordOf _ _ _)
theorem cpy (h : Header) (x : FE) : Statement (.cpy h x) := congrArg some (hdrOf_wordOf _ _ _)
theorem cpyg (h : Header) (x : FE) : Statement (.cpyg h x) := congrArg some (hdrOf_wordOf _ _ _)
theorem cwait (h : Header) (x : FE) : Statement (.cwait h x) := congrArg some (hdrOf_wordOf _ _ _)
theorem smap (h : Header) (x : FE) : Statement (.smap h x) := congrArg some (hdrOf_wordOf _ _ _)
theorem sunmap (h : Header) (x : FE) : Statement (.sunmap h x) := congrArg some (hdrOf_wordOf _ _ _)
theorem pf (h : Header) (x : FM) : Statement (.pf h x) := congrArg some (hdrOf_wordOf _ _ _)
theorem cinv (h : Header) (x : FM) : Statement (.cinv h x) := congrArg some (hdrOf_wordOf _ _ _)
theorem cwb (h : Header) (x : FM) : Statement (.cwb h x) := congrArg some (hdrOf_wordOf _ _ _)
theorem tlbiPage (h : Header) (x : FS) : Statement (.tlbiPage h x) := congrArg some (hdrOf_wordOf _ _ _)
theorem tlbiAll (h : Header) (x : FS) : Statement (.tlbiAll h x) := congrArg some (hdrOf_wordOf _ _ _)
theorem tlbiPid (h : Header) (x : FS) : Statement (.tlbiPid h x) := congrArg some (hdrOf_wordOf _ _ _)
theorem mma (h : Header) (x : FE) : Statement (.mma h x) := congrArg some (hdrOf_wordOf _ _ _)
theorem mzero (h : Header) (x : FE) : Statement (.mzero h x) := congrArg some (hdrOf_wordOf _ _ _)
theorem mld (h : Header) (x : FE) : Statement (.mld h x) := congrArg some (hdrOf_wordOf _ _ _)
theorem mst (h : Header) (x : FE) : Statement (.mst h x) := congrArg some (hdrOf_wordOf _ _ _)
theorem mabs (h : Header) (x : FE) : Statement (.mabs h x) := congrArg some (hdrOf_wordOf _ _ _)
theorem mmov (h : Header) (x : FE) : Statement (.mmov h x) := congrArg some (hdrOf_wordOf _ _ _)
theorem mrd (h : Header) (x : FE) : Statement (.mrd h x) := congrArg some (hdrOf_wordOf _ _ _)
theorem board (h : Header) (x : FE) : Statement (.board h x) := congrArg some (hdrOf_wordOf _ _ _)
theorem rtile (h : Header) (x : FE) : Statement (.rtile h x) := congrArg some (hdrOf_wordOf _ _ _)
theorem rfree (h : Header) (x : FE) : Statement (.rfree h x) := congrArg some (hdrOf_wordOf _ _ _)
theorem alight (h : Header) (x : FE) : Statement (.alight h x) := congrArg some (hdrOf_wordOf _ _ _)
theorem rpos (h : Header) (x : FE) : Statement (.rpos h x) := congrArg some (hdrOf_wordOf _ _ _)
theorem rpace (h : Header) (x : FE) : Statement (.rpace h x) := congrArg some (hdrOf_wordOf _ _ _)
theorem rinst (h : Header) (x : FE) : Statement (.rinst h x) := congrArg some (hdrOf_wordOf _ _ _)
theorem rstat (h : Header) (x : FE) : Statement (.rstat h x) := congrArg some (hdrOf_wordOf _ _ _)
theorem dadd (h : Header) (x : F3) : Statement (.dadd h x) := congrArg some (hdrOf_wordOf _ _ _)
theorem dsub (h : Header) (x : F3) : Statement (.dsub h x) := congrArg some (hdrOf_wordOf _ _ _)
theorem dmul (h : Header) (x : F3) : Statement (.dmul h x) := congrArg some (hdrOf_wordOf _ _ _)
theorem dmin (h : Header) (x : F3) : Statement (.dmin h x) := congrArg some (hdrOf_wordOf _ _ _)
theorem dmax (h : Header) (x : F3) : Statement (.dmax h x) := congrArg some (hdrOf_wordOf _ _ _)
theorem dneg (h : Header) (x : F3) : Statement (.dneg h x) := congrArg some (hdrOf_wordOf _ _ _)
theorem dscl (h : Header) (x : F3) : Statement (.dscl h x) := congrArg some (hdrOf_wordOf _ _ _)
theorem dmix (h : Header) (x : F3) : Statement (.dmix h x) := congrArg some (hdrOf_wordOf _ _ _)
theorem dpt (h : Header) (x : F3) : Statement (.dpt h x) := congrArg some (hdrOf_wordOf _ _ _)
theorem datm (h : Header) (x : F3) : Statement (.datm h x) := congrArg some (hdrOf_wordOf _ _ _)
theorem dget (h : Header) (x : F3) : Statement (.dget h x) := congrArg some (hdrOf_wordOf _ _ _)
theorem dtag (h : Header) (x : FI) : Statement (.dtag h x) := congrArg some (hdrOf_wordOf _ _ _)
theorem dmom (h : Header) (x : F3) : Statement (.dmom h x) := congrArg some (hdrOf_wordOf _ _ _)
theorem dqnt (h : Header) (x : F3) : Statement (.dqnt h x) := congrArg some (hdrOf_wordOf _ _ _)
theorem dcdf (h : Header) (x : F3) : Statement (.dcdf h x) := congrArg some (hdrOf_wordOf _ _ _)
theorem trec (h : Header) (x : F3) : Statement (.trec h x) := congrArg some (hdrOf_wordOf _ _ _)
theorem trbr (h : Header) (x : F3) : Statement (.trbr h x) := congrArg some (hdrOf_wordOf _ _ _)
theorem tmark (h : Header) (x : FI) : Statement (.tmark h x) := congrArg some (hdrOf_wordOf _ _ _)
theorem tply (h : Header) (x : F3) : Statement (.tply h x) := congrArg some (hdrOf_wordOf _ _ _)
theorem tplb (h : Header) (x : F3) : Statement (.tplb h x) := congrArg some (hdrOf_wordOf _ _ _)
theorem tpmk (h : Header) (x : F3) : Statement (.tpmk h x) := congrArg some (hdrOf_wordOf _ _ _)
theorem tbgn (h : Header) (x : FE) : Statement (.tbgn h x) := congrArg some (hdrOf_wordOf _ _ _)
theorem tend (h : Header) (x : FS) : Statement (.tend h x) := congrArg some (hdrOf_wordOf _ _ _)
theorem tseg (h : Header) (x : FE) : Statement (.tseg h x) := congrArg some (hdrOf_wordOf _ _ _)
theorem patienceExpiry (k : HerdKey) (f : Nat) : Statement (.patienceExpiry k f) := rfl
theorem crewRelease (c : CrewKey) : Statement (.crewRelease c) := rfl
theorem yieldExpiry (k : HerdKey) (f : Nat) : Statement (.yieldExpiry k f) := rfl
theorem sowStalledPost (k : HerdKey) (f : Nat) : Statement (.sowStalledPost k f) := rfl
theorem siteRewrite (k : HerdKey) (f : Nat) : Statement (.siteRewrite k f) := rfl
theorem remoteAnswer (k : HerdKey) (f : Nat) (ans : List LaneAnswer) : Statement (.remoteAnswer k f ans) := rfl
theorem peerTimeout (k : HerdKey) (f : Nat) : Statement (.peerTimeout k f) := rfl
theorem copyStart (k : HerdKey) (f : Nat) : Statement (.copyStart k f) := rfl
theorem copyRetire (k : HerdKey) (ticket : Nat) (env : CopyEnv) : Statement (.copyRetire k ticket env) := rfl
theorem windowSectorRecall (c : CrewKey) (w n : Nat) : Statement (.windowSectorRecall c w n) := rfl
theorem leaveGrant (core slice : Nat) : Statement (.leaveGrant core slice) := rfl
theorem matrixReadPhaseEnd (core slice : Nat) : Statement (.matrixReadPhaseEnd core slice) := rfl
theorem matrixCommandRetire (core slice : Nat) : Statement (.matrixCommandRetire core slice) := rfl
theorem timetableInstall : Statement (.timetableInstall) := rfl
theorem tileInjection : Statement (.tileInjection) := rfl
theorem tileArrival (stop : Nat) (crcBad : Bool) : Statement (.tileArrival stop crcBad) := rfl
theorem holdLimitExpiry (k : HerdKey) : Statement (.holdLimitExpiry k) := rfl
theorem tilePassed (stop : Nat) : Statement (.tilePassed stop) := rfl
theorem condenserComplete (core slice : Nat) : Statement (.condenserComplete core slice) := rfl
theorem tapeBlockWrite (k : HerdKey) : Statement (.tapeBlockWrite k) := rfl
theorem penning (k : HerdKey) : Statement (.penning k) := rfl
theorem herdResidency (k : HerdKey) : Statement (.herdResidency k) := rfl
theorem admission (core : Nat) : Statement (.admission core) := rfl
theorem crewSaveAreaGrant (c : CrewKey) : Statement (.crewSaveAreaGrant c) := rfl
theorem preemptHerdSave (k : HerdKey) : Statement (.preemptHerdSave k) := rfl
theorem preemptTimeout (c : CrewKey) : Statement (.preemptTimeout c) := rfl
theorem crewSaveComplete (c : CrewKey) : Statement (.crewSaveComplete c) := rfl
theorem crewRestore (c : CrewKey) : Statement (.crewRestore c) := rfl
theorem lqtail (p : Nat) (v : BitVec 64) : Statement (.lqtail p v) := rfl
theorem launchQueueEntryRead (p : Nat) : Statement (.launchQueueEntryRead p) := rfl
theorem completionRecordWrite (p : Nat) : Statement (.completionRecordWrite p) := rfl
theorem faultRecordWrite (p : Nat) : Statement (.faultRecordWrite p) := rfl
theorem fresp (p : Nat) (v : BitVec 64) : Statement (.fresp p v) := rfl
theorem reggo (p : Nat) (v : BitVec 64) : Statement (.reggo p v) := rfl
theorem registrationComplete (p : Nat) (err : Bool) : Statement (.registrationComplete p err) := rfl
theorem preempt (p : Nat) (v : BitVec 64) : Statement (.preempt p v) := rfl
theorem attest (p : Nat) (v : BitVec 64) : Statement (.attest p v) := rfl
theorem attestationWritten (p : Nat) : Statement (.attestationWritten p) := rfl
theorem hostRegisterWrite (p off : Nat) (v : BitVec 64) : Statement (.hostRegisterWrite p off v) := rfl
theorem lend (acre p deadline : Nat) : Statement (.lend acre p deadline) := rfl
theorem recallAcre (acre : Nat) : Statement (.recallAcre acre) := rfl
theorem recallComplete (acre : Nat) : Statement (.recallComplete acre) := rfl
theorem boot (x : BootInput) : Statement (.boot x) := rfl
theorem recoveryImageReplace (x : BootInput) : Statement (.recoveryImageReplace x) := rfl
theorem unassignedOpcode (w : BitVec 64) : Statement (.unassignedOpcode w) := rfl
theorem peerAccessRequest (r : PeerRequest) : Statement (.peerAccessRequest r) := rfl
theorem poljorLinkDown (l : Nat) : Statement (.poljorLinkDown l) := rfl
theorem poljorLinkUp (l : Nat) : Statement (.poljorLinkUp l) := rfl
theorem l1SectorEviction (core sector : Nat) : Statement (.l1SectorEviction core sector) := rfl

end Sys2Proof.Laws.HeaderInWord
end

