-- ==== Sys2Proof/Laws/Posted.lean ====
section
/-! SUPPORT. Posted accesses (R257): what their performance can do, what waits for one, and what the issue of a group does to them. -/

namespace Sys2Proof.Machine

/-- A posted access either stays, or has its effect and is posted no more. -/
theorem performActs_cases (i : Nat) (s : State) : performActs i s = [] ∨
    ∃ p, s.posted[i]? = some p ∧ performWaits s i p = false ∧ performActs i s = p.effect s ++ [.posted (s.posted.eraseIdx i)] := by
  unfold performActs
  cases hp : s.posted[i]? with
  | none => exact .inl rfl
  | some p => cases hw : performWaits s i p <;> simp_all

/-- One that waits stays. -/
theorem performActs_waits {i : Nat} {s : State} {p : Posted} (hp : s.posted[i]? = some p) (hw : performWaits s i p = true) :
    performActs i s = [] := by simp [performActs, hp, hw]

/-- One that does not wait is performed. -/
theorem performActs_performs {i : Nat} {s : State} {p : Posted} (hp : s.posted[i]? = some p) (hw : performWaits s i p = false) :
    performActs i s = p.effect s ++ [.posted (s.posted.eraseIdx i)] := by simp [performActs, hp, hw]

/-- After a performance the access is posted no more, and the others are as they were. -/
theorem performActs_posted {i : Nat} {s : State} {p : Posted} (hp : s.posted[i]? = some p) (hw : performWaits s i p = false) :
    (run s (performActs i s)).posted = s.posted.eraseIdx i := by simp [performActs_performs hp hw]

/-- With nothing posted no access waits for one. -/
@[simp] theorem behindPosted_nil (k : HerdKey) (g : BitVec 8) (n : Nat) (write : Bool) (l : Loc) :
    behindPosted [] k g n write l = false := rfl

/-- What a posted access precedes waits for it. -/
theorem behindPosted_of_mem {ps : List Posted} {p : Posted} (hp : p ∈ ps) {k : HerdKey} {g : BitVec 8} {n : Nat} {write : Bool} {l : Loc}
    (h : p.before k g n write l = true) : behindPosted ps k g n write l = true := List.any_eq_true.mpr ⟨p, hp, h⟩

/-- With nothing posted by a herd no word of it waits. -/
theorem postedWaits_none {s : State} {h : Herd} (hs : ∀ p ∈ s.posted, p.key ≠ h.key) (f : Nat) (post : Bool) (w : Word) :
    postedWaits s h f post w = false := by
  have : s.posted.filter (fun p => decide (p.key = h.key)) = [] := by simpa using hs
  simp [postedWaits, this]

/-- R253: an issue changes of the posted accesses only which furrows come after them. -/
theorem run_joinActs (s u : State) (h : Herd) (f : Nat) (hu : u.posted = s.posted) : run u (joinActs s h f) =
    { u with posted := s.posted.map (fun p => if p.own h.key (furMask (h.group f)) then { p with group := p.group ||| furMask (h.group f) } else p) } := by
  rw [show joinActs s h f = if s.posted.any (fun p => p.own h.key (furMask (h.group f))) then [Act.posted (s.posted.map (fun p =>
    if p.own h.key (furMask (h.group f)) then { p with group := p.group ||| furMask (h.group f) } else p))] else [] from rfl]
  split
  · rfl
  · rename_i hn
    have : s.posted.map (fun p => if p.own h.key (furMask (h.group f)) then { p with group := p.group ||| furMask (h.group f) } else p) = s.posted := by
      conv_rhs => rw [← List.map_id s.posted]
      exact List.map_congr_left (fun p hp => if_neg (fun ho => hn (List.any_eq_true.mpr ⟨p, hp, ho⟩)))
    rw [run_nil, this, ← hu]

end Sys2Proof.Machine
end

