-- ==== Sys2Proof/Tests/Slice0.lean ====
section
/-! SUPPORT. Small tests, each about one step, and for each statement of Certificates/Slice0 a state with operands that meets
its hypotheses, clause by clause. Expected values are the manual's own or worked out by hand from its rules. -/

set_option Elab.async false

namespace Sys2Proof.Tests

open Sys2Proof Sys2Proof.Machine

/-- The crew, the herd and the issue that the tests use. -/
def tc : CrewKey := { part := 0, field := 1, crew := 0 }
def tk : HerdKey := { crew := tc, herd := 0 }
def tw : Issuer := { key := tk, f := 0, pa := 0x1000000 }

/-- A fresh herd of some width that is resident (R33). -/
def herdOf (width : Nat) : Herd :=
  { Herd.fresh { key := tk, core := 0, slice := 0, slot := 0, width := width, nregs := 32, nacc := 2, sup := false, order := 0
                 entry := 0x100000000, args := 0 } with resident := true }

def th : Herd := herdOf 8
def thS : Herd := { th with sup := true }

/-- The booted module of `loaded` with this herd about to issue. -/
def ts (h : Herd) : State := { loaded with issuer := some tw, herds := [h] }

/-- What most statements ask of the state and the header. -/
def Ready (s : State) (h : Herd) (hd : Header) (u : Bool) : Prop :=
  Issues s tw h ∧ PlainHeader h hd u ∧ activeLanes h tw.f hd ≠ []

theorem plain_ok (h : Herd) (u : Bool) : PlainHeader h plainHdr u :=
  ⟨⟨fun _ => ⟨rfl, rfl, rfl⟩, fun e => nomatch e⟩, rfl, rfl, fun e => nomatch e⟩

theorem issues_ok {s : State} {h : Herd} (a : s.issuer = some tw) (b : s.herd? tk = some h) (c : h.canIssue 0 = true)
    (d : h.furrows.length ≤ 8) (e : h.lateTurn 0 = false := by rfl) : Issues s tw h := ⟨a, b, c, d, e⟩

theorem ready_th (u : Bool) : Ready (ts th) th plainHdr u :=
  ⟨issues_ok rfl rfl (by decide) (by decide), plain_ok th u, by decide⟩

theorem ready_sup (u : Bool) : Ready (ts thS) thS plainHdr u :=
  ⟨issues_ok rfl rfl (by decide) (by decide), plain_ok thS u, by decide⟩

/-- Nothing delays a trap of a group (R356, R357). -/
theorem free_ok {h : Herd} {g : BitVec 8} (a : trapWaits h g = false) (b : pendBefore h g = false) : TrapFree h g := And.intro a b

theorem free_th : TrapFree th (furMask (th.group tw.f)) := free_ok (by decide) (by decide)

/-- A word with a vector predicate and U = 1 is ready too: the last register of the allocation, negated. -/
theorem ready_predicated :
    Ready (ts (herdOf 64)) (herdOf 64) { ss := 0, wc := 0, u := true, pe := true, pn := true, pk := false, pr := 31 } true :=
  ⟨issues_ok rfl rfl (by decide) (by decide),
    ⟨⟨by decide, by decide⟩, rfl, rfl, fun _ => rfl⟩, by decide⟩

/-! ### Witnesses: lane arithmetic -/

/-- BitwiseWordsComplete, in the order of its clauses. -/
theorem witness_BitwiseWords : Ready (ts th) th plainHdr true ∧
    (∀ x ∈ ([{ d := 31, a := 0, b := 31, fn := 0, mb := 0xB0 }, { d := 0, a := 31, b := 1, fn := 0, mb := 0 }] : List F3),
      x.d.toNat < th.nregs ∧ Src2 ruleBits (· = 0#8) th x)
    ∧ (∀ x ∈ ([{ d := 31, a := 0, b := 0, fn := 0, mb := 0xB0 }] : List F3), x.d.toNat < th.nregs ∧ Src1 ruleBits th x)
    ∧ (∀ x ∈ ([{ d := 31, a := 0, b := 31, c := 1, mb := 0x30 }] : List F4), x.d.toNat < th.nregs ∧ Src3 ruleBits th x)
    ∧ (∀ x ∈ ([{ d := 31, a := 31, imm := 0xFFFF, mb := 0 }] : List FI), x.d.toNat < th.nregs ∧ SrcImm ruleBits th x)
    ∧ (∀ x ∈ ([{ d := 31, imm := 0xFFFFFFFF }] : List FL), x.d.toNat < th.nregs) := by
  refine ⟨ready_th true, ?_⟩
  unfold Src2 Src1 Src3 SrcImm MbOk
  decide

/-- NativeArithmeticWordsComplete: the words of one and two sources, by the rows of R153 that they use. -/
theorem witness_NativeElementWords : Ready (ts th) th plainHdr true ∧
    (∀ x ∈ ([{ d := 31, a := 0, b := 31, fn := 0, mb := 0x10 }, { d := 0, a := 0, b := 0, fn := 0, mb := 0xB0 }] : List F3),
      x.d.toNat < th.nregs ∧ Src2 ruleInts (· = 0#8) th x)
    ∧ (∀ x ∈ ([{ d := 31, a := 0, b := 0, fn := 0, mb := 0xA0 }] : List F3), x.d.toNat < th.nregs ∧ Src1 ruleInts th x)
    ∧ (∀ x ∈ ([{ d := 31, a := 0, b := 1, fn := 0, mb := 0x20 }] : List F3), x.d.toNat < th.nregs ∧ Src2 ruleI (· = 0#8) th x)
    ∧ (∀ x ∈ ([{ d := 31, a := 0, b := 0, fn := 0, mb := 0x50 }] : List F3), x.d.toNat < th.nregs ∧ Src1 ruleF th x)
    ∧ (∀ x ∈ ([{ d := 31, a := 0, b := 1, fn := 0, mb := 0x3E }] : List F3), x.d.toNat < th.nregs ∧ Src2 ruleFRmSat (· = 0#8) th x)
    ∧ (∀ x ∈ ([{ d := 31, a := 0, b := 1, fn := 2, mb := 0x40 }] : List F3),
        x.d.toNat < th.nregs ∧ Src2 ruleF (fun fn => fn.toNat < 3) th x) := by
  refine ⟨ready_th true, ?_⟩
  unfold Src2 Src1 MbOk
  decide

/-- NativeArithmeticWordsComplete: immediates, three sources and the element moves. -/
theorem witness_ImmediateAndThreeSourceWords : Ready (ts th) th plainHdr true ∧
    (∀ x ∈ ([{ d := 31, a := 0, imm := 0x8000, mb := 0x12 }, { d := 31, a := 0, imm := 0xFFFF, mb := 0x22 }] : List FI),
      x.d.toNat < th.nregs ∧ SrcImm ruleISat th x)
    ∧ (∀ x ∈ ([{ d := 31, a := 0, imm := 33, mb := 0xB0 }] : List FI), x.d.toNat < th.nregs ∧ SrcImm ruleInts th x)
    ∧ (∀ x ∈ ([{ d := 31, a := 0, imm := 0xBFFF, mb := 0x10 }] : List FI),
        x.d.toNat < th.nregs ∧ SrcImm ruleI th x ∧ x.imm.toNat / 8192 < 6)
    ∧ (∀ x ∈ ([{ d := 31, a := 0, b := 1, c := 31, mb := 0xB2 }] : List F4), x.d.toNat < th.nregs ∧ Src3 ruleMad th x)
    ∧ (∀ x ∈ ([{ d := 31, a := 0, b := 1, c := 31, mb := 0x76 }, { d := 31, a := 0, b := 1, c := 31, mb := 0xA2 }] : List F4),
        x.d.toNat < th.nregs ∧ Src3 ruleDot4 th x)
    ∧ (∀ x ∈ ([{ d := 31, a := 0, b := 1, c := 31, mb := 0 }] : List F4), x.d.toNat < th.nregs ∧ Src3 ruleBits th x)
    ∧ (∀ x ∈ ([{ d := 31, a := 0, b := 1, fn := 3, mb := 0xA0 }, { d := 31, a := 0, b := 1, fn := 3, mb := 0x60 }] : List F3),
        x.d.toNat < th.nregs ∧ Src2 { fmts := [4, 5, 6, 7, 8, 9, 10, 11], rm := .no, sat := [] } (fun _ => True) th x
          ∧ x.fn.toNat < elemCount (mbFmt x.mb))
    ∧ (∀ x ∈ ([{ d := 31, a := 0, b := 0, fn := 1, mb := 0x40 }] : List F3),
        x.d.toNat < th.nregs ∧ x.a.toNat < th.nregs ∧ x.b = 0#8 ∧ x.fn.toNat < elemCount (mbFmt x.mb)
          ∧ MbOk { fmts := [4, 5, 6, 7, 8, 9, 10, 11], rm := .no, sat := [] } x.mb)
    ∧ (∀ x ∈ ([{ d := 31, a := 0, b := 0, fn := 0, mb := 0xB0 }, { d := 31, a := 0, b := 0, fn := 0, mb := 0 }] : List F3),
        x.d.toNat < th.nregs ∧ x.a = 0#8 ∧ x.b = 0#8 ∧ x.fn = 0#8 ∧ MbOk ruleBits x.mb) := by
  refine ⟨ready_th true, ?_⟩
  unfold Src2 Src3 SrcImm MbOk
  decide

/-- The sites of the generic-capable words: native, quickened with WC at its limit, and pinned. -/
def hdrQ : Header := { plainHdr with ss := 2, wc := 6 }
def hdrQU : Header := { hdrQ with u := true }
def hdrN : Header := { plainHdr with ss := 1, wc := 6 }
def hdrP : Header := { plainHdr with ss := 3, wc := 7 }

/-- A herd whose registers 0 to 15 carry one tag. -/
def thTag (n : Nat) : Herd := { th with vtag := Sparse.write zeros [] 0 (List.replicate 16 (BitVec.ofNat 4 n)) }

theorem issues_tag (n : Nat) : Issues (ts (thTag n)) tw (thTag n) := ⟨rfl, rfl, rfl, by simp [thTag, th, herdOf, Herd.fresh], rfl⟩


/-- What the statements of a settled site ask. -/
def SettledAt {F : Type} (g : GenWord F) (h : Herd) (hd : Header) (x : F) (f : Nat) (u : Bool) : Prop :=
  Issues (ts h) tw h ∧ SiteSettled h (activeLanes h tw.f hd) hd g.r (g.mb x) (g.srcs x) (g.srcs x) f u ∧ g.d x < h.nregs ∧
    (∀ n ∈ g.srcs x, n < h.nregs) ∧ g.ok x ∧ activeLanes h tw.f hd ≠ []

/-- SettledArithmeticCompletes: each word on a native site, on a quickened one without and with U, and on a pinned one. -/
theorem witness_SettledArithmetic :
    (∀ g ∈ genericF3, SettledAt g (thTag 3) { plainHdr with u := true } { d := 31, a := 15, b := 0, fn := 0, mb := 0x30 } 3 true ∧
      SettledAt g (thTag 3) hdrQ { d := 31, a := 15, b := 0, fn := 0, mb := 0x30 } 3 false ∧
      SettledAt g (thTag 3) hdrQU { d := 31, a := 15, b := 0, fn := 0, mb := 0x30 } 3 true ∧
      SettledAt g (thTag 3) hdrP { d := 31, a := 15, b := 0, fn := 0, mb := 0 } 3 false)
    ∧ SettledAt genericFma (thTag 5) { plainHdr with u := true } { d := 31, a := 15, b := 0, c := 1, mb := 0x56 } 5 true
    ∧ SettledAt genericFma (thTag 5) hdrP { d := 31, a := 15, b := 0, c := 2, mb := 0x06 } 5 false := by
  refine ⟨?_, ?_, ?_⟩
  · intro g hg
    simp only [genericF3, List.mem_cons, List.not_mem_nil, or_false] at hg
    rcases hg with rfl | rfl | rfl | rfl | rfl | rfl | rfl | rfl | rfl | rfl | rfl | rfl | rfl | rfl | rfl | rfl | rfl | rfl <;>
      (refine ⟨⟨issues_tag 3, ?_⟩, ⟨issues_tag 3, ?_⟩, ⟨issues_tag 3, ?_⟩, issues_tag 3, ?_⟩ <;>
        simp only [gen1, gen2, SiteSettled, PredOk] <;> decide +kernel)
  · refine ⟨issues_tag 5, ?_⟩; simp only [genericFma, SiteSettled, PredOk]; decide +kernel
  · refine ⟨issues_tag 5, ?_⟩; simp only [genericFma, SiteSettled, PredOk]; decide +kernel

/-- What the two statements of a site that rewrites itself ask; `one` says that the sources hold one value. -/
def UnresolvedAt {F : Type} (g : GenWord F) (h : Herd) (hd : Header) (x : F) (f : Nat) (u : Bool) : Prop :=
  Issues (ts h) tw h ∧ PredOk h hd ∧ hd.ss = 1#2 ∧ hd.wc ≠ 7#3 ∧ hd.u = false ∧ (g.mb x).getLsbD 0 = false ∧ mbFmt (g.mb x) = 0 ∧
    (∀ n ∈ g.srcs x, h.tagOf n = f) ∧ g.r.accepts f (g.mb x) = true ∧ g.d x < h.nregs ∧ (∀ n ∈ g.srcs x, n < h.nregs) ∧ g.ok x ∧
    activeLanes h tw.f hd ≠ [] ∧
    (u = true ↔ 2 ≤ (activeLanes h tw.f hd).length ∧ OneValue h (activeLanes h tw.f hd) (g.srcs x))

def FailsAt {F : Type} (g : GenWord F) (h : Herd) (hd : Header) (x : F) (f : Nat) : Prop :=
  Issues (ts h) tw h ∧ PredOk h hd ∧ hd.ss = 2#2 ∧ hd.wc ≠ 7#3 ∧ (g.mb x).getLsbD 0 = false ∧
    g.r.accepts (mbFmt (g.mb x)) (g.mb x) = true ∧
    (f ≠ mbFmt (g.mb x) ∨ hd.u = true ∧ ¬ OneValue h (activeLanes h tw.f hd) (g.srcs x)) ∧
    (∀ n ∈ g.srcs x, h.tagOf n = f) ∧ g.r.accepts f (g.mb x) = true ∧ g.d x < h.nregs ∧ (∀ n ∈ g.srcs x, n < h.nregs) ∧ g.ok x ∧
    activeLanes h tw.f hd ≠ []

/-- SitesRewriteThemselves: uniform and mixed operands; a format that fails and a uniformity that fails. -/
theorem witness_SitesRewriteThemselves :
    (∀ g ∈ genericF3, UnresolvedAt g (thTag 3) hdrN { d := 31, a := 15, b := 0, fn := 0, mb := 0 } 3 true ∧
      UnresolvedAt g (thTag 3) hdrN { d := 31, a := 1, b := 0, fn := 0, mb := 0 } 3 false ∧
      FailsAt g (thTag 3) hdrQ { d := 31, a := 15, b := 0, fn := 0, mb := 0x40 } 3 ∧
      FailsAt g (thTag 3) hdrQU { d := 31, a := 1, b := 0, fn := 0, mb := 0x30 } 3)
    ∧ UnresolvedAt genericFma (thTag 4) hdrN { d := 31, a := 15, b := 0, c := 2, mb := 0x0E } 4 true
    ∧ UnresolvedAt genericFma (thTag 4) hdrN { d := 31, a := 15, b := 0, c := 1, mb := 0x02 } 4 false
    ∧ FailsAt genericFma (thTag 3) hdrQ { d := 31, a := 15, b := 0, c := 2, mb := 0x50 } 3
    ∧ FailsAt genericFma (thTag 3) hdrQU { d := 31, a := 15, b := 0, c := 1, mb := 0x30 } 3 := by
  refine ⟨?_, ?_, ?_, ?_, ?_⟩
  · intro g hg
    simp only [genericF3, List.mem_cons, List.not_mem_nil, or_false] at hg
    rcases hg with rfl | rfl | rfl | rfl | rfl | rfl | rfl | rfl | rfl | rfl | rfl | rfl | rfl | rfl | rfl | rfl | rfl | rfl <;>
      (refine ⟨⟨issues_tag 3, ?_⟩, ⟨issues_tag 3, ?_⟩, ⟨issues_tag 3, ?_⟩, issues_tag 3, ?_⟩ <;>
        simp only [gen1, gen2, PredOk, OneValue] <;> decide +kernel)
  all_goals
    first
      | refine ⟨issues_tag 4, ?_⟩; simp only [genericFma, PredOk, OneValue]; decide +kernel
      | refine ⟨issues_tag 3, ?_⟩; simp only [genericFma, PredOk, OneValue]; decide +kernel

/-- What the statement of a word without a format asks. -/
def NoFormatAt {F : Type} (g : GenWord F) (h : Herd) (hd : Header) (x : F) : Prop :=
  (Issues (ts h) tw h ∧ PredOk h hd ∧ ((hd.ss = 1#2 ∧ hd.wc ≠ 7#3) ∨ (hd.ss = 3#2 ∧ hd.wc = 7#3)) ∧ hd.u = false ∧
    (g.mb x).getLsbD 0 = false ∧ mbFmt (g.mb x) = 0 ∧ g.d x < h.nregs ∧ (∀ n ∈ g.srcs x, n < h.nregs) ∧ g.ok x ∧
    activeLanes h tw.f hd ≠ [] ∧ trapWaits h (furMask (h.group tw.f)) = false ∧ pendBefore h (furMask (h.group tw.f)) = false) ∧
    (∀ f, g.r.accepts f (g.mb x) = true → ∃ n ∈ g.srcs x, h.tagOf n ≠ f)

/-- A format that some source of the word does not carry: no tag, when the rule does not accept 0. -/
theorem no_tag {F : Type} {g : GenWord F} {h : Herd} {x : F} {n : Nat} (hn : n ∈ g.srcs x) (ht : h.tagOf n = 0)
    (h0 : g.r.accepts 0 (g.mb x) = false) : ∀ f, g.r.accepts f (g.mb x) = true → ∃ n ∈ g.srcs x, h.tagOf n ≠ f := by
  intro f hf
  refine ⟨n, hn, fun e => ?_⟩
  rw [ht] at e
  subst e
  rw [h0] at hf
  cases hf

/-- UnresolvedWithoutFormatTraps: unresolved and pinned sites of untagged operands. -/
theorem witness_NoFormat :
    (∀ g ∈ genericF3, NoFormatAt g (thTag 0) hdrN { d := 31, a := 15, b := 0, fn := 0, mb := 0 } ∧
      NoFormatAt g (thTag 0) hdrP { d := 31, a := 15, b := 0, fn := 0, mb := 0 })
    ∧ NoFormatAt genericFma (thTag 0) hdrN { d := 31, a := 15, b := 0, c := 1, mb := 0 } := by
  refine ⟨?_, ?_⟩
  · intro g hg
    simp only [genericF3, List.mem_cons, List.not_mem_nil, or_false] at hg
    rcases hg with rfl | rfl | rfl | rfl | rfl | rfl | rfl | rfl | rfl | rfl | rfl | rfl | rfl | rfl | rfl | rfl | rfl | rfl <;>
      (refine ⟨⟨⟨issues_tag 0, ?_⟩, no_tag (n := 15) ?_ ?_ ?_⟩, ⟨issues_tag 0, ?_⟩, no_tag (n := 15) ?_ ?_ ?_⟩ <;>
        (try simp only [gen1, gen2, PredOk]) <;> decide +kernel)
  · refine ⟨⟨issues_tag 0, ?_⟩, no_tag (n := 15) ?_ ?_ ?_⟩ <;> (try simp only [genericFma, PredOk]) <;> decide +kernel

/-- ConversionCompletes: a plain conversion, and one whose count crosses the limit. -/
def thLim : Herd := { th with v := Sparse.write zeros [] 320 [0x7F7FFFFF#32], cvlim := 0x100000000#64, vtag := [(5, 3#4)] }

theorem witness_Conversion :
    (Issues (ts thLim) tw thLim ∧
      SiteSettled thLim (activeLanes thLim tw.f plainHdr) plainHdr ruleCvt 0x32#8 [5]
        (cvtSrcs { d := 31, a := 5, b := 0, fn := 0x06, mb := 0x32 } 3) 3 false ∧
      cvtOk 6 0 3 = true ∧ activeLanes thLim tw.f plainHdr ≠ [] ∧ trapWaits thLim (furMask (thLim.group tw.f)) = false ∧
      pendBefore thLim (furMask (thLim.group tw.f)) = false)
    ∧ (∃ n, n = convSum ((activeLanes thLim tw.f plainHdr).map (fun l => (cvtOf thLim { d := 31, a := 5, b := 0, fn := 0x06, mb := 0x32 } 3 l).2))
        ∧ crosses thLim n = true)
    ∧ (∃ n, n = convSum ((activeLanes thLim tw.f plainHdr).map (fun l => (cvtOf thLim { d := 31, a := 0, b := 0, fn := 0x06, mb := 0x32 } 3 l).2))
        ∧ crosses thLim n = false) := by
  refine ⟨⟨⟨rfl, rfl, rfl, by decide, rfl⟩, ?_⟩, ⟨_, rfl, ?_⟩, ⟨_, rfl, ?_⟩⟩
  · simp only [SiteSettled, PredOk]; decide +kernel
  · decide +kernel
  · decide +kernel

/-- CrossLaneWordsComplete, in the order of its clauses. -/
theorem witness_CrossLane : Ready (ts th) th plainHdr false ∧
    (∀ x ∈ ([{ d := 31, a := 0, b := 31, fn := 3, mb := 0 }] : List F3),
      x.d.toNat < th.nregs ∧ x.a.toNat < th.nregs ∧ x.b.toNat < th.nregs ∧ x.fn.toNat < 4 ∧ x.mb = 0#8)
    ∧ (∀ x ∈ ([{ d := 31, a := 0, b := 0, fn := 7, mb := 0 }] : List F3),
        x.d.toNat < th.nregs ∧ x.a.toNat < th.nregs ∧ x.b = 0#8 ∧ x.fn.toNat < th.width ∧ x.mb = 0#8)
    ∧ (∀ x ∈ ([{ d := 31, a := 63, b := 0, fn := 1, mb := 0 }] : List F3),
        x.d.toNat < th.nregs ∧ x.a.toNat < 64 ∧ x.b = 0#8 ∧ x.fn.toNat < 2 ∧ x.mb = 0#8)
    ∧ (∀ x ∈ ([{ d := 31, a := 0, b := 0, fn := 0, mb := 0x12 }, { d := 31, a := 0, b := 0, fn := 5, mb := 0x20 }] : List F3),
        x.d.toNat < th.nregs ∧ x.a.toNat < th.nregs ∧ x.b = 0#8 ∧ x.fn.toNat < 6 ∧ MbOk (ruleRed x.fn.toNat) x.mb)
    ∧ (∀ x ∈ ([{ d := 31, a := 0, b := 0, fn := 8, mb := 0x12 }, { d := 31, a := 0, b := 0, fn := 13, mb := 0x20 }] : List F3),
        x.d.toNat < th.nregs ∧ x.a.toNat < th.nregs ∧ x.b = 0#8 ∧ x.fn.toNat < 16 ∧ x.fn.toNat % 8 < 6 ∧
          MbOk (ruleRed (x.fn.toNat % 8)) x.mb) := by
  refine ⟨ready_th false, ?_⟩
  unfold MbOk
  decide +kernel

/-- UniformResultsComplete: `vote`, `ballot` and `rdlane`. -/
theorem witness_LanesToUniform : Ready (ts th) th plainHdr false ∧
    (∀ x ∈ ([{ d := 63, a := 31, b := 0, fn := 2, mb := 0 }, { d := 0, a := 0, b := 0, fn := 0, mb := 0 }] : List F3),
      x.d.toNat < 64 ∧ x.a.toNat < th.nregs ∧ x.b = 0#8 ∧ x.fn.toNat < 3 ∧ x.mb = 0#8)
    ∧ (∀ x ∈ ([{ d := 63, a := 31, b := 0, fn := 0, mb := 0 }] : List F3),
        x.d.toNat < 64 ∧ x.a.toNat < th.nregs ∧ x.b = 0#8 ∧ x.fn = 0#8 ∧ x.mb = 0#8)
    ∧ (∀ x ∈ ([{ d := 63, a := 31, b := 0, fn := 7, mb := 0 }] : List F3),
        x.d.toNat < 64 ∧ x.a.toNat < th.nregs ∧ x.b = 0#8 ∧ x.fn.toNat < th.width ∧ x.mb = 0#8) :=
  ⟨ready_th false, by decide⟩

/-- UniformResultsComplete: the uniform words by their shapes; s0 as destination is met too. -/
theorem witness_UniformArithmetic : Ready (ts th) th plainHdr false ∧ UniPred plainHdr ∧
    (∀ x ∈ ([{ d := 63, a := 0, b := 63, fn := 0, mb := 0 }, { d := 0, a := 1, b := 2, fn := 0, mb := 0 }] : List F3),
      x.d.toNat < 64 ∧ x.a.toNat < 64 ∧ x.b.toNat < 64 ∧ x.fn = 0#8 ∧ UniMb false x.mb)
    ∧ (∀ x ∈ ([{ d := 63, a := 0, b := 63, fn := 0, mb := 0x10 }, { d := 63, a := 0, b := 63, fn := 0, mb := 0x20 }] : List F3),
        x.d.toNat < 64 ∧ x.a.toNat < 64 ∧ x.b.toNat < 64 ∧ x.fn = 0#8 ∧ UniMb true x.mb)
    ∧ (∀ x ∈ ([{ d := 63, a := 2, b := 3, fn := 0, mb := 0x10 }, { d := 63, a := 2, b := 4, fn := 5, mb := 0x20 }] : List F3),
        x.fn.toNat < 6 ∧ UniMb true x.mb)
    ∧ (condOf 0 (uniInt 1 (th.sreg 2)) (uniInt 1 (th.sreg 3)) ∧ ¬ condOf 1 (uniInt 1 (th.sreg 2)) (uniInt 1 (th.sreg 3)))
    ∧ (∀ x ∈ ([{ d := 63, a := 0, b := 63, c := 63, mb := 0 }] : List F4),
        x.d.toNat < 64 ∧ x.a.toNat < 64 ∧ x.b.toNat < 64 ∧ x.c.toNat < 64 ∧ UniMb false x.mb)
    ∧ (∀ x ∈ ([{ d := 63, a := 63, b := 0, fn := 0, mb := 0 }] : List F3),
        x.d.toNat < 64 ∧ x.a.toNat < 64 ∧ x.b = 0#8 ∧ x.fn = 0#8 ∧ UniMb false x.mb)
    ∧ (∀ x ∈ ([{ d := 63, a := 63, imm := 0x8000, mb := 0 }, { d := 63, a := 63, imm := 64, mb := 0 }] : List FI),
        x.d.toNat < 64 ∧ x.a.toNat < 64 ∧ UniMb false x.mb)
    ∧ (∀ x ∈ ([{ d := 63, imm := 0x80000000 }] : List FL), x.d.toNat < 64) := by
  refine ⟨ready_th false, ?_, ?_, ?_, ?_, ?_, ?_, ?_, ?_, ?_⟩ <;> (try unfold UniPred) <;> (try unfold UniMb) <;>
    (try unfold condOf) <;> (try simp only [uniInt, Bool.false_eq_true, if_true, if_false]) <;> decide +kernel

/-! ### Witnesses: control flow, traps and system words -/

/-- Bit 0 of V[5] is set in the even lanes, S[5] is a table near the top of the code addresses, and the path stack of the one
furrow holds `n` entries. -/
def thFlow (n : Nat) : Herd :=
  { th with v := Sparse.write zeros th.v 320 [1#32, 0#32, 1#32, 0#32, 1#32, 0#32, 1#32, 0#32]
            s := Sparse.set zeros th.s 5 0xFFFFFFFFFFC0#64
            furrows := [{ Furrow.fresh 0x100000000 0 with
              stack := List.replicate n { pc := 0x100000800, mask := 0, parked := false, hid := 0, cnt := 0 } }] }

/-- A branch on bit 0 of V[5]; CR may name the last register of the allocation too. -/
def brMixed : FB := { off := 2, ck := 1, cn := false, cr := 5, hid := 0, rsv := 0 }

/-- DirectBranchesFollowTheirRules: a plain jump back, one on a uniform register, and a split that fills the path stack. -/
theorem witness_DirectBranches :
    (Ready (ts th) th plainHdr false ∧
      ∀ x ∈ ([{ off := 0xFFFFFD, ck := 0, cn := false, cr := 0, hid := 0, rsv := 0 },
              { off := 1, ck := 2, cn := true, cr := 31, hid := 0, rsv := 0 },
              { off := 1, ck := 1, cn := true, cr := 31, hid := 0, rsv := 0 }] : List FB),
        CondOk th x ∧ RoomFor th tw.f (activeLanes th tw.f plainHdr) (branchChoice tw th x)
          (keepsTaken (branchTarget tw th x) (th.fur tw.f).pc (branchChoice tw th x)))
    ∧ (Ready (ts (thFlow 15)) (thFlow 15) plainHdr false ∧ CondOk (thFlow 15) brMixed ∧
      RoomFor (thFlow 15) tw.f (activeLanes (thFlow 15) tw.f plainHdr) (branchChoice tw (thFlow 15) brMixed)
        (keepsTaken (branchTarget tw (thFlow 15) brMixed) ((thFlow 15).fur tw.f).pc (branchChoice tw (thFlow 15) brMixed))) := by
  refine ⟨⟨ready_th false, ?_⟩, ⟨⟨rfl, rfl, rfl, by decide, rfl⟩, plain_ok _ _, by decide +kernel⟩, ?_, ?_⟩
  all_goals first | (unfold CondOk RoomFor; decide +kernel) | (unfold CondOk; decide +kernel) | (unfold RoomFor; decide +kernel)

/-- DirectBranchesFollowTheirRules: the push that would make a seventeenth entry. -/
theorem witness_PathStackOverflow :
    ∃ j, Ready (ts (thFlow 16)) (thFlow 16) plainHdr false ∧ CondOk (thFlow 16) brMixed ∧ j ∈ (thFlow 16).group tw.f ∧
      trapWaits (thFlow 16) (furMask ((thFlow 16).group tw.f)) = false ∧
      pendBefore (thFlow 16) (furMask ((thFlow 16).group tw.f)) = false ∧
      16 < ((thFlow 16).fur j).stack.length + (deferredBy (branchChoice tw (thFlow 16) brMixed)
        (keepsTaken (branchTarget tw (thFlow 16) brMixed) ((thFlow 16).fur tw.f).pc (branchChoice tw (thFlow 16) brMixed)
          (furLanes j (activeLanes (thFlow 16) tw.f plainHdr))) (furLanes j (activeLanes (thFlow 16) tw.f plainHdr))).length ∧
      deferredBy (branchChoice tw (thFlow 16) brMixed)
        (keepsTaken (branchTarget tw (thFlow 16) brMixed) ((thFlow 16).fur tw.f).pc (branchChoice tw (thFlow 16) brMixed)
          (furLanes j (activeLanes (thFlow 16) tw.f plainHdr))) (furLanes j (activeLanes (thFlow 16) tw.f plainHdr)) ≠ [] := by
  refine ⟨0, ⟨⟨rfl, rfl, rfl, by decide, rfl⟩, plain_ok _ _, by decide +kernel⟩, ?_⟩
  unfold CondOk
  decide +kernel

/-- IndirectJumpsComplete: eight targets up to the last one below 2^48, and a return to 0. -/
theorem witness_IndirectJumps :
    Ready (ts (thFlow 9)) (thFlow 9) plainHdr false
    ∧ (∀ x ∈ ([{ d := 0, a := 1, b := 5, fn := 0, mb := 0 }] : List F3), x.a.toNat < (thFlow 9).nregs ∧ x.b.toNat < 64 ∧
        (∀ l ∈ activeLanes (thFlow 9) tw.f plainHdr, TargetOk (tableChoice (thFlow 9) x l)) ∧
        RoomFor (thFlow 9) tw.f (activeLanes (thFlow 9) tw.f plainHdr) (tableChoice (thFlow 9) x)
          (keepsLowest ((thFlow 9).fur tw.f).pc (tableChoice (thFlow 9) x)))
    ∧ (∀ x ∈ ([{ d := 30, a := 0, b := 5, fn := 0, mb := 0 }] : List F3), x.d.toNat % 2 = 0 ∧ x.d.toNat + 1 < (thFlow 9).nregs ∧
        x.a.toNat < (thFlow 9).nregs ∧ x.b.toNat < 64 ∧
        (∀ l ∈ activeLanes (thFlow 9) tw.f plainHdr, TargetOk (tableChoice (thFlow 9) x l)) ∧
        RoomFor (thFlow 9) tw.f (activeLanes (thFlow 9) tw.f plainHdr) (tableChoice (thFlow 9) x)
          (keepsLowest ((thFlow 9).fur tw.f).pc (tableChoice (thFlow 9) x)))
    ∧ (∀ x ∈ ([{ d := 0, a := 30, b := 0, fn := 0, mb := 0 }] : List F3), x.a.toNat % 2 = 0 ∧ x.a.toNat + 1 < (thFlow 9).nregs ∧
        (∀ l ∈ activeLanes (thFlow 9) tw.f plainHdr, TargetOk (linkChoice (thFlow 9) x l)) ∧
        RoomFor (thFlow 9) tw.f (activeLanes (thFlow 9) tw.f plainHdr) (linkChoice (thFlow 9) x)
          (keepsLowest ((thFlow 9).fur tw.f).pc (linkChoice (thFlow 9) x))) := by
  refine ⟨⟨⟨rfl, rfl, rfl, by decide, rfl⟩, plain_ok _ _, by decide +kernel⟩, ?_, ?_, ?_⟩
  all_goals unfold TargetOk RoomFor; decide +kernel

/-- The thread indexes index a table at S[5] = v. -/
def thTable (v : Word) : Herd := { th with s := Sparse.set zeros th.s 5 v }
def tableWord : F3 := { d := 0, a := 1, b := 5, fn := 0, mb := 0 }

/-- IndirectJumpsComplete: targets that are misaligned, of a reserved space code, and at 2^48, all first at lane 0; and the
push that would make a seventeenth entry. -/
theorem witness_IndirectTraps :
    (∀ v ∈ [0x100000001#64, 0x7000000000000000#64, 0x1000000000000#64], Issues (ts (thTable v)) tw (thTable v) ∧
      activeLanes (thTable v) tw.f plainHdr ≠ [] ∧ TrapFree (thTable v) (furMask ((thTable v).group tw.f)) ∧
      (tableWord.d = 0#8 ∧ tableWord.a.toNat < (thTable v).nregs ∧ tableWord.b.toNat < 64))
    ∧ (tableChoice (thTable 0x100000001#64) tableWord 0).toNat % 8 ≠ 0
    ∧ (∀ k ∈ activeLanes (thTable 0x7000000000000000#64) tw.f plainHdr,
        (tableChoice (thTable 0x7000000000000000#64) tableWord k).toNat % 8 = 0 ∧
        7 ≤ fld (tableChoice (thTable 0x7000000000000000#64) tableWord 0) 63 60)
    ∧ (∀ k ∈ activeLanes (thTable 0x1000000000000#64) tw.f plainHdr,
        (tableChoice (thTable 0x1000000000000#64) tableWord k).toNat % 8 = 0 ∧
        fld (tableChoice (thTable 0x1000000000000#64) tableWord k) 63 60 < 7 ∧
        fld (tableChoice (thTable 0x1000000000000#64) tableWord 0) 63 48 ≠ 0)
    ∧ (∃ j ∈ (thFlow 16).group tw.f, TrapFree (thFlow 16) (furMask ((thFlow 16).group tw.f)) ∧
        16 < ((thFlow 16).fur j).stack.length + 1 ∧
        (∀ l ∈ activeLanes (thFlow 16) tw.f plainHdr, TargetOk (tableChoice (thFlow 16) tableWord l)) ∧
        deferredBy (tableChoice (thFlow 16) tableWord) (keepsLowest ((thFlow 16).fur tw.f).pc (tableChoice (thFlow 16) tableWord)
          (furLanes j (activeLanes (thFlow 16) tw.f plainHdr))) (furLanes j (activeLanes (thFlow 16) tw.f plainHdr)) ≠ []) := by
  refine ⟨fun v hv => ⟨⟨rfl, rfl, rfl, (by decide : th.furrows.length ≤ 8), rfl⟩, (by decide : activeLanes th tw.f plainHdr ≠ []),
    free_ok (by decide : trapWaits th (furMask (th.group tw.f)) = false) (by decide : pendBefore th (furMask (th.group tw.f)) = false),
    by decide, (by decide : 1 < th.nregs), by decide⟩, by decide, by decide, by decide, 0, by decide,
    free_ok (by decide) (by decide), by decide, ?_⟩
  unfold TargetOk
  decide +kernel

/-- SplittingKeepsEveryLane: each of the six words, on a furrow whose lanes stand in one place each. -/
theorem witness_Splitting : Issues (ts (thFlow 9)) tw (thFlow 9) ∧ (thFlow 9).handler = none ∧ EachLaneOnce ((thFlow 9).fur 0) ∧
    ∀ i ∈ [Instr.br plainHdr brMixed, .call plainHdr brMixed, .head plainHdr brMixed, .jmpi plainHdr tableWord,
      .calli plainHdr tableWord, .ret plainHdr tableWord], i ∈ [Instr.br plainHdr brMixed, .call plainHdr brMixed,
      .head plainHdr brMixed, .jmpi plainHdr tableWord, .calli plainHdr tableWord, .ret plainHdr tableWord] := by
  refine ⟨⟨rfl, rfl, rfl, by decide, rfl⟩, rfl, ?_, fun _ h => h⟩
  unfold EachLaneOnce
  decide

/-- Two furrows, each its own group; the other one may stand at headland 15. -/
def thSplit : Herd :=
  { herdOf 16 with furrows := [Furrow.fresh 0x100000000 0, { Furrow.fresh 0x100000000 0 with grp := 1 }] }
def thStand : Herd :=
  { herdOf 16 with furrows := [Furrow.fresh 0x100000000 0, { Furrow.fresh 0x100000000 0 with grp := 1, st := .standing 15 }] }

/-- A parked entry at headland `hid` for PC `pc`. -/
def parkedAt (pc : Word) (hid : Nat) : PathEntry := { pc := pc, mask := 0, parked := true, hid := hid, cnt := 0 }

def headWord : FB := { off := 0, ck := 0, cn := false, cr := 0, hid := 15, rsv := 0 }

/-- The module with a patience of 0 on core 0 (R46). -/
def tsHasty (h : Herd) : State := { ts h with coreRegs := Sparse.set coreReset loaded.coreRegs 0x080 0#64 }

/-- HeadlandsCompleteOrHold: a ganged herd; a second group elsewhere, and one that stands there already; a patience of 0. -/
theorem witness_Headlands : HeadOk plainHdr headWord
    ∧ (Issues (ts th) tw th ∧ (∀ j ∈ th.group tw.f, (th.fur j).stack = []) ∧ th.group tw.f = th.liveFurs ∧
      saveNext (ts th) th = false)
    ∧ (∀ h ∈ [thSplit, thStand], (ts h).herd? tk = some h ∧ h.canIssue 0 = true ∧ h.furrows.length ≤ 8 ∧
      (∀ j ∈ h.group tw.f, (h.fur j).stack = []) ∧ Named h ∧ Uniform h ∧ patience (ts h) h ≠ 0)
    ∧ joined thSplit tw.f 15 ≠ thSplit.liveFurs ∧ (joined thStand tw.f 15 = thStand.liveFurs ∧ saveNext (ts thStand) thStand = false)
    ∧ (Issues (tsHasty thSplit) tw thSplit ∧ Named thSplit ∧ patience (tsHasty thSplit) thSplit = 0 ∧
      saveNext (tsHasty thSplit) thSplit = false ∧ ∀ j ∈ thSplit.liveFurs, ∀ m, (thSplit.fur j).st ≠ .standing m) := by
  refine ⟨by unfold HeadOk; decide, ⟨(ready_th false).1, by decide⟩, ?_, by decide, ⟨by decide, by decide⟩,
    ⟨rfl, rfl, rfl, by decide, rfl⟩, ?_, by decide +kernel, by decide +kernel, ?_⟩
  · unfold Named Uniform; decide +kernel
  · unfold Named; decide +kernel
  · intro j hj m
    have : j = 0 ∨ j = 1 := by
      have e : thSplit.liveFurs = [0, 1] := by decide
      rw [e] at hj; simpa using hj
    rcases this with rfl | rfl <;> (intro e; cases e)

/-- The crew of the herd with a pre-emption that waits at its next pass (R365). -/
def tsSaveAhead (h : Herd) : State :=
  { ts h with crews := [{ Crew.fresh { key := tc, core := 0, herds := 1, tileLen := 65536, order := 0 } with
      pre := some { area := some 1, host := false, core := none } }] }

/-- One furrow of four lanes at a PC, with a path stack. -/
def thStack (l : List PathEntry) : Herd := { th with furrows := [{ Furrow.fresh 0x100000000 0 with path := 0x0F, stack := l }] }
def parkedHalf (hid : Nat) : PathEntry := { parkedAt 0x100000000 hid with mask := 0xF0 }
def deferredAt (pc : Word) : PathEntry := { parkedAt pc 0 with parked := false }

/-- HeadlandsCompleteOrHold, paths above other entries. -/
def HeadParked (s : State) (h : Herd) (st : List PathEntry) : Prop :=
  Issues s tw h ∧ h.group tw.f = [tw.f] ∧ (h.fur tw.f).stack ≠ [] ∧ ParkedStack 15 (h.fur tw.f) st ∧ Named h ∧ patience s h ≠ 0

/-- HeadlandsCompleteOrHold: a path that parks above a deferred entry and 14 parked ones, one that merges below a deferred entry, the
last path of a furrow, without a pre-emption and with one that waits for its pass, and a path above a parked and a deferred entry. -/
theorem witness_HeadlandsParked :
    (∃ h st, h = thStack (deferredAt 0x100000100 :: List.replicate 14 (parkedAt 0x100000200 15)) ∧ HeadParked (ts h) h st)
    ∧ (∃ h st, h = thStack [deferredAt 0x100000100, parkedAt 0x100000200 15, parkedHalf 15] ∧ HeadParked (ts h) h st)
    ∧ (∃ h st, h = thStack [parkedHalf 15] ∧ HeadParked (ts h) h st ∧ HeadParked (tsSaveAhead h) h st ∧ h.liveFurs = [tw.f] ∧ st.length = 1 ∧
        (∀ q ∈ st, q.parked = true) ∧ saveNext (ts h) h = false ∧ saveNext (tsSaveAhead h) h = true)
    ∧ (∃ h st, h = thStack [parkedHalf 14, deferredAt 0x100000100] ∧ HeadParked (ts h) h st ∧
        st = [parkEntry 15 (h.fur tw.f), parkedHalf 14] ++ deferredAt 0x100000100 :: []) := by
  refine ⟨⟨_, _, rfl, ⟨rfl, rfl, rfl, by decide, rfl⟩, by decide, by decide, .inr ⟨?_, by decide, rfl⟩, ?_, by decide +kernel⟩,
    ⟨_, _, rfl, ⟨rfl, rfl, rfl, by decide, rfl⟩, by decide, by decide,
      .inl ⟨[deferredAt 0x100000100, parkedAt 0x100000200 15], parkedHalf 15, [], rfl, ?_, ?_, rfl⟩, ?_, by decide +kernel⟩,
    ⟨_, _, rfl, ⟨⟨rfl, rfl, rfl, by decide, rfl⟩, by decide, by decide, .inl ⟨[], parkedHalf 15, [], rfl, ?_, ?_, rfl⟩, ?_, by decide +kernel⟩,
      ⟨⟨rfl, rfl, rfl, by decide, rfl⟩, by decide, by decide, .inl ⟨[], parkedHalf 15, [], rfl, ?_, ?_, rfl⟩, ?_, by decide +kernel⟩,
      by decide, rfl, by decide, by decide, by decide⟩,
    ⟨_, _, rfl, ⟨⟨rfl, rfl, rfl, by decide, rfl⟩, by decide, by decide, .inr ⟨?_, by decide, rfl⟩, ?_, by decide +kernel⟩, rfl⟩⟩ <;>
    (try unfold Named) <;> (try unfold Merges) <;> decide +kernel

/-- HeadlandsCompleteOrHold: a full path stack. -/
theorem witness_HeadlandsFull : ∃ h, h = thStack (deferredAt 0x100000100 :: List.replicate 15 (parkedAt 0x100000200 15)) ∧ Issues (ts h) tw h ∧
    TrapFree h (furMask (h.group tw.f)) ∧ ∃ j ∈ h.group tw.f, 16 ≤ (h.fur j).stack.length ∧ ∀ k ∈ (h.fur j).stack, ¬ Merges 15 (h.fur j) k := by
  refine ⟨_, rfl, ⟨rfl, rfl, rfl, by decide, rfl⟩, free_ok (by decide) (by decide), 0, by decide, by decide, ?_⟩
  unfold Merges
  decide +kernel

/-- The lanes that V[5] picks. -/
def hdrV5 : Header := { plainHdr with pe := true, pr := 5 }

def noFields : FS := { d := 0, a := 0, sel := 0, x := 0 }

/-- ExitRemovesLanes: four of eight lanes, and all of them. -/
theorem witness_Exit :
    (Ready (ts (thFlow 0)) (thFlow 0) hdrV5 false ∧ patience (ts (thFlow 0)) (thFlow 0) ≠ 0 ∧ Named (thFlow 0) ∧
      (∀ j ∈ (thFlow 0).group tw.f, ((thFlow 0).fur j).stack = []) ∧
      ((thFlow 0).fur tw.f).path &&& ~~~(leaving (activeLanes (thFlow 0) tw.f hdrV5) tw.f) ≠ 0#8)
    ∧ (Ready (ts th) th plainHdr false ∧ th.group tw.f = th.liveFurs ∧ (∀ j ∈ th.group tw.f, (th.fur j).stack = []) ∧
      ∀ j ∈ th.group tw.f, (th.fur j).path &&& ~~~(leaving (activeLanes th tw.f plainHdr) j) = 0#8) := by
  refine ⟨⟨⟨⟨rfl, rfl, rfl, by decide, rfl⟩, ⟨⟨by decide, by decide⟩, rfl, rfl, by decide⟩, by decide +kernel⟩, ?_⟩,
    ready_th false, by decide⟩
  unfold Named
  decide +kernel

/-- A split herd whose second furrow stands at headland 15. -/
def thBeside : Herd :=
  { thSplit with furrows := thSplit.furrows.mapIdx (fun j r => if j = 1 then { r with st := .standing 15 } else r) }

/-- ExitRemovesLanes: what it asks of a furrow whose whole path leaves. -/
def ExitAt (s : State) (h : Herd) : Prop :=
  Ready s h plainHdr false ∧ patience s h ≠ 0 ∧ Named h ∧ h.group tw.f = [tw.f] ∧
    (h.fur tw.f).path &&& ~~~(leaving (activeLanes h tw.f plainHdr) tw.f) = 0#8

/-- ExitRemovesLanes: a furrow whose whole path leaves, with a deferred entry below a parked one, with one parked one alone, for which
a pre-emption waits, and with none while another group goes on. -/
theorem witness_ExitResumes :
    (∃ h, h = thStack [parkedAt 0x100000200 15, { deferredAt 0x100000300 with mask := 0xF0 }] ∧ ExitAt (ts h) h ∧ (h.fur tw.f).stack ≠ [])
    ∧ (∃ h, h = thStack [parkedHalf 15] ∧ ExitAt (tsSaveAhead h) h ∧ h.liveFurs = [tw.f] ∧ (h.fur tw.f).stack.length = 1 ∧
      (∀ q ∈ (h.fur tw.f).stack, q.parked = true) ∧ saveNext (tsSaveAhead h) h = true)
    ∧ (ExitAt (ts thSplit) thSplit ∧ (thSplit.fur tw.f).stack = [] ∧
      (∃ j ∈ thSplit.liveFurs, j ≠ tw.f) ∧ ∀ j ∈ thSplit.liveFurs, (thSplit.fur j).st = .running) := by
  refine ⟨⟨_, rfl, ⟨⟨⟨rfl, rfl, rfl, by decide, rfl⟩, plain_ok _ _, by decide⟩, ?_⟩, ?_⟩,
    ⟨_, rfl, ⟨⟨⟨rfl, rfl, rfl, by decide, rfl⟩, plain_ok _ _, by decide⟩, ?_⟩, ?_⟩,
    ⟨⟨⟨rfl, rfl, rfl, by decide, rfl⟩, plain_ok _ _, by decide⟩, ?_⟩, ?_⟩ <;> (try unfold Named) <;> decide +kernel

/-- ExitRemovesLanes: the leaving furrow is the last that a standing one waits for. -/
theorem witness_ExitLetsPass : ExitAt (ts thBeside) thBeside ∧ (thBeside.fur tw.f).stack = [] ∧ thBeside.group 1 ≠ [] ∧
    (∀ j ∈ thBeside.group 1, (thBeside.fur j).st = .standing 15) ∧
    thBeside.liveFurs.filter (fun j => decide (j ≠ tw.f)) = thBeside.group 1 ∧ saveNext (ts thBeside) thBeside = false := by
  refine ⟨⟨⟨⟨rfl, rfl, rfl, by decide, rfl⟩, plain_ok _ _, by decide⟩, ?_⟩, ?_⟩ <;> (try unfold Named) <;> decide +kernel

/-- R46: and it passes. -/
theorem test_exit_lets_pass : (match exec (.exit plainHdr noFields) (ts thBeside) with
    | .next t => (t.herd? tk).map (fun h => ((h.fur 0).st, (h.fur 1).st, (h.fur 1).pc == (thBeside.fur 1).pc + 8#64)) | _ => none)
    = some (.notLive, .running, true) := by decide +kernel

/-- NopAndYieldComplete and SoftwareAndDebugTrapsAreTaken: any selector; `yield` with 0 and with the largest count. -/
theorem witness_NopYieldTrap : Ready (ts th) th plainHdr false ∧ noFields.sel = 0#16 ∧
    (({ noFields with sel := 0xFFFF } : FS).sel ≠ 0#16) ∧ TrapFree th (furMask (th.group tw.f)) ∧ Alone th tw.f :=
  ⟨ready_th false, by decide, by decide, free_th, by unfold Alone; decide⟩

/-- SoftwareAndDebugTrapsAreTaken: with another group that can issue, and behind a pending trap of a lower group. -/
theorem witness_TrapPends :
    (Ready (ts thSplit) thSplit plainHdr false ∧ trapWaits thSplit (furMask (thSplit.group tw.f)) = false ∧ thSplit.handler = none ∧
      pendBefore thSplit (furMask (thSplit.group tw.f)) = false ∧ ¬ Alone thSplit tw.f)
    ∧ ∃ h w, h = { thSplit with pend := [(1#8, trapAtWord tw thSplit 13 0)] } ∧ w = { tw with f := 1 } ∧
      Issues { ts h with issuer := some w } w h ∧ activeLanes h w.f plainHdr ≠ [] ∧ trapWaits h (furMask (h.group w.f)) = false ∧
      pendBefore h (furMask (h.group w.f)) = true := by
  unfold Alone
  exact ⟨⟨⟨⟨rfl, rfl, rfl, by decide, rfl⟩, plain_ok _ _, by decide⟩, by decide, rfl, by decide, by decide⟩,
    _, _, rfl, rfl, ⟨rfl, rfl, by decide, by decide, rfl⟩, by decide, by decide, by decide⟩

/-- TrapEntrySavesAndEnters, and DoubleTrapAbortsTheField with a handler in progress. -/
theorem witness_TrapEntry :
    ((ts th).herd? th.key = some th ∧ th.handler = none ∧ TrapFree th (trapAtWord tw th 15 0).group ∧
      th.furrows.length ≤ 8)
    ∧ ∃ h f, h = { th with handler := some 1#8 } ∧ (ts h).herd? h.key = some h ∧ h.handler ≠ none ∧ h.resident = true ∧
      h.stored = false ∧ (ts h).field? h.key.crew.part h.key.crew.field = some f ∧ f.aborted = false :=
  ⟨⟨rfl, rfl, free_th, by decide⟩, _, _, rfl, rfl, by decide, rfl, rfl, rfl, rfl⟩

/-- The module after that herd has taken a software trap. -/
def tsTrapped : State := run (ts th) (takeTrap (ts th) th (trapAtWord tw th 13 0))
def thTrapped : Herd := (tsTrapped.herd? tk).getD th

/-- ReturnFromTrapRestores, right after the entry. -/
theorem witness_ReturnFromTrap :
    Ready tsTrapped thTrapped plainHdr false ∧ thTrapped.sup = true ∧ thTrapped.handler = some 1#8 ∧
      rftOk tsTrapped thTrapped (thTrapped.group tw.f) 1#8 = true ∧
      thTrapped.pend = [] ∧ patience tsTrapped thTrapped ≠ 0 ∧
      (∃ j < thTrapped.furrows.length, thTrapped.live j = true ∧ (1#8).getLsbD j = true ∧
        (readRec tsTrapped.hbm (saveArea tsTrapped thTrapped + 0x400 + 512 * j)).st = 1) := by
  refine ⟨⟨⟨?_, ?_, ?_, ?_, rfl⟩, plain_ok _ _, ?_⟩, ?_⟩ <;> decide +kernel

/-- PrivilegedWordsTrapAtUserLevel: every clause, at the ends of its ranges. -/
theorem witness_Privileged : UserWord th plainHdr tw ∧ Issues (ts th) tw th
    ∧ (∀ x ∈ ([{ d := 63, a := 63, sel := 0, x := 0 }] : List FS), FsZero x false false true ∧ x.d.toNat < 64 ∧ x.a.toNat < 64)
    ∧ (∀ x ∈ ([{ d := 63, a := 0, sel := 0, x := 1 }] : List FS), x.a = 0#8 ∧ x.sel = 0#16 ∧ x.x.toNat < 2 ∧ x.d.toNat < 64)
    ∧ FsZero noFields true true true
    ∧ (∀ x ∈ ([{ d := 0, a := 63, sel := 2, x := 0 }] : List FS), FsZero x true false false ∧ x.sel.toNat < 3 ∧ x.a.toNat < 64)
    ∧ (∀ x ∈ ([{ d := 0, a := 0, sel := 1, x := 0 }] : List FS), FsZero x true true false ∧ x.sel.toNat < 3)
    ∧ (∀ x ∈ ([{ d := 63, a := 0, sel := 0x080, x := 0 }, { d := 63, a := 0, sel := 0x105, x := 0 }] : List FS),
        FsZero x false true false ∧ x.d.toNat < 64 ∧ supervisorReg x.sel.toNat)
    ∧ (∀ x ∈ ([{ d := 0, a := 63, sel := 0x080, x := 0 }, { d := 0, a := 63, sel := 0x100, x := 0 }] : List FS),
        FsZero x true false false ∧ x.a.toNat < 64 ∧ supervisorReg x.sel.toNat ∧ x.sel ≠ 0x083#16)
    ∧ (∀ x ∈ ([{ d := 63, sa := 63, sb := 0, sf := 0, x := 0 }] : List FE), x.d.toNat < 64 ∧ x.sb = 0#6 ∧ x.sf = 0#6 ∧ x.x = 0#14)
    ∧ (∀ x ∈ ([{ d := 63, sa := 63, sb := 63, sf := 0, x := 0 }] : List FE), x.d.toNat < 64 ∧ x.sf = 0#6 ∧ x.x = 0#14) := by
  refine ⟨⟨plain_ok _ _, rfl, by decide, free_th⟩, (ready_th false).1, ?_⟩
  unfold FsZero supervisorReg
  refine ⟨?_, ?_, ?_, ?_, ?_, ?_, ?_, ?_, ?_⟩ <;> decide

/-- The same for sys.droop, whose value is judged first: 0x48 is one that it accepts. -/
theorem witness_PrivilegedDroop : ∃ h, h = { th with s := Sparse.set zeros th.s 5 0x48#64 } ∧ UserWord h plainHdr tw ∧
    Issues (ts h) tw h ∧ supervisorReg 0x083 ∧ droopBad (h.sreg 5) = false := by
  refine ⟨_, rfl, ⟨plain_ok _ _, rfl, by decide, free_ok (by decide) (by decide)⟩, ⟨rfl, rfl, rfl, by decide, rfl⟩, ?_⟩
  unfold supervisorReg
  decide

/-- IssueFollowsItsOrder: a predicate register just beyond the allocation, no active lane, and the word of zeros. -/
theorem witness_IssueOrder :
    (∃ h hd, h = { th with nregs := 24 } ∧ hd = { plainHdr with pe := true, pr := 24 } ∧ (Instr.nop hd noFields).header = some hd ∧
      Issues (ts h) tw h ∧ hd.pe = true ∧ hd.pk = false ∧ h.nregs ≤ hd.pr.toNat ∧ h.lanesOf (h.group tw.f) ≠ [] ∧
      TrapFree h (furMask (h.group tw.f)))
    ∧ (∃ hd, hd = { plainHdr with pe := true, pr := 31 } ∧ (Instr.nop hd noFields).header = some hd ∧ Issues (ts th) tw th ∧
      activeLanes th tw.f hd = [] ∧ hd.pr.toNat < th.nregs)
    ∧ (Issues (ts th) tw th ∧ activeLanes th tw.f (hdrOf 0) ≠ [] ∧ TrapFree th (furMask (th.group tw.f)) ∧
      (hdrOf 0).pe = false) :=
  ⟨⟨_, _, rfl, rfl, rfl, ⟨rfl, rfl, rfl, by decide, rfl⟩, rfl, rfl, by decide, by decide, free_ok (by decide) (by decide)⟩,
    ⟨_, rfl, rfl, (ready_th false).1, by decide⟩, (ready_th false).1, by decide, free_th, by decide⟩

/-- The module whose core 0 waits for leave and holds a tile. -/
def tsCounting (h : Herd) : State :=
  { ts h with
    leaveQ := [(0, 0)]
    ring := { Ring.reset with tiles := [{ track := 0, layer := 5, tile := 1, die := 0, lap := 1, ent := 0, poison := false, gen := 1, crc := 0
                                          crcBad := false, payload := [], left := 0, stop := 0, passed := false, sent := false, held := true
                                          blocked := [(tk, 0)] }] } }

/-- SystemRegisterWordsComplete, reads: the clocks, the cycle counters while they run and while nothing that they count goes on, a
counter, a computed register and, at supervisor level, a partition register. -/
theorem witness_SystemReads : Ready (ts th) th plainHdr false ∧ Ready (tsCounting th) th plainHdr false ∧ Ready (ts thS) thS plainHdr false ∧
    (∀ x ∈ ([{ d := 63, a := 0, sel := 0x001, x := 0 }, { d := 63, a := 0, sel := 0x0D5, x := 0 }] : List FS),
      x.d.toNat < 64 ∧ x.a = 0#8 ∧ x.x = 0#8)
    ∧ (∀ n ∈ [0x041, 0x042, 0x0D5], counterRuns (tsCounting th) 0 n = true)
    ∧ (∀ n ∈ [0x002, 0x01F, 0x023, 0x040, 0x042, 0x0D5, 0x0E3], (sysAccess n).isSome = true ∧ ¬ (th.sup = false ∧ supervisorReg n) ∧
        n ≠ 0x000 ∧ n ≠ 0x001 ∧ counterRuns (ts th) 0 n = false)
    ∧ (∀ n ∈ [0x080, 0x105, 0x108], (sysAccess n).isSome = true ∧ ¬ (thS.sup = false ∧ supervisorReg n)) := by
  refine ⟨ready_th false, ⟨⟨rfl, rfl, rfl, by decide, rfl⟩, plain_ok _ _, by decide⟩, ready_sup false, ?_, ?_, ?_, ?_⟩ <;>
    (try unfold supervisorReg) <;> decide +kernel

/-- The furrow of a one-furrow herd stands at no headland. -/
theorem passed_thS (n : Word) : Passed { thS with s := Sparse.set zeros thS.s 5 n } := by
  intro f hg _
  obtain ⟨j, hj⟩ := List.exists_mem_of_ne_nil _ hg
  refine ⟨j, hj, fun n => ?_⟩
  have e : j = 0 := by
    have := (List.mem_filter.mp hj).1
    simpa [Herd.idxs, thS, th, herdOf, Herd.fresh] using this
  subst e
  simp [Herd.fur, thS, th, herdOf, Herd.fresh, Furrow.fresh]

/-- SystemRegisterWordsComplete, writes: conversion registers, partition registers, core registers and both kinds of patience;
and a value for sys.droop. -/
theorem witness_SystemWrites : Ready (ts th) th plainHdr false ∧ Ready (ts thS) thS plainHdr false ∧
    (∀ x ∈ ([{ d := 0, a := 63, sel := 0x020, x := 0 }, { d := 0, a := 63, sel := 0x023, x := 0 }] : List FS),
      x.d = 0#8 ∧ x.a.toNat < 64 ∧ x.x = 0#8)
    ∧ (∀ n ∈ [0x082, 0x100, 0x102, 0x105], isPartReg n = true ∧ n ≠ 0x0D2)
    ∧ (∀ n ∈ [0x040, 0x081, 0x0C5, 0x108], isCoreReg n = true ∧ n ≠ 0x083 ∧ n ≠ 0x080)
    ∧ (∃ h, h = { thS with s := Sparse.set zeros thS.s 5 0xFFFF#64 } ∧ Ready (ts h) h plainHdr false ∧
        fld (h.sreg 5) 15 0 ≠ 0 ∧ ∀ g ∈ (ts h).herds, Passed g)
    ∧ (∃ h, h = { thS with s := Sparse.set zeros thS.s 5 0x11#64 } ∧ Ready (ts h) h plainHdr false ∧ droopBad (h.sreg 5) = false)
    ∧ fld (thS.sreg 5) 15 0 = 0 := by
  refine ⟨ready_th false, ready_sup false, by decide, by decide, by decide,
    ⟨_, rfl, ⟨⟨rfl, rfl, rfl, by decide, rfl⟩, plain_ok _ _, by decide⟩, by decide, fun g hg => ?_⟩,
    ⟨_, rfl, ⟨⟨rfl, rfl, rfl, by decide, rfl⟩, plain_ok _ _, by decide⟩, by decide⟩, by decide⟩
  rw [show g = _ from List.mem_singleton.mp hg]
  exact passed_thS _

/-- A code object of partition 0 at 0x1_0000_0000, whose page is the one that `loaded` maps. -/
def tobj : CodeObj := { part := 0, va := 0x100000000, words := [0x32000000000000FF#64, 0#64], pages := [0x1000000], digest := 0 }

def thObj : Herd := { thS with s := Sparse.set zeros thS.s 5 0x100000000#64 }
def tsObj : State := { ts thObj with objs := [tobj] }

theorem ready_obj : Ready tsObj thObj plainHdr false := ⟨⟨rfl, rfl, rfl, by decide, rfl⟩, plain_ok _ _, by decide⟩

/-- DequickeningRestoresObjects: an object's address, another address, and the partition's objects. -/
theorem witness_Dequickening : Ready tsObj thObj plainHdr false ∧ thObj.sup = true
    ∧ (tobj ∈ tsObj.objs ∧ tsObj.objs.find? (fun o => decide (o.part = tw.key.crew.part) && decide (o.va = thObj.sreg 5)) = some tobj)
    ∧ (∀ o ∈ tsObj.objs, ¬ (o.part = tw.key.crew.part ∧ o.va = thObj.sreg 63))
    ∧ (∀ x ∈ ([{ d := 63, a := 0, sel := 0, x := 1 }] : List FS), x.a = 0#8 ∧ x.x.toNat < 2 ∧ x.d.toNat < 64 ∧ x.sel = 0#16) :=
  ⟨ready_obj, rfl, by decide +kernel, by decide +kernel, by decide⟩

/-- A field that declares sixteen crew, eight acre and four field barriers. -/
def tcard : Card := { w0 := 0x100000000, w1 := 0, w2 := 0x0000000100010020, w3 := 0x8810, w4 := 0, w5 := 0, w6 := 0, w7 := 0 }
def tfield : FieldRec := { part := 0, id := 1, card := tcard, home := 0, admitted := 1, ended := 0, aborted := false, phases := [] }

/-- The issuing herd with a barrier in some state, and another herd of its crew in another. -/
def thBar (lv idx : Nat) (b : BarSt) : Herd := { th with bars := if b = .idle then [] else [((lv, idx), b)] }
def tsBar (h m : Herd) : State := { ts h with herds := [h, { m with key := { tk with herd := 1 } }], fields := [tfield] }

def barWord (sel : BitVec 16) : FS := { d := 0, a := 0, sel := sel, x := 0 }

theorem barOk (lv idx : Nat) (b : BarSt) (m : Herd) (sel : BitVec 16) (hs : sel.extractLsb' 4 9 = 0) (hl : barLv (barWord sel) ≠ 3)
    (hi : barIdx (barWord sel) < declared tcard (barLv (barWord sel))) :
    Issues (tsBar (thBar lv idx b) m) tw (thBar lv idx b) ∧ BarFields tw (thBar lv idx b) plainHdr (barWord sel) ∧
      BarAllowed (tsBar (thBar lv idx b) m) (thBar lv idx b) (barLv (barWord sel)) (barIdx (barWord sel)) :=
  ⟨⟨rfl, rfl, rfl, (by decide : th.furrows.length ≤ 8), rfl⟩,
    ⟨plain_ok _ _, (by decide : activeLanes th 0 plainHdr ≠ []), rfl, rfl, rfl, hs, hl⟩, (by decide : th.ganged = true), _, rfl, hi⟩

/-- BarriersArriveWaitAndComplete, clause by clause; the selectors name crew barrier 15, acre barrier 7 and field barrier 3. -/
theorem witness_Barriers :
    (∀ p ∈ [(0x000F#16, 0, 15), (0x4007#16, 1, 7), (0x8003#16, 2, 3)],
      p.1.extractLsb' 4 9 = 0 ∧ barLv (barWord p.1) = p.2.1 ∧ barIdx (barWord p.1) = p.2.2 ∧
        barIdx (barWord p.1) < declared tcard (barLv (barWord p.1)) ∧ barWt (barWord p.1) = false ∧
        barWt (barWord (p.1 ||| 0x2000#16)) = true)
    ∧ (∀ b ∈ [BarSt.idle, .passed], ∃ m ∈ otherMembers (tsBar (thBar 0 15 b) th) tw (thBar 0 15 b) 0, m.barSt 0 15 = .idle)
    ∧ ((tsBar (thBar 0 15 .idle) (thBar 0 15 .signalled)).herds.map (fun h => h.key)).Nodup
    ∧ (∀ b ∈ [BarSt.signalled, .waiting], (∃ m, m ∈ otherMembers (tsBar (thBar 0 15 .idle) (thBar 0 15 b)) tw (thBar 0 15 .idle) 0 ∧
        (tsBar (thBar 0 15 .idle) (thBar 0 15 b)).herd? m.key = some m) ∧
      ∀ m ∈ otherMembers (tsBar (thBar 0 15 .idle) (thBar 0 15 b)) tw (thBar 0 15 .idle) 0, m.barSt 0 15 = b)
    ∧ ((thBar 0 15 .idle).handler = none ∧ (thBar 0 15 .idle).barSt 0 15 = .idle ∧ (thBar 0 15 .passed).barSt 0 15 = .passed ∧
      (tsBar (thBar 0 15 .idle) th).field? 0 1 = some tfield)
    ∧ (thBar 1 7 .signalled).barSt 1 7 = .signalled ∧ (thBar 2 3 .passed).barSt 2 3 = .passed := by
  refine ⟨by decide, by decide, by decide, fun b hb => ?_, ⟨rfl, by decide, by decide, rfl⟩, by decide, by decide⟩
  simp only [List.mem_cons, List.not_mem_nil, or_false] at hb
  rcases hb with rfl | rfl <;> exact ⟨⟨{ thBar 0 15 _ with key := { tk with herd := 1 } }, by decide, rfl⟩, by decide⟩

/-- BarriersArriveWaitAndComplete, misuse: a split herd, an index beyond those declared, and a herd that waits or has signalled. -/
theorem witness_BarrierMisuse :
    (∃ s, s = { ts thSplit with fields := [tfield] } ∧ Issues s tw thSplit ∧ BarFields tw thSplit plainHdr (barWord 0) ∧
      ¬ BarAllowed s thSplit 0 0 ∧ TrapFree thSplit (furMask (thSplit.group tw.f)))
    ∧ (∃ s, s = { ts th with fields := [{ tfield with card := { tcard with w3 := 0 } }] } ∧ Issues s tw th ∧
      BarFields tw th plainHdr (barWord 0) ∧ ¬ BarAllowed s th 0 0 ∧ TrapFree th (furMask (th.group tw.f)))
    ∧ (∀ b ∈ [BarSt.waiting, .signalled], Issues (ts (thBar 0 15 b)) tw (thBar 0 15 b) ∧ (thBar 0 15 b).barSt 0 15 = b ∧
      TrapFree (thBar 0 15 b) (furMask ((thBar 0 15 b).group tw.f))) := by
  refine ⟨⟨_, rfl, ⟨rfl, rfl, rfl, by decide, rfl⟩, ⟨plain_ok _ _, by decide, rfl, rfl, rfl, by decide, by decide⟩, ?_, free_ok (by decide) (by decide)⟩,
    ⟨_, rfl, ⟨rfl, rfl, rfl, by decide, rfl⟩, ⟨plain_ok _ _, by decide, rfl, rfl, rfl, by decide, by decide⟩, ?_, free_th⟩, fun b hb => ?_⟩
  · exact fun q => absurd q.1 (by decide)
  · rintro ⟨-, f, e, h⟩
    obtain rfl := Option.some.inj (show some { tfield with card := { tcard with w3 := 0 } } = some f from e)
    exact absurd h (by decide)
  · simp only [List.mem_cons, List.not_mem_nil, or_false] at hb
    rcases hb with rfl | rfl <;> exact ⟨⟨rfl, rfl, rfl, by decide, rfl⟩, by decide, free_ok (by decide) (by decide)⟩

/-- A tape whose one stream has two dirty blocks: a closed one and the open one. -/
def dirtyTape : TapeCtx :=
  { TapeCtx.none with active := true, sbase := 0x200000000, slim := 0x200010000, next := 0x200000200
                      pages := [(0x20000, 0x20000000)], closed := [(0x200000000, List.replicate 256 1#8)]
                      streams := [{ Stream.fresh with cur := 0x200000100, used := 4, count := 1, payload := List.replicate 4 0#8, depth := 1 }] }
def thDirty : Herd := { th with tape := dirtyTape }

/-- FencesComplete: the widest scope without `.eng`, an acquire with it, a release, and dirty blocks of a tape. -/
theorem witness_Fences : Ready (ts th) th plainHdr false ∧
    (∀ x ∈ ([{ d := 0, a := 0, sel := 0x0005, x := 0 }, { d := 0, a := 0, sel := 0x0102, x := 0 }, { d := 0, a := 0, sel := 0x0020, x := 0 }] : List FS),
      x.d = 0 ∧ x.a = 0 ∧ x.x = 0 ∧ x.sel.extractLsb' 9 7 = 0 ∧ x.sel.extractLsb' 6 2 = 0 ∧ x.sel.extractLsb' 3 1 = 0 ∧
        x.sel.extractLsb' 4 2 ≠ 3 ∧ (x.sel.extractLsb' 0 3).toNat < 6)
    ∧ ¬ CommandsLeft (ts th) tw th ∧ dirtyBlocks (issueCtx tw th plainHdr).fencedTape = []
    ∧ (Ready (ts thDirty) thDirty plainHdr false ∧ ¬ CommandsLeft (ts thDirty) tw thDirty ∧
      ∃ bl, bl = dirtyBlocks (issueCtx tw thDirty plainHdr).fencedTape ∧ bl.length = 2 ∧
        (∀ b ∈ bl, b.2.length ≤ 256 ∧ blockOwned (ts thDirty) thDirty.tape b.1 = false) ∧
        bl.Pairwise (fun a b => thDirty.tape.pa a.1 + 256 ≤ thDirty.tape.pa b.1 ∨ thDirty.tape.pa b.1 + 256 ≤ thDirty.tape.pa a.1)) := by
  refine ⟨ready_th false, by decide, ?_, by decide, ⟨⟨rfl, rfl, rfl, by decide, rfl⟩, plain_ok _ _, by decide⟩, ?_, _, rfl, ?_, ?_, ?_⟩
  · rintro (⟨q, hq, -⟩ | ⟨q, hq, -⟩) <;> exact nomatch hq
  · rintro (⟨q, hq, -⟩ | ⟨q, hq, -⟩) <;> exact nomatch hq
  all_goals decide +kernel

/-- A seed card of one crew of one 8-lane herd with 16 registers that starts at the code object, as it stands in memory. -/
def cardBytes : List Byte := leBytes 8 0x100000000 ++ leBytes 8 0 ++ leBytes 8 0x0000000100010010 ++ List.replicate 40 0#8
def tsSow (seeds : List Seed) : State := { tsObj with hbm := Memory.put tsObj.hbm 0x1000000 cardBytes, seeds := seeds }

/-- 64 cards in the queue of core 0 and priority 0. -/
def fullSeeds : List Seed := List.replicate 64 { core := 0, prio := 0, part := 0, field := 2 }

/-- What SowPostsCards asks, with the status that its card gets. -/
def SowAt (s : State) (x : FE) (st n : Nat) (full : Bool) : Prop :=
  ∃ acc card0 core, Ready s thObj plainHdr false ∧ x.d.toNat < 64 ∧ x.x.toNat < 4 ∧ (x.x.getLsbD 1 = true → x.sb = 0#6) ∧
    (thObj.sreg x.sa.toNat).toNat % 64 = 0 ∧ fld (thObj.sreg x.sa.toNat) 63 60 = 0 ∧ acc = checkLane s thObj .load 64 (some 0) 255 (thObj.sreg x.sa.toNat) ∧ acc.flt = none ∧
    locWaits s thObj.key (furMask (thObj.group tw.f)) thObj.core 64 false true acc.loc = false ∧ poisoned s thObj.core true acc.loc = false ∧
    card0 = cardOf (readLoc s thObj.core 64 true acc.loc) ∧
    core = (if x.x.getLsbD 1 then thObj.core else (thObj.sreg x.sb.toNat).toNat) ∧ st = cardStatus s tw.key.crew.part card0 core true (!thObj.sup) ∧
    n = sowsBefore s core card0.prio (postRank thObj core card0.prio (furMask (thObj.group tw.f))) ∧
    full = decide (64 ≤ (seedQueue s core card0.prio).length + n)

/-- SowPostsCards: a card refused (a core beyond the module), one posted, one that meets a full queue and waits, and with `.try`. -/
theorem witness_Sow :
    SowAt (tsSow []) { d := 63, sa := 5, sb := 5, sf := 63, x := 1 } 4 0 false
    ∧ SowAt (tsSow []) { d := 63, sa := 5, sb := 0, sf := 0, x := 3 } 0 0 false
    ∧ SowAt (tsSow fullSeeds) { d := 63, sa := 5, sb := 0, sf := 0, x := 2 } 0 0 true
    ∧ SowAt (tsSow fullSeeds) { d := 63, sa := 5, sb := 0, sf := 0, x := 3 } 0 0 true := by
  refine ⟨⟨_, _, _, ⟨⟨rfl, rfl, rfl, by decide, rfl⟩, plain_ok _ _, by decide⟩, by decide, by decide, by decide, by decide, by decide, rfl, ?_, ?_, ?_, rfl, rfl, ?_, ?_, ?_⟩,
    ⟨_, _, _, ⟨⟨rfl, rfl, rfl, by decide, rfl⟩, plain_ok _ _, by decide⟩, by decide, by decide, by decide, by decide, by decide, rfl, ?_, ?_, ?_, rfl, rfl, ?_, ?_, ?_⟩,
    ⟨_, _, _, ⟨⟨rfl, rfl, rfl, by decide, rfl⟩, plain_ok _ _, by decide⟩, by decide, by decide, by decide, by decide, by decide, rfl, ?_, ?_, ?_, rfl, rfl, ?_, ?_, ?_⟩,
    ⟨_, _, _, ⟨⟨rfl, rfl, rfl, by decide, rfl⟩, plain_ok _ _, by decide⟩, by decide, by decide, by decide, by decide, by decide, rfl, ?_, ?_, ?_, rfl, rfl, ?_, ?_, ?_⟩⟩ <;>
    decide +kernel

/-- The card's queue with one place left, which a `sow` that a herd of a lower slice has stalled before takes first. -/
def sowAhead : Herd := { thObj with key := { tk with herd := 1 }, slice := 0, holds := [{ group := 1#8, why := .sow (cardOf cardBytes) 0 5 }] }
def thObjLater : Herd := { thObj with slice := 1 }
theorem witness_SowBehind : ∃ s, s = { tsSow (fullSeeds.drop 2) with herds := [thObjLater, sowAhead] } ∧ s.herd? tk = some thObjLater ∧
    sowsBefore s 0 (cardOf cardBytes).prio (postRank thObjLater 0 (cardOf cardBytes).prio (furMask (thObjLater.group tw.f))) = 1 ∧
    decide (64 ≤ (seedQueue s 0 (cardOf cardBytes).prio).length + 1) = false := by
  refine ⟨_, rfl, rfl, ?_, ?_⟩ <;> decide +kernel

/-- The supervisor herd with a card address in S[5]. -/
def thCard (v : Word) : Herd := { thS with s := Sparse.set zeros thS.s 5 v }
def sowWord : FE := { d := 63, sa := 5, sb := 5, sf := 63, x := 1 }

/-- SowPostsCards, the card's address: misaligned, in the tile space, beyond 2^48 (class 2), on a page that has no table (class
4), and in a sector with an uncorrectable error. -/
theorem witness_SowAddresses :
    (∀ v, Issues (ts (thCard v)) tw (thCard v) ∧ activeLanes (thCard v) tw.f plainHdr ≠ [] ∧
      TrapFree (thCard v) (furMask ((thCard v).group tw.f)) ∧ (thCard v).sreg sowWord.sa.toNat = v)
    ∧ (sowWord.d.toNat < 64 ∧ sowWord.x.toNat < 4 ∧ (sowWord.x.getLsbD 1 = true → sowWord.sb = 0#6))
    ∧ (0x100000020#64).toNat % 64 ≠ 0
    ∧ ((0x1000000000000000#64).toNat % 64 = 0 ∧ fld 0x1000000000000000#64 63 60 ≠ 0)
    ∧ ((0x1000000000000#64).toNat % 64 = 0 ∧ fld 0x1000000000000#64 63 60 = 0 ∧
      (checkLane (ts (thCard 0x1000000000000)) (thCard 0x1000000000000) .load 64 (some 0) 255 0x1000000000000).flt = some (2, 2))
    ∧ (∃ c, (0x300000000#64).toNat % 64 = 0 ∧ fld 0x300000000#64 63 60 = 0 ∧
      (checkLane (ts (thCard 0x300000000)) (thCard 0x300000000) .load 64 (some 0) 255 0x300000000).flt = some (4, c))
    ∧ (∃ s acc, s = { ts (thCard 0x100000000) with hbmErr := [sectorOf 0x1000000] } ∧
      acc = checkLane s (thCard 0x100000000) .load 64 (some 0) 255 0x100000000 ∧ acc.flt = none ∧
      locWaits s tk 1#8 0 64 false true acc.loc = false ∧ poisoned s 0 true acc.loc = true) := by
  refine ⟨fun v => ⟨⟨rfl, rfl, rfl, (by decide : th.furrows.length ≤ 8), rfl⟩, (by decide : activeLanes th 0 plainHdr ≠ []),
    free_ok (by decide : trapWaits th (furMask (th.group 0)) = false) (by decide : pendBefore th (furMask (th.group 0)) = false), ?_⟩,
    by decide, by decide, by decide, ?_, ⟨1, ?_⟩, ⟨_, _, rfl, rfl, ?_, ?_, ?_⟩⟩
  · show Sparse.get zeros (Sparse.set zeros thS.s 5 v) 5 = v
    rw [Sparse.get_set, if_pos rfl]
  all_goals decide +kernel

/-! ### Witnesses: memory, copies, windows -/

/-- A crew with 64 KiB of tile store, and a page of f32 data at 0x2_0000_0000 that user level may write. -/
def tcrew : Crew := Crew.fresh { key := tc, core := 0, herds := 1, tileLen := 65536, order := 0 }
def tsMem (h : Herd) : State :=
  run { ts h with crews := [tcrew] } (pte 0x101040 0x112001 ++ pte 0x112000 0x113001 ++ pte 0x113000 0x3000000020000033)

/-- S[5] names the last bytes of the tile store, S[6] the page, S[7] the crew of another index. -/
def thMem : Herd :=
  { th with s := Sparse.write zeros th.s 5 [0x100000000000FF80#64, 0x200000000#64, 0x2000000010000000#64]
            vtag := Sparse.write zeros [] 1 (2#4 :: List.replicate 30 3#4) }

theorem issues_mem {s : State} {h : Herd} (a : s.issuer = some tw) (b : s.herd? tk = some h) (c : h.canIssue 0 = true)
    (d : h.furrows.length ≤ 8) (e : h.lateTurn 0 = false := by rfl) : Issues s tw h := ⟨a, b, c, d, e⟩

/-- The same issuer, whose word's accesses are posted or not (R257), and the module in which it issues. -/
def twPost (post : Bool) : Issuer := { tw with post := post }
def tsPost (h : Herd) (post : Bool) : State := { tsMem h with issuer := some (twPost post) }

/-- What both clauses ask of the accesses of a word. -/
def MovesAt (post : Bool) (h : Herd) (n : Nat) (write reads viaL1 : Bool) (accs : List LaneAcc) : Prop :=
  (post = false → PerformsNow (tsPost h post) (twPost post) accs ∧ AccessesOk (tsPost h post) (twPost post) h n write reads viaL1 accs)
  ∧ (post = true → AccessesPosted (tsPost h post) (twPost post) h n write viaL1 accs)

/-- What LoadsComplete and StoresComplete ask, `uses` being the sources of uniformity. -/
def MoveAt (reads : Bool) (mk : Header → BitVec 4 → FM → Instr) (h : Herd) (hd : Header) (nib : BitVec 4) (x : FM)
    (srcs : List Nat) : Prop :=
  ∀ post, ∃ accs word p, Issues (tsPost h post) (twPost post) h ∧ MemHeader h hd nib.toNat x ∧ x.d.toNat % regCount x.wid.toNat = 0 ∧
    x.d.toNat + regCount x.wid.toNat ≤ h.nregs ∧ x.vo.toNat < h.nregs ∧ activeLanes h (twPost post).f hd ≠ [] ∧
    accs = memAccs (issueCtx (twPost post) h hd) (tsPost h post) (if reads then .load else .store) x ∧
    MovesAt post h (2 ^ x.wid.toNat) (!reads) reads reads accs ∧ encode (mk hd nib x) = some word ∧
    p = planOf (siteOf (mk hd nib x) (issueCtx (twPost post) h hd) true srcs (memEa (issueCtx (twPost post) h hd) x)) nib.toNat hd.u
      (accs.map (fun a => a.fmt)) ∧
    fmtRefused (siteOf (mk hd nib x) (issueCtx (twPost post) h hd) true srcs (memEa (issueCtx (twPost post) h hd) x)) x.wid.toNat
      (accs.map (fun a => a.fmt)) p = false

/-- LoadsComplete: 16 bytes a lane at the end of the tile store, a broadcast, and sites unresolved, quickened and pinned. -/
theorem witness_Loads :
    MoveAt true .ld thMem plainHdr 11 { d := 28, sb := 5, vo := 1, imm := 0, spc := 1, wid := 4 } [1]
    ∧ MoveAt true .ld thMem { plainHdr with u := true } 1 { d := 31, sb := 6, vo := 1, imm := 0, spc := 0, wid := 0 } [1]
    ∧ MoveAt true .ld thMem hdrN 0 { d := 31, sb := 6, vo := 1, imm := 0, spc := 7, wid := 2 } [1]
    ∧ MoveAt true .ld thMem hdrQ 3 { d := 30, sb := 6, vo := 1, imm := 0, spc := 0, wid := 3 } [1]
    ∧ MoveAt true .ld thMem hdrP 0 { d := 31, sb := 5, vo := 1, imm := 0, spc := 7, wid := 2 } [1] := by
  refine ⟨?_, ?_, ?_, ?_, ?_⟩ <;> rintro (_ | _) <;>
    refine ⟨_, _, _, ⟨rfl, rfl, rfl, by decide, rfl⟩, ?_, ?_, ?_, ?_, ?_, rfl, ?_, rfl, rfl, ?_⟩ <;>
    first | (unfold MemHeader PredOk; decide +kernel) | (unfold MovesAt PerformsNow AccessesOk AccessesPosted; decide +kernel) | decide +kernel

/-- StoresComplete: the same sites. -/
theorem witness_Stores :
    MoveAt false .st thMem plainHdr 11 { d := 28, sb := 5, vo := 1, imm := 0, spc := 1, wid := 4 } [1, 28, 29, 30, 31]
    ∧ MoveAt false .st thMem { plainHdr with u := true } 1 { d := 31, sb := 6, vo := 1, imm := 0, spc := 0, wid := 0 } [1, 31]
    ∧ MoveAt false .st thMem hdrN 0 { d := 31, sb := 6, vo := 1, imm := 0, spc := 7, wid := 2 } [1, 31]
    ∧ MoveAt false .st thMem hdrQ 3 { d := 30, sb := 6, vo := 1, imm := 0, spc := 0, wid := 3 } [1, 30, 31]
    ∧ MoveAt false .st thMem hdrP 0 { d := 31, sb := 5, vo := 1, imm := 0, spc := 7, wid := 2 } [1, 31] := by
  refine ⟨?_, ?_, ?_, ?_, ?_⟩ <;> rintro (_ | _) <;>
    refine ⟨_, _, _, ⟨rfl, rfl, rfl, by decide, rfl⟩, ?_, ?_, ?_, ?_, ?_, rfl, ?_, rfl, rfl, ?_⟩ <;>
    first | (unfold MemHeader PredOk; decide +kernel) | (unfold MovesAt PerformsNow AccessesOk AccessesPosted; decide +kernel) | decide +kernel

/-- What AtomicsComplete asks of each of its words. -/
def AtomicAt (post : Bool) (e : (Header → FM → Instr) × AtomOp × Bool) (h : Herd) (hd : Header) (x : FM) : Prop :=
  ∃ accs word p as tr, Issues (tsPost h post) (twPost post) h ∧ MemHeader h hd 0 x ∧ x.wid = 2#3 ∧ x.d.toNat % atomRegs e.2.1 = 0 ∧
    x.d.toNat + atomRegs e.2.1 ≤ h.nregs ∧ x.vo.toNat < h.nregs ∧ activeLanes h (twPost post).f hd ≠ [] ∧
    accs = memAccs (issueCtx (twPost post) h hd) (tsPost h post) .atomic x ∧ MovesAt post h 4 true true false accs ∧
    encode (e.1 hd x) = some word ∧
    p = planOf (atomSite (e.1 hd x) (issueCtx (twPost post) h hd) x) 0 hd.u [] ∧
    as = (if p.uni then accs.take 1 else accs) ∧
    tr = atomTrace e.2.1 (fixedSpace hd x) (h.vreg x.d.toNat) (h.vreg (x.d.toNat + 1))
      (fun l => BitVec.ofNat 32 (leNat (readLoc (tsPost h post) h.core 4 false l))) [] as

/-- AtomicsComplete: each word on the tile store natively, and on the page unresolved; some of them posted. -/
theorem witness_Atomics :
    (∀ e ∈ atomics, AtomicAt false e thMem plainHdr { d := 30, sb := 5, vo := 1, imm := 0, spc := 1, wid := 2 })
    ∧ (∀ e ∈ atomics, AtomicAt false e thMem hdrN { d := 30, sb := 6, vo := 1, imm := 0, spc := 7, wid := 2 }) := by
  constructor <;> intro e he <;>
    simp only [atomics, List.mem_cons, List.not_mem_nil, or_false] at he <;>
    rcases he with rfl | rfl | rfl | rfl | rfl | rfl | rfl | rfl | rfl | rfl | rfl | rfl | rfl | rfl | rfl | rfl | rfl | rfl | rfl |
      rfl | rfl | rfl | rfl | rfl <;>
    refine ⟨_, _, _, _, _, ⟨rfl, rfl, rfl, by decide, rfl⟩, ?_, rfl, ?_, ?_, ?_, ?_, rfl, ?_, rfl, rfl, rfl, rfl⟩ <;>
    first | (unfold MemHeader PredOk; decide +kernel) | (unfold MovesAt PerformsNow AccessesOk AccessesPosted; decide +kernel) | decide +kernel

/-- AtomicsComplete: an atomic and a reduction that are posted, an `acas` whose lanes name words of their own, and one all of whose lanes
name one word. -/
theorem witness_AtomicsPosted :
    (∀ e ∈ atomics, e.2.1 ≠ .addI32 ∨ AtomicAt true e thMem hdrN { d := 30, sb := 6, vo := 1, imm := 0, spc := 7, wid := 2 })
    ∧ (∃ accs, accs = memAccs (issueCtx (twPost true) thMem plainHdr) (tsPost thMem true) .atomic { d := 30, sb := 5, vo := 2, imm := 0, spc := 1, wid := 2 } ∧
      ¬ (accs.map (fun a => a.loc.word)).Nodup)
    ∧ ∃ (h : Herd) (accs : List LaneAcc), h = { thMem with v := Sparse.write zeros [] (vkey 1 0) ((List.range 64).map (BitVec.ofNat 32)) } ∧
      accs = memAccs (issueCtx (twPost true) h plainHdr) (tsPost h true) .atomic { d := 30, sb := 6, vo := 1, imm := 0, spc := 0, wid := 2 } ∧
      accs.length = 8 ∧ (accs.map (fun a => a.loc.word)).Nodup ∧ MovesAt true h 4 true true false accs := by
  refine ⟨fun e he => ?_, ⟨_, rfl, ?_⟩, ⟨_, _, rfl, rfl, ?_, ?_, ?_⟩⟩
  · simp only [atomics, List.mem_cons, List.not_mem_nil, or_false] at he
    rcases he with rfl | rfl | rfl | rfl | rfl | rfl | rfl | rfl | rfl | rfl | rfl | rfl | rfl | rfl | rfl | rfl | rfl | rfl | rfl |
      rfl | rfl | rfl | rfl | rfl <;>
      first
      | exact .inl (by decide)
      | (refine .inr ⟨_, _, _, _, _, ⟨rfl, rfl, rfl, by decide, rfl⟩, ?_, rfl, ?_, ?_, ?_, ?_, rfl, ?_, rfl, rfl, rfl, rfl⟩ <;>
          first | (unfold MemHeader PredOk; decide +kernel) | (unfold MovesAt PerformsNow AccessesOk AccessesPosted; decide +kernel) | decide +kernel)
  all_goals first | decide +kernel | (unfold MovesAt PerformsNow AccessesOk AccessesPosted; decide +kernel)

/-- Posted accesses of the herd: a load, a store of the same word, an atomic and a reduction of other words. -/
def tpost (l : Loc) (op : PostOp) : Posted := postedOf tw th l 2 op [0, 63]
def tposts : List Posted :=
  [tpost (.mem 0x20000040) (.load 5 3), tpost (.mem 0x20000040) (.store [1, 2, 3, 4]), tpost (.tile tc 64) (.atomic .cas 0 7 (some 6)),
   tpost (.mem 0x20000080) (.atomic .addI32 1 0 none)]
def tsPosted (h : Herd) : State := { tsMem h with posted := tposts }

/-- LoadsComplete, StoresComplete and AtomicsComplete: the first access of a word is performed, in any order with those of other words, and
the second one waits for it; FencesComplete: so does an access that issues, and what the words of the agent wait for. -/
theorem witness_Posted :
    (∀ i ∈ [0, 2, 3], ∃ p, (tsPosted th).posted[i]? = some p ∧ performWaits (tsPosted th) i p = false ∧ p.wid ≤ 2 ∧ ∀ l ∈ p.lanes, l < 64)
    ∧ (∃ p q, (tsPosted th).posted[0]? = some p ∧ (tsPosted th).posted[1]? = some q ∧ p.key = q.key ∧ p.group &&& q.group ≠ 0#8 ∧
      p.loc.meets p.size q.size q.loc = true ∧ performWaits (tsPosted th) 1 q = true ∧ performWaits { tsPosted th with posted := tposts.tail } 0 q = false)
    ∧ (tpost (.mem 0x20000040) (.load 5 3)).loc.meets 4 16 (.mem 0x20000034) = true
    ∧ (∃ p ∈ (tsPosted th).posted, p.key = th.key ∧ p.group &&& furMask (th.group 0) ≠ 0#8 ∧ p.reads = true ∧ 5 ∈ p.regs)
    ∧ (∃ word, encode (.add plainHdr { d := 1, a := 4, b := 2, fn := 0, mb := 0x30 }) = some word ∧ (4, 2) ∈ namedRegs word)
    ∧ (∃ word, encode (.barw plainHdr { d := 0, a := 0, sel := 0, x := 0 }) = some word ∧ ∃ r ∈ orderedOps, r.1 ≤ opOf word ∧ opOf word ≤ r.2)
    ∧ ∀ sel ∈ [0x0000#16, 0x0100#16, 0x0010#16, 0x0020#16], ∃ word, encode (.fence plainHdr { d := 0, a := 0, sel := sel, x := 0 }) = some word ∧
      decodeWord word = .fence plainHdr { d := 0, a := 0, sel := sel, x := 0 } ∧ (postedWaits (tsPosted th) th 0 true word = decide (sel ≠ 0x0020#16)) ∧
      postedWaits (tsPosted th) th 0 false word = true := by
  refine ⟨?_, ⟨_, _, rfl, rfl, ?_, ?_, ?_, ?_, ?_⟩, ?_, ⟨tpost (.mem 0x20000040) (.load 5 3), ?_, ?_, ?_, ?_, ?_⟩, ⟨_, rfl, ?_⟩, ⟨_, rfl, ?_⟩, ?_⟩
  · intro i hi
    simp only [List.mem_cons, List.not_mem_nil, or_false] at hi
    rcases hi with rfl | rfl | rfl <;> exact ⟨_, rfl, by decide +kernel, by decide, by decide⟩
  on_goal 14 =>
    intro sel hs
    simp only [List.mem_cons, List.not_mem_nil, or_false] at hs
    rcases hs with rfl | rfl | rfl | rfl <;> refine ⟨_, rfl, rfl, ?_, ?_⟩
  all_goals decide +kernel

/-- R257, R262: store buffering: two groups store and then load each other's word; with the stores posted both loads find 0. -/
theorem test_store_buffering : ∃ s : State, s = { tsMem th with posted := [tpost (.mem 0x20000040) (.store [1, 0, 0, 0])] } ∧
    readLoc s 0 4 true (.mem 0x20000040) = [0, 0, 0, 0] ∧ (run s (outsideActs (.perform 0) s)).hbm.bytes 0x20000040 4 = [1, 0, 0, 0] ∧
    (run s (outsideActs (.perform 0) s)).posted = [] := by
  refine ⟨_, rfl, ?_, ?_, ?_⟩ <;> decide +kernel

/-- R227, R237: a posted load and a posted `acas` write the lanes that they serve. -/
theorem test_posted_results : ∃ t, t = run (tsPosted th) (outsideActs (.perform 2) (tsPosted th)) ∧ tileByte t tc 64 = 7 ∧
    (t.herd? tk).map (fun h => (h.vreg 6 63, h.vreg 7 63, h.tagOf 7)) = some (0#32, 1#32, 2) := by
  refine ⟨_, rfl, ?_, ?_⟩ <;> decide +kernel

/-- What MemoryFaultsTrap asks of a word's fields. -/
def FieldsAt (s : State) (h : Herd) (hd : Header) (nib k : Nat) (x : FM) : Prop :=
  Issues s tw h ∧ MemHeader h hd nib x ∧ x.d.toNat % k = 0 ∧ x.d.toNat + k ≤ h.nregs ∧ x.vo.toNat < h.nregs ∧ activeLanes h tw.f hd ≠ [] ∧
    TrapFree h (furMask (h.group tw.f))

/-- TakesFault, by a check of every lane. -/
theorem takes_ok {accs : List LaneAcc} {cls cause : Nat} (a : LaneAcc) (h1 : a ∈ accs) (h2 : a.flt = some (cls, cause)) (h3 : 1 ≤ cls ∧ cls ≤ 4)
    (h4 : ∀ b ∈ accs, b.flt.all (fun q => decide (1 ≤ q.1 ∧ (cls < q.1 ∨ (cls = q.1 ∧ a.lane ≤ b.lane)))) = true) : TakesFault accs a cls cause :=
  ⟨h1, h2, h3.1, h3.2, fun b hb q e => by have := h4 b hb; rw [e] at this; simpa using this⟩

/-- A fault that a word of the page or the tile store takes, at its lowest lane. -/
def FaultAt (kind : AKind) (s : State) (h : Herd) (hd : Header) (k : Nat) (x : FM) (lane cls cause : Nat) : Prop :=
  FieldsAt s h hd 0 k x ∧ ∃ a, TakesFault (memAccs (issueCtx tw h hd) s kind x) a cls cause ∧ a.lane = lane

theorem fault_ok {kind : AKind} {s : State} {h : Herd} {hd : Header} {k : Nat} {x : FM} {lane cls cause : Nat} (f : FieldsAt s h hd 0 k x)
    (h1 : ((memAccs (issueCtx tw h hd) s kind x).find? (fun a => decide (a.lane = lane))).bind (fun a => a.flt) = some (cls, cause)) (h3 : 1 ≤ cls ∧ cls ≤ 4) (h4 : ∀ b ∈ memAccs (issueCtx tw h hd) s kind x,
      b.flt.all (fun q => decide (1 ≤ q.1 ∧ (cls < q.1 ∨ (cls = q.1 ∧ lane ≤ b.lane)))) = true) : FaultAt kind s h hd k x lane cls cause := by
  obtain ⟨a, h1, h2⟩ := Option.bind_eq_some_iff.mp h1
  have e : a.lane = lane := of_decide_eq_true (List.find?_some (p := fun a : LaneAcc => decide (a.lane = lane)) h1)
  exact ⟨f, a, takes_ok a (List.mem_of_find?_eq_some h1) h2 h3 (by rw [e]; exact h4), e⟩

/-- S[6] names something else. -/
def thAddr (v : Word) : Herd := { thMem with s := Sparse.set zeros thMem.s 6 v }

/-- MemoryFaultsTrap: lane 4, the first beyond the tile store's end (class 3), an acre address without a crew (class 2), a
misaligned store (class 1), and a page without a table (class 4). -/
theorem witness_MemoryFaults :
    FaultAt .load (tsMem thMem) thMem plainHdr 4 { d := 28, sb := 5, vo := 1, imm := 4, spc := 1, wid := 4 } 4 3 0
    ∧ FaultAt .load (tsMem thMem) thMem plainHdr 1 { d := 31, sb := 7, vo := 1, imm := 0, spc := 2, wid := 2 } 0 2 5
    ∧ FaultAt .store (tsMem (thAddr 0x200000002)) (thAddr 0x200000002) plainHdr 1 { d := 31, sb := 6, vo := 1, imm := 0, spc := 0, wid := 2 } 0 1 0
    ∧ FaultAt .load (tsMem (thAddr 0x300000000)) (thAddr 0x300000000) hdrN 1 { d := 31, sb := 6, vo := 1, imm := 0, spc := 7, wid := 2 } 0 4 1
    ∧ FaultAt .store (tsMem (thAddr 0x300000000)) (thAddr 0x300000000) plainHdr 1 { d := 31, sb := 6, vo := 1, imm := 0, spc := 0, wid := 2 } 0 4 1 := by
  refine ⟨?_, ?_, ?_, ?_, ?_⟩ <;> refine fault_ok ⟨⟨rfl, rfl, rfl, by decide, rfl⟩, ?_, ?_, ?_, ?_, ?_, ?_⟩ ?_ ?_ ?_ <;>
    first | (unfold MemHeader PredOk; decide +kernel) | decide +kernel

/-- MemoryFaultsTrap, atomics and reductions: each at a misaligned address, in a slot and on a page without a table. -/
theorem witness_AtomicFaults :
    ∀ e ∈ atomics, FaultAt .atomic (tsMem (thAddr 0x200000002)) (thAddr 0x200000002) plainHdr (atomRegs e.2.1)
        { d := 30, sb := 6, vo := 1, imm := 0, spc := 0, wid := 2 } 0 1 0
      ∧ FaultAt .atomic (tsMem (thAddr 0x4000000000000000)) (thAddr 0x4000000000000000) hdrN (atomRegs e.2.1)
        { d := 30, sb := 6, vo := 1, imm := 0, spc := 7, wid := 2 } 0 2 7
      ∧ FaultAt .atomic (tsMem (thAddr 0x300000000)) (thAddr 0x300000000) plainHdr (atomRegs e.2.1)
        { d := 30, sb := 6, vo := 1, imm := 0, spc := 0, wid := 2 } 0 4 1 := by
  have key : ∀ k ∈ [1, 2], FaultAt .atomic (tsMem (thAddr 0x200000002)) (thAddr 0x200000002) plainHdr k
        { d := 30, sb := 6, vo := 1, imm := 0, spc := 0, wid := 2 } 0 1 0
      ∧ FaultAt .atomic (tsMem (thAddr 0x4000000000000000)) (thAddr 0x4000000000000000) hdrN k
        { d := 30, sb := 6, vo := 1, imm := 0, spc := 7, wid := 2 } 0 2 7
      ∧ FaultAt .atomic (tsMem (thAddr 0x300000000)) (thAddr 0x300000000) plainHdr k
        { d := 30, sb := 6, vo := 1, imm := 0, spc := 0, wid := 2 } 0 4 1 := by
    intro k hk
    have f : k = 1 ∨ k = 2 := by simpa using hk
    refine ⟨?_, ?_, ?_⟩ <;> refine fault_ok ⟨⟨rfl, rfl, rfl, by decide, rfl⟩, ?_, ?_, ?_, ?_, ?_, ?_⟩ ?_ ?_ ?_ <;>
      first | (rcases f with rfl | rfl <;> decide +kernel) | (unfold MemHeader PredOk; decide +kernel)
  exact fun e he => key _ ((by decide : ∀ e ∈ atomics.map (fun e => atomRegs e.2.1), e ∈ [1, 2]) _ (List.mem_map_of_mem he))

/-- The module whose page has an uncorrectable error in its first sector. -/
def tsSpoilt (h : Herd) : State := { tsMem h with hbmErr := [sectorOf 0x20000000] }

/-- MemoryFaultsTrap, errors: a native load and one that resolves its site, and an atomic. -/
theorem witness_PoisonedAccesses :
    (∀ hd ∈ [plainHdr, hdrN], ∃ accs word p x, x = { d := 31, sb := 6, vo := 1, imm := 0, spc := if hd = plainHdr then 0 else 7, wid := 2 } ∧
      FieldsAt (tsSpoilt thMem) thMem hd 0 1 x ∧ accs = memAccs (issueCtx tw thMem hd) (tsSpoilt thMem) .load x ∧
      encode (.ld hd 0 x) = some word ∧ AccessesOk (tsSpoilt thMem) tw thMem 4 false false true accs ∧
      p = planOf (siteOf (.ld hd 0 x) (issueCtx tw thMem hd) true [1] (memEa (issueCtx tw thMem hd) x)) 0 hd.u (accs.map (fun a => a.fmt)) ∧
      fmtRefused (siteOf (.ld hd 0 x) (issueCtx tw thMem hd) true [1] (memEa (issueCtx tw thMem hd) x)) 2 (accs.map (fun a => a.fmt)) p = false ∧
      ((if p.uni then accs.take 1 else accs).find? (fun a => poisoned (tsSpoilt thMem) 0 true a.loc)).isSome = true ∧
      (p.rw.isSome = decide (hd = hdrN)) ∧ lineOwned (tsSpoilt thMem) tw.pa 8 = false)
    ∧ (∃ accs word p x, x = { d := 30, sb := 6, vo := 1, imm := 0, spc := 0, wid := 2 } ∧ FieldsAt (tsSpoilt thMem) thMem plainHdr 0 1 x ∧
      accs = memAccs (issueCtx tw thMem plainHdr) (tsSpoilt thMem) .atomic x ∧ encode (.aaddI32 plainHdr x) = some word ∧
      AccessesOk (tsSpoilt thMem) tw thMem 4 true false false accs ∧
      p = planOf (atomSite (.aaddI32 plainHdr x) (issueCtx tw thMem plainHdr) x) 0 false [] ∧
      ((if p.uni then accs.take 1 else accs).find? (fun a => poisoned (tsSpoilt thMem) 0 false a.loc)).isSome = true) := by
  refine ⟨fun hd hh => ?_, ⟨_, _, _, _, rfl, ⟨⟨rfl, rfl, rfl, by decide, rfl⟩, ?_, ?_, ?_, ?_, ?_, ?_⟩, rfl, rfl, ?_, rfl, ?_⟩⟩
  · simp only [List.mem_cons, List.not_mem_nil, or_false] at hh
    rcases hh with rfl | rfl <;>
      refine ⟨_, _, _, _, rfl, ⟨⟨rfl, rfl, rfl, by decide, rfl⟩, ?_, ?_, ?_, ?_, ?_, ?_⟩, rfl, rfl, ?_, rfl, ?_, ?_, ?_, ?_⟩ <;>
      first | (unfold MemHeader PredOk; decide +kernel) | (unfold AccessesOk; decide +kernel) | decide +kernel
  all_goals first | (unfold MemHeader PredOk; decide +kernel) | (unfold AccessesOk; decide +kernel) | decide +kernel

/-- MaintenanceCompletes: the data words on the page, and the translation words at supervisor level. -/
theorem witness_Maintenance :
    (Ready (tsMem thMem) thMem plainHdr false ∧
      MaintOk thMem { d := 0, sb := 6, vo := 31, imm := 0, spc := 7, wid := 4 } ∧
      ∀ a ∈ maintAccs (issueCtx tw thMem plainHdr) (tsMem thMem) { d := 0, sb := 6, vo := 31, imm := 0, spc := 7, wid := 4 } (2 ^ 4),
        a.flt = none)
    ∧ (Ready (ts thS) thS plainHdr false ∧ thS.sup = true ∧
      ∀ x ∈ ([{ d := 0, a := 63, sel := 0, x := 0 }, { d := 0, a := 0, sel := 1, x := 0 }, { d := 0, a := 63, sel := 2, x := 0 }] : List FS),
        x.d = 0#8 ∧ x.sel.toNat < 3 ∧ x.x = 0#8 ∧ x.a.toNat < 64) := by
  refine ⟨⟨⟨⟨rfl, rfl, rfl, by decide, rfl⟩, plain_ok _ _, by decide⟩, by unfold MaintOk; decide, by decide +kernel⟩, ready_sup false, rfl,
    by decide⟩

/-- A herd whose uniform registers 5 to 8 describe a copy of four bytes, or of two rows, from the page to the tile store. -/
def thCpy (n : Word) : Herd :=
  { th with s := Sparse.write zeros th.s 5 [0x1000000000000000#64, 0x200000000#64, n, 0#64, 0#64, 0x200000004#64, 0x400000004#64] }

def cpyWord : FE := { d := 63, sa := 5, sb := 6, sf := 7, x := 0 }
def cpygWord : FE := { d := 63, sa := 5, sb := 6, sf := 10, x := 0 }

theorem ready_cpy (n : Word) : Ready (tsMem (thCpy n)) (thCpy n) plainHdr false := by
  refine ⟨⟨rfl, rfl, rfl, (by decide : th.furrows.length ≤ 8), rfl⟩, plain_ok _ _, (by decide : activeLanes th 0 plainHdr ≠ [])⟩

/-- A scoreboard entry of another copy over the same tile bytes. -/
def busyCopy : Copy :=
  { key := { tk with herd := 1 }, group := 1, ticket := 1, core := 0, req := cpyReq (thCpy 4) cpyWord, lines := [], pages := [], got := []
    ents := [{ core := 0, crew := tc, lo := 0, hi := 4, dst := true }] }

/-- CopiesStartAndAreAwaited, issue: a copy of no bytes, one that starts, rows, and one whose entries are not free. -/
theorem witness_CopiesIssue :
    (CopyOk (tsMem (thCpy 0)) (thCpy 0) (cpyReq (thCpy 0) cpyWord) false
      ∧ CopyOk (tsMem (thCpy 4)) (thCpy 4) (cpyReq (thCpy 4) cpyWord) false)
    ∧ (∀ n, Ready (tsMem (thCpy n)) (thCpy n) plainHdr false)
    ∧ CopyOk (tsMem (thCpy 4)) (thCpy 4) (cpygReq (thCpy 4) cpygWord) true
    ∧ (cpyReq (thCpy 0) cpyWord).total = 0 ∧ copyMayStart (tsMem (thCpy 4)) (thCpy 4) (cpyReq (thCpy 4) cpyWord) = true
    ∧ copyMayStart { tsMem (thCpy 4) with copies := [busyCopy] } (thCpy 4) (cpyReq (thCpy 4) cpyWord) = false := by
  refine ⟨⟨⟨?_, ?_, ?_, ?_, ?_⟩, ?_, ?_, ?_, ?_, ?_⟩, ready_cpy, ⟨?_, ?_, ?_, ?_, ?_⟩, ?_, ?_, ?_⟩ <;> decide +kernel

/-- The herd has issued one copy, which has started and not retired; S[63] asks for ticket `n`. -/
def thWait (n : Word) (l : Option Latch) : Herd := { th with copies := 1#64, latch := l, s := Sparse.set zeros th.s 63 n }
def oneCopy : Copy := { key := tk, group := 1, ticket := 1, core := 0, req := cpyReq (thCpy 4) cpyWord, ents := [], lines := [], pages := [], got := [] }

/-- CopiesStartAndAreAwaited, waits: a ticket not issued, one retired with and without a latched error, a probe. -/
theorem witness_CopyWaits :
    (∀ n l, Ready (ts (thWait n l)) (thWait n l) plainHdr false)
    ∧ (∀ x ∈ ([{ d := 62, sa := 63, sb := 0, sf := 0, x := 1 }, { d := 0, sa := 63, sb := 0, sf := 0, x := 0 }] : List FE),
        x.d.toNat % 2 = 0 ∧ x.d.toNat < 64 ∧ x.sb = 0#6 ∧ x.sf = 0#6 ∧ x.x.toNat < 2)
    ∧ (thWait 2 none).copies.toNat < ((thWait 2 none).sreg 63).toNat
    ∧ (((thWait 1 none).sreg 63).toNat ≤ (thWait 1 none).copies.toNat ∧
        ∀ y ∈ (ts (thWait 1 none)).copies, y.key = tw.key → ((thWait 1 none).sreg 63).toNat < y.ticket)
    ∧ (∃ q, (thWait 1 (some { ticket := 1, cause := 10, addr := 0 })).latch = some q ∧ q.ticket ≤ 1)
    ∧ (∃ q, (thWait 1 (some { ticket := 2, cause := 10, addr := 0 })).latch = some q ∧ 1 < q.ticket)
    ∧ ∃ y ∈ ({ ts (thWait 1 none) with copies := [oneCopy] } : State).copies, y.key = tw.key ∧
        y.ticket ≤ ((thWait 1 none).sreg 63).toNat := by
  refine ⟨fun n l => ⟨⟨rfl, rfl, rfl, (by decide : th.furrows.length ≤ 8), rfl⟩, plain_ok _ _, (by decide : activeLanes th 0 plainHdr ≠ [])⟩,
    by decide, by decide, by decide, by decide, by decide, by decide⟩

/-- FencesComplete: a release that other groups may observe, and one of a ganged herd that is alone in its crew. -/
theorem witness_Releases : OthersInScope (ts thSplit) thSplit 0 ∧ OthersInScope (ts th) th 2 ∧ ¬ OthersInScope (ts th) th 1 ∧
    (releaseActs (issueCtx tw thSplit plainHdr) (tsPosted thSplit) 0).length = 1 ∧ releaseActs (issueCtx tw th plainHdr) (tsPosted th) 1 = [] := by
  refine ⟨.inl rfl, .inr (.inl (by decide)), ?_, ?_, ?_⟩
  · rintro (h | h | ⟨-, y, hy, -, hk, -⟩)
    · exact absurd h (by decide)
    · exact absurd h (by decide)
    · rw [List.mem_singleton.mp hy] at hk
      exact hk rfl
  · decide +kernel
  · decide +kernel

/-- FencesComplete: `.eng` with a copy of the issuing group, of a split herd too. -/
theorem witness_FencesWait :
    CommandsLeft { ts th with copies := [oneCopy] } tw th ∧ CommandsLeft { ts thSplit with copies := [oneCopy] } tw thSplit ∧
      ¬ CommandsLeft { ts thSplit with copies := [{ oneCopy with group := 2 }] } tw thSplit := by
  refine ⟨.inl ⟨oneCopy, List.mem_singleton.mpr rfl, rfl, .inl (by decide)⟩,
    .inl ⟨oneCopy, List.mem_singleton.mpr rfl, rfl, .inr (by decide)⟩, ?_⟩
  rintro (⟨q, hq, -, h⟩ | ⟨q, hq, -⟩)
  · rw [List.mem_singleton.mp hq] at h
    exact absurd h (by decide)
  · exact nomatch hq

/-- A group held by its copy. -/
def copyHold : Hold := { group := 1#8, why := .copy (cpyReq (thCpy 4) cpyWord) }
def thHeldCopy : Herd := { thCpy 4 with holds := [copyHold] }

/-- CopiesStartAndAreAwaited: a held copy whose entries are free. -/
theorem witness_HeldCopy : ∃ x r, (tsMem thHeldCopy).herd? tk = some thHeldCopy ∧ thHeldCopy.heldBy [0] = some x ∧ x.why = .copy r ∧
    copyMayStart (tsMem thHeldCopy) { thHeldCopy with sup := r.sup } r = true ∧ r.total ≠ 0 ∧ thHeldCopy.furrows.length ≤ 8 ∧
    ∀ j ∈ bitsOf x.group 8, j < thHeldCopy.furrows.length := by
  refine ⟨copyHold, _, rfl, rfl, rfl, ?_, ?_, ?_, ?_⟩ <;> decide +kernel

/-- S[5] to S[7] describe a copy of four bytes, S[10] and S[11] two rows of them, and S[14] rows of no size. -/
def thCpyOf (dst src : Word) : Herd :=
  { th with s := Sparse.write zeros th.s 5 [dst, src, 4#64, 0#64, 0#64, 0x200000004#64, 0x400000004#64] }

/-- What CopiesTrap asks of a copy; the answers are its alignment, its shape and the faults of its ranges. -/
def CopyTrapAt (g : Bool) (sf : BitVec 6) (dst src : Word) (shape : Bool) (fd fs : Option (Nat × Nat)) : Prop :=
  ∃ h r, h = thCpyOf dst src ∧ r = (if g then cpygReq h { cpygWord with sf := sf } else cpyReq h { cpyWord with sf := sf }) ∧
    Ready (tsMem h) h plainHdr false ∧ TrapFree h (furMask (h.group tw.f)) ∧ (g = true → sf.toNat % 2 = 0) ∧ r.dst = dst ∧ r.src = src ∧
    r.shapeOk g = shape ∧ rangeFault (tsMem h) h r.dst (rowSpan r.rows r.len r.dpitch) true = fd ∧
    rangeFault (tsMem h) h r.src (rowSpan r.rows r.len r.spitch) false = fs

/-- CopiesStartAndAreAwaited, traps: each address misaligned, rows of no size, a fault of the destination alone, of the source alone, of
both in different classes and in one. -/
theorem witness_CopyTraps :
    CopyTrapAt false 7 0x1000000000000002 0x200000000 true none none
    ∧ CopyTrapAt true 10 0x1000000000000000 0x200000001 true none none
    ∧ CopyTrapAt true 14 0x1000000000000000 0x200000000 false none none
    ∧ CopyTrapAt false 7 0x4000000000000000 0x200000000 true (some (2, 3)) none
    ∧ CopyTrapAt true 10 0x1000000000000000 0x4000000000000000 true none (some (2, 6))
    ∧ CopyTrapAt false 7 0x100000000000FFFE 0x100000000000FFFC true (some (3, 0)) none
    ∧ CopyTrapAt false 7 0x1000000000010000 0x7000000000000000 true (some (3, 0)) (some (2, 1))
    ∧ CopyTrapAt true 10 0x4000000000000000 0x100000000000FFFC true (some (2, 3)) (some (3, 0))
    ∧ CopyTrapAt false 7 0x4000000000000000 0x3000000000000000 true (some (2, 3)) (some (2, 7)) := by
  refine ⟨?_, ?_, ?_, ?_, ?_, ?_, ?_, ?_, ?_⟩ <;>
    refine ⟨_, _, rfl, rfl, ⟨⟨rfl, rfl, rfl, (by decide : th.furrows.length ≤ 8), rfl⟩, plain_ok _ _, (by decide : activeLanes th 0 plainHdr ≠ [])⟩,
      free_ok (by decide : trapWaits th (furMask (th.group 0)) = false) (by decide : pendBefore th (furMask (th.group 0)) = false), ?_⟩ <;>
    decide +kernel

/-- CopiesStartAndAreAwaited, the fault of a range: a byte beyond each bound and the last within. -/
theorem witness_CopyRanges :
    (∀ p ∈ [(0x7000000000000000#64, 4, true, some (2, 1)), (0x1000000000000#64, 4, true, some (2, 2)), (0x1000000000200000#64, 4, true, some (2, 2)),
        (0xFFFFFFFFFFFC#64, 8, false, some (2, 2)), (0x6000FFFFFFFFFFFC#64, 8, true, some (2, 2)), (0x6000FFFFFFFFFFFC#64, 4, true, none),
        (0x3000000000000000#64, 4, false, some (2, 7)), (0x4000000000000000#64, 4, true, some (2, 3)),
        (0x4000000000000000#64, 4, false, some (2, 6)), (0x2000000010000000#64, 4, true, some (2, 5)),
        (0x200000000000FFFC#64, 8, true, some (3, 0)), (0x200000000000FFFC#64, 4, true, none),
        (0x100000000000FFFC#64, 8, false, some (3, 0)), (0x100000000000FFFC#64, 4, false, none)],
      rangeFault (tsMem th) th p.1 p.2.1 p.2.2.1 = p.2.2.2)
    ∧ (∃ s, s = { tsMem th with slots := [{ core := 0, idx := 0, board := none, crew := some tc, track := 0, layer := 0, tile := 0, payload := [],
                                             crcBad := false, poison := false, errs := [], freeing := false }] } ∧
        rangeFault s th 0x400000000000FFFC 8 false = some (2, 6) ∧ rangeFault s th 0x400000000000FFFC 4 false = none)
    ∧ (∃ s c, s = { tsMem th with crews := [tcrew, c] } ∧ c = { tcrew with key := { tc with crew := 1 }, core := 16 } ∧
        acreOf c.core ≠ acreOf th.core ∧ rangeFault s th 0x2000000010000000 4 true = some (2, 5)) := by
  refine ⟨by decide +kernel, ⟨_, rfl, ?_⟩, _, _, rfl, rfl, ?_⟩ <;> decide +kernel

/-- The module with a started copy of eight bytes from the page to the tile store, or to host memory. -/
def retireReq (dst : Word) (rows : Nat) : CopyReq :=
  { d := 63, dst := dst, src := 0x200000000, rows := rows, len := 8, dpitch := 8, spitch := 8, sup := false }
def retireCopy (dst : Word) (rows : Nat) : Copy :=
  { key := tk, group := 1, ticket := 1, core := 0, req := retireReq dst rows, ents := [], lines := [], pages := [], got := [] }
def tsRetire (dst : Word) (rows : Nat) (h : Herd) : State := { tsMem h with copies := [retireCopy dst rows] }

/-- What CopiesRetire asks of the state and the copy; the error is the one that it finds. -/
def RetiresWith (s : State) (cp : Copy) (h : Herd) (e : Option (Nat × Word)) : Prop :=
  ∃ named xs, s.copies.find? (fun x => decide (x.key = tk) && decide (x.ticket = 1)) = some cp ∧ s.herd? tk = some h ∧
    named = namedOverlap { h with core := cp.core, sup := cp.req.sup } cp.req ∧
    xs = (if named then [] else cp.req.chunks.map (chunkRun s { h with core := cp.core, sup := cp.req.sup } cp
      { bytes := [], failed := [] })) ∧
    e = (if named then some (16, cp.req.dst) else firstError xs) ∧ behindOwner s cp xs = false

/-- CopiesRetire: no error, an error with a free latch and with a latch held by a later copy, and a named overlap. -/
theorem witness_CopiesRetire :
    RetiresWith (tsRetire 0x1000000000000000 2 th) (retireCopy 0x1000000000000000 2) th none
    ∧ RetiresWith (tsRetire 0x1000000000010000 1 th) (retireCopy 0x1000000000010000 1) th (some (0, 0x1000000000010000#64))
    ∧ (∃ h l, h = { th with latch := some { ticket := 2, cause := 10, addr := 0 }, stored := true, resident := false } ∧
        h.latch = some l ∧ 1 < l.ticket ∧
        RetiresWith (tsRetire 0x1000000000010000 1 h) (retireCopy 0x1000000000010000 1) h (some (0, 0x1000000000010000#64)))
    ∧ RetiresWith (tsRetire 0x200000000 1 th) (retireCopy 0x200000000 1) th (some (16, 0x200000000#64)) := by
  refine ⟨⟨_, _, rfl, rfl, rfl, rfl, ?_, ?_⟩, ⟨_, _, rfl, rfl, rfl, rfl, ?_, ?_⟩,
    ⟨_, _, rfl, rfl, ?_, _, _, rfl, rfl, rfl, rfl, ?_, ?_⟩, ⟨_, _, rfl, rfl, rfl, rfl, ?_, ?_⟩⟩ <;> decide +kernel

/-- R116, R372: a global destination lies where its page lay at the start; a PREV of 0 is the block at tape address 0 but in the
stream's first block. -/
theorem test_kept_places :
    (dstLane (tsMem th) th [{ page := 0x20000, base := 0x30000000, flt := none }] 0x200000040#64).loc = .mem 0x30000040 ∧
    (dropRec { Stream.fresh with cur := 0x3000000000000100, used := 4, count := 1, prev := prevAddr (List.replicate 6 0#8) } 4).cur = 0#64 ∧
    (dropRec { Stream.fresh with cur := 0x3000000000000100, used := 4, count := 1, below := 65536, prev := prevAddr (List.replicate 6 0#8) } 4).cur
      = 0x3000000000000000#64 := by decide +kernel

/-- A lane's access to nothing. -/
def badAcc (lane : Nat) : LaneAcc := { lane := lane, addr := 0, flt := none, loc := .remote 0, fmt := 0, drew := false, fill := [] }

/-- A window of 256 bytes at the start of the tile store, its sector 1 filled. -/
def tswin : Window := { id := 0, tile := 0, va := 0x200000000, len := 256, pages := [0x20000000], secs := [(1, true)] }
def thMap : Herd := { th with s := Sparse.write zeros th.s 5 [0x1000000000000100#64, 0x200000000#64, 0xFF00#64, 0x7#64] }
def tsWin : State := { tsMem thMap with crews := [{ tcrew with windows := [tswin] }] }

/-- WindowsMapAndUnmap: a map of the rest of the tile store, an unmap, an id without a window, a recall. -/
theorem witness_Windows :
    Ready tsWin thMap plainHdr false
    ∧ (∃ as, smapFault { tcrew with windows := [tswin] } (thMap.sreg 5) (thMap.sreg 6) (thMap.sreg 7).toNat = none ∧
        mapWaits tsWin tc (fld (thMap.sreg 5) 20 0) (thMap.sreg 7).toNat = false ∧
        as = pageAccs tsWin thMap .map (thMap.sreg 6) (thMap.sreg 7).toNat ∧ (as.all (fun a => a.flt.isNone)) = true)
    ∧ tsWin.crew? tw.key.crew = some { tcrew with windows := [tswin] }
    ∧ ([tswin].find? (fun v => decide (v.id = (thMap.sreg 63).toNat)) = some tswin ∧ tswin.len % 64 = 0 ∧
        mapWaits tsWin tc tswin.tile tswin.len = false)
    ∧ (∀ v ∈ [tswin], v.id ≠ (thMap.sreg 8).toNat) := by
  refine ⟨⟨⟨rfl, rfl, rfl, by decide, rfl⟩, plain_ok _ _, by decide⟩, ⟨_, ?_, ?_, rfl, ?_⟩, rfl, ?_, ?_⟩ <;> decide +kernel

/-- WindowsMapAndUnmap, what refuses an `smap`, and the copies' overlap with a window: each bound at its first value beyond and the last within. -/
theorem witness_WindowsRefused :
    (∀ p ∈ [(0x7000000000000000#64, 0x200000000#64, 256, some (2, 1, 0x7000000000000000#64)),
        (0x0000000000000100#64, 0x200000000#64, 256, some (2, 2, 0x0000000000000100#64)),
        (0x1000000000200000#64, 0x200000000#64, 256, some (2, 2, 0x1000000000200000#64)),
        (0x1000000000000100#64, 0x7000000200000000#64, 256, some (2, 1, 0x7000000200000000#64)),
        (0x1000000000000100#64, 0x1000000000000000#64, 256, some (2, 2, 0x1000000000000000#64)),
        (0x1000000000000100#64, 0x1000000000000#64, 256, some (2, 2, 0x1000000000000#64)),
        (0x1000000000000100#64, 0xFFFFFFFFFF00#64, 512, some (2, 2, 0xFFFFFFFFFF00#64)),
        (0x1000000000000101#64, 0x200000000#64, 256, some (2, 5, 0x1000000000000101#64)),
        (0x1000000000000100#64, 0x200000001#64, 256, some (2, 5, 0x1000000000000100#64)),
        (0x1000000000000100#64, 0x200000000#64, 257, some (2, 5, 0x1000000000000100#64)),
        (0x1000000000000100#64, 0x200000000#64, 0x100100, some (2, 5, 0x1000000000000100#64)),
        (0x1000000000000000#64, 0x200000000#64, 256, some (2, 5, 0x1000000000000000#64)),
        (0x100000000000FF00#64, 0x200000000#64, 512, some (3, 0, 0x100000000000FF00#64)),
        (0x100000000000FF00#64, 0xFFFFFFFFFF00#64, 256, none)],
      smapFault { tcrew with windows := [tswin] } p.1 p.2.1 p.2.2.1 = p.2.2.2)
    ∧ smapFault { tcrew with windows := List.replicate 8 { tswin with len := 0 } } 0x1000000000000100 0x200000000 256
      = some (2, 5, 0x1000000000000100#64)
    ∧ rangeFault tsWin thMap 0x10000000000000FC 4 true = some (2, 5) ∧ rangeFault tsWin thMap 0x1000000000000100 4 true = none
    ∧ TrapFree thMap (furMask (thMap.group tw.f)) := by
  decide +kernel

/-- WindowsMapAndUnmap, faults of a page: a second page without a table, and a page of code. -/
theorem witness_WindowsFault :
    (∃ h a c, h = { th with s := Sparse.write zeros th.s 5 [0x1000000000000000#64, 0x20000FF00#64, 0x200#64] } ∧
      Ready (tsMem h) h plainHdr false ∧ smapFault tcrew (h.sreg 5) (h.sreg 6) (h.sreg 7).toNat = none ∧
      mapWaits (tsMem h) tc (fld (h.sreg 5) 20 0) (h.sreg 7).toNat = false ∧
      ∃ b, pageAccs (tsMem h) h .map (h.sreg 6) (h.sreg 7).toNat = [b] ++ a :: [] ∧ b.flt = none ∧ a.flt = some (4, c) ∧ a.addr = 0x200010000)
    ∧ (∃ h a, h = { th with s := Sparse.write zeros th.s 5 [0x1000000000000000#64, 0x100000000#64, 0x100#64] } ∧
      Ready (tsMem h) h plainHdr false ∧ smapFault tcrew (h.sreg 5) (h.sreg 6) (h.sreg 7).toNat = none ∧
      mapWaits (tsMem h) tc (fld (h.sreg 5) 20 0) (h.sreg 7).toNat = false ∧ TrapFree h (furMask (h.group tw.f)) ∧
      pageAccs (tsMem h) h .map (h.sreg 6) (h.sreg 7).toNat = [] ++ a :: [] ∧ a.flt = some (2, 4)) := by
  refine ⟨⟨_, (pageAccs (tsMem thMap) th .map 0x20000FF00 0x200).getD 1 (badAcc 0), 1, rfl, ⟨⟨rfl, rfl, rfl, by decide, rfl⟩, plain_ok _ _, by decide⟩, ?_, ?_,
      (pageAccs (tsMem thMap) th .map 0x20000FF00 0x200).getD 0 (badAcc 0), ?_, ?_, ?_, ?_⟩,
    ⟨_, (pageAccs (tsMem thMap) th .map 0x100000000 0x100).getD 0 (badAcc 0), rfl, ⟨⟨rfl, rfl, rfl, by decide, rfl⟩, plain_ok _ _, by decide⟩, ?_, ?_, ?_, ?_, ?_⟩⟩ <;>
    decide +kernel

/-! ### Witnesses: the matrix engine -/

/-- S[6] and S[7] describe lines of 256 bytes at the start of the tile store, S[8] is a block of two FP8 formats. -/
def thMx : Herd := { th with s := Sparse.write zeros th.s 6 [0x1000000000000000#64, 0x100#64, 0x0000000600000006#64] }

/-- What a matrix word asks, beyond its fields, to enter the queue. -/
def MxAt (ok : Prop) (ents : List ScoreEnt) (faults : List (Option (Nat × Nat × Word))) : Prop :=
  Ready (tsMem thMx) thMx plainHdr false ∧ ok ∧ fullMask (issueCtx tw thMx plainHdr) = true ∧ firstFault faults = none ∧
    (sliceQueue (tsMem thMx) thMx.core thMx.slice).length < 4 ∧ scoreFree (tsMem thMx) ents = true ∧ QueueSound (tsMem thMx) thMx

theorem mxAt {ok : Prop} {ents : List ScoreEnt} {faults : List (Option (Nat × Nat × Word))} (a : ok) (b : firstFault faults = none)
    (c : scoreFree (tsMem thMx) ents = true) : MxAt ok ents faults :=
  ⟨⟨⟨rfl, rfl, rfl, by decide, rfl⟩, plain_ok _ _, by decide⟩, a, by decide, b, by decide +kernel, c,
    ⟨fun q hq => (nomatch hq), fun q hq => (nomatch hq)⟩⟩

def mxc : Ctx := issueCtx tw thMx plainHdr
def mmaWord : FE := { d := 1, sa := 6, sb := 6, sf := 8, x := 7 }
def mzeroWord : FE := { d := 1, sa := 0, sb := 0, sf := 0, x := 0 }
def mldWord : FE := { d := 1, sa := 6, sb := 0, sf := 0, x := 0 }
def mstWord3 : FE := { d := 1, sa := 6, sb := 0, sf := 8, x := 0x73 }
def mabsWord : FE := { d := 31, sa := 0, sb := 0, sf := 0, x := 0x39 }
def mmovWord : FE := { d := 1, sa := 0, sb := 0, sf := 0, x := 0x9 }
def mrdWord : FE := { d := 31, sa := 0, sb := 0, sf := 0, x := 0xFF9 }

/-- MatrixWordsQueue: each word at the limits of its fields. -/
theorem witness_MatrixWords :
    MxAt (∀ u ∈ mmaUses thMx mmaWord, u.causes thMx = []) (mmaCmd mxc (tsMem thMx) mmaWord).ents (mmaFaults mxc (tsMem thMx) mmaWord)
    ∧ MxAt (mzeroWord.d.toNat < thMx.nacc ∧ mzeroWord.sa = 0#6 ∧ mzeroWord.sb = 0#6 ∧ mzeroWord.sf = 0#6 ∧ mzeroWord.x = 0#14)
        (mxCmd mxc (tsMem thMx) 0x181 1 0 0).ents []
    ∧ MxAt (mldWord.d.toNat < thMx.nacc ∧ mldWord.sa.toNat % 2 = 0 ∧ mldWord.sb = 0#6 ∧ mldWord.sf = 0#6 ∧ mldWord.x = 0#14 ∧
          descBad thMx (thMx.sreg 6) (thMx.sreg 7) 64 1 false = false)
        (opEnt mxc (thMx.sreg 6) (thMx.sreg 7) 64 1 false)
        [slotFault (tsMem thMx) mxc (thMx.sreg 6) (thMx.sreg 7) 64 1, boundFault (tsMem thMx) mxc (thMx.sreg 6) (thMx.sreg 7) 64 1]
    ∧ MxAt (mstWord3.d.toNat < thMx.nacc ∧ mstWord3.sa.toNat % 2 = 0 ∧ mstWord3.sb = 0#6 ∧ xfld mstWord3 13 7 = 0 ∧
          (mxClass (xfld mstWord3 3 0)).isSome = true ∧
          descBad thMx (thMx.sreg 6) (thMx.sreg 7) (lineLW (xfld mstWord3 3 0)) 1 false = false)
        (opEnt mxc (thMx.sreg 6) (thMx.sreg 7) (lineLW (xfld mstWord3 3 0)) 1 true)
        [if opKind (thMx.sreg 6) = 4 then some (2, 3, thMx.sreg 6) else none, poisonFault (tsMem thMx) mxc 1 true,
          boundFault (tsMem thMx) mxc (thMx.sreg 6) (thMx.sreg 7) (lineLW (xfld mstWord3 3 0)) 1]
    ∧ MxAt (mabsWord.d.toNat < thMx.nregs ∧ mxTile mabsWord.x < thMx.nacc ∧ mabsWord.sa = 0#6 ∧ mabsWord.sb = 0#6 ∧
          mabsWord.sf = 0#6 ∧ xfld mabsWord 13 6 = 0 ∧ (mxG mabsWord.x + 1) * thMx.width ≤ 64)
        [] [poisonFault (tsMem thMx) mxc (mxTile mabsWord.x) true]
    ∧ MxAt (mmovWord.d.toNat < thMx.nacc ∧ mxTile mmovWord.x < thMx.nacc ∧ mmovWord.sa = 0#6 ∧ mmovWord.sb = 0#6 ∧
          mmovWord.sf = 0#6 ∧ xfld mmovWord 13 4 = 0)
        [] [poisonFault (tsMem thMx) mxc (mxTile mmovWord.x) true]
    ∧ MxAt (mrdWord.d.toNat < thMx.nregs ∧ mxTile mrdWord.x < thMx.nacc ∧ mrdWord.sa = 0#6 ∧ mrdWord.sb = 0#6 ∧ mrdWord.sf = 0#6 ∧
          xfld mrdWord 13 12 = 0 ∧ (mxG mrdWord.x + 1) * thMx.width ≤ 64)
        [] [poisonFault (tsMem thMx) mxc (mxTile mrdWord.x) true] := by
  refine ⟨mxAt ?_ ?_ ?_, mxAt ?_ ?_ ?_, mxAt ?_ ?_ ?_, mxAt ?_ ?_ ?_, mxAt ?_ ?_ ?_, mxAt ?_ ?_ ?_, mxAt ?_ ?_ ?_⟩ <;> decide +kernel

/-- MatrixWordsQueue: a lane switched off, and operands in vector registers and in a landing slot. -/
theorem witness_MatrixMask :
    (∃ hd, hd = { plainHdr with pe := true, pr := 5 } ∧ Ready (ts (thFlow 0)) (thFlow 0) hd false ∧
      fullMask (issueCtx tw (thFlow 0) hd) = false ∧ TrapFree (thFlow 0) (furMask ((thFlow 0).group tw.f)))
    ∧ (∃ h : Herd, h = { herdOf 64 with nregs := 64, s := Sparse.write zeros th.s 6 [0xF000000000000000#64, 0#64, 0x0000000600000006#64,
          0#64, 0x4000000000000000#64, 0x100#64] } ∧
        ∀ u ∈ mmaUses h { mmaWord with sb := 10, x := 0 }, u.causes h = []) := by
  refine ⟨⟨_, rfl, ⟨⟨rfl, rfl, rfl, by decide, rfl⟩, ⟨⟨by decide, by decide⟩, rfl, rfl, by decide⟩, ?_⟩, ?_, ?_⟩, ⟨_, rfl, ?_⟩⟩ <;> decide +kernel

/-- A command of the herd in the queue of core 0, slice 0. -/
def tcmd (op phase cost : Nat) (x : BitVec 14) : MCmd :=
  { mxCmd mxc (ts th) op 1 x 0 with phase := phase, cost := cost }

/-- A command that has obtained its result. -/
def rcmd (op : Nat) : MCmd := { tcmd op 2 0 0 with result := List.replicate 4096 0x3F800000#32 }

/-- The module with a command in the queue, which its group waits for or does not. -/
def tsCmd (h : Herd) (m : MCmd) (q : List (Nat × Nat)) : State := { tsMem h with cmds := [m], leaveQ := q }
def mxHeld : Hold := { group := 1#8, why := .matrix 0 }
def thMxHeld : Herd := { th with holds := [mxHeld] }
def thAcc : Herd := { th with acc := [[], []] }
def thMxPoisoned : Herd := { thMxHeld with accPoison := 2#8 }

/-- Element (0, 0) of tile 1 has an uncorrectable error. -/
def thMxErr : Herd := { thMxHeld with accErr := [4096] }

theorem headCmd (h : Herd) (m : MCmd) (q : List (Nat × Nat)) (a : m.core = 0) (b : m.slice = 0) (c : m.key = tk) (d : h.key = tk) :
    HeadCmd (tsCmd h m q) 0 0 m h := by
  refine ⟨by simp [sliceQueue, tsCmd, a, b], ?_, by simp [tsCmd]⟩
  rw [c]
  have : (tsCmd h m q).herds = [h] := rfl
  simp [State.herd?, this, d]

/-- MatrixCommandsRun, leave: a request that fits the pool and one that does not. -/
theorem witness_LeaveGrants :
    (∀ n ∈ [30000, 30001], (sliceQueue (tsCmd th (tcmd 0x180 0 n 0) [(0, 0)]) 0 0).head? = some (tcmd 0x180 0 n 0) ∧
      (tcmd 0x180 0 n 0).phase = 0 ∧
      (tsCmd th (tcmd 0x180 0 n 0) [(0, 0)]).leaveQ.find? (fun p => decide (dieOf p.1 = dieOf 0)) = some (0, 0))
    ∧ leaveOut (tsCmd th (tcmd 0x180 0 30000 0) [(0, 0)]) (dieOf 0) + 30000 ≤ leavePool (tsCmd th (tcmd 0x180 0 30000 0) [(0, 0)]) (dieOf 0)
    ∧ leavePool (tsCmd th (tcmd 0x180 0 30001 0) [(0, 0)]) (dieOf 0) < leaveOut (tsCmd th (tcmd 0x180 0 30001 0) [(0, 0)]) (dieOf 0) + 30001 := by
  decide +kernel

/-- MatrixCommandsRun, the read phase and the retirements, each with the kind of command that it is about. -/
theorem witness_MatrixCommands :
    (∀ op ∈ [0x181, 0x182], HeadCmd (tsCmd th (tcmd op 1 0 0) []) 0 0 (tcmd op 1 0 0) th ∧ (tcmd op 1 0 0).phase = 1 ∧ (tcmd op 1 0 0).core = 0 ∧
        locsOwned (tsCmd th (tcmd op 1 0 0) []) (readLocs (tsCmd th (tcmd op 1 0 0) []) (tcmd op 1 0 0)) = false)
    ∧ (HeadCmd (tsCmd thMxPoisoned (tcmd 0x185 1 0 1) []) 0 0 (tcmd 0x185 1 0 1) thMxPoisoned ∧ readsPoison thMxPoisoned (tcmd 0x185 1 0 1) = true ∧
        readsPoison thMxErr (tcmd 0x185 1 0 1) = true)
    ∧ (∀ op ∈ [0x180, 0x181, 0x182, 0x185], HeadCmd (tsCmd thAcc (rcmd op) []) 0 0 (rcmd op) thAcc ∧ (rcmd op).phase = 2 ∧
        mxHold thAcc (rcmd op) = none ∧ (rcmd op).op ∈ [0x180, 0x181, 0x182, 0x185] ∧ (rcmd op).d < thAcc.acc.length ∧
        (rcmd op).d < 8 ∧ (rcmd op).result.length = 4096)
    ∧ (∀ op ∈ [0x184, 0x186], HeadCmd (tsCmd thMxHeld (tcmd op 2 0 0x39) []) 0 0 (tcmd op 2 0 0x39) thMxHeld ∧
        (tcmd op 2 0 0x39).phase = 2 ∧ mxHold thMxHeld (tcmd op 2 0 0x39) = some mxHeld ∧ (tcmd op 2 0 0x39).op ∈ [0x184, 0x186] ∧
        thMxHeld.accPoison.getLsbD (mxTile (tcmd op 2 0 0x39).x) = false ∧ thMxHeld.width ≤ 64 ∧
        ∀ j ∈ bitsOf mxHeld.group 8, j < thMxHeld.furrows.length)
    ∧ (∀ op ∈ [0x184, 0x186], HeadCmd (tsCmd thMxErr (tcmd op 2 0 1) []) 0 0 (tcmd op 2 0 1) thMxErr ∧ mxHold thMxErr (tcmd op 2 0 1) = some mxHeld ∧
        thMxErr.accPoison.getLsbD (mxTile (tcmd op 2 0 1).x) = false ∧ (op = 0x184 → ∃ k ∈ thMxErr.accErr, readsAcc thMxErr (tcmd op 2 0 1) k = true))
    ∧ (∀ op ∈ [0x183, 0x184, 0x186], HeadCmd (tsCmd thMxPoisoned (tcmd op 2 0 1) []) 0 0 (tcmd op 2 0 1) thMxPoisoned ∧
        (tcmd op 2 0 1).phase = 2 ∧ mxHold thMxPoisoned (tcmd op 2 0 1) = some mxHeld ∧ (tcmd op 2 0 1).op ∈ [0x183, 0x184, 0x186] ∧
        thMxPoisoned.accPoison.getLsbD (mxSource (tcmd op 2 0 1)) = true ∧
        locsOwned (tsCmd thMxPoisoned (tcmd op 2 0 1) []) (mstLocs (tsCmd thMxPoisoned (tcmd op 2 0 1) []) (tcmd op 2 0 1)) = false ∧
        thMxPoisoned.handler = none ∧ TrapFree (letGo thMxPoisoned mxHeld) mxHeld.group) := by
  refine ⟨fun op ho => ⟨headCmd _ _ _ rfl rfl rfl rfl, rfl, rfl, ?_⟩, ⟨headCmd _ _ _ rfl rfl rfl rfl, by decide, by decide⟩,
    fun op ho => ⟨headCmd _ _ _ rfl rfl rfl rfl, rfl, rfl, ho, (by decide : 1 < thAcc.acc.length), (by decide : 1 < 8), List.length_replicate⟩,
    fun op ho => ⟨headCmd _ _ _ rfl rfl rfl rfl, rfl, rfl, ho, (by decide : thMxHeld.accPoison.getLsbD (mxTile 0x39) = false), by decide, by decide⟩,
    fun op ho => ⟨headCmd _ _ _ rfl rfl rfl rfl, rfl, (by decide : thMxErr.accPoison.getLsbD (mxTile 1) = false),
      fun e => ⟨4096, List.mem_singleton.mpr rfl, by subst e; decide⟩⟩,
    fun op ho => ⟨headCmd _ _ _ rfl rfl rfl rfl, rfl, rfl, ho, ?_, ?_, rfl, by decide⟩⟩
  · simp only [List.mem_cons, List.not_mem_nil, or_false] at ho
    rcases ho with rfl | rfl <;> decide +kernel
  all_goals
    simp only [List.mem_cons, List.not_mem_nil, or_false] at ho
    rcases ho with rfl | rfl | rfl <;> decide +kernel

/-- MatrixCommandsRun, the retirement of an `mst`: what it asks, and whether its counts cross a limit. -/
def MstAt (h : Herd) (x : BitVec 14) (ov : Bool) : Prop :=
  ∃ m g, m = tcmd 0x183 2 0 x ∧ HeadCmd (tsCmd h m []) 0 0 m h ∧ m.phase = 2 ∧ mxHold h m = some mxHeld ∧ m.op = 0x183 ∧
    g = accRead (tsCmd h m []) h m ∧ h.accPoison.getLsbD 1 = false ∧ locsOwned (tsCmd h m []) (mstLocs (tsCmd h m []) m) = false ∧
    (∀ j ∈ bitsOf mxHeld.group 8, j < h.furrows.length) ∧ crosses g (mstCount g m) = ov ∧ h.handler = none ∧
    TrapFree (letGo h mxHeld) mxHeld.group

/-- A tile whose element (0, 0) an FP8 store saturates, with a limit that the first saturation crosses. -/
def thMxCross : Herd := { thMxHeld with acc := [[], [(0, 0x7F7FFFFF#32)]], cvlim := 0x100000000 }

/-- MatrixCommandsRun: an `mst` whose counts stay below every limit, one whose counts cross one, and one that meets an error. -/
theorem witness_MatrixStore : MstAt thMxHeld 3 false ∧ MstAt thMxCross 0x46 true ∧ MstAt thMxErr 3 false := by
  refine ⟨⟨_, _, rfl, headCmd _ _ _ rfl rfl rfl rfl, rfl, rfl, rfl, rfl, by decide, ?_, by decide, ?_, rfl, by decide⟩,
    ⟨_, _, rfl, headCmd _ _ _ rfl rfl rfl rfl, rfl, rfl, rfl, rfl, by decide, ?_, by decide, ?_, rfl, by decide⟩,
    ⟨_, _, rfl, headCmd _ _ _ rfl rfl rfl rfl, rfl, rfl, rfl, rfl, by decide, ?_, by decide, ?_, rfl, by decide⟩⟩
  · decide +kernel
  · simp [crosses, accRead, thMxHeld, th, herdOf, Herd.fresh]
  · decide +kernel
  · decide +kernel
  · decide +kernel
  · rfl

/-! ### Witnesses: the ring -/

/-- A timetable with one layer of two tiles on track 0, which partition 0 may board. -/
def tent : TEntry := { addr := 0x20000000, track := 0, die := 0, layer := 5, first := 0, count := 2 }
def ttab : Timetable := { gen := 1, grants := List.replicate 16 1#16, ents := [tent] }

/-- S[5] asks for quota 16 of that layer, S[6] for every tile that there is; S[63] names landing slot 15. -/
def thRing (b : Option Boarding) : Herd :=
  { th with s := Sparse.set zeros (Sparse.write zeros th.s 5 [0x00F0000500000000#64, 0xFFFFFF#64]) 63 0x40000000000F0000#64, boarding := b }
def tsRing (h : Herd) (r : Ring) (sl : List Slot) : State := { ts h with ring := r, slots := sl }
def ringOn : Ring := { Ring.reset with installed := some ttab, inLap := true }

theorem ready_ring (b : Option Boarding) (r : Ring) (sl : List Slot) : Ready (tsRing (thRing b) r sl) (thRing b) plainHdr false :=
  ⟨⟨rfl, rfl, rfl, (by decide : th.furrows.length ≤ 8), rfl⟩, plain_ok _ _, (by decide : activeLanes th 0 plainHdr ≠ [])⟩

/-- BoardCompletes: no timetable; an open window; a closed one, with and without `.try`. -/
theorem witness_Board :
    (∀ r, Ready (tsRing (thRing none) r []) (thRing none) plainHdr false)
    ∧ (∀ x ∈ ([{ d := 63, sa := 5, sb := 6, sf := 0, x := 0 }, { d := 0, sa := 5, sb := 6, sf := 0, x := 1 }] : List FE),
        x.d.toNat < 64 ∧ x.sf = 0#6 ∧ x.x.toNat < 2)
    ∧ boardStatus (tsRing (thRing none) Ring.reset []) (thRing none) ((thRing none).sreg 5) ((thRing none).sreg 6) ≠ 0
    ∧ (∀ r ∈ [ringOn, { ringOn with closed := [(0, 0, 5)] }],
        boardStatus (tsRing (thRing none) r []) (thRing none) ((thRing none).sreg 5) ((thRing none).sreg 6) = 0)
    ∧ windowClosed ringOn (dieOf (thRing none).core) (ldTrack ((thRing none).sreg 5)) (ldLayer ((thRing none).sreg 5)) = false
    ∧ windowClosed { ringOn with closed := [(0, 0, 5)] } (dieOf (thRing none).core) (ldTrack ((thRing none).sreg 5))
        (ldLayer ((thRing none).sreg 5)) = true := by
  refine ⟨fun r => ready_ring none r [], ?_, ?_, ?_, ?_, ?_⟩ <;> decide +kernel

/-- A boarding of both tiles with what has landed, and a slot of the issuing core. -/
def tboard (st : BoardSt) (landed : List Nat) : Boarding :=
  { st := st, quota := 16, track := 0, layer := 5, first := 0, count := 2, lap := 1, landed := landed, taken := 0, gone := 0 }
def tslot (crew : Option CrewKey) (crc poison : Bool) : Slot :=
  { core := 0, idx := 15, board := some tk, crew := crew, track := 0, layer := 5, tile := 1, payload := [], crcBad := crc
    poison := poison, errs := [], freeing := false }

/-- RtileCompletes: no boarding; a sound tile in the last slot; faulty ones; a cut boarding; a boarding with nothing landed. -/
theorem witness_Rtile :
    (∀ b sl, Ready (tsRing (thRing b) ringOn sl) (thRing b) plainHdr false)
    ∧ (∀ x ∈ ([{ d := 62, sa := 0, sb := 0, sf := 0, x := 0 }, { d := 0, sa := 0, sb := 0, sf := 0, x := 1 }] : List FE),
        x.d.toNat % 2 = 0 ∧ x.d.toNat < 64 ∧ x.sa = 0#6 ∧ x.sb = 0#6 ∧ x.sf = 0#6 ∧ x.x.toNat < 2)
    ∧ (thRing none).boarding = none
    ∧ (∃ b i r y, (thRing (some (tboard .boarded [15, 3]))).boarding = some b ∧ b.landed = i :: r ∧ i ∉ r ∧
        landedSlot (tsRing (thRing (some b)) ringOn [tslot none false false]) tk 0 i = some y ∧ y.crcBad = false ∧ y.poison = false ∧
        (boardingAfter b (b.taken + 1) b.gone r = none → NoHold (tsRing (thRing (some b)) ringOn [tslot none false false]) tk))
    ∧ (∀ q ∈ [(true, false), (false, true)], ∃ y,
        landedSlot (tsRing (thRing (some (tboard (.cut 3) [15]))) ringOn [tslot none q.1 q.2]) tk 0 15 = some y ∧
          (y.crcBad = true ∨ y.poison = true) ∧ TrapFree (thRing (some (tboard (.cut 3) [15]))) (furMask ((thRing none).group tw.f)))
    ∧ (tboard (.cut 3) []).landed = [] ∧ (tboard (.cut 3) []).st = .cut 3 ∧ ∀ c, (tboard .registered []).st ≠ .cut c := by
  refine ⟨fun b sl => ready_ring b ringOn sl, by decide, rfl, ⟨_, 15, [3], tslot none false false, rfl, rfl, by decide, rfl, rfl, rfl,
      fun _ u hu => nomatch hu⟩, fun q hq => ⟨tslot none q.1 q.2, rfl, ?_, (by decide : TrapFree th 1#8)⟩, rfl, rfl, fun c => ?_⟩
  · simp only [List.mem_cons, List.not_mem_nil, or_false] at hq
    rcases hq with rfl | rfl <;> simp [tslot]
  · simp [tboard]

/-- SlotsAreGivenUp: a slot that the crew holds, one that it does not; a herd without a boarding and one with. -/
theorem witness_SlotsGivenUp :
    (∀ b sl, Ready (tsRing (thRing b) ringOn sl) (thRing b) plainHdr false)
    ∧ (∀ x ∈ ([{ d := 63, sa := 63, sb := 0, sf := 0, x := 0 }, { d := 63, sa := 0, sb := 0, sf := 0, x := 0 }] : List FE),
        x.d.toNat < 64 ∧ x.sb = 0#6 ∧ x.sf = 0#6 ∧ x.x = 0#14)
    ∧ (∃ y, heldSlot (tsRing (thRing none) ringOn [tslot (some tc) false false]) 0 (fld ((thRing none).sreg 63) 19 16) tc = some y ∧
        fld ((thRing none).sreg 63) 63 60 = 4 ∧ fld ((thRing none).sreg 63) 59 20 = 0 ∧ fld ((thRing none).sreg 63) 15 0 = 0)
    ∧ heldSlot (tsRing (thRing none) ringOn []) 0 (fld ((thRing none).sreg 63) 19 16) tc = none
    ∧ (thRing none).boarding = none ∧ (thRing (some (tboard .boarded []))).boarding ≠ none
    ∧ ∀ j b, ((thRing b).fur j).st ≠ .waiting .rtile ∧ ∀ d, ((thRing b).fur j).st ≠ .waiting (.board d) := by
  refine ⟨fun b sl => ready_ring b ringOn sl, by decide, ⟨tslot (some tc) false false, ?_⟩, ?_, rfl, by simp [thRing], fun j b => ?_⟩
  · decide +kernel
  · decide +kernel
  · show (th.fur j).st ≠ .waiting .rtile ∧ ∀ d, (th.fur j).st ≠ .waiting (.board d)
    cases j <;> simp [th, herdOf, Herd.fresh, Herd.fur, Furrow.fresh]

/-- The page at S[5] holds the header of a timetable of one entry; S[6] is a pace too high, S[7] the highest. -/
def thInst : Herd := { thS with s := Sparse.write zeros thS.s 5 [0x200000000#64, 257#64, 256#64] }
def tsInst : State := { tsMem thInst with hbm := Memory.put (tsMem thInst).hbm 0x20000000 (leBytes 4 1) }

/-- RingControlCompletes: reports, paces at and beyond the highest, the empty timetable, and one in memory. -/
theorem witness_RingControl :
    Ready tsInst thInst plainHdr false ∧ thInst.sup = true
    ∧ (∀ x ∈ ([{ d := 63, sa := 5, sb := 0, sf := 0, x := 0 }, { d := 0, sa := 0, sb := 0, sf := 0, x := 0 }] : List FE),
        x.d.toNat < 64 ∧ x.sb = 0#6 ∧ x.sf = 0#6 ∧ x.x = 0#14)
    ∧ (∃ b, (thRing (some (tboard (.cut 7) [15]))).boarding = some b ∧ b.quota ≤ 16 ∧ b.track < 16 ∧ b.layer < 2 ^ 16 ∧
        b.landed.length ≤ 16 ∧ b.taken < 2 ^ 24 ∧ ∀ c, b.st = .cut c → c < 8)
    ∧ (thInst.sreg 7).toNat ≤ 256 ∧ 256 < (thInst.sreg 6).toNat
    ∧ (thInst.sreg 0 = 0#64 ∧ ∃ b, tsInst.cfg = some b)
    ∧ (∃ hdr as hb n, thInst.sreg 5 ≠ 0#64 ∧ (thInst.sreg 5).toNat % 64 = 0 ∧ fld (thInst.sreg 5) 63 60 = 0 ∧
        hdr = [checkLane tsInst thInst .load 64 (some 0) 255 (thInst.sreg 5)] ∧ hb = loadRange tsInst 0 hdr 64 (fld (thInst.sreg 5) 47 0) ∧
        n = headerEnts hb ∧ rangeOwned tsInst tk hdr (fld (thInst.sreg 5) 47 0) 64 = false ∧
        as = (if n = 0 then hdr else pageAccs tsInst thInst .load (thInst.sreg 5) (64 + 32 * n)) ∧ ((hdr ++ as).all (fun q => q.flt.isNone)) = true ∧
        rangeOwned tsInst tk as (fld (thInst.sreg 5) 47 0) (64 + 32 * n) = false ∧
        rangePoisoned tsInst 0 as (fld (thInst.sreg 5) 47 0) (64 + 32 * n) = false ∧ n = 1) := by
  refine ⟨⟨⟨rfl, rfl, rfl, by decide, rfl⟩, plain_ok _ _, by decide⟩, rfl, by decide,
    ⟨_, rfl, by decide, by decide, by decide, by decide, by decide, fun c e => ?_⟩, by decide, by decide, ⟨by decide, _, rfl⟩,
    ⟨_, _, _, _, by decide, by decide, by decide, rfl, rfl, rfl, ?_, rfl, ?_, ?_, ?_, ?_⟩⟩
  · have := BoardSt.cut.inj (show BoardSt.cut 7 = BoardSt.cut c from e)
    omega
  all_goals decide +kernel

/-- RingMoves, installation: a boarding that the timetable keeps, and one that it cuts. -/
theorem witness_Installation :
    (∀ tt ∈ [ttab, { ttab with grants := [] }],
      (tsRing (thRing (some (tboard .registered []))) { Ring.reset with pending := some tt } []).ring.pending = some tt ∧
      (tsRing (thRing (some (tboard .registered []))) { Ring.reset with pending := some tt } []).ring.inLap = false ∧
      (tsRing (thRing (some (tboard .registered []))) { Ring.reset with pending := some tt } []).ring.tiles = [])
    ∧ ((tsRing (thRing (some (tboard .registered []))) Ring.reset []).herds.map (fun h => h.key)).Nodup
    ∧ (ttab.grants? 0 0 = true ∧ ttab.layerEnts 0 5 ≠ []) ∧ ({ ttab with grants := [] } : Timetable).grants? 0 0 = false
    ∧ (∀ c, (tboard .registered []).st ≠ .cut c) ∧ ∀ b j d, ((thRing b).fur j).st ≠ .waiting (.board d) := by
  refine ⟨fun tt _ => ⟨rfl, rfl, rfl⟩, by decide, ⟨by decide, by decide⟩, by decide, fun c => by simp [tboard], fun b j d => ?_⟩
  show (th.fur j).st ≠ .waiting (.board d)
  cases j <;> simp [th, herdOf, Herd.fresh, Herd.fur, Furrow.fresh]

/-- RingMoves, installation: a missed `board` that still waits. -/
theorem witness_InstallationEndsBoard : ∃ h, h = { thRing (some (tboard .registered [])) with
      furrows := [{ Furrow.fresh 0x100000000 0 with st := .waiting (.board 5) }] } ∧ h.unresolved WaitOn.isBoard ≠ [] ∧
    h.boarding = some (tboard .registered []) ∧ (tsRing h { Ring.reset with pending := some { ttab with grants := [] } } []).herd? tk = some h :=
  ⟨_, rfl, by decide, rfl, rfl⟩

/-- A tile that has passed the stop of its owner. -/
def ttile (die tile : Nat) (passed : Bool) : RTile :=
  { track := 0, layer := 5, tile := tile, die := die, lap := 1, ent := 0, poison := false, gen := 1, crc := 0, crcBad := false, payload := [], left := 0, stop := 11
    passed := passed, sent := passed, held := false, blocked := [] }
def ringWith (t : RTile) : Ring := { ringOn with tiles := [t] }

/-- A tile of which its stop has read all sectors but the last ahead. -/
def tahead : RTile := (blankTile ttab 0 1 tent).gain (ts th) tent.addr (2 ^ 1023 - 1)

/-- RingMoves, injection: the first tile of a lap, and one more behind it, read now and from the stop's buffer. -/
theorem witness_Injection :
    (∀ r ∈ [ringOn, { ringOn with tile := 1, tiles := [ttile 0 0 true] },
        { ringOn with tile := 1, tiles := [ttile 0 0 true], buffer := [tahead] }],
      ∃ e, r.installed = some ttab ∧ ttab.ents[r.ent]? = some e ∧
      r.inLap = true ∧ holding r = false ∧ ringPace (tsRing th r []) ttab ≠ 0 ∧
      (∀ u ∈ r.tiles, u.same (nextTile (tsRing th r []) ttab e) = false) ∧
      orderBlocked r (nextTile (tsRing th r []) ttab e) e.die = false ∧
      (bufferedTile (tsRing th r []) ttab e).owned (tsRing th r []) (e.addr + 65536 * r.tile) = false)
    ∧ (∃ b, ({ ringOn with buffer := [tahead] } : Ring).buffer.find? (fun b => b.at 0 1 tent) = some b ∧
        b.left.testBit 1023 = true ∧ b.left.testBit 1022 = false) := by
  refine ⟨fun r hr => ?_, _, rfl, by decide +kernel, by decide +kernel⟩
  simp only [List.mem_cons, List.not_mem_nil, or_false] at hr
  rcases hr with rfl | rfl | rfl <;>
    exact ⟨tent, rfl, rfl, rfl, by decide, by decide +kernel, by decide +kernel, by decide +kernel, by decide +kernel⟩

/-- RingMoves, arrivals: at the owner, at a stop where nothing takes the tile, at one that lands it, and a header tile, for shards
with a tile under the timetable and without one. -/
theorem witness_Arrivals :
    (∀ u ∈ [ttile 0 1 true, ttile 11 1 true, ttile 11 0 true],
      (ringWith u).tiles.find? (fun v => v.passed && !v.held && (v.sent || !holding (ringWith u)) && decide ((v.stop + 1) % 12 = 0)
        && (decide (v.die = 0) || !orderBlocked (ringWith u) v 0)) = some u ∧ (∀ v ∈ (ringWith u).tiles, v.stop = 0 → v.held = true → lacking (tsRing (thRing none) (ringWith u) []) 0 v ≠ []) ∧
      u.blocked = [])
    ∧ (ttile 0 1 true).die = 0
    ∧ ((ttile 11 1 true).die ≠ 0 ∧ (ttile 11 1 true).tile ≠ 0 ∧ landTargets (tsRing (thRing none) (ringWith (ttile 11 1 true)) []) 0 (ttile 11 1 true) = [] ∧
        isLapFirst (ringWith (ttile 11 1 true)) (ttile 11 1 true) = false)
    ∧ (∃ h b, h = thRing (some b) ∧ b = tboard .boarded [] ∧
        landTargets (tsRing h (ringWith (ttile 11 1 true)) []) 0 (ttile 11 1 true) = [h] ∧
        (tsRing h (ringWith (ttile 11 1 true)) []).herd? h.key = some h ∧ quotaLeft (tsRing h (ringWith (ttile 11 1 true)) []) h = true ∧
        freeSlotIdx (tsRing h (ringWith (ttile 11 1 true)) []) h.core = some 0)
    ∧ (∀ b ∈ [tboard .registered [], { tboard .registered [] with first := 5 }], ∃ h, h = thRing (some b) ∧
        (tsRing h (ringWith (ttile 11 0 true)) []).herd? h.key = some h ∧ ((tsRing h (ringWith (ttile 11 0 true)) []).herds.map (fun h => h.key)).Nodup ∧
        dieOf h.core = 0 ∧ b.track = (ttile 11 0 true).track ∧ b.layer = (ttile 11 0 true).layer ∧ (ttile 11 0 true).die ≠ 0)
    ∧ (shardTiles 0 2 (ttab.tileCount 0 5) ≠ 0 ∧ shardTiles 5 2 (ttab.tileCount 0 5) = 0) := by
  refine ⟨by decide, by decide, by decide +kernel, ⟨_, _, rfl, rfl, ?_, rfl, ?_, ?_⟩, fun b hb => ⟨_, rfl, rfl, ?_⟩, by decide⟩
  any_goals (simp only [List.mem_cons, List.not_mem_nil, or_false] at hb; rcases hb with rfl | rfl)
  all_goals decide +kernel

/-- RingMoves, a held tile whose boarding has a slot again. -/
theorem witness_HeldTile : ∃ h r u, h = thRing (some (tboard .boarded [])) ∧ u = { ttile 11 1 false with stop := 0, held := true, blocked := [(tk, 0)] } ∧
    r = ringWith u ∧ ((tsRing h r []).herds.map (fun h => h.key)).Nodup ∧
    r.tiles.find? (fun v => decide (v.stop = 0) && v.held && (lacking (tsRing h r []) 0 v).isEmpty) = some u ∧
    landTargets (tsRing h r []) 0 u = [h] ∧ (tsRing h r []).herd? h.key = some h ∧ freeSlotIdx (tsRing h r []) h.core = some 0 := by
  refine ⟨_, _, _, rfl, rfl, rfl, by decide, ?_, ?_, rfl, ?_⟩ <;> decide +kernel

/-- RingMoves, landing: a slot that a command has read is free again once the command has retired. -/
theorem witness_SlotRead : ∃ s m, s = { tsRing (thRing none) ringOn [] with cmds := [m] } ∧ m = { tcmd 0x182 2 0 0 with slots := [0] } ∧
    freeSlotIdx s 0 = some 1 ∧ freeSlotIdx { s with cmds := [] } 0 = some 0 := by
  refine ⟨_, _, rfl, rfl, ?_, ?_⟩ <;> decide +kernel

/-- RingMoves, a tile that passes, a Boarded boarding that has blocked a tile for too long and still lacks its slot, and one Cut before. -/
theorem witness_PassAndHold :
    ((ringWith (ttile 11 1 false)).tiles.find? (fun v => decide (v.stop = 11) && !v.passed) = some (ttile 11 1 false))
    ∧ (∃ h b r, h = thRing (some b) ∧ b = { tboard .boarded [] with quota := 1, taken := 0, landed := [15] } ∧ b.st = .boarded ∧
      r = ringWith { ttile 11 1 false with stop := 0, held := true, blocked := [(tk, 0)] } ∧
      (tsRing h r [tslot none false false]).herd? tk = some h ∧
      ∃ v ∈ r.tiles, v.held = true ∧ (lacking (tsRing h r [tslot none false false]) v.stop v).any (fun y => decide (y.key = tk)) = true)
    ∧ ∃ h b, h = thRing (some b) ∧ b = tboard (.cut 4) [] ∧ (tsRing h ringOn []).herd? tk = some h ∧ b.st ≠ .boarded := by
  refine ⟨by decide, ⟨_, _, _, rfl, rfl, rfl, rfl, rfl, _, List.mem_singleton.mpr rfl, rfl, by decide +kernel⟩,
    _, _, rfl, rfl, rfl, fun e => nomatch e⟩

/-! ### Witnesses: distributions and the tape -/

/-- Lane 2 of d1 holds an error, and the condenser has still to write d3. -/
def thDist : Herd := { th with derr := [66] }
def tcond (d : Nat) : CondOp := { core := 0, slice := 0, key := tk, d := d, lanes := [(7, List.replicate 8 0x0020000000000000#64)] }
def tsDist : State := { ts thDist with conds := [{ tcond 0 with slice := 1, key := { tk with herd := 1 } }, tcond 3] }

/-- What the direct words and those of the condenser ask. -/
def DistAt {F : Type} (g : DWord F) (x : F) : Prop :=
  Ready tsDist thDist plainHdr false ∧ g.ok thDist x ∧ DistFree tsDist tk (g.reads x ++ g.writes x) ∧
    ElemsSound thDist (activeLanes thDist tw.f plainHdr) (g.reads x)

/-- What the trap of a lane asks, at lane 2. -/
def BadAt {F : Type} (g : DWord F) (x : F) : Prop :=
  Ready tsDist thDist plainHdr false ∧ g.ok thDist x ∧ DistFree tsDist tk (g.reads x ++ g.writes x) ∧
    2 ∈ activeLanes thDist tw.f plainHdr ∧ (∃ n ∈ g.reads x, 64 * n + 2 ∈ thDist.derr) ∧
    ElemsSound thDist ((activeLanes thDist tw.f plainHdr).filter (fun j => decide (j < 2))) (g.reads x) ∧
    TrapFree thDist (furMask (thDist.group tw.f))

theorem ready_dist : Ready tsDist thDist plainHdr false := ⟨⟨rfl, rfl, rfl, by decide, rfl⟩, plain_ok _ _, by decide⟩

/-- DirectDistributionWords: each word at the ends of its register ranges. -/
theorem witness_DirectDistribution :
    DistAt dNeg { d := 15, a := 0, b := 0, fn := 0, mb := 0 } ∧ DistAt dScl { d := 15, a := 15, b := 31, fn := 1, mb := 0 }
    ∧ DistAt dPt { d := 1, a := 31, b := 0, fn := 0, mb := 0 } ∧ DistAt dTag { d := 15, a := 0, imm := 0xFFFF, mb := 0 }
    ∧ DistAt dGet { d := 31, a := 15, b := 0, fn := 7, mb := 0x20 } ∧ DistAt dMom { d := 31, a := 15, b := 0, fn := 3, mb := 0x3E }
    ∧ DistAt dQnt { d := 31, a := 0, b := 31, fn := 0, mb := 0x30 } ∧ DistAt dCdf { d := 31, a := 0, b := 31, fn := 0, mb := 0x30 }
    ∧ (∀ x ∈ ([{ d := 1, a := 31, b := 0, fn := 7, mb := 0 }] : List F3), x.d.toNat < 16 ∧ x.a.toNat < thDist.nregs ∧
        x.b.toNat < thDist.nregs ∧ x.mb = 0#8 ∧ x.fn.toNat < 8 ∧ DistFree tsDist tk [x.d.toNat]) := by
  refine ⟨⟨ready_dist, ?_⟩, ⟨ready_dist, ?_⟩, ⟨ready_dist, ?_⟩, ⟨ready_dist, ?_⟩, ⟨ready_dist, ?_⟩, ⟨ready_dist, ?_⟩,
    ⟨ready_dist, ?_⟩, ⟨ready_dist, ?_⟩, ?_⟩ <;>
    simp only [dNeg, dScl, dPt, dTag, dGet, dMom, dQnt, dCdf, dWord1, dReader, MbOk, DistFree, ElemsSound] <;> decide +kernel

/-- DirectDistributionWords: a word that reads the erroneous element. -/
theorem witness_BadElements :
    BadAt dNeg { d := 15, a := 1, b := 0, fn := 0, mb := 0 } ∧ BadAt dScl { d := 1, a := 1, b := 31, fn := 0, mb := 0 }
    ∧ BadAt dGet { d := 31, a := 1, b := 0, fn := 0, mb := 0x30 } ∧ BadAt dMom { d := 31, a := 1, b := 0, fn := 3, mb := 0x30 }
    ∧ BadAt dQnt { d := 31, a := 1, b := 31, fn := 0, mb := 0x30 } ∧ BadAt dCdf { d := 31, a := 1, b := 31, fn := 0, mb := 0x30 }
    ∧ BadAt dTag { d := 15, a := 1, imm := 1, mb := 0 } := by
  refine ⟨⟨ready_dist, ?_⟩, ⟨ready_dist, ?_⟩, ⟨ready_dist, ?_⟩, ⟨ready_dist, ?_⟩, ⟨ready_dist, ?_⟩, ⟨ready_dist, ?_⟩,
    ⟨ready_dist, ?_⟩⟩ <;>
    simp only [dNeg, dScl, dTag, dGet, dMom, dQnt, dCdf, dWord1, dReader, MbOk, DistFree, ElemsSound] <;> decide +kernel

/-- CondenserOperations: every binary operation and the mixture, a lane's trap, and the oldest operation of slice 0. -/
theorem witness_Condenser :
    (∀ p ∈ dBins, DistAt p.1 { d := 1, a := 0, b := 15, fn := 2, mb := 0 } ∧ BadAt p.1 { d := 15, a := 0, b := 1, fn := 0, mb := 0 })
    ∧ DistAt dMix { d := 0, a := 0, b := 15, fn := 31, mb := 0 } ∧ BadAt dMix { d := 0, a := 1, b := 1, fn := 0, mb := 0 }
    ∧ (tsDist.conds.filter (fun o => decide (o.core = thDist.core ∧ o.slice = thDist.slice))).length < 5
    ∧ (∃ pre post o, tsDist.conds = pre ++ o :: post ∧ (∀ q ∈ pre, ¬ (q.core = o.core ∧ q.slice = o.slice)) ∧
        tsDist.herd? o.key = some thDist ∧ (o.lanes.map (fun p => p.1)).Nodup ∧ ∀ p ∈ o.lanes, p.1 < 64 ∧ p.2.length = 8) := by
  refine ⟨fun p hp => ?_, ⟨ready_dist, ?_⟩, ⟨ready_dist, ?_⟩, by decide, ⟨[_], [], tcond 3, rfl, by decide, rfl, by decide, by decide⟩⟩
  · simp only [dBins, List.mem_cons, List.not_mem_nil, or_false] at hp
    rcases hp with rfl | rfl | rfl | rfl | rfl <;>
      refine ⟨⟨ready_dist, ?_⟩, ⟨ready_dist, ?_⟩⟩ <;> simp only [dBin, dWord2, DistFree, ElemsSound] <;> decide +kernel
  · simp only [dMix, dWord2, DistFree, ElemsSound]; decide +kernel
  · simp only [dMix, dWord2, DistFree, ElemsSound]; decide +kernel

/-- A stream whose block holds one record of a kind: a value record of eight lanes, a mask record or a mark. -/
def valRec : List Byte × Stream := valueRec Stream.fresh 0xFF#8 (fun j => BitVec.ofNat 32 j)
def topOf (kind : Nat) : Stream :=
  recorded Stream.fresh (if kind = 0 then valRec else if kind = 1 then maskRec Stream.fresh 0xFF#8 5#8 else markRec Stream.fresh 7#16)

/-- The herd with a tape of `n` blocks whose stream is `x`. -/
def thTape (active : Bool) (n : Nat) (x : Stream) : Herd :=
  { th with tape := { TapeCtx.none with active := active, sbase := 0x3000000200000000#64, slim := 0x3000000200000000#64 + BitVec.ofNat 64 (256 * n)
                                        next := 0x3000000200000000#64, pages := [(0x20000, 0x20000000)], streams := [x] } }

theorem ready_tape (a : Bool) (n : Nat) (x : Stream) : Ready (ts (thTape a n x)) (thTape a n x) plainHdr false :=
  ⟨⟨rfl, rfl, rfl, (by decide : th.furrows.length ≤ 8), rfl⟩, plain_ok _ _, (by decide : activeLanes th 0 plainHdr ≠ [])⟩

/-- What Records asks of a word, without a tape, without room and with it. -/
def RecordAt {F : Type} (g : TWord F) (x : F) : Prop :=
  (∀ a n y, Ready (ts (thTape a n y)) (thTape a n y) plainHdr false ∧ g.ok (thTape a n y) x ∧
    TrapFree (thTape a n y) (furMask ((thTape a n y).group tw.f)))
  ∧ (thTape false 1 Stream.fresh).tape.active = false
  ∧ (∀ n ∈ [0, 1], (thTape true n Stream.fresh).tape.active = true ∧ (thTape true n Stream.fresh).tape.streams.length = (thTape true n Stream.fresh).furrows.length ∧
      ∀ f ∈ (thTape true n Stream.fresh).group tw.f, ((thTape true n Stream.fresh).tape.stream f).unread = false)
  ∧ (thTape true 0 Stream.fresh).tape.room < (((thTape true 0 Stream.fresh).group tw.f).map (fun f =>
      needBlocks ((thTape true 0 Stream.fresh).tape.stream f)
        (g.made (thTape true 0 Stream.fresh) tw.f plainHdr x f ((thTape true 0 Stream.fresh).tape.stream f)).1.length)).sum
  ∧ (((thTape true 1 Stream.fresh).group tw.f).map (fun f => needBlocks ((thTape true 1 Stream.fresh).tape.stream f)
      (g.made (thTape true 1 Stream.fresh) tw.f plainHdr x f ((thTape true 1 Stream.fresh).tape.stream f)).1.length)).sum
        ≤ (thTape true 1 Stream.fresh).tape.room

/-- TapeWordsComplete: the recording words. -/
theorem witness_Recording : RecordAt tRec { d := 0, a := 31, b := 0, fn := 0, mb := 0 } ∧ RecordAt tRbr { d := 0, a := 31, b := 0, fn := 0, mb := 0 }
    ∧ RecordAt tMark { d := 0, a := 0, imm := 0xFFFF, mb := 0 } := by
  refine ⟨⟨fun a n y => ⟨ready_tape a n y, ?_, (by decide : TrapFree th 1#8)⟩, rfl, ?_, ?_, ?_⟩,
    ⟨fun a n y => ⟨ready_tape a n y, ?_, (by decide : TrapFree th 1#8)⟩, rfl, ?_, ?_, ?_⟩,
    ⟨fun a n y => ⟨ready_tape a n y, ?_, (by decide : TrapFree th 1#8)⟩, rfl, ?_, ?_, ?_⟩⟩
  · exact ⟨(by decide : 31 < th.nregs), rfl, rfl, rfl, rfl⟩
  · decide +kernel
  · decide +kernel
  · decide +kernel
  · exact ⟨(by decide : 31 < th.nregs), rfl, rfl, rfl, rfl⟩
  · decide +kernel
  · decide +kernel
  · decide +kernel
  · exact ⟨rfl, rfl, rfl⟩
  · decide +kernel
  · decide +kernel
  · decide +kernel

/-- TapeWordsComplete: the pops, without a tape, of an empty stream, of another kind, and of their own. -/
theorem witness_Pops :
    (∀ a n y, Ready (ts (thTape a n y)) (thTape a n y) plainHdr false ∧ TrapFree (thTape a n y) (furMask ((thTape a n y).group tw.f)) ∧
      31 < (thTape a n y).nregs ∧ (thTape a n y).tape.streams.length = (thTape a n y).furrows.length ∧ (thTape a n y).group tw.f = [0])
    ∧ (thTape false 1 Stream.fresh).tape.active = false
    ∧ (((thTape true 1 Stream.fresh).tape.stream 0).depth = 0 ∧ ((thTape true 1 Stream.fresh).tape.stream 0).unread = false)
    ∧ (∀ k ∈ [0, 1, 2], ∃ q, topRec ((thTape true 1 (topOf k)).tape.stream 0) = some q ∧ q.kind = k ∧ q.kind ≠ 3 ∧
        ((thTape true 1 (topOf k)).tape.stream 0).depth ≠ 0 ∧ ((thTape true 1 (topOf k)).tape.stream 0).unread = false) := by
  refine ⟨fun a n y => ⟨ready_tape a n y, (by decide : TrapFree th 1#8), (by decide : 31 < th.nregs), rfl, rfl⟩, rfl, by decide, ?_⟩
  intro k hk
  simp only [List.mem_cons, List.not_mem_nil, or_false] at hk
  rcases hk with rfl | rfl | rfl <;> refine ⟨_, rfl, ?_⟩ <;> decide +kernel

/-- PoppingUndoesRecording: a stream whose block holds a record. -/
theorem witness_AtHand : AtHand (topOf 0) := by
  constructor <;> decide +kernel

/-- TapeContextCompletes: a segment of a page, one that is not; without a tape and with one, clean and with a dirty block. -/
theorem witness_TapeContext :
    (∃ h, h = { thS with s := Sparse.write zeros thS.s 5 [0x3000000200000000#64, 0x3000000200010000#64, 0x3000000200000001#64] } ∧
      Ready (tsMem h) h plainHdr false ∧ h.sup = true ∧ h.tape.active = false ∧ segOk (h.sreg 5) (h.sreg 6) = true ∧
      segOk (h.sreg 5) (h.sreg 7) = false ∧ pageFault (pageAccs (tsMem h) h .seg (h.sreg 5) ((h.sreg 6).toNat - (h.sreg 5).toNat)) = none ∧
      ∀ x ∈ ([{ d := 63, sa := 5, sb := 6, sf := 0, x := 0 }, { d := 0, sa := 5, sb := 7, sf := 0, x := 0 }] : List FE),
        x.d.toNat < 64 ∧ x.sf = 0#6 ∧ x.x = 0#14)
    ∧ (thTape true 1 Stream.fresh).tape.active = true
    ∧ (∀ x ∈ ([{ d := 63, a := 0, sel := 0, x := 0 }] : List FS), x.d.toNat < 64 ∧ x.a = 0#8 ∧ x.sel = 0#16 ∧ x.x = 0#8)
    ∧ ((thTape true 1 Stream.fresh).tape.closed = [] ∧ ∀ y ∈ (thTape true 1 Stream.fresh).tape.streams, y.dirty = false)
    ∧ (∃ x, x = { topOf 0 with cur := 0x3000000200000000#64 } ∧ (thTape true 1 x).tape.closed = [] ∧ (0 < (thTape true 1 x).tape.streams.length) ∧
        ((thTape true 1 x).tape.stream 0).dirty = true ∧ (∀ j, j ≠ 0 → ((thTape true 1 x).tape.stream j).dirty = false) ∧
        blockOwned (ts (thTape true 1 x)) (thTape true 1 x).tape x.cur = false ∧
        (blockBytes 0 ((thTape true 1 x).tape.stream 0)).length ≤ 256) := by
  refine ⟨⟨_, rfl, ⟨⟨rfl, rfl, rfl, by decide, rfl⟩, plain_ok _ _, by decide⟩, rfl, by decide, by decide, by decide, ?_, by decide⟩, rfl,
    by decide, by decide, ⟨_, rfl, rfl, by decide, ?_, fun j hj => ?_, ?_, ?_⟩⟩
  · decide +kernel
  · decide +kernel
  · cases j with
    | zero => exact absurd rfl hj
    | succ n => simp [thTape, TapeCtx.stream, Stream.fresh, Stream.dirty]
  · decide +kernel
  · decide +kernel

/-- TapeContextCompletes: the engine writes a closed block. -/
theorem witness_TapeBlock : ∃ h a bs, h = { thTape true 1 Stream.fresh with tape := { (thTape true 1 Stream.fresh).tape with closed := [(a, bs)] } } ∧
    a = 0x3000000200000000#64 ∧ bs = List.replicate 256 1#8 ∧ (ts h).herd? tk = some h ∧ blockOwned (ts h) h.tape a = false ∧ bs.length ≤ 256 := by
  refine ⟨_, _, _, rfl, rfl, rfl, rfl, ?_, ?_⟩ <;> decide +kernel

/-! ### Witnesses: the scheduler, saves and held words -/

/-- The herd with its one furrow in some state. -/
def thFur (r : Furrow) : Herd := { th with furrows := [r] }
def fresh0 : Furrow := Furrow.fresh 0x100000000 0
def thStands : Herd := thFur { fresh0 with st := .standing 15 }
def thWaits : Herd := thFur { fresh0 with st := .waiting .rtile }

theorem shape_fur (r : Furrow) (a : r.grp < 8) (b : r.hcnt.length = 16) (c : r.stack.length ≤ 16) (d : ∀ e ∈ r.stack, e.hid < 16)
    (e : ∀ n, r.st = .standing n → n < 16) : HerdShape (thFur r) :=
  ⟨(by decide : 32 ≤ 256), (by decide : 8 ≤ 64), (by decide : th.nacc ≤ 8 ∧ th.acc.length = th.nacc), (by decide : 1 ≤ 8),
    (by decide : th.cvlim.toNat < 2 ^ 35),
    fun l h => (nomatch h), fun q hq => by rw [List.mem_singleton.mp hq]; exact ⟨a, b, c, d, e⟩⟩

theorem shape_waits : HerdShape thWaits :=
  shape_fur _ (by decide) (by decide) (by decide) (by decide) (fun n h => (nomatch h))

/-- A herd of the crew that is not resident, with or without a context in its save area; its waits have ended. -/
def thAway (stored : Bool) (q : Option Resolution) : Herd :=
  { thFur { fresh0 with st := .waiting .rtile, resolved := q } with resident := false, stored := stored, saveAt := 0x4000000000 }

/-- One running furrow, as its record stands in a save area. -/
def savedRec : List Byte := leBytes 8 0x100000800 ++ leBytes 8 0x2000FF
def tsAway (h : Herd) : State := { tsMem h with hbm := Memory.put (tsMem h).hbm 0x4000000400 savedRec }

/-- Three residents with sixteen accumulator tiles between them, and a ready herd that asks for two. -/
def tsFull : State :=
  { tsMem thWaits with herds := [thWaits, { th with key := { tk with herd := 1 }, nacc := 8 }, { th with key := { tk with herd := 2 }, nacc := 6 },
                                 { th with key := { tk with herd := 3 }, resident := false }] }

/-- SchedulerEventsComplete, clause by clause. -/
theorem witness_Scheduler :
    ((ts thStands).herd? tk = some thStands ∧ thStands.resident = true ∧ thStands.group 0 ≠ [] ∧ thStands.heldBy (thStands.group 0) = none ∧
      (∀ j ∈ thStands.group 0, (thStands.fur j).st = .standing 15) ∧ saveNext (ts thStands) thStands = false)
    ∧ (∃ h x, h = { th with holds := [x] } ∧ x = { group := 1#8, why := .yield 7 } ∧ (ts h).herd? tk = some h ∧ HeldBy h 0 x ∧
        ∀ j ∈ bitsOf x.group 8, j < h.furrows.length)
    ∧ (∃ y, tsFull.herd? tk = some thWaits ∧ HerdShape thWaits ∧ thWaits.resident = true ∧ isWaiting thWaits = true ∧
        waitsLongest tsFull thWaits = true ∧ savePending tsFull tk = false ∧ y ∈ readyHerds tsFull thWaits.core thWaits.slice ∧ roomBase tsFull y = none ∧
        thWaits.tape.closed = [] ∧ ∀ x ∈ thWaits.tape.streams, x.dirty = false)
    ∧ (∀ b, ∃ h, h = thAway b (some { completed := true, wr := none, bad := none }) ∧ (tsAway h).herd? tk = some h ∧ isReady (tsAway h) h = true ∧
        (∀ y ∈ readyHerds (tsAway h) h.core h.slice, readyBefore y h = false) ∧ roomBase (tsAway h) h = some 0 ∧ h.stored = b ∧
        h.saveAt = saveArea (tsAway h) h ∧ restoreBad (tsAway h).hbm h.saveAt (savedProg (tsAway h).hbm h.saveAt) h = false ∧
        savedProg (tsAway h).hbm h.saveAt = false ∧ (h.fur 0).resolved = some { completed := true, wr := none, bad := none })
    ∧ (∃ h, h = { thAway true none with furrows := [fresh0] } ∧ (tsAway h).herd? tk = some h ∧ isReady (tsAway h) h = true ∧
        (h.fur 0).resolved = none ∧ (readRec (tsAway h).hbm (h.saveAt + 0x400)).st = 1) := by
  refine ⟨⟨rfl, rfl, by decide, by decide, by decide, by decide⟩, ⟨_, _, rfl, rfl, rfl, ⟨by decide, by decide, by decide⟩, by decide⟩,
    ⟨{ th with key := { tk with herd := 3 }, resident := false }, rfl, shape_waits, rfl, by decide, ?_, ?_, ?_, ?_, rfl, by decide⟩,
    fun b => ⟨_, rfl, rfl, ?_, ?_, ?_, rfl, ?_, ?_, ?_, rfl⟩, ⟨_, rfl, rfl, ?_, rfl, ?_⟩⟩ <;> (try cases b) <;> decide +kernel

/-- SavingAndRestoringKeepsTheContext: two herds of one allocation, one with a waiting furrow. -/
theorem witness_SaveAndRestore : HerdShape thWaits ∧ HerdShape (thFur fresh0) ∧ thWaits.nregs = (thFur fresh0).nregs ∧
    thWaits.width = (thFur fresh0).width ∧ thWaits.nacc = (thFur fresh0).nacc ∧ thWaits.handler = none ∧
    thWaits.tape.active = false ∧
    ((∀ k ∈ [15 * 64 + 7], k / 64 < 16 ∧ k % 64 < thWaits.width) ∧ ∀ k ∈ [4096 * 1 + 4095], k / 4096 < thWaits.nacc) ∧
    (∃ h : Herd, h = { thWaits with handler := some 1#8 } ∧ HerdShape h ∧ h.handler.isSome = true) ∧
    (∃ h : Herd, h = { thWaits with tape := dirtyTape } ∧ HerdShape h ∧ h.tape.active = true ∧
      ∀ f, f < h.furrows.length → StreamShape (h.tape.stream f)) :=
  ⟨shape_waits, shape_fur _ (by decide) (by decide) (by decide) (by decide) (fun n h => (nomatch h)), rfl, rfl, rfl, rfl, rfl, by decide, ⟨_, rfl,
    ⟨shape_waits.regs, shape_waits.width, shape_waits.acc, shape_waits.furrows, shape_waits.cvlim, shape_waits.latch, shape_waits.furs⟩, rfl⟩,
    ⟨_, rfl,
    ⟨shape_waits.regs, shape_waits.width, shape_waits.acc, shape_waits.furrows, shape_waits.cvlim, shape_waits.latch, shape_waits.furs⟩, rfl,
    fun f hf => by
      have e : f = 0 := by
        have : f < 1 := hf
        omega
      subst e
      exact ⟨rfl, by decide, by decide, fun k h => nomatch h⟩⟩⟩

/-- A herd whose group waits with the word issued. -/
def thHolds (y : HoldWhy) : Herd := { th with holds := [{ group := 1#8, why := y }] }
def theHold (y : HoldWhy) : Hold := { group := 1#8, why := y }

theorem held_by (y : HoldWhy) : HeldBy (thHolds y) 0 (theHold y) :=
  ⟨List.mem_singleton.mpr rfl, (by decide : (1#8).getLsbD 0 = true), fun z hz _ => List.mem_singleton.mp hz⟩

/-- HeldWordsComplete: a site whose word has changed and one whose word has not; a `sow` with room again, one whose queue is still full
and one behind another's. -/
theorem witness_HeldSites :
    (∀ old ∈ [0#64, 1#64], ∃ y, y = HoldWhy.rewrite 0x1000000 old 5#64 true ∧ (tsMem (thHolds y)).herd? tk = some (thHolds y) ∧
      HeldBy (thHolds y) 0 (theHold y) ∧ lineOwned (tsMem (thHolds y)) 0x1000000 8 = false ∧
      ((tsMem (thHolds y)).hbm.num 0x1000000 8 = old.toNat ↔ old = 0#64))
    ∧ (∃ y, y = HoldWhy.sow tcard 0 63 ∧ (ts (thHolds y)).herd? tk = some (thHolds y) ∧ HeldBy (thHolds y) 0 (theHold y) ∧
        queueFull (ts (thHolds y)) 0 tcard.prio = false ∧
        sowsBefore (ts (thHolds y)) 0 tcard.prio (postRank (thHolds y) 0 tcard.prio (theHold y).group) = 0 ∧
        ∀ j ∈ bitsOf (theHold y).group 8, j < (thHolds y).furrows.length)
    ∧ (∃ y s g, y = HoldWhy.sow tcard 0 63 ∧ g = { thHolds y with slice := 1 } ∧
        s = { ts g with herds := [g, { thHolds y with key := { tk with herd := 1 } }] } ∧ s.herd? tk = some g ∧
        queueFull s 0 tcard.prio = false ∧ sowsBefore s 0 tcard.prio (postRank g 0 tcard.prio (theHold y).group) ≠ 0)
    ∧ (∃ y s, y = HoldWhy.sow tcard 0 63 ∧ s = { ts (thHolds y) with seeds := List.replicate 64 { core := 0, prio := tcard.prio, part := 0, field := 2 } } ∧
        queueFull s 0 tcard.prio = true) := by
  refine ⟨fun old ho => ⟨_, rfl, rfl, held_by _, ?_, ?_⟩, ⟨_, rfl, rfl, held_by _, ?_, ?_, (by decide : ∀ j ∈ bitsOf 1#8 8, j < 1)⟩,
    ⟨_, _, _, rfl, rfl, rfl, rfl, ?_, ?_⟩, ⟨_, _, rfl, rfl, ?_⟩⟩
  · simp only [List.mem_cons, List.not_mem_nil, or_false] at ho
    rcases ho with rfl | rfl <;> decide +kernel
  · simp only [List.mem_cons, List.not_mem_nil, or_false] at ho
    rcases ho with rfl | rfl <;> decide +kernel
  all_goals decide +kernel

/-- A remote instruction of lanes 0 and 1 on host memory, or on a peer's. -/
def tremote (kind : Nat) (space : Word) : RemoteOp :=
  { kind := kind, d := 4, wid := 2, nib := 3, op := none, uni := false, spc := none, active := [0, 1], vals := [], fmts := []
    waiting := [(0, space + 0x100#64, 7#128), (1, space + 0x104#64, 9#128)], site := none, pa := 0x1000000, later := [], seen := [], spoilt := none }
def tanswers (err : Bool) : List LaneAnswer :=
  [{ lane := 0, err := false, data := 1, fmt := 3 }, { lane := 1, err := err, data := 2, fmt := 3 }]

/-- The site of a quickened load whose lanes all name host space, where its word names global space; and the module that holds it. -/
def tsite : Site := { word := 0x40200007100800C2#64, ss := 2, fmtDim := false, spaces := [6, 6], one := true, uniform := false }
def tsSite : State := { ts th with hbm := Memory.put (ts th).hbm 0x1000000 (leBytes 8 0x40200007100800C2) }

/-- The module with the peer of module index 0 behind it. -/
def tsPeerUp : State := { tsMem th with cfg := some { wholeBlob with peers := [{ index := 0, links := [0], part := 0 }] } }

/-- What HeldWordsComplete asks of every remote word, with the answers of `tanswers`; `p` is what its site settles. -/
def RemoteAt (s : State) (r : RemoteOp) (err bad : Bool) (p : Plan) : Prop :=
  (r.site.isSome = true → lineOwned s r.pa 8 = false) ∧ laterWaits s tk 1#8 0 r = false ∧ (tanswers err).map (fun a => a.lane) = r.waiting.map (fun q => q.1) ∧
    p = r.plan (answerFmts s r (tanswers err)) ∧ fmtRefused r.site r.wid (answerFmts s r (tanswers err)) p = bad

/-- HeldWordsComplete: any remote word of the herd, with either set of answers. -/
theorem witness_HeldRemotes :
    (∀ r : RemoteOp, ∃ y, y = HoldWhy.remote r ∧ (ts (thHolds y)).herd? tk = some (thHolds y) ∧ HeldBy (thHolds y) 0 (theHold y) ∧
      TrapFree (thHolds y) (theHold y).group ∧ ∀ j ∈ bitsOf (theHold y).group 8, j < (thHolds y).furrows.length)
    ∧ (∀ kind space e, (tanswers e).map (fun a => a.lane) = (tremote kind space).waiting.map (fun q => q.1) ∧ laterWaits (ts th) tk 1#8 0 (tremote kind space) = false ∧
        fmtRefused (tremote kind space).site 2 [] { nib := 3, uni := false, rw := none } = false)
    ∧ (∃ q, (tremote 0 0x6000000000000000#64).waiting.find? (answerFails (ts th) (tremote 0 0x6000000000000000#64) (tanswers true)) = some q ∧
        hostStores (ts th) (tremote 0 0x6000000000000000#64) (tanswers true) = [])
    ∧ (∀ q ∈ (tremote 0 0x6000000000000000#64).waiting, answerFails (ts th) (tremote 0 0x6000000000000000#64) (tanswers false) q = false)
    ∧ (∀ l ∈ (tremote 0 0x6000000000000000#64).active, l < 64 ∧ l ∈ ((tremote 0 0x6000000000000000#64).waiting.map (fun q => q.1)))
    ∧ (∀ q ∈ (tremote 1 0x6000000000000000#64).waiting, (tremote 1 0x6000000000000000#64).space q.2.1 = 6 ∧
      fld q.2.1 47 0 % 2 ^ 2 = 0 ∧ answerFails (ts th) (tremote 1 0x6000000000000000#64) (tanswers false) q = false)
    ∧ ((tremote 1 0x6000000000000000#64).waiting.map (fun q => fld q.2.1 47 0 / 2 ^ 2)).Nodup
    ∧ (∀ u ∈ (tremote 2 0x5000000000000000#64).waiting, (tremote 2 0x5000000000000000#64).space u.2.1 = 5) := by
  refine ⟨fun r => ⟨_, rfl, rfl, held_by _, ⟨?_, rfl⟩, (by decide : ∀ j ∈ bitsOf 1#8 8, j < 1)⟩, fun kind space e => ⟨rfl, rfl, rfl⟩, ⟨_, rfl, ?_⟩, ?_, ?_, ?_, ?_, ?_⟩
  · simp [trapWaits, thHolds, theHold, th, herdOf, Herd.fresh]
  all_goals decide +kernel

/-- HeldWordsComplete, sites: a widening before an error's trap; a format that the WID refuses, on a quickened site and on an unresolved
one; an error that a local lane has met; and a pinned store of which a local lane has waited for its peers. -/
theorem witness_RemoteSites :
    (∃ r y new, r = { tremote 0 0x6000000000000000#64 with site := some y } ∧ y = tsite ∧
        r.waiting.find? (answerFails (ts th) r (tanswers true)) ≠ none ∧ r.spoilt = none ∧
        RemoteAt (ts th) r true false (r.plan (answerFmts (ts th) r (tanswers true))) ∧
        (r.plan (answerFmts (ts th) r (tanswers true))).rw = some (new, true) ∧ tsSite.hbm.num r.pa 8 = y.word.toNat ∧ lineOwned tsSite r.pa 8 = false)
    ∧ (∀ ss ∈ [1, 2], ∃ r y p, r = { tremote 0 0x5000000000000000#64 with site := some y, wid := 0 } ∧
        y = { tsite with ss := ss, fmtDim := true, spaces := [5, 5] } ∧ RemoteAt tsPeerUp r false true p ∧ p.rw.isSome = true ∧
        tsSite.hbm.num r.pa 8 = y.word.toNat)
    ∧ (∃ r p, r = { tremote 0 0x5000000000000000#64 with site := some { tsite with ss := 3, fmtDim := true }, spoilt := some (2, 0x200000000#64), seen := [(2, 0x200000000#64, .mem 0x20000000)] } ∧
        RemoteAt tsPeerUp r false false p)
    ∧ (∃ r p, r = { tremote 1 0x5000000000000000#64 with site := some { tsite with ss := 3, fmtDim := true }, later := [(2, .mem 0x20000040, 5#128)] } ∧
        RemoteAt tsPeerUp r false false p ∧ p.rw = none ∧ r.kind = 1 ∧ r.op = none ∧ r.spoilt = none ∧ r.seen = [] ∧
        ∀ q ∈ r.waiting, answerFails tsPeerUp r (tanswers false) q = false ∧ r.space q.2.1 = 5) := by
  refine ⟨⟨_, _, _, rfl, rfl, ?_, rfl, ⟨fun _ => ?_, rfl, rfl, rfl, ?_⟩, rfl, ?_, ?_⟩, fun ss hs => ?_,
    ⟨_, _, rfl, fun _ => ?_, ?_, rfl, rfl, ?_⟩, ⟨_, _, rfl, ⟨fun _ => ?_, ?_, rfl, rfl, ?_⟩, ?_, rfl, rfl, rfl, rfl, ?_⟩⟩
  pick_goal 6
  · simp only [List.mem_cons, List.not_mem_nil, or_false] at hs
    rcases hs with rfl | rfl <;> refine ⟨_, _, _, rfl, rfl, ⟨fun _ => ?_, rfl, rfl, rfl, ?_⟩, ?_, ?_⟩ <;> decide +kernel
  all_goals decide +kernel

/-! ### Witnesses: admission, release and pre-emption -/

/-- A card of `n` crews of one 8-lane herd of 32 registers at priority `p`, whose crews ask for `k` KiB of tile store. -/
def pcard (n p k : Nat) : Card :=
  { w0 := 0x100000000, w1 := 0, w2 := BitVec.ofNat 64 (n * 2 ^ 32 + p * 2 ^ 26 + 0x10020), w3 := BitVec.ofNat 64 (k * 2 ^ 20), w4 := 0, w5 := 0
    w6 := 0, w7 := 0 }
def pfield (id : Nat) (c : Card) (admitted : Nat) : FieldRec :=
  { part := 0, id := id, card := c, home := 0, admitted := admitted, ended := 0, aborted := false, phases := [] }

/-- Field 1 runs on core 0 at priority 0, with `k` KiB of its tile store; a card of `n` crews of priority 1 waits, of which the core can hold one. -/
def tsQueue (k n : Nat) : State :=
  { ts th with crews := [{ tcrew with tileLen := 1024 * k }], fields := [pfield 1 (pcard 1 0 k) 1, pfield 2 (pcard n 1 1025) 0]
               seeds := [{ core := 0, prio := 1, part := 0, field := 2 }] }

/-- AdmissionCompletes: the last crew of a card and one of two; and a crew of lower priority that keeps the head out. -/
theorem witness_Admission :
    (∀ n ∈ [1, 2], ∃ q f, seedHead (tsQueue 64 n) 0 = some q ∧ (tsQueue 64 n).field? q.part q.field = some f ∧ f.card.ab = 0 ∧ f.card.fb = 0 ∧
      planHead (tsQueue 64 n) 0 = [0] ∧ f.card.crews = n ∧ ∀ c ∈ (tsQueue 64 n).crews, c.key ≠ ⟨q.part, q.field, f.admitted⟩)
    ∧ (∃ q f v lacked, seedHead (tsQueue 2048 2) 0 = some q ∧ (tsQueue 2048 2).field? q.part q.field = some f ∧ planHead (tsQueue 2048 2) 0 = [] ∧
      (∀ c ∈ (tsQueue 2048 2).crews, ∀ r, c.pre = some r → r.core ≠ some 0) ∧
      headRoom (without (tsQueue 2048 2) (fun c => c.pre.isSome)) 0 q f < headRoom (without (without (tsQueue 2048 2) (fun c => c.pre.isSome))
        (fun x => (lowerOn (tsQueue 2048 2) 0 q.prio).any (fun u => withCrew (tsQueue 2048 2) u x))) 0 q f ∧
      v ∈ lowerOn (tsQueue 2048 2) 0 q.prio ∧ v.pre = none ∧
      lacked = holdsLacked (without (tsQueue 2048 2) (fun c => c.pre.isSome)) f.card 0
        (planned (headPlan (without (tsQueue 2048 2) (fun c => c.pre.isSome)) 0 q f) 0) ∧ lacked v = true ∧ lacked { v with tileLen := 0 } = false ∧
      (∀ c ∈ lowerOn (tsQueue 2048 2) 0 q.prio, c.pre = none → c = v) ∧ ((tsQueue 2048 2).crews.map (fun c => c.key)).Nodup) := by
  refine ⟨fun n hn => ⟨{ core := 0, prio := 1, part := 0, field := 2 }, pfield 2 (pcard n 1 1025) 0, ?_, ?_, ?_⟩,
    ⟨_, _, { tcrew with tileLen := 1024 * 2048 }, _, rfl, rfl, ?_, ?_, ?_, ?_, rfl, rfl, ?_, ?_, ?_, ?_⟩⟩
  any_goals (simp only [List.mem_cons, List.not_mem_nil, or_false] at hn; rcases hn with rfl | rfl)
  any_goals (intro c hc r hr; rw [List.mem_singleton.mp hc] at hr; exact nomatch hr)
  all_goals decide +kernel

/-- CrewReleaseCompletes: a crew whose herd has ended, of a field of one crew and of a field of two. -/
theorem witness_CrewRelease : ∃ h : Herd, h = { th with furrows := [{ fresh0 with st := .notLive }] } ∧
    ∀ n ∈ [1, 2], ∃ f, f = pfield 1 (pcard n 0 0) 1 ∧ ({ tsMem h with fields := [f] } : State).crew? tc = some tcrew ∧ tcrew.pre = none ∧
      crewBusy { tsMem h with fields := [f] } tc = false ∧ (∀ g ∈ ({ tsMem h with fields := [f] } : State).herds, g.ended = true ∧ g.tape.closed = []) ∧
      ({ tsMem h with fields := [f] } : State).field? tc.part tc.field = some f ∧ f.aborted = false ∧ f.card.crews = n := by
  refine ⟨_, rfl, fun n hn => ⟨_, rfl, rfl, rfl, ?_, ?_, rfl, rfl, ?_⟩⟩ <;>
    (simp only [List.mem_cons, List.not_mem_nil, or_false] at hn; rcases hn with rfl | rfl) <;> decide +kernel

/-- The crew with a pre-emption in some area, and the module with it and one saved crew in area 0. -/
def crewPre (a : Option Nat) (saved : List Nat) : Crew := { tcrew with pre := some { area := a, host := false, core := none }, savedHerds := saved }
def crewSaved : Crew := { tcrew with key := { tc with crew := 1 }, saved := some 0 }
def tsPre (h : Herd) (c : Crew) : State := { tsMem h with crews := [c, crewSaved], fields := [pfield 1 (pcard 2 0 64) 2] }

/-- HerdsAreSaved: an area to grant, a herd at its save point, and the timeout with a word issued and without. -/
theorem witness_HerdSaves :
    (∃ r, (tsPre th (crewPre none [])).crew? tc = some (crewPre none []) ∧ (crewPre none []).pre = some r ∧ r.area = none ∧
      1 < fld ((tsPre th (crewPre none [])).partReg 0 0x104) 15 0 ∧ areaUsed (tsPre th (crewPre none [])) 0 1 = false ∧
      ∀ j, j < 1 → areaUsed (tsPre th (crewPre none [])) 0 j = true)
    ∧ ((tsPre thWaits (crewPre (some 1) [])).herd? tk = some thWaits ∧ HerdShape thWaits ∧
      (tsPre thWaits (crewPre (some 1) [])).crew? tk.crew = some (crewPre (some 1) []) ∧ unsaved (tsPre thWaits (crewPre (some 1) [])) thWaits = true ∧
      atSavePoint (tsPre thWaits (crewPre (some 1) [])) thWaits = true ∧ thWaits.resident = true ∧ thWaits.boarding = none ∧ thWaits.pend = [] ∧
      thWaits.tape.closed = [] ∧ ∀ y ∈ thWaits.tape.streams, y.dirty = false)
    ∧ (∀ b ∈ [true, false], ∃ h, h = (if b then { thWaits with holds := [theHold (.remote (tremote 0 0x6000000000000000#64))] } else thWaits) ∧
      (crewHerds (tsPre h (crewPre (some 1) [])) tc).filter (unsaved (tsPre h (crewPre (some 1) []))) = [h] ∧
      (tsPre h (crewPre (some 1) [])).herd? h.key = some h ∧ h.resident = true ∧ h.boarding = none ∧ h.pend = [] ∧ HerdShape h ∧ h.tape.closed = [] ∧
      (∀ y ∈ h.tape.streams, y.dirty = false) ∧ forceWaits (tsPre h (crewPre (some 1) [])) tc [h] = b ∧ ∀ x ∈ h.holds, x.why ≠ .stop) := by
  refine ⟨⟨_, rfl, rfl, rfl, ?_, ?_, ?_⟩, ⟨rfl, shape_waits, rfl, ?_, ?_, rfl, rfl, rfl, rfl, by decide⟩, fun b hb => ⟨_, rfl, ?_⟩⟩
  · decide +kernel
  · decide +kernel
  · decide +kernel
  · decide +kernel
  · decide +kernel
  · have hs := shape_waits
    simp only [List.mem_cons, List.not_mem_nil, or_false] at hb
    rcases hb with rfl | rfl
    · exact ⟨by decide +kernel, rfl, rfl, rfl, rfl, ⟨hs.regs, hs.width, hs.acc, hs.furrows, hs.cvlim, hs.latch, hs.furs⟩, rfl, by decide, by decide +kernel,
        by decide +kernel⟩
    · exact ⟨by decide +kernel, rfl, rfl, rfl, rfl, hs, rfl, by decide, by decide +kernel, by decide +kernel⟩

/-- A field that declares a barrier of its field, its crews saved in areas 0 and 1 with barrier records that disagree. -/
def wholeField : FieldRec := pfield 1 { pcard 2 0 64 with w3 := 0x04000200 } 2
def savedTwo : List Crew := [{ tcrew with saved := some 0 }, { tcrew with key := { tc with crew := 1 }, saved := some 1 }]
def tsSavedTwo : State :=
  { tsMem thWaits with crews := savedTwo, fields := [wholeField], herds := [thWaits, { thWaits with key := { crew := { tc with crew := 1 }, herd := 0 } }]
                       hbm := Memory.put (tsMem thWaits).hbm 0x4000710 [1#8] }

/-- CrewsAreSavedAndRestored: a crew whose herd is saved, its restore, and a field whose copies disagree. -/
theorem witness_CrewSaves :
    (∃ f, f = pfield 1 (pcard 2 0 64) 2 ∧ (tsPre thWaits (crewPre (some 1) [0])).crews.filter (fun y => decide (y.key = tc)) = [crewPre (some 1) [0]] ∧
      (tsPre thWaits (crewPre (some 1) [0])).field? 0 1 = some f ∧ f.card.ab = 0 ∧ f.card.fb = 0 ∧ f.card.cb ≤ 16 ∧
      crewOver (tsPre thWaits (crewPre (some 1) [0])) (crewPre (some 1) [0]) = false ∧ crewBusy (tsPre thWaits (crewPre (some 1) [0])) tc = false ∧
      herdsSaved (tsPre thWaits (crewPre (some 1) [0])) (crewPre (some 1) [0]) = true ∧ (crewPre (some 1) [0]).tileLen ≤ 2 ^ 21)
    ∧ (∃ f cr, f = pfield 1 (pcard 2 0 64) 2 ∧ cr = { tcrew with saved := some 1 } ∧ (tsPre thWaits cr).crews.filter (fun y => decide (y.key = tc)) = [cr] ∧
      (tsPre thWaits cr).field? 0 1 = some f ∧ crewOver (tsPre thWaits cr) cr = false ∧ restorePlan (tsPre thWaits cr) f [cr] [] = some [0] ∧
      restoreFits (tsPre thWaits cr) f [cr] [0] = true ∧
      ((tsPre thWaits cr).herds.map (fun h => h.key)).Nodup)
    ∧ (∃ cr h, tsSavedTwo.crew? tc = some cr ∧ tsSavedTwo.field? 0 1 = some wholeField ∧ cr.saved.isSome = true ∧ crewOver tsSavedTwo cr = false ∧
      tsSavedTwo.crews.filter (fun y => withCrew tsSavedTwo cr y && !crewOver tsSavedTwo y) = savedTwo ∧ (∀ y ∈ savedTwo, y.saved.isSome = true) ∧
      restorePlan tsSavedTwo wholeField savedTwo [] = some [0, 0] ∧ restoreFits tsSavedTwo wholeField savedTwo [0, 0] = true ∧ copiesDisagree tsSavedTwo savedTwo wholeField.card = true ∧
      crewHerds tsSavedTwo tc = [h]) := by
  refine ⟨⟨_, rfl, ?_, rfl, ?_, ?_, ?_, ?_, ?_, ?_, ?_⟩, ⟨_, _, rfl, rfl, ?_, rfl, ?_, ?_, ?_, ?_⟩,
    ⟨{ tcrew with saved := some 0 }, thWaits, rfl, rfl, rfl, ?_, ?_, ?_, ?_, ?_, ?_, ?_⟩⟩ <;> decide +kernel

/-- CrewsAreSavedAndRestored: a crew whose core is no longer its partition's comes back on another one. -/
theorem witness_CrewMoves : ∃ s f cr, cr = { tcrew with core := 200, saved := some 1 } ∧ f = pfield 1 (pcard 2 0 64) 2 ∧
    s = { tsPre { thWaits with core := 200 } cr with
      cfg := some { wholeBlob with parts := wholeBlob.parts.map (fun c => { c with acres := [0] }) } } ∧
    s.crews.filter (fun y => decide (y.key = tc)) = [cr] ∧ s.field? 0 1 = some f ∧ crewOver s cr = false ∧
    restorePlan s f [cr] [] = some [0] ∧ restoreFits s f [cr] [0] = true ∧ 0 ≠ cr.core ∧ (s.herds.map (fun h => h.key)).Nodup := by
  refine ⟨_, _, _, rfl, rfl, rfl, ?_, ?_, ?_, ?_, ?_, ?_, ?_⟩ <;> decide +kernel

/-! ### Witnesses: the host, the peers and the management cores -/

/-- The module with some registers of partition 0's page set. -/
def withRegs (s : State) (l : List (Nat × Word)) : State := { s with hostRegs := l.foldl (fun m p => Sparse.set zeros m p.1 p.2) s.hostRegs }

/-- A launch queue of 16 entries at an address, with one entry to read. -/
def tsLaunch (base : Word) (bytes : List Byte) (seeds : List Seed) : State :=
  withRegs { tsMem th with hbm := Memory.put (tsMem th).hbm 0x20000000 bytes, objs := [tobj], seeds := seeds }
    [(0x000, base), (0x008, 4), (0x018, 1)]

/-- EntryWaits but for the parked reads, of which there are none. -/
def EntryAt (s : State) : Prop :=
  hostOn s 0 = true ∧ s.hostReg 0 0x010 ≠ s.hostReg 0 0x018 ∧ fld (s.hostReg 0 0x008) 4 0 ≤ 16 ∧ s.parked = []

/-- HostQueueEventsComplete, the launch queue: a card refused, one posted, one that meets a full queue; a read that faults and
one that meets a page fault. -/
theorem witness_LaunchQueue :
    (EntryAt (tsLaunch 0x200000000 [] []) ∧ ∃ bs, readEntry (tsLaunch 0x200000000 [] []) 0 (entryAddr (tsLaunch 0x200000000 [] []) 0) = .card bs ∧
      cardStatus (tsLaunch 0x200000000 [] []) 0 (cardOf bs) (cardOf bs).home false false ≠ 0)
    ∧ (EntryAt (tsLaunch 0x200000000 cardBytes []) ∧
      readEntry (tsLaunch 0x200000000 cardBytes []) 0 (entryAddr (tsLaunch 0x200000000 cardBytes []) 0) = .card cardBytes ∧
      cardStatus (tsLaunch 0x200000000 cardBytes []) 0 (cardOf cardBytes) (cardOf cardBytes).home false false = 0 ∧
      queueFull (tsLaunch 0x200000000 cardBytes []) (cardOf cardBytes).home (cardOf cardBytes).prio = false ∧
      sowsStalled (tsLaunch 0x200000000 cardBytes []) (cardOf cardBytes).home (cardOf cardBytes).prio = [])
    ∧ (EntryAt (tsLaunch 0x200000000 cardBytes fullSeeds) ∧
      readEntry (tsLaunch 0x200000000 cardBytes fullSeeds) 0 (entryAddr (tsLaunch 0x200000000 cardBytes fullSeeds) 0) = .card cardBytes ∧
      cardStatus (tsLaunch 0x200000000 cardBytes fullSeeds) 0 (cardOf cardBytes) (cardOf cardBytes).home false false = 0 ∧
      queueFull (tsLaunch 0x200000000 cardBytes fullSeeds) (cardOf cardBytes).home (cardOf cardBytes).prio = true)
    ∧ (EntryAt (tsLaunch 0x200000020 [] []) ∧ readEntry (tsLaunch 0x200000020 [] []) 0 (entryAddr (tsLaunch 0x200000020 [] []) 0) = .fault 1 0)
    ∧ (EntryAt (tsLaunch 0x200010000 [] []) ∧
      ∃ c, readEntry (tsLaunch 0x200010000 [] []) 0 (entryAddr (tsLaunch 0x200010000 [] []) 0) = .fault 4 c) := by
  unfold EntryAt
  refine ⟨⟨?_, _, rfl, ?_⟩, ⟨?_, ?_, ?_, ?_, ?_⟩, ⟨?_, ?_, ?_, ?_⟩, ⟨?_, ?_⟩, ⟨?_, _, rfl⟩⟩ <;> decide +kernel

/-- HostQueueEventsComplete: an entry whose line a copy owns, and one for whose queue a `sow` has stalled. -/
theorem witness_LaunchQueueWaits :
    (∃ s, s = { tsLaunch 0x200000000 [] [] with copies := [{ oneCopy with lines := [(0x20000000, 0x20000100)] }] } ∧
      EntryAt s ∧ readEntry s 0 (entryAddr s 0) = .later)
    ∧ (∃ s, s = { tsLaunch 0x200000000 cardBytes [] with herds := [thHolds (.sow (cardOf cardBytes) 0 63)] } ∧ EntryAt s ∧
      readEntry s 0 (entryAddr s 0) = .card cardBytes ∧ cardStatus s 0 (cardOf cardBytes) (cardOf cardBytes).home false false = 0 ∧
      sowsStalled s (cardOf cardBytes).home (cardOf cardBytes).prio ≠ []) := by
  unfold EntryAt
  refine ⟨⟨_, rfl, ⟨?_, ?_⟩, ?_⟩, ⟨_, rfl, ⟨?_, ?_⟩, ?_, ?_, ?_⟩⟩ <;> decide +kernel

/-- HostQueueEventsComplete, the records: every field at its width, in queues with one record before it. -/
theorem witness_Records :
    (∃ s c, s = withRegs { ts th with comps := [{ c with part := 1 }, c] } [(0x020, 0x8000), (0x028, 4), (0x038, 15)] ∧
      c = { part := 0, typ := 255, status := 0xFFFFFF, tag := 0xFFFFFFFF, field := 2 ^ 64 - 1, detail := 0 } ∧
      s.comps = [{ c with part := 1 }] ++ c :: [] ∧ hostOn s 0 = true ∧ queueOpen s 0 0x020 = true ∧ c.tag < 2 ^ 32 ∧ c.status < 2 ^ 24 ∧
      c.typ < 2 ^ 8 ∧ c.field < 2 ^ 64)
    ∧ (∃ s r, s = withRegs { ts th with faults := [{ r with part := 1 }, r] } [(0x040, 0x8000), (0x048, 16), (0x058, 1)] ∧
      r = { part := 0, seq := 0xFFFFFFFF, kind := 255, cause := 255, core := 255, slot := 255, addr := 0, field := 0xFFFFFFFF, lane := 255, cls := 15 } ∧
      s.faults = [{ r with part := 1 }] ++ r :: [] ∧ hostOn s 0 = true ∧ queueOpen s 0 0x040 = true ∧ r.seq < 2 ^ 32 ∧ r.kind < 2 ^ 8 ∧
      r.cause < 2 ^ 8 ∧ r.core < 2 ^ 8 ∧ r.slot < 2 ^ 8 ∧ r.field < 2 ^ 32 ∧ r.lane < 2 ^ 8 ∧ r.cls < 2 ^ 4) := by
  refine ⟨⟨_, _, rfl, rfl, rfl, ?_⟩, ⟨_, _, rfl, rfl, rfl, ?_⟩⟩ <;> decide +kernel

/-- A group parked on page fault 7, and the read of the launch queue. -/
def thParkedOn (res : Bool) : Herd := { thFur { fresh0 with st := .waiting (.fault 7) } with resident := res }
def tparked (k : Option HerdKey) : Parked := { part := 0, seq := 7, key := k, group := 1, cause := 0, addr := 0x200010000, lane := 255 }

/-- HostAnswersComplete: registers free and busy, an answer to nothing, to a group and to the launch queue. -/
theorem witness_HostAnswers :
    hostOn (ts th) 0 = true
    ∧ ((ts th).hostReg 0 0x010 = (ts th).hostReg 0 0x018 ∧ (ts th).hostReg 0 0x030 = (ts th).hostReg 0 0x038 ∧
      (ts th).hostReg 0 0x050 = (ts th).hostReg 0 0x058)
    ∧ (hostOn (tsLaunch 0 [] []) 0 = true ∧ (tsLaunch 0 [] []).hostReg 0 0x010 ≠ (tsLaunch 0 [] []).hostReg 0 0x018)
    ∧ (∀ x ∈ (ts th).parked, ¬ (x.part = 0 ∧ x.seq = fld 7 31 0))
    ∧ (∀ k ∈ [some tk, none], ({ ts (thParkedOn true) with parked := [tparked k] } : State).parked.find?
        (fun x => decide (x.part = 0) && decide (x.seq = fld 0x100000007 31 0)) = some (tparked k) ∧ fld 7 31 0 = fld 0x100000007 31 0)
    ∧ ((0x100000007#64).getLsbD 32 = true ∧ (7#64).getLsbD 32 = false ∧ (ts (thParkedOn true)).herd? tk = some (thParkedOn true) ∧
      (thParkedOn true).resident = true ∧ (thParkedOn true).handler = none ∧
      TrapFree (thParkedOn true) (furMask ((thParkedOn true).waitingOn (.fault 7)))) := by
  refine ⟨?_, ?_, ?_, ?_, ?_, ⟨?_, ?_, rfl, rfl, rfl, ?_⟩⟩ <;> decide +kernel

/-- HostRequestsComplete: fields with and without crews, registrations with each kind of status, a report. -/
theorem witness_HostRequests :
    hostOn (tsMem th) 0 = true
    ∧ (∀ c ∈ (tsMem th).crews, ¬ (c.key.part = 0 ∧ c.key.field = fld 2 31 0))
    ∧ (∃ f, (tsMem th).field? 0 (fld 1 31 0) = some f ∧ f.aborted = false ∧
        ∃ c ∈ (tsMem th).crews, c.key.part = 0 ∧ c.key.field = fld 1 31 0 ∧ c.saved = none)
    ∧ (∃ r : RegReq, r = { part := 0, va := 0x100000000, src := 0x8000, len := 2, tag := 9 } ∧
        regStatus (tsMem th) 0 r.va r.len true ≠ 0 ∧ regStatus (tsMem th) 0 r.va r.len false = 0 ∧
        some [0x1000000] = objPages (tsMem th) 0 r.va 2)
    ∧ (∃ (r : AttestReq) (s : State), s = { tsMem th with attests := [{ r with part := 1 }, r] } ∧ r = { part := 0, addr := 0x8000, objs := [(0x100000000, 0)] } ∧
        s.attests = [{ r with part := 1 }] ++ r :: [] ∧ ∀ x ∈ [{ r with part := 1 }], x.part ≠ 0) := by
  refine ⟨?_, ?_, ⟨_, rfl, rfl, tcrew, List.mem_singleton.mpr rfl, rfl, ?_, rfl⟩, ⟨_, rfl, ?_, ?_, ?_⟩,
    ⟨_, _, rfl, rfl, rfl, ?_⟩⟩ <;> decide +kernel

/-- PeersAreServed: a module that serves the peer of index 4095 over its last link; a peer that it does not know. -/
def tsPeers : State := { tsMem th with cfg := some { wholeBlob with peers := [{ index := 4095, links := [15], part := 3 }] } }
theorem witness_Peers :
    (∀ op ∈ [PeerOp.load 16, .store 16 7, .atomic .addI32 1 2], servesPeer tsPeers { index := 4095, part := 3, target := 0, va := 0x200000100, op := op } = true ∧
      (0x200000100#48).toNat % peerWidth op = 0)
    ∧ servesPeer tsPeers { index := 4095, part := 2, target := 0, va := 0x200000100, op := .load 4 } = false
    ∧ hostOn tsPeers 0 = true
    ∧ (∃ l e, walk tsPeers 0 (0x200000100#48).toNat = .leaf l (BitVec.ofNat 64 e) ∧
        (∀ k ∈ [AKind.load, .store, .atomic], permFault k false (BitVec.ofNat 64 e) = none) ∧
        lineOwned tsPeers (leafPA l (BitVec.ofNat 64 e) (0x200000100#48).toNat) 16 = false ∧
        tsPeers.hbmErr.contains (sectorOf (leafPA l (BitVec.ofNat 64 e) (0x200000100#48).toNat)) = false) := by
  refine ⟨?_, ?_, ?_, ⟨3, 0x3000000020000033, ?_, ?_, ?_, ?_⟩⟩ <;> decide +kernel

/-- Two partitions, of which the second, without a core on acre 1, may borrow `n` acres and has acre 2 in its first slot. -/
def tsLend (n : Nat) (acre2 : Lend) : State :=
  { tsMem th with
    cfg := some { wholeBlob with parts := wholeBlob.parts ++ wholeBlob.parts.map (fun c => { c with pid := 1, acres := [], lmax := n }) }
    lends := [acre2] }
def tlend (rc : Bool) : Lend := { acre := 2, borrower := 1, deadline := 65535, slot := 0, recalling := rc, done := false, saved := [] }

/-- ManagementEventsComplete, lending and recall: a free slot, none, a recall and its completion. -/
theorem witness_Lending :
    (∃ c b, (tsLend 2 (tlend false)).boot = .enabled ∧ (tsLend 2 (tlend false)).cfg = some b ∧ (tsLend 2 (tlend false)).partCfg 1 = some c ∧
      lendOf (tsLend 2 (tlend false)) 1 = none ∧ ownsAcre (tsLend 2 (tlend false)) 1 1 = false ∧ (∃ q ∈ b.parts, 1 ∈ q.acres) ∧
      (∀ x ∈ (tsLend 2 (tlend false)).crews, acreOf x.core = 1 → ownsAcre (tsLend 2 (tlend false)) x.key.part 1 = false) ∧ 1 < c.lmax ∧
      slotHeld (tsLend 2 (tlend false)) 1 1 = false ∧ ∀ i, i < 1 → slotHeld (tsLend 2 (tlend false)) 1 i = true)
    ∧ (∃ c, (tsLend 1 (tlend false)).partCfg 1 = some c ∧ ∀ j, j < c.lmax → slotHeld (tsLend 1 (tlend false)) 1 j = true)
    ∧ (lendOf (tsLend 1 (tlend false)) 2 = some (tlend false) ∧ (tlend false).recalling = false)
    ∧ (lendOf (tsLend 1 (tlend true)) 2 = some (tlend true) ∧ (tlend true).recalling = true ∧
      (∀ y ∈ (tsLend 1 (tlend true)).lends, y.acre = 2 → y.done = false → y = tlend true) ∧
      ∀ c ∈ (tsLend 1 (tlend true)).crews, acreOf c.core = 2 → c.saved.isSome = true) := by
  refine ⟨⟨_, _, rfl, rfl, rfl, ?_, ?_, ?_, ?_, ?_, ?_, ?_⟩, ⟨_, rfl, ?_⟩, ?_, ?_⟩ <;> decide +kernel

/-- What boot reads: a valid blob, and for partition 0 an image of 2048 bytes with the table that maps its page. -/
def tboot (images : Bool) (fw : Bool) : BootInput :=
  { fwEd := fw, fwMl := true, blobEd := true, blobMl := true, blob := wholeBlob, firmware := [], blobBytes := []
    images := if images then [{ pid := 0, sigEd := true, sigMl := true, va := 0x100000000, words := List.replicate 256 0#64
                                table := [(0x0, 0x101001), (0x1020, 0x102001), (0x2000, 0x103001), (0x3000, 0x10000A3)].flatMap
                                  (fun e => (leBytes 8 e.2).mapIdx (fun i b => (e.1 + i, b))) }] else [] }

/-- ManagementEventsComplete, boot: a signature that fails, a partition without an image, and a boot that ends. -/
theorem witness_Boot :
    bootChecks (tboot true false) = false
    ∧ (bootChecks (tboot false true) = true ∧ ∃ c ∈ (tboot false true).blob.parts, imageOk (tboot false true) (bootState (tboot false true) State.reset) c = false)
    ∧ (bootChecks (tboot true true) = true ∧ ∀ c ∈ (tboot true true).blob.parts, imageOk (tboot true true) (bootState (tboot true true) State.reset) c = true)
    ∧ State.reset.boot = .reset ∧ ({ State.reset with boot := .failed } : State).boot = .failed := by
  refine ⟨?_, ⟨?_, ?_⟩, ⟨?_, ?_⟩, rfl, rfl⟩ <;> decide +kernel

/-! ### Witnesses: steps, fetches, words and the whole state -/

/-- The herd with its PC somewhere, and the module whose next turn is its issue. -/
def thAt (pc : Word) : Herd := thFur { fresh0 with pc := pc }
def tsTurn (h : Herd) : State := { ts h with schedule := [.issue tk 0] }

/-- StepRunsTheDecodedWord: a turn that posts, beside accesses of the group and of another herd, and one whose word waits for them. -/
theorem witness_StepPosts :
    (∃ (s : State) (word : Word), s = { ts th with schedule := [.post tk 0], posted := tposts.tail } ∧ s.herd? tk = some th ∧ trapTurn th 0 = false ∧ th.canIssue 0 = true ∧
      fetchWord { s with schedule := [] } th (th.fur 0).pc = .word 0x1000000 word ∧ postedWaits { s with schedule := [] } th 0 true word = false ∧
      joinActs s th 0 = [.posted s.posted])
    ∧ ∃ word, encode (.exit plainHdr { d := 0, a := 0, sel := 0, x := 0 }) = some word ∧ postedWaits (tsPosted th) th 0 true word = true := by
  refine ⟨⟨_, 0#64, rfl, ?_, ?_, ?_, ?_, ?_, ?_⟩, ⟨_, rfl, ?_⟩⟩ <;> decide +kernel

/-- StepRunsTheDecodedWord: the word of zeros, a pending trap whose turn has come and one that another group's word still precedes,
a word that reads a register which another group's load is still to write,
and an event. -/
theorem witness_Step :
    (∃ word i, (tsTurn th).schedule = .issue tk 0 :: [] ∧ (tsTurn th).herd? tk = some th ∧ trapTurn th 0 = false ∧ th.canIssue 0 = true ∧
      fetchWord { tsTurn th with schedule := [] } th (th.fur 0).pc = .word 0x1000000 word ∧
      decodeBytes ((tsTurn th).hbm.bytes 0x1000000 8) = .ok (i, []) ∧ regBusy th word = false ∧
      postedWaits { tsTurn th with schedule := [] } th 0 false word = false)
    ∧ (∃ h : Herd, h = { thSplit with pend := [(1#8, trapAtWord tw thSplit 13 0)], pendSeen := 1#8 } ∧ trapTurn h 0 = true ∧
        trapTurn h 1 = false ∧ h.canIssue 1 = true)
    ∧ (∃ (h : Herd) (word : Word), h = { thSplit with holds := [{ group := 1#8, why := .remote (tremote 0 0x6000000000000000#64) }] } ∧
        encode (.add plainHdr { d := 1, a := 4, b := 2, fn := 0, mb := 0x30 }) = some word ∧ trapTurn h 1 = false ∧ h.canIssue 1 = true ∧
        regBusy h word = true)
    ∧ (Instr.poljorLinkDown 15).header = none
    ∧ (∃ s : State, s = { ts th with schedule := [.outside (.error (.hbm 5))] } ∧ s.schedule = .outside (.error (.hbm 5)) :: []) := by
  refine ⟨⟨0#64, .unassignedOpcode 0, rfl, rfl, by decide, by decide, ?_, ?_, ?_, ?_⟩, ⟨_, rfl, ?_, ?_, ?_⟩, ⟨_, _, rfl, rfl, ?_, ?_, ?_⟩, rfl, ⟨_, rfl, rfl⟩⟩ <;>
    decide +kernel

/-- What FetchFaultsTrapOrPark asks of a module and its herd. -/
def FetchAt (s : State) (h : Herd) (pc : Word) : Prop :=
  s.schedule = .issue tk 0 :: [] ∧ s.herd? tk = some h ∧ h.canIssue 0 = true ∧ pc = (h.fur 0).pc ∧ h.pend = []

theorem fetch_at (h : Herd) (pc : Word) (e : h.key = tk) (c : h.canIssue 0 = true) (d : pc = (h.fur 0).pc) (p : h.pend = []) :
    FetchAt (tsTurn h) h pc := by
  refine ⟨rfl, ?_, c, d, p⟩
  have : (tsTurn h).herds = [h] := rfl
  simp [State.herd?, this, e]

/-- The module with the data page's table, and the sector of the first word marked. -/
def tsData (h : Herd) : State := { tsMem h with schedule := [.issue tk 0] }
def tsPoison (h : Herd) : State := { tsTurn h with hbmErr := [sectorOf 0x1000000] }

/-- FetchFaultsTrapOrPark, traps: a misaligned PC, a reserved space, another space, a page outside the code arena, and a word with an
uncorrectable error; in a herd without a trap in progress and in one with. -/
theorem witness_FetchTraps :
    (∀ pc ∈ [0x100000004#64, 0x7000000100000000#64, 0x0001000000000000#64], FetchAt (tsTurn (thAt pc)) (thAt pc) pc ∧
      ∃ cls cause, FetchTraps { tsTurn (thAt pc) with schedule := [] } (thAt pc) pc cls cause)
    ∧ (FetchAt (tsData (thAt 0x200000000)) (thAt 0x200000000) 0x200000000 ∧
      FetchTraps { tsData (thAt 0x200000000) with schedule := [] } (thAt 0x200000000) 0x200000000 2 9)
    ∧ (FetchAt (tsPoison (thAt 0x100000000)) (thAt 0x100000000) 0x100000000 ∧
      FetchTraps { tsPoison (thAt 0x100000000) with schedule := [] } (thAt 0x100000000) 0x100000000 2 10)
    ∧ (∀ pc, (thAt pc).handler = none ∧ trapWaits (thAt pc) (furMask ((thAt pc).group 0)) = false)
    ∧ (∃ h : Herd, h = { thAt 0x100000004 with handler := some 1#8 } ∧ FetchAt (tsTurn h) h 0x100000004 ∧ h.handler.isSome = true ∧
      FetchTraps { tsTurn h with schedule := [] } h 0x100000004 1 0) := by
  refine ⟨fun pc hp => ⟨fetch_at _ _ rfl (by decide : (thAt 0).canIssue 0 = true) rfl rfl, ?_⟩,
    ⟨⟨rfl, rfl, by decide, rfl, rfl⟩, .inr (.inr (.inr ⟨by decide, by decide, 3, 0x3000000020000033#64, ?_, .inl ⟨by decide, rfl⟩⟩))⟩,
    ⟨⟨rfl, rfl, by decide, rfl, rfl⟩, .inr (.inr (.inr ⟨by decide, by decide, 3, 0x10000A3#64, ?_,
      .inr ⟨by decide, .inl (by decide), ?_, rfl⟩⟩))⟩,
    fun pc => ⟨rfl, (by decide : trapWaits th 1#8 = false)⟩, ⟨_, rfl, fetch_at _ _ rfl (by decide) rfl rfl, rfl, .inl ⟨by decide, rfl⟩⟩⟩
  · simp only [List.mem_cons, List.not_mem_nil, or_false] at hp
    rcases hp with rfl | rfl | rfl
    · exact ⟨1, 0, .inl ⟨by decide, rfl⟩⟩
    · exact ⟨2, 1, .inr (.inl ⟨by decide, by decide, rfl⟩)⟩
    · exact ⟨2, 2, .inr (.inr (.inl ⟨by decide, by decide, by decide, rfl⟩))⟩
  all_goals decide +kernel

/-- FetchFaultsTrapOrPark, page faults: a page without a table, and a supervisor page at user level. -/
theorem witness_FetchParks :
    (∃ pc cause, pc = 0xFFFFFFFFFFF8#64 ∧ FetchAt (tsTurn (thAt pc)) (thAt pc) pc ∧
      FetchParks { tsTurn (thAt pc) with schedule := [] } (thAt pc) pc cause)
    ∧ (∃ h s, h = thAt 0x100000000 ∧ s = run (tsTurn h) (pte 0x103000 0x1000083) ∧ FetchAt s h 0x100000000 ∧
      FetchParks { s with schedule := [] } h 0x100000000 3) := by
  refine ⟨⟨_, 1, rfl, fetch_at _ _ rfl (by decide) rfl rfl, by decide, by decide, .inl ?_⟩,
    ⟨_, _, rfl, rfl, ⟨rfl, rfl, by decide, rfl, rfl⟩, by decide, by decide,
      .inr ⟨3, 0x1000083#64, ?_, by decide, by decide, rfl, rfl⟩⟩⟩ <;> decide +kernel

/-- DecodeOfEncode: words of every format with their fields at their ends. -/
theorem witness_EncodedWords : (([] : List Byte).length < 8)
    ∧ ∀ i ∈ ([.add { plainHdr with ss := 3, wc := 7, pe := true, pn := true, pk := true, pr := 31 } { d := 255, a := 255, b := 255, fn := 255, mb := 255 },
        .fma plainHdr { d := 255, a := 0, b := 255, c := 0, mb := 255 }, .addi plainHdr { d := 255, a := 0, imm := 0xFFFF, mb := 1 },
        .movi plainHdr { d := 255, imm := 0xFFFFFFFF }, .br plainHdr { off := 0x800000, ck := 3, cn := true, cr := 31, hid := 15, rsv := 15 },
        .ld plainHdr 11 { d := 255, sb := 63, vo := 255, imm := 0xFFF, spc := 7, wid := 7 },
        .mma plainHdr { d := 63, sa := 63, sb := 63, sf := 63, x := 0x3FFF }, .sget plainHdr { d := 255, a := 255, sel := 0xFFFF, x := 255 },
        .unassignedOpcode 0xFFFFFFFFFFFFFFFF#64] : List Instr), i.wf = true ∧ (encode i).isSome = true := by
  decide +kernel

/-- StepKeepsSoundState: a sound state with a herd, whose next turn is an event. -/
theorem witness_SoundStep : ∃ s t, s = { ts th with schedule := [.event (.poljorLinkDown 15)] } ∧ Inv s ∧ step s = .next t := by
  refine ⟨_, _, rfl, ⟨?_, ?_, fun h hh => ?_, fun c hc => ?_, ?_, ?_, ?_, ?_, ?_⟩, rfl⟩
  · decide +kernel
  · decide +kernel
  · rw [show h = th from List.mem_singleton.mp hh]
    have f := herdInv_fresh { key := tk, core := 0, slice := 0, slot := 0, width := 8, nregs := 32, nacc := 2, sup := false, order := 0
                              entry := 0x100000000, args := 0 }
    exact ⟨f.s, f.s0, f.v, f.vtag, f.d, f.dtag, f.acc, f.furrows⟩
  · have e : c = Crew.fresh { key := tc, core := 0, herds := 1, tileLen := 0, order := 0 } := List.mem_singleton.mp hc
    rw [e]
    exact Sparse.wf_nil _
  · decide +kernel
  · decide +kernel
  · decide +kernel
  · decide +kernel
  · decide +kernel

/-- NewHerdsBeginAsTheTableSays and IntegerLanesAreBitVectors: a herd of the greatest width, the last element of a word. -/
theorem witness_WidthsAndElements :
    (∃ i : HerdInit, i.width = 8 ∨ i.width = 16 ∨ i.width = 32 ∨ i.width = 64)
    ∧ ((10, 8, 4) : Nat × Nat × Nat) ∈ [(1, 32, 1), (2, 32, 1), (10, 8, 4), (11, 16, 2)] ∧ 3 < 4 :=
  ⟨⟨{ key := tk, core := 0, slice := 0, slot := 0, width := 64, nregs := 32, nacc := 0, sup := false, order := 0, entry := 0, args := 0 },
    .inr (.inr (.inr rfl))⟩, by decide⟩

/-- CanonicalReadingIsCanonical: the element of one point, and products of the condenser that sum to one. -/
theorem witness_CanonicalElements :
    (∃ e : List Atom, e = { w := 2 ^ 24, x := 0x3F800000#32 } :: List.replicate 7 { w := 0, x := 0x3F800000#32 } ∧ e.length = 8 ∧ IsCanonical e)
    ∧ (([{ w := 2 ^ 47, x := 0x3F800000#32 }, { w := 2 ^ 47, x := 0x40000000#32 }] : List Atom).map (fun a => a.w)).sum = 2 ^ 48
    ∧ (∀ a ∈ ([{ w := 2 ^ 47, x := nan32 }, { w := 2 ^ 47, x := 0x40000000#32 }] : List Atom), isNan32 a.x = true → a.x = nan32) := by
  refine ⟨⟨_, rfl, rfl, ⟨rfl, rfl, ⟨1, by decide, by decide, fun i a b ha hb => ?_⟩, ?_, ?_⟩⟩, rfl, by decide⟩
  · have hb' : b = { w := 2 ^ 24, x := 0x3F800000#32 } := (Option.some.inj hb).symm
    subst hb'
    cases i with
    | zero =>
      have ha' : a = { w := 2 ^ 24, x := 0x3F800000#32 } := (Option.some.inj ha).symm
      subst ha'
      decide
    | succ n =>
      have hm := List.mem_of_getElem? (l := List.replicate 7 ({ w := 0, x := 0x3F800000#32 } : Atom)) (i := n) (by simpa using ha)
      rw [List.eq_of_mem_replicate hm]
      exact ⟨fun h => by omega, fun _ => ⟨rfl, rfl⟩⟩
  · decide +kernel
  · decide +kernel

/-! ### Decoding: a word of every instruction, written out from the encodings of R126 to R131, R139, R142, R192 and R252 -/

/-- The header of every other word. -/
def hdrD : Header := { ss := 2, wc := 5, u := true, pe := true, pn := false, pk := true, pr := 19 }

/-- Whether each of some words decodes to the instruction beside it. -/
def decodesAll (l : List (Nat × Instr)) : Bool := l.all (fun p => decide (decodeTableWord 64 p.1 = some p.2))

theorem test_decode_integer_lanes : decodesAll [
    (0x0040000305814235, .add plainHdr { d := 3, a := 5, b := 129, fn := 66, mb := 0x35 }),
    (0x00ABB30A108E5348, .sub hdrD { d := 10, a := 16, b := 142, fn := 83, mb := 0x48 }),
    (0x00C000111B9B645B, .mul plainHdr { d := 17, a := 27, b := 155, fn := 100, mb := 0x5B }),
    (0x012BB31826A8756E, .mulhi hdrD { d := 24, a := 38, b := 168, fn := 117, mb := 0x6E }),
    (0x0140001F31B58681, .min plainHdr { d := 31, a := 49, b := 181, fn := 134, mb := 0x81 }),
    (0x01ABB3263CC29794, .max hdrD { d := 38, a := 60, b := 194, fn := 151, mb := 0x94 }),
    (0x01C0002D47CFA8A7, .abs plainHdr { d := 45, a := 71, b := 207, fn := 168, mb := 0xA7 }),
    (0x022BB33452DCB9BA, .neg hdrD { d := 52, a := 82, b := 220, fn := 185, mb := 0xBA }),
    (0x0240003B5DE9CACD, .and plainHdr { d := 59, a := 93, b := 233, fn := 202, mb := 0xCD }),
    (0x02ABB34268F6DBE0, .or hdrD { d := 66, a := 104, b := 246, fn := 219, mb := 0xE0 }),
    (0x02C000497303ECF3, .xor plainHdr { d := 73, a := 115, b := 3, fn := 236, mb := 0xF3 }),
    (0x032BB3507E10FD06, .andn hdrD { d := 80, a := 126, b := 16, fn := 253, mb := 0x6 }),
    (0x03400057891D0E19, .not plainHdr { d := 87, a := 137, b := 29, fn := 14, mb := 0x19 }),
    (0x03ABB35E942A1F2C, .shl hdrD { d := 94, a := 148, b := 42, fn := 31, mb := 0x2C }),
    (0x03C000659F37303F, .shr plainHdr { d := 101, a := 159, b := 55, fn := 48, mb := 0x3F }),
    (0x042BB36CAA444152, .sar hdrD { d := 108, a := 170, b := 68, fn := 65, mb := 0x52 }),
    (0x04400073B5515265, .rot plainHdr { d := 115, a := 181, b := 81, fn := 82, mb := 0x65 }),
    (0x04ABB37AC05E6378, .popc hdrD { d := 122, a := 192, b := 94, fn := 99, mb := 0x78 }),
    (0x04C00081CB6B748B, .clz plainHdr { d := 129, a := 203, b := 107, fn := 116, mb := 0x8B }),
    (0x052BB388D678859E, .ctz hdrD { d := 136, a := 214, b := 120, fn := 133, mb := 0x9E }),
    (0x0540008FE18596B1, .brev plainHdr { d := 143, a := 225, b := 133, fn := 150, mb := 0xB1 }),
    (0x05ABB396EC92A7C4, .bfe hdrD { d := 150, a := 236, b := 146, fn := 167, mb := 0xC4 }),
    (0x05C0009DF79FB8D7, .mov plainHdr { d := 157, a := 247, b := 159, fn := 184, mb := 0xD7 }),
    (0x062BB3A402ACC9EA, .cmp hdrD { d := 164, a := 2, b := 172, fn := 201, mb := 0xEA })] = true := by decide +kernel

theorem test_decode_three_sources_and_immediates : decodesAll [
    (0x080000AB0DB9DAFD, .fma plainHdr { d := 171, a := 13, b := 185, c := 218, mb := 0xFD }),
    (0x086BB3B218C6EB10, .mad hdrD { d := 178, a := 24, b := 198, c := 235, mb := 0x10 }),
    (0x088000B923D3FC23, .sel plainHdr { d := 185, a := 35, b := 211, c := 252, mb := 0x23 }),
    (0x08EBB3C02EE00D36, .bfi hdrD { d := 192, a := 46, b := 224, c := 13, mb := 0x36 }),
    (0x090000C739ED1E49, .dot4 plainHdr { d := 199, a := 57, b := 237, c := 30, mb := 0x49 }),
    (0x0C2BB3CE44FA2F5C, .addi hdrD { d := 206, a := 68, imm := 0xFA2F, mb := 0x5C }),
    (0x0C4000D54F07406F, .muli plainHdr { d := 213, a := 79, imm := 0x740, mb := 0x6F }),
    (0x0CABB3DC5A145182, .andi hdrD { d := 220, a := 90, imm := 0x1451, mb := 0x82 }),
    (0x0CC000E365216295, .ori plainHdr { d := 227, a := 101, imm := 0x2162, mb := 0x95 }),
    (0x0D2BB3EA702E73A8, .xori hdrD { d := 234, a := 112, imm := 0x2E73, mb := 0xA8 }),
    (0x0D4000F17B3B84BB, .shli plainHdr { d := 241, a := 123, imm := 0x3B84, mb := 0xBB }),
    (0x0DABB3F8864895CE, .shri hdrD { d := 248, a := 134, imm := 0x4895, mb := 0xCE }),
    (0x0DC000FF9155A6E1, .sari plainHdr { d := 255, a := 145, imm := 0x55A6, mb := 0xE1 }),
    (0x0E2BB3069C62B7F4, .cmpi hdrD { d := 6, a := 156, imm := 0x62B7, mb := 0xF4 }),
    (0x0E40000DA76FC807, .mini plainHdr { d := 13, a := 167, imm := 0x6FC8, mb := 0x7 }),
    (0x0EABB314B27CD91A, .maxi hdrD { d := 20, a := 178, imm := 0x7CD9, mb := 0x1A }),
    (0x0F00001BBD89EA2D, .movi plainHdr { d := 27, imm := 0xBD89EA2D }),
    (0x0F6BB322C896FB40, .movs hdrD { d := 34, imm := 0xC896FB40 }),
    (0x0F800029D3A30C53, .movhs plainHdr { d := 41, imm := 0xD3A30C53 })] = true := by decide +kernel

theorem test_decode_float_lanes : decodesAll [
    (0x102BB330DEB01D66, .div hdrD { d := 48, a := 222, b := 176, fn := 29, mb := 0x66 }),
    (0x10400037E9BD2E79, .sqrt plainHdr { d := 55, a := 233, b := 189, fn := 46, mb := 0x79 }),
    (0x10ABB33EF4CA3F8C, .rsqrt hdrD { d := 62, a := 244, b := 202, fn := 63, mb := 0x8C }),
    (0x10C00045FFD7509F, .rcp plainHdr { d := 69, a := 255, b := 215, fn := 80, mb := 0x9F }),
    (0x112BB34C0AE461B2, .exp2 hdrD { d := 76, a := 10, b := 228, fn := 97, mb := 0xB2 }),
    (0x1140005315F172C5, .log2 plainHdr { d := 83, a := 21, b := 241, fn := 114, mb := 0xC5 }),
    (0x11ABB35A20FE83D8, .sin hdrD { d := 90, a := 32, b := 254, fn := 131, mb := 0xD8 }),
    (0x11C000612B0B94EB, .cos plainHdr { d := 97, a := 43, b := 11, fn := 148, mb := 0xEB }),
    (0x122BB3683618A5FE, .tanh hdrD { d := 104, a := 54, b := 24, fn := 165, mb := 0xFE }),
    (0x1240006F4125B611, .fclass plainHdr { d := 111, a := 65, b := 37, fn := 182, mb := 0x11 }),
    (0x12ABB3764C32C724, .rint hdrD { d := 118, a := 76, b := 50, fn := 199, mb := 0x24 }),
    (0x12C0007D573FD837, .ldexp plainHdr { d := 125, a := 87, b := 63, fn := 216, mb := 0x37 }),
    (0x132BB384624CE94A, .sgnj hdrD { d := 132, a := 98, b := 76, fn := 233, mb := 0x4A })] = true := by decide +kernel

theorem test_decode_conversion_and_cross_lane : decodesAll [
    (0x2000008B6D59FA5D, .cvt plainHdr { d := 139, a := 109, b := 89, fn := 250, mb := 0x5D }),
    (0x206BB39278660B70, .tag hdrD { d := 146, a := 120, b := 102, fn := 11, mb := 0x70 }),
    (0x2080009983731C83, .pack plainHdr { d := 153, a := 131, b := 115, fn := 28, mb := 0x83 }),
    (0x20EBB3A08E802D96, .unpk hdrD { d := 160, a := 142, b := 128, fn := 45, mb := 0x96 }),
    (0x240000A7998D3EA9, .shfl plainHdr { d := 167, a := 153, b := 141, fn := 62, mb := 0xA9 }),
    (0x246BB3AEA49A4FBC, .bcast hdrD { d := 174, a := 164, b := 154, fn := 79, mb := 0xBC }),
    (0x248000B5AFA760CF, .vote plainHdr { d := 181, a := 175, b := 167, fn := 96, mb := 0xCF }),
    (0x24EBB3BCBAB471E2, .ballot hdrD { d := 188, a := 186, b := 180, fn := 113, mb := 0xE2 }),
    (0x250000C3C5C182F5, .hred plainHdr { d := 195, a := 197, b := 193, fn := 130, mb := 0xF5 }),
    (0x256BB3CAD0CE9308, .hscan hdrD { d := 202, a := 208, b := 206, fn := 147, mb := 0x8 }),
    (0x258000D1DBDBA41B, .rdlane plainHdr { d := 209, a := 219, b := 219, fn := 164, mb := 0x1B }),
    (0x25EBB3D8E6E8B52E, .splat hdrD { d := 216, a := 230, b := 232, fn := 181, mb := 0x2E })] = true := by decide +kernel

theorem test_decode_uniform : decodesAll [
    (0x280000DFF1F5C641, .sadd plainHdr { d := 223, a := 241, b := 245, fn := 198, mb := 0x41 }),
    (0x286BB3E6FC02D754, .ssub hdrD { d := 230, a := 252, b := 2, fn := 215, mb := 0x54 }),
    (0x288000ED070FE867, .smul plainHdr { d := 237, a := 7, b := 15, fn := 232, mb := 0x67 }),
    (0x28EBB3F4121CF97A, .sand hdrD { d := 244, a := 18, b := 28, fn := 249, mb := 0x7A }),
    (0x290000FB1D290A8D, .sor plainHdr { d := 251, a := 29, b := 41, fn := 10, mb := 0x8D }),
    (0x296BB30228361BA0, .sxor hdrD { d := 2, a := 40, b := 54, fn := 27, mb := 0xA0 }),
    (0x2980000933432CB3, .sshl plainHdr { d := 9, a := 51, b := 67, fn := 44, mb := 0xB3 }),
    (0x29EBB3103E503DC6, .sshr hdrD { d := 16, a := 62, b := 80, fn := 61, mb := 0xC6 }),
    (0x2A000017495D4ED9, .ssar plainHdr { d := 23, a := 73, b := 93, fn := 78, mb := 0xD9 }),
    (0x2A6BB31E546A5FEC, .smin hdrD { d := 30, a := 84, b := 106, fn := 95, mb := 0xEC }),
    (0x2A8000255F7770FF, .smax plainHdr { d := 37, a := 95, b := 119, fn := 112, mb := 0xFF }),
    (0x2AEBB32C6A848112, .scmp hdrD { d := 44, a := 106, b := 132, fn := 129, mb := 0x12 }),
    (0x2B00003375919225, .ssel plainHdr { d := 51, a := 117, b := 145, c := 146, mb := 0x25 }),
    (0x2B6BB33A809EA338, .smov hdrD { d := 58, a := 128, b := 158, fn := 163, mb := 0x38 }),
    (0x2B8000418BABB44B, .saddi plainHdr { d := 65, a := 139, imm := 0xABB4, mb := 0x4B }),
    (0x2BEBB34896B8C55E, .sandi hdrD { d := 72, a := 150, imm := 0xB8C5, mb := 0x5E }),
    (0x2C00004FA1C5D671, .sori plainHdr { d := 79, a := 161, imm := 0xC5D6, mb := 0x71 }),
    (0x2C6BB356ACD2E784, .sshli hdrD { d := 86, a := 172, imm := 0xD2E7, mb := 0x84 })] = true := by decide +kernel

theorem test_decode_control_and_system : decodesAll [
    (0x3000005DB7DFF897, .nop plainHdr { d := 93, a := 183, sel := 0xDFF8, x := 0x97 }),
    (0x306BB364C2EC62AA, .br hdrD { off := 0x64C2EC, ck := 1, cn := true, cr := 2, hid := 10, rsv := 10 }),
    (0x3080006BCDF91ABD, .jmpi plainHdr { d := 107, a := 205, b := 249, fn := 26, mb := 0xBD }),
    (0x30EBB372D806CA0D, .call hdrD { off := 0x72D806, ck := 3, cn := false, cr := 10, hid := 0, rsv := 13 }),
    (0x31000079E3133CE3, .calli plainHdr { d := 121, a := 227, b := 19, fn := 60, mb := 0xE3 }),
    (0x316BB380EE204DF6, .ret hdrD { d := 128, a := 238, b := 32, fn := 77, mb := 0xF6 }),
    (0x31800087F92D9790, .head plainHdr { off := 0x87F92D, ck := 2, cn := false, cr := 23, hid := 9, rsv := 0 }),
    (0x31EBB38E043A6F1C, .exit hdrD { d := 142, a := 4, sel := 0x3A6F, x := 0x1C }),
    (0x320000950F47802F, .yield plainHdr { d := 149, a := 15, sel := 0x4780, x := 0x2F }),
    (0x326BB39C1A549142, .barw hdrD { d := 156, a := 26, sel := 0x5491, x := 0x42 }),
    (0x328000A32561A255, .bars plainHdr { d := 163, a := 37, sel := 0x61A2, x := 0x55 }),
    (0x32EBB3AA306EB368, .fence hdrD { d := 170, a := 48, sel := 0x6EB3, x := 0x68 }),
    (0x330000B1EFB11F22, .sow plainHdr { d := 177, sa := 59, sb := 59, sf := 4, x := 0x1F22 }),
    (0x336BB3B84688D58E, .trap hdrD { d := 184, a := 70, sel := 0x88D5, x := 0x8E }),
    (0x338000BF5195E6A1, .rft plainHdr { d := 191, a := 81, sel := 0x95E6, x := 0xA1 }),
    (0x33EBB3C65CA2F7B4, .sget hdrD { d := 198, a := 92, sel := 0xA2F7, x := 0xB4 }),
    (0x340000CD67AF08C7, .sset plainHdr { d := 205, a := 103, sel := 0xAF08, x := 0xC7 }),
    (0x346BB3D472BC19DA, .dqk hdrD { d := 212, a := 114, sel := 0xBC19, x := 0xDA }),
    (0x344000DB7DC92AED, .dqkAll plainHdr { d := 219, a := 125, sel := 0xC92A, x := 0xED }),
    (0x34ABB3E288D63B00, .brk hdrD { d := 226, a := 136, sel := 0xD63B, x := 0x0 })] = true := by decide +kernel

theorem test_decode_loads_and_stores : decodesAll [
    (0x42C000E94F8D30FC, .ld plainHdr 11 { d := 233, sb := 19, vo := 227, imm := 0x4C3, spc := 7, wid := 4 }),
    (0x466BB3F07BC17595, .st hdrD 9 { d := 240, sb := 30, vo := 240, imm := 0x5D6, spc := 2, wid := 5 })] = true := by decide +kernel

theorem test_decode_atomics : decodesAll [
    (0x480000F7A7F5BA6E, .aaddI32 plainHdr { d := 247, sb := 41, vo := 253, imm := 0x6E9, spc := 5, wid := 6 }),
    (0x486BB3FED029FF07, .aaddF32 hdrD { d := 254, sb := 52, vo := 10, imm := 0x7FC, spc := 0, wid := 7 }),
    (0x48800005FC5E43D8, .aminI32 plainHdr { d := 5, sb := 63, vo := 23, imm := 0x90F, spc := 3, wid := 0 }),
    (0x48EBB30C289284B1, .aminN32 hdrD { d := 12, sb := 10, vo := 36, imm := 0xA12, spc := 6, wid := 1 }),
    (0x4900001354C6C94A, .aminF32 plainHdr { d := 19, sb := 21, vo := 49, imm := 0xB25, spc := 1, wid := 2 }),
    (0x496BB31A80FB0E23, .amaxI32 hdrD { d := 26, sb := 32, vo := 62, imm := 0xC38, spc := 4, wid := 3 }),
    (0x49800021AD2F52FC, .amaxN32 plainHdr { d := 33, sb := 43, vo := 75, imm := 0xD4B, spc := 7, wid := 4 }),
    (0x49EBB328D9639795, .amaxF32 hdrD { d := 40, sb := 54, vo := 88, imm := 0xE5E, spc := 2, wid := 5 }),
    (0x4A00002F0597D86E, .aand plainHdr { d := 47, sb := 1, vo := 101, imm := 0xF61, spc := 5, wid := 6 }),
    (0x4A6BB33631C81D07, .aor hdrD { d := 54, sb := 12, vo := 114, imm := 0x74, spc := 0, wid := 7 }),
    (0x4A80003D5DFC61D8, .axor plainHdr { d := 61, sb := 23, vo := 127, imm := 0x187, spc := 3, wid := 0 }),
    (0x4AEBB3448A30A6B1, .axch hdrD { d := 68, sb := 34, vo := 140, imm := 0x29A, spc := 6, wid := 1 }),
    (0x4B00004BB664EB4A, .acas plainHdr { d := 75, sb := 45, vo := 153, imm := 0x3AD, spc := 1, wid := 2 })] = true := by decide +kernel

theorem test_decode_reductions : decodesAll [
    (0x4C2BB352E2992C23, .raddI32 hdrD { d := 82, sb := 56, vo := 166, imm := 0x4B0, spc := 4, wid := 3 }),
    (0x4C4000590ECD70FC, .raddF32 plainHdr { d := 89, sb := 3, vo := 179, imm := 0x5C3, spc := 7, wid := 4 }),
    (0x4CABB3603B01B595, .rminI32 hdrD { d := 96, sb := 14, vo := 192, imm := 0x6D6, spc := 2, wid := 5 }),
    (0x4CC000676735FA6E, .rminN32 plainHdr { d := 103, sb := 25, vo := 205, imm := 0x7E9, spc := 5, wid := 6 }),
    (0x4D2BB36E936A3F07, .rminF32 hdrD { d := 110, sb := 36, vo := 218, imm := 0x8FC, spc := 0, wid := 7 }),
    (0x4D400075BF9E83D8, .rmaxI32 plainHdr { d := 117, sb := 47, vo := 231, imm := 0xA0F, spc := 3, wid := 0 }),
    (0x4DABB37CEBD2C4B1, .rmaxN32 hdrD { d := 124, sb := 58, vo := 244, imm := 0xB12, spc := 6, wid := 1 }),
    (0x4DC000831407094A, .rmaxF32 plainHdr { d := 131, sb := 5, vo := 1, imm := 0xC25, spc := 1, wid := 2 }),
    (0x4E2BB38A403B4E23, .rand hdrD { d := 138, sb := 16, vo := 14, imm := 0xD38, spc := 4, wid := 3 }),
    (0x4E4000916C6F92FC, .ror plainHdr { d := 145, sb := 27, vo := 27, imm := 0xE4B, spc := 7, wid := 4 }),
    (0x4EABB39898A3D795, .rxor hdrD { d := 152, sb := 38, vo := 40, imm := 0xF5E, spc := 2, wid := 5 })] = true := by decide +kernel

theorem test_decode_copies_and_maintenance : decodesAll [
    (0x5000009FC75180C4, .cpy plainHdr { d := 159, sa := 49, sb := 53, sf := 6, x := 0xC4 }),
    (0x506BB3A6F025C585, .cpyg hdrD { d := 166, sa := 60, sb := 2, sf := 23, x := 0x585 }),
    (0x508000AD1CFA0A46, .cwait plainHdr { d := 173, sa := 7, sb := 15, sf := 40, x := 0xA46 }),
    (0x50EBB3B449CE4F07, .smap hdrD { d := 180, sa := 18, sb := 28, sf := 57, x := 0xF07 }),
    (0x510000BB769293C8, .sunmap plainHdr { d := 187, sa := 29, sb := 41, sf := 10, x := 0x13C8 }),
    (0x516BB3C2A1D96C23, .pf hdrD { d := 194, sb := 40, vo := 118, imm := 0x5B0, spc := 4, wid := 3 }),
    (0x518000C9CE0DB0FC, .cinv plainHdr { d := 201, sb := 51, vo := 131, imm := 0x6C3, spc := 7, wid := 4 }),
    (0x51EBB3D0FA41F595, .cwb hdrD { d := 208, sb := 62, vo := 144, imm := 0x7D6, spc := 2, wid := 5 }),
    (0x520000D7099D8C99, .tlbiPage plainHdr { d := 215, a := 9, sel := 0x9D8C, x := 0x99 }),
    (0x522BB3DE14AA9DAC, .tlbiAll hdrD { d := 222, a := 20, sel := 0xAA9D, x := 0xAC }),
    (0x520000E51FB7B2BF, .tlbiPid plainHdr { d := 229, a := 31, sel := 0xB7B2, x := 0xBF })] = true := by decide +kernel

theorem test_decode_matrix : decodesAll [
    (0x602BB3ECA840750F, .mma hdrD { d := 236, sa := 42, sb := 4, sf := 1, x := 0x350F }),
    (0x604000F3D514B9D0, .mzero plainHdr { d := 243, sa := 53, sb := 17, sf := 18, x := 0x39D0 }),
    (0x60ABB3FA01E8FE91, .mld hdrD { d := 250, sa := 0, sb := 30, sf := 35, x := 0x3E91 }),
    (0x60C000012EBD0352, .mst plainHdr { d := 1, sa := 11, sb := 43, sf := 52, x := 0x352 }),
    (0x612BB3085B814813, .mabs hdrD { d := 8, sa := 22, sb := 56, sf := 5, x := 0x813 }),
    (0x6140000F84558CD4, .mmov plainHdr { d := 15, sa := 33, sb := 5, sf := 22, x := 0xCD4 }),
    (0x61ABB316B129D195, .mrd hdrD { d := 22, sa := 44, sb := 18, sf := 39, x := 0x1195 })] = true := by decide +kernel

theorem test_decode_ring : decodesAll [
    (0x7000001DDDFE1656, .board plainHdr { d := 29, sa := 55, sb := 31, sf := 56, x := 0x1656 }),
    (0x706BB3240AC25B17, .rtile hdrD { d := 36, sa := 2, sb := 44, sf := 9, x := 0x1B17 }),
    (0x7080002B37969FD8, .rfree plainHdr { d := 43, sa := 13, sb := 57, sf := 26, x := 0x1FD8 }),
    (0x70EBB332606AE499, .alight hdrD { d := 50, sa := 24, sb := 6, sf := 43, x := 0x2499 }),
    (0x710000398D3F295A, .rpos plainHdr { d := 57, sa := 35, sb := 19, sf := 60, x := 0x295A }),
    (0x716BB340BA036E1B, .rpace hdrD { d := 64, sa := 46, sb := 32, sf := 13, x := 0x2E1B }),
    (0x71800047E6D7B2DC, .rinst plainHdr { d := 71, sa := 57, sb := 45, sf := 30, x := 0x32DC }),
    (0x71EBB34E13ABF79D, .rstat hdrD { d := 78, sa := 4, sb := 58, sf := 47, x := 0x379D })] = true := by decide +kernel

theorem test_decode_distributions : decodesAll [
    (0x80000055CF87C0EF, .dadd plainHdr { d := 85, a := 207, b := 135, fn := 192, mb := 0xEF }),
    (0x806BB35CDA94D102, .dsub hdrD { d := 92, a := 218, b := 148, fn := 209, mb := 0x2 }),
    (0x80800063E5A1E215, .dmul plainHdr { d := 99, a := 229, b := 161, fn := 226, mb := 0x15 }),
    (0x80EBB36AF0AEF328, .dmin hdrD { d := 106, a := 240, b := 174, fn := 243, mb := 0x28 }),
    (0x81000071FBBB043B, .dmax plainHdr { d := 113, a := 251, b := 187, fn := 4, mb := 0x3B }),
    (0x816BB37806C8154E, .dneg hdrD { d := 120, a := 6, b := 200, fn := 21, mb := 0x4E }),
    (0x8180007F11D52661, .dscl plainHdr { d := 127, a := 17, b := 213, fn := 38, mb := 0x61 }),
    (0x81EBB3861CE23774, .dmix hdrD { d := 134, a := 28, b := 226, fn := 55, mb := 0x74 }),
    (0x8200008D27EF4887, .dpt plainHdr { d := 141, a := 39, b := 239, fn := 72, mb := 0x87 }),
    (0x826BB39432FC599A, .datm hdrD { d := 148, a := 50, b := 252, fn := 89, mb := 0x9A }),
    (0x8280009B3D096AAD, .dget plainHdr { d := 155, a := 61, b := 9, fn := 106, mb := 0xAD }),
    (0x82EBB3A248167BC0, .dtag hdrD { d := 162, a := 72, imm := 0x167B, mb := 0xC0 }),
    (0x830000A953238CD3, .dmom plainHdr { d := 169, a := 83, b := 35, fn := 140, mb := 0xD3 }),
    (0x836BB3B05E309DE6, .dqnt hdrD { d := 176, a := 94, b := 48, fn := 157, mb := 0xE6 }),
    (0x838000B7693DAEF9, .dcdf plainHdr { d := 183, a := 105, b := 61, fn := 174, mb := 0xF9 })] = true := by decide +kernel

theorem test_decode_tape : decodesAll [
    (0x902BB3BE744ABF0C, .trec hdrD { d := 190, a := 116, b := 74, fn := 191, mb := 0xC }),
    (0x904000C57F57D01F, .trbr plainHdr { d := 197, a := 127, b := 87, fn := 208, mb := 0x1F }),
    (0x90ABB3CC8A64E132, .tmark hdrD { d := 204, a := 138, imm := 0x64E1, mb := 0x32 }),
    (0x90C000D39571F245, .tply plainHdr { d := 211, a := 149, b := 113, fn := 242, mb := 0x45 }),
    (0x912BB3DAA07E0358, .tplb hdrD { d := 218, a := 160, b := 126, fn := 3, mb := 0x58 }),
    (0x914000E1AB8B146B, .tpmk plainHdr { d := 225, a := 171, b := 139, fn := 20, mb := 0x6B }),
    (0x91ABB3E8D9896033, .tbgn hdrD { d := 232, sa := 54, sb := 24, sf := 37, x := 0x2033 }),
    (0x91C000EFC1A53691, .tend plainHdr { d := 239, a := 193, sel := 0xA536, x := 0x91 }),
    (0x922BB3F63321E9B5, .tseg hdrD { d := 246, sa := 12, sb := 50, sf := 7, x := 0x29B5 })] = true := by decide +kernel

/-- Words at the ends of the opcodes that R140 leaves unassigned, and bytes too few for a word (R125). -/
theorem test_decode_unassigned :
    ([0x019, 0x03B, 0x03F, 0x0D3, 0x10C, 0x11F, 0x149, 0x1BF, 0x20F, 0x3FF].all (fun n =>
      decide (decodeTableWord 64 (n * 2 ^ 54 + 5) = some (.unassignedOpcode (BitVec.ofNat 64 (n * 2 ^ 54 + 5)))))) = true := by decide +kernel

theorem test_decode_short : decodeBytes (List.replicate 7 0#8) = .error .shortWord := by decide

/-! ### Ill-formed terms, one or more for each check of WellFormed.lean -/

theorem test_illformed_selectors :
    (([.dqk plainHdr { d := 0, a := 0, sel := 0, x := 1 }, .dqkAll plainHdr { d := 0, a := 0, sel := 0, x := 2 },
       .ld plainHdr 12 { d := 0, sb := 0, vo := 0, imm := 0, spc := 0, wid := 0 }, .st plainHdr 15 { d := 0, sb := 0, vo := 0, imm := 0, spc := 0, wid := 0 },
       .tlbiPage plainHdr { d := 0, a := 0, sel := 1, x := 0 }, .tlbiPage plainHdr { d := 0, a := 0, sel := 2, x := 0 },
       .tlbiAll plainHdr { d := 0, a := 0, sel := 0, x := 0 }, .tlbiPid plainHdr { d := 0, a := 0, sel := 3, x := 0 },
       .unassignedOpcode 0x0040000904050040#64] : List Instr).all (fun i => !i.wf)) = true := by decide +kernel

/-- A partition, a furrow and a window beyond the last. -/
def tcBad : CrewKey := { tc with part := 15 }
def tkBad : HerdKey := { tk with crew := tcBad }

theorem test_illformed_herd_events :
    (([.patienceExpiry tkBad 0, .patienceExpiry tk 8, .crewRelease tcBad, .yieldExpiry tkBad 0, .yieldExpiry tk 8, .sowStalledPost tkBad 0,
       .sowStalledPost tk 8, .siteRewrite tkBad 0, .siteRewrite tk 8, .remoteAnswer tkBad 0 [], .remoteAnswer tk 8 [], .peerTimeout tkBad 0,
       .peerTimeout tk 8, .copyStart tkBad 0, .copyStart tk 8, .copyRetire tkBad 1 { bytes := [], failed := [] }, .windowSectorRecall tcBad 0 0,
       .windowSectorRecall tc 8 0, .holdLimitExpiry tkBad, .tapeBlockWrite tkBad, .penning tkBad, .herdResidency tkBad, .crewSaveAreaGrant tcBad,
       .preemptHerdSave tkBad, .preemptTimeout tcBad, .crewSaveComplete tcBad, .crewRestore tcBad] : List Instr).all (fun i => !i.wf)) = true := by
  decide +kernel

theorem test_illformed_core_and_host_events :
    (([.leaveGrant 192 0, .leaveGrant 0 4, .matrixReadPhaseEnd 192 0, .matrixReadPhaseEnd 0 4, .matrixCommandRetire 192 0, .matrixCommandRetire 0 4,
       .tileArrival 12 false, .tilePassed 12, .condenserComplete 192 0, .condenserComplete 0 4, .admission 192, .lqtail 15 0, .launchQueueEntryRead 15,
       .completionRecordWrite 15, .faultRecordWrite 15, .fresp 15 0, .reggo 15 0, .registrationComplete 15 false, .preempt 15 0,
       .attest 15 0, .attestationWritten 15, .hostRegisterWrite 15 0 0, .lend 24 0 1, .lend 0 15 1, .lend 0 0 0, .lend 0 0 65536, .recallAcre 24,
       .recallComplete 24, .peerAccessRequest { index := 4096, part := 0, target := 0, va := 0, op := .load 4 }, .poljorLinkDown 16, .poljorLinkUp 16,
       .l1SectorEviction 192 0] : List Instr).all (fun i => !i.wf)) = true := by
  decide +kernel

/-! ### One step each: lane arithmetic. Values are the manual's where a rule is named, else worked by hand from the rule. -/

/-- The issuing herd after one step of an instruction. -/
def after (s : State) (i : Instr) : Option Herd := match exec i s with | .next t => t.herd? tk | _ => none

/-- Lane 7 alone is on the current path; there v4, v5 and v6 hold three words. -/
def thV (a b c : Lane) : Herd :=
  { th with v := Sparse.set zeros (Sparse.set zeros (Sparse.set zeros [] 263 a) 327 b) 391 c
            furrows := [{ fresh0 with path := 0x80 }] }

/-- Lane 7 of v9 after an instruction on those words. -/
def res (i : Instr) (a b c : Lane) : Option Lane := (after (ts (thV a b c)) i).map (fun h => h.vreg 9 7)

/-- An F3 word on v4 and v5, an F4 word on v4 to v6, an FI word on v4. -/
def f3 (fn mb : BitVec 8) : F3 := { d := 9, a := 4, b := 5, fn := fn, mb := mb }
def f1 (mb : BitVec 8) : F3 := { d := 9, a := 4, b := 0, fn := 0, mb := mb }
def f4 (mb : BitVec 8) : F4 := { d := 9, a := 4, b := 5, c := 6, mb := mb }
def fi (imm : BitVec 16) (mb : BitVec 8) : FI := { d := 9, a := 4, imm := imm, mb := mb }

/-- Whether each instruction gives the word beside it. -/
def gives (l : List (Instr × Lane × Lane × Lane × Lane)) : Bool := l.all (fun p => decide (res p.1 p.2.1 p.2.2.1 p.2.2.2.1 = some p.2.2.2.2))

/-- R160 to R163: wraps, saturation, the manual's `mulhi`, and its signed zeros of E4M3. -/
theorem test_arithmetic : gives [
    (.add plainHdr (f3 0 0x10), 0x7FFFFFFF, 1, 0, 0x80000000), (.add plainHdr (f3 0 0x12), 0x7FFFFFFF, 1, 0, 0x7FFFFFFF),
    (.sub plainHdr (f3 0 0x20), 0, 1, 0, 0xFFFFFFFF), (.sub plainHdr (f3 0 0x22), 0, 1, 0, 0),
    (.mul plainHdr (f3 0 0x30), 0x40400000, 0x3F000000, 0, 0x3FC00000), (.mul plainHdr (f3 0 0xB2), 0x8000FFFF, 0x80000002, 0, 0x7FFFFFFE),
    (.mulhi plainHdr (f3 0 0x20), 0xFFFFFFFF, 2, 0, 1), (.mulhi plainHdr (f3 0 0x10), 0xFFFFFFFF, 2, 0, 0xFFFFFFFF),
    (.min plainHdr (f3 0 0x60), 0x00008000, 0x00000080, 0, 0x00008080), (.max plainHdr (f3 0 0x60), 0x00008000, 0x00000080, 0, 0),
    (.min plainHdr (f3 0 0x30), 0x7FC00001, 0x3F800000, 0, 0x3F800000), (.max plainHdr (f3 0 0x20), 0xFFFFFFFF, 1, 0, 0xFFFFFFFF),
    (.abs plainHdr (f1 0x10), 0x80000000, 0, 0, 0x80000000), (.abs plainHdr (f1 0x12), 0x80000000, 0, 0, 0x7FFFFFFF),
    (.neg plainHdr (f1 0x20), 1, 0, 0, 0xFFFFFFFF), (.neg plainHdr (f1 0x80), 0x00000040, 0, 0, 0x000000C0)] = true := by decide +kernel

/-- R167 to R171: the manual's `not`, `andi` and `ctz` of round 4, shifts by the width and beyond it. -/
theorem test_bits : gives [
    (.and plainHdr (f3 0 0), 0xF0F0FF00, 0x0FF0F0F0, 0, 0x00F0F000), (.or plainHdr (f3 0 0), 0xF0F0FF00, 0x0FF0F0F0, 0, 0xFFF0FFF0),
    (.xor plainHdr (f3 0 0), 0xF0F0FF00, 0x0FF0F0F0, 0, 0xFF000FF0), (.andn plainHdr (f3 0 0), 0xF0F0FF00, 0x0FF0F0F0, 0, 0xF0000F00),
    (.not plainHdr (f1 0x20), 0xA, 0, 0, 0xFFFFFFF5), (.andi plainHdr (fi 0xFFFE 0x20), 0xFFFFFFF5, 0, 0, 0x0000FFF4),
    (.ctz plainHdr (f1 0x20), 0x0000FFF4, 0, 0, 2), (.ctz plainHdr (f1 0x10), 0, 0, 0, 32), (.clz plainHdr (f1 0xB0), 0x00010000, 0, 0, 0x000F0010),
    (.popc plainHdr (f1 0xA0), 0xFF010300, 0, 0, 0x08010200), (.brev plainHdr (f1 0x20), 0x00000003, 0, 0, 0xC0000000),
    (.shl plainHdr (f3 0 0xB0), 0x80018001, 0x00010010, 0, 0x00020000), (.shr plainHdr (f3 0 0x10), 0x80000000, 31, 0, 1),
    (.sar plainHdr (f3 0 0x20), 0x80000000, 32, 0, 0xFFFFFFFF), (.rot plainHdr (f3 0 0x20), 0x80000001, 33, 0, 3),
    (.ori plainHdr (fi 0x8000 0), 1, 0, 0, 0x00008001), (.xori plainHdr (fi 0xFFFF 0), 0xFFFFFFFF, 0, 0, 0xFFFF0000),
    (.shli plainHdr (fi 4 0x20), 0x12345678, 0, 0, 0x23456780), (.shri plainHdr (fi 23 0x20), 0x40E80000, 0, 0, 129),
    (.sari plainHdr (fi 0xFFFF 0x10), 0x80000000, 0, 0, 0xFFFFFFFF)] = true := by decide +kernel

/-- R164 to R166, R170 to R174, R182: immediates, sums of products, fields, selections and comparisons. -/
theorem test_immediates_and_fields : gives [
    (.addi plainHdr (fi 0xFFF9 0x10), 129, 0, 0, 122), (.muli plainHdr (fi 0xFFFE 0x20), 3, 0, 0, 0x0002FFFA),
    (.mini plainHdr (fi 0xFFFF 0x10), 5, 0, 0, 0xFFFFFFFF), (.maxi plainHdr (fi 0xFFFF 0x20), 5, 0, 0, 0x0000FFFF),
    (.cmpi plainHdr (fi 0xA064 0x10), 100, 0, 0, 0xFFFFFFFF), (.cmpi plainHdr (fi 0x5FFF 0x10), 0, 0, 0, 0),
    (.cmp plainHdr (f3 2 0x30), 0x80000000, 0, 0, 0), (.cmp plainHdr (f3 1 0x30), 0x7FC00000, 0x7FC00000, 0, 0xFFFFFFFF),
    (.cmp plainHdr (f3 4 0xA0), 0x01FF7F80, 0x0001807F, 0, 0xFF00FF00),
    (.fma plainHdr (f4 0x30), 0x40000000, 0x40400000, 0x3F800000, 0x40E00000), (.mad plainHdr (f4 0x12), 0x10000, 0x10000, 0xFFFFFFFF, 0x7FFFFFFF),
    (.dot4 plainHdr (f4 0xA0), 0x01020304, 0xFF010101, 10, 18), (.dot4 plainHdr (f4 0xA2), 0x7F7F7F7F, 0x7F7F7F7F, 0x7FFFFFFF, 0x7FFFFFFF),
    (.dot4 plainHdr (f4 0x40), 0x3C004000, 0x3C003C00, 0x3F800000, 0x40800000),
    (.bfe plainHdr (f3 0 0x10), 0x00F00000, 0x0414, 0, 0xFFFFFFFF), (.bfe plainHdr (f3 0 0x20), 0xF0000000, 0x3F1C, 0, 0xF),
    (.bfi plainHdr (f4 0), 0xFFFFFFFF, 0, 0x0808, 0xFFFF00FF), (.sel plainHdr (f4 0), 7, 8, 2, 8), (.mov plainHdr (f1 0), 0xDEADBEEF, 0, 0, 0xDEADBEEF),
    (.movi plainHdr { d := 9, imm := 0x3F800000 }, 0, 0, 0, 0x3F800000), (.pack plainHdr (f3 3 0x60), 0x11223344, 0x55, 0, 0x55223344),
    (.unpk plainHdr { f3 4 0x90 with b := 0 }, 0x3F000000, 0, 0, 0x3F)] = true := by decide +kernel

/-- R175 to R179: the correctly rounded functions, exact and special arguments of the others, classes and signs. -/
theorem test_floats : gives [
    (.div plainHdr (f3 0 0x30), 0x3F800000, 0x40400000, 0, 0x3EAAAAAB), (.div plainHdr (f3 0 0x34), 0x3F800000, 0x40400000, 0, 0x3EAAAAAA),
    (.sqrt plainHdr (f1 0x30), 0x80000000, 0, 0, 0x80000000), (.sqrt plainHdr (f1 0x40), 0x48803C00, 0, 0, 0x42003C00),
    (.rint plainHdr (f1 0x30), 0xBF000000, 0, 0, 0x80000000), (.rint plainHdr (f1 0x38), 0x40100000, 0, 0, 0x40400000),
    (.ldexp plainHdr (f3 0 0x30), 0x3F800000, 0xFFFFFFFF, 0, 0x3F000000), (.rcp plainHdr (f1 0x30), 0x80000000, 0, 0, 0xFF800000),
    (.rcp plainHdr (f1 0x40), 0x44004000, 0, 0, 0x34003800), (.rsqrt plainHdr (f1 0x30), 0xBF800000, 0, 0, 0x7FC00000),
    (.exp2 plainHdr (f1 0x30), 0x40400000, 0, 0, 0x41000000), (.log2 plainHdr (f1 0x30), 0x41000000, 0, 0, 0x40400000),
    (.sin plainHdr (f1 0x30), 0x80000000, 0, 0, 0x80000000), (.cos plainHdr (f1 0x30), 0, 0, 0, 0x3F800000),
    (.tanh plainHdr (f1 0x30), 0xC1180000, 0, 0, 0xBF800000), (.fclass plainHdr (f1 0x40), 0x80007C00, 0, 0, 0x00080080),
    (.fclass plainHdr (f1 0x30), 0x80000001, 0, 0, 0x4), (.sgnj plainHdr (f3 1 0x30), 0x3F800000, 0x3F800000, 0, 0xBF800000)] = true := by
  decide +kernel

/-- R180: conversions of one word, with v9 as it was before. -/
def cvtGives (fn mb : BitVec 8) (l : List (Lane × Lane)) : Bool :=
  l.all (fun p => decide (res (.cvt plainHdr { d := 9, a := 4, b := 0, fn := fn, mb := mb }) p.1 0 0 = some p.2))

/-- *Rounding to nearest into tap8*, and its row for `.sat`. -/
theorem test_cvt_into_tap8 : (cvtGives 8 0x30 [(0x3F840000, 0x40), (0x3F8C0000, 0x42), (0x41780000, 0x70), (0x44FA0000, 0x7E), (0x45200000, 0x7E),
    (0x453B8000, 0x7F), (0x45800800, 0x80), (0xC59C4000, 0x80), (0x39000000, 0x00), (0xB9400000, 0x81), (0xB8800000, 0x00)]
    && cvtGives 8 0x32 [(0x45800800, 0x7F), (0xC59C4000, 0xFF)]) = true := by decide +kernel

/-- *Chosen tap8 and tap6 patterns traced to their values*, and the E4M3 values of R182's example in parts 0 and 2. -/
theorem test_cvt_from_tapered : (cvtGives 3 0x80 [(0x4B, 0x3FD80000), (0x93, 0xBDB00000), (0x7D, 0x44000000), (0x7F, 0x45800000), (0x01, 0x39800000)]
    && cvtGives 3 0x90 [(0x0B, 0x3EE00000), (0x1D, 0x42000000), (0x3F, 0xC3800000), (0x20, 0x7FC00000)]
    && cvtGives 0x06 0x30 [(0x3FC00000, 0x3C), (0xC0000000, 0xC0)] && cvtGives 0x26 0x30 [(0x43960000, 0x00790000), (0x3DCCCCCD, 0x001D0000)]) = true := by
  decide +kernel

/-- *Events counted by R84*: the herd whose `sys.cvsat` reads 8 under a limit of 10. -/
def thCount : Herd :=
  { th with v := Sparse.write zeros th.v 256 [0x43FA0000, 0x43E80000, 0xC47A0000, 0x7FC00000, 0x3727C5AC, 0, 0x40400000, 0x44160000]
            cvsat := 8, cvlim := 0x000000010000000A }

/-- R86: the results and counts stand, and the conversion-limit trap (class 11, R356) is taken after them, at 128 × 11 in the vector (R357). -/
theorem test_cvt_limit : (after (ts thCount) (.cvt plainHdr { d := 9, a := 4, b := 0, fn := 6, mb := 0x32 })).map
      (fun h => ((List.range 8).map (fun l => h.vreg 9 l), h.cvsat, h.cvflush, h.cvnan, h.handler.isSome, (h.fur 0).pc))
    = some ([0x7E, 0x7E, 0xFE, 0x7F, 0, 0, 0x44, 0x7E], 11#32, 1#32, 0#32, true, 0x100000580#64) := by decide +kernel

/-- The herd of *Cross-lane results with lane 3 inactive* (R189), with two halves to tell apart in S[5]. -/
def thCross : Herd :=
  { th with v := Sparse.write zeros (Sparse.write zeros (Sparse.write zeros th.v 320 [0, 10, 20, 30, 40, 50, 60, 70]) 448 (List.replicate 8 1)) 131 [1]
            s := Sparse.set zeros th.s 5 0x1122334455667788#64 }
def hdrNot2 : Header := { plainHdr with pe := true, pn := true, pr := 2 }
def crossed (i : Instr) (d : Nat) : Option (List Lane) := (after (ts thCross) i).map (fun h => (List.range 8).map (fun l => h.vreg d l))

theorem test_cross_lane :
    crossed (.shfl hdrNot2 { d := 6, a := 5, b := 7, fn := 2, mb := 0 }) 6 = some [10, 20, 20, 0, 50, 60, 70, 70]
    ∧ crossed (.hscan hdrNot2 { d := 8, a := 5, b := 0, fn := 0, mb := 0x10 }) 8 = some [0, 10, 30, 0, 70, 120, 180, 250]
    ∧ crossed (.hred hdrNot2 { d := 10, a := 5, b := 0, fn := 0, mb := 0x10 }) 10 = some [250, 250, 250, 0, 250, 250, 250, 250]
    ∧ crossed (.bcast hdrNot2 { d := 6, a := 5, b := 0, fn := 3, mb := 0 }) 6 = some [30, 30, 30, 0, 30, 30, 30, 30]
    ∧ crossed (.splat plainHdr { d := 6, a := 5, b := 0, fn := 1, mb := 0 }) 6 = some (List.replicate 8 0x11223344) := by
  refine ⟨?_, ?_, ?_, ?_, ?_⟩ <;> decide +kernel

/-- A uniform register after an instruction, with S[5] and S[6] set. -/
def sres (i : Instr) (d : Nat) (a b : Word) : Option Word :=
  (after (ts { thCross with s := Sparse.write zeros thCross.s 5 [a, b] }) i).map (fun h => h.sreg d)
def u3 (fn mb : BitVec 8) : F3 := { d := 9, a := 5, b := 6, fn := fn, mb := mb }
def ui (imm : BitVec 16) : FI := { d := 9, a := 5, imm := imm, mb := 0 }
def sgives (l : List (Instr × Word × Word × Word)) : Bool := l.all (fun p => decide (sres p.1 9 p.2.1 p.2.2.1 = some p.2.2.2))

/-- R174, R185, R187, R191. -/
theorem test_uniform : sgives [
    (.sadd plainHdr (u3 0 0), 0xFFFFFFFFFFFFFFFF, 2, 1), (.ssub plainHdr (u3 0 0), 0, 1, 0xFFFFFFFFFFFFFFFF),
    (.smul plainHdr (u3 0 0), 0x8000000000000001, 2, 2), (.sand plainHdr (u3 0 0), 0xF0F0, 0xFF00, 0xF000), (.sor plainHdr (u3 0 0), 0xF0F0, 0xFF00, 0xFFF0),
    (.sxor plainHdr (u3 0 0), 0xF0F0, 0xFF00, 0x0FF0), (.sshl plainHdr (u3 0 0), 1, 64, 0), (.sshr plainHdr (u3 0 0), 0x8000000000000000, 63, 1),
    (.ssar plainHdr (u3 0 0), 0x8000000000000000, 64, 0xFFFFFFFFFFFFFFFF), (.smin plainHdr (u3 0 0x10), 0xFFFFFFFFFFFFFFFF, 1, 0xFFFFFFFFFFFFFFFF),
    (.smax plainHdr (u3 0 0x20), 0xFFFFFFFFFFFFFFFF, 1, 0xFFFFFFFFFFFFFFFF), (.scmp plainHdr (u3 4 0x10), 3, 0xFFFFFFFFFFFFFFFF, 1),
    (.ssel plainHdr { d := 9, a := 5, b := 6, c := 0, mb := 0 }, 7, 8, 8), (.smov plainHdr { u3 0 0 with b := 0 }, 7, 8, 7),
    (.saddi plainHdr (ui 0xFFFF), 1, 0, 0), (.sandi plainHdr (ui 0xFFF0), 0xFFFFFFFFFFFFFFFF, 0, 0xFFFFFFFFFFFFFFF0),
    (.sori plainHdr (ui 0x8000), 1, 0, 0x8001), (.sshli plainHdr (ui 16), 0x1234, 0, 0x12340000),
    (.movs plainHdr { d := 9, imm := 0x80000000 }, 0, 0, 0xFFFFFFFF80000000), (.rdlane plainHdr { d := 9, a := 5, b := 0, fn := 7, mb := 0 }, 0, 0, 70),
    (.ballot hdrNot2 { d := 9, a := 7, b := 0, fn := 0, mb := 0 }, 0, 0, 0xF7), (.vote plainHdr { d := 9, a := 7, b := 0, fn := 2, mb := 0 }, 0, 0, 1)] = true := by
  decide +kernel

theorem test_movhs : sres (.movhs plainHdr { d := 5, imm := 0x80000000 }) 5 0x1122334455667788 0 = some 0x8000000055667788 := by decide +kernel

/-- R33, R181: s0 discards a write, and a tag is herd-wide. -/
theorem test_s0_and_tag : sres (.sadd plainHdr { u3 0 0 with d := 0 }) 0 1 2 = some 0
    ∧ (after (ts thCross) (.tag hdrNot2 { d := 6, a := 0, b := 0, fn := 0, mb := 0xB0 })).map (fun h => (h.tagOf 6, h.vreg 6 0)) = some (11, 0) := by
  refine ⟨?_, ?_⟩ <;> decide +kernel

/-! ### The manual's worked examples of control flow, sites, memory, the matrix engine, distributions and the tape -/

/-- The table of R194: `?v2 br v3, skip`, with lane 0 falling through and lanes 6 and 7 carried along. -/
theorem test_branch_divides :
    (after (ts { th with v := Sparse.write zeros (Sparse.write zeros th.v 128 (List.replicate 6 1)) 193 (List.replicate 7 1) })
        (.br { plainHdr with pe := true, pr := 2 } { off := 4, ck := 1, cn := true, cr := 3, hid := 0, rsv := 0 })).map (fun h => (h.fur 0).pc)
      = some 0x100000020
    ∧ (after (ts { th with v := Sparse.write zeros (Sparse.write zeros th.v 128 (List.replicate 6 1)) 192 [1] })
        (.br { plainHdr with pe := true, pr := 2 } { off := 4, ck := 1, cn := true, cr := 3, hid := 0, rsv := 0 })).map
        (fun h => ((h.fur 0).pc, (h.fur 0).path, (h.fur 0).stack))
      = some (0x100000020, 0xFE, [{ pc := 0x100000008, mask := 1, parked := false, hid := 0, cnt := 0 }]) := by
  refine ⟨?_, ?_⟩ <;> decide +kernel

/-- *What v9 receives* (R51 to R53): v7[l] = 100 + l, ganged, with lanes 0 to 2 predicated off, and split. -/
def thUni (gs : List Nat) : Herd :=
  { herdOf 16 with v := Sparse.write zeros (Sparse.write zeros [] 448 ((List.range 16).map (fun l => BitVec.ofNat 32 (100 + l)))) 128 [1, 1, 1]
                   furrows := gs.map (fun g => { fresh0 with grp := g }) }
def uniGives (gs : List Nat) (pe : Bool) : Option (List Lane) :=
  (after (ts (thUni gs)) (.addi { plainHdr with u := true, pe := pe, pn := pe, pr := if pe then 2 else 0 } { d := 9, a := 7, imm := 1, mb := 0x20 })).map
    (fun h => (List.range 16).map (fun l => h.vreg 9 l))

theorem test_uniform_bit : uniGives [0, 0] false = some (List.replicate 16 101)
    ∧ uniGives [0, 0] true = some (List.replicate 3 0 ++ List.replicate 13 104)
    ∧ uniGives [0, 1] false = some (List.replicate 8 101 ++ List.replicate 8 0) := by
  refine ⟨?_, ?_, ?_⟩ <;> decide +kernel

/-- *The site's word, step by step*: the rewrites that P attempts at step 1, and Q at steps 3 and 4. -/
def thSite (tag : Nat) : Herd :=
  { th with v := (thV 1 2 3).v, vtag := Sparse.write zeros [] 4 [BitVec.ofNat 4 tag, BitVec.ofNat 4 tag] }
def siteHold (tag : Nat) (word : Word) : Option (List HoldWhy) :=
  match decodeTableWord 64 word.toNat with
  | some i => (after (ts (thSite tag)) i).map (fun h => h.holds.map (fun x => x.why))
  | none => none

theorem test_site_words :
    siteHold 4 0x0050000904050000 = some [.rewrite 0x1000000 0x0050000904050000 0x0060000904050040 false]
    ∧ siteHold 3 0x0060000904050040 = some [.rewrite 0x1000000 0x0060000904050040 0x0052000904050000 true]
    ∧ siteHold 3 0x0052000904050000 = some [.rewrite 0x1000000 0x0052000904050000 0x0062000904050030 false]
    ∧ siteHold 4 0x0060000904050040 = some [] := by
  refine ⟨?_, ?_, ?_, ?_⟩ <;> decide +kernel

/-- *Lane order at each word* (R234, R235): the fold of two block maxima into two words of the tile store. -/
def thFold : Herd :=
  { th with s := Sparse.set zeros th.s 3 0x1000000000000200
            v := Sparse.write zeros (Sparse.write zeros [] 260 [1, 1, 1, 1]) 384
              [0x40400000, 0x3F000000, 0x7FC00000, 0x40E80000, 0x42C80000, 0x42C00000, 0, 0x43020000] }

theorem test_fold_maxima :
    (match exec (.amaxF32 plainHdr { d := 6, sb := 3, vo := 4, imm := 0, spc := 1, wid := 2 }) (tsMem thFold) with
      | .next t => (t.herd? tk).map (fun h => ((List.range 8).map (fun l => h.vreg 6 l), h.tagOf 6,
          (t.crew? tc).map (fun c => (c.tile.num 0x200 4, c.tile.num 0x204 4))))
      | _ => none)
    = some ([0, 0x40400000, 0x40400000, 0x40400000, 0, 0x42C80000, 0x42C80000, 0x42C80000], 3, some (0x40E80000, 0x43020000)) := by
  decide +kernel

/-- A term a × b × 2⁻⁴ of an E4M3 and an int8 pattern, and *Group 0 for element (0, 0)* with its tie (R88 to R90). -/
def term (a b : Nat) : Val := vmul (vmul (decodeVal a 6) (decodeVal b 10)) (.num false 1 (-4) false)

theorem test_matrix_group :
    addGroup 0x49800000 ([term 0x7E 0x64, term 0x38 1, term 0x7E 0x9C, term 0x38 1] ++ List.replicate 28 (term 0 0)) = 0x49800001
    ∧ addGroup 0x49800000 [term 0 0, term 0x38 1] = 0x49800000 ∧ addGroup 0x80000000 [term 0 0] = 0x80000000
    ∧ vcmp (vmul (decodeVal 0xF9 10) (decodeVal 0x5D 6)) (valOfInt (-182)) = .eq := by
  refine ⟨?_, ?_, ?_, ?_⟩ <;> decide +kernel

/-- *One lane condensed* (R339 to R342, R351, R352). -/
def quarter (w : Nat) (x : Lane) : Atom := { w := 2 ^ 22 * w, x := x }
def dOne : List Atom := [quarter 2 0x3F800000, quarter 1 0x40000000, quarter 1 0x40800000]
def dTwo : List Atom := [quarter 1 0, quarter 2 0x3FC00000, quarter 1 0x41200000]
def dSum : List Atom :=
  [{ w := 2097152, x := 0x3F800000 }, { w := 1048576, x := 0x40000000 }, { w := 4194304, x := 0x40200000 }, { w := 3145728, x := 0x406AAAAB },
   { w := 2097152, x := 0x40B00000 }, { w := 2097152, x := 0x41300000 }, { w := 1048576, x := 0x41400000 }, { w := 1048576, x := 0x41600000 }]

theorem test_one_lane_condensed : condense (pairInd dopAdd (canonical dOne) (canonical dTwo)) = dSum
    ∧ condense (pairCom dopAdd (canonical dOne) (canonical dTwo))
        = [quarter 1 0x3F800000, quarter 1 0x40200000, quarter 1 0x40600000, quarter 1 0x41600000] ++ List.replicate 4 (quarter 0 0x41600000) := by
  refine ⟨?_, ?_⟩ <;> decide +kernel

theorem test_moments : toF32 (meanOf dSum) = 0x40A80000 ∧ quantile dSum (f32 0x3F666666) = 0x41400000 ∧ cumAt dSum (f32 0x40400000) = 0x3EE00000 := by
  refine ⟨?_, ?_, ?_⟩ <;> decide +kernel

/-- *Records of furrow 0* (R374, R375): the three records, and the reference after the first two. -/
def recOne : List Byte × Stream := valueRec Stream.fresh 0xFF (fun j => BitVec.ofNat 32 (10 + j))
def recTwo : List Byte × Stream := valueRec recOne.2 0xFF (fun j => if j = 3 then 20 else BitVec.ofNat 32 (10 + j))

theorem test_tape_records :
    recOne.1 = [0xFF, 0xFF] ++ (List.range 8).flatMap (fun j => leBytes 4 (10 + j)) ++ [0x04, 0x24]
    ∧ recTwo.1 = [0x08, 0x19, 0, 0, 0, 0x00, 0x07] ∧ (maskRec recTwo.2 0x3F 0x12).1 = [0xC0, 0x12, 0x05, 0x04]
    ∧ recTwo.2.ref = [10, 11, 12, 20, 14, 15, 16, 17] ∧ (maskRec recTwo.2 0x3F 0x12).2.mref = 0x3F := by
  refine ⟨?_, ?_, ?_, ?_, ?_⟩ <;> decide +kernel

/-- R136: a word without an active lane counts nothing, and one with a lane counts. -/
theorem test_noop_counts_nothing :
    (match exec (.nop { plainHdr with pe := true, pr := 31 } noFields) (ts th) with | .next t => some (t.coreReg 0 0x040) | _ => none) = some 0#64
    ∧ (match exec (.nop plainHdr noFields) (ts th) with | .next t => some (t.coreReg 0 0x040) | _ => none) = some 1#64 := by
  refine ⟨?_, ?_⟩ <;> decide +kernel

/-- R80: the sign of a NaN that is stored as FP16, with no scale. -/
theorem test_mst_keeps_nan_signs :
    (mstElem { thAcc with acc := [[], [(0, 0xFFC00000#32)]] } (tcmd 0x183 2 0 4) 0 0).1 = 0xFE00
    ∧ (mstElem { thAcc with acc := [[], [(0, 0x7FC00000#32)]] } (tcmd 0x183 2 0 4) 0 0).1 = 0x7E00 := by
  refine ⟨?_, ?_⟩ <;> decide +kernel

/-- The digest that FIPS 180-4 gives for the message "abc" (R284). -/
theorem test_sha384 : sha384 [0x61, 0x62, 0x63]
    = 0xCB00753F45A35E8BB5A03D699AC65007272C32AB0EDED1631A8B605A43FF5BED8086072BA1E7CC2358BAECA134C825A7#384 := by
  decide +kernel

/-- The check value of CRC-32C, over the digits 1 to 9 (R308, R312). -/
theorem test_crc32c : crc32c [0x31, 0x32, 0x33, 0x34, 0x35, 0x36, 0x37, 0x38, 0x39] = 0xE3069283#32 := by decide +kernel

/-! ### Witnesses and tests: holds, saves and waits behind words issued earlier -/

/-- R356: a split herd whose upper group has completed with an *after* trap that pends, at furrow 0's turn. -/
def thLate : Herd :=
  { thSplit with pend := [(2#8, { trapAtWord tw thSplit 13 0 with group := 2, resume := 0x100000008 })], pendSeen := 2#8, pendTop := 1 }

/-- LateGroupsOnlyTrap: the lower group can issue, and its turn of the cycle has gone. -/
theorem witness_LateGroup : (ts thLate).issuer = some tw ∧ (ts thLate).herd? tw.key = some thLate ∧ thLate.canIssue tw.f = true ∧
    thLate.lateTurn tw.f = true ∧ TrapFree thLate (furMask (thLate.group tw.f)) ∧ activeLanes thLate tw.f (hdrOf 0) ≠ [] ∧
    activeLanes thLate tw.f { plainHdr with pe := true, pr := 3 } = [] ∧ (Instr.nop plainHdr noFields).header = some plainHdr ∧
    trapTurn thLate 0 = false := by
  refine ⟨rfl, rfl, ?_, ?_, ⟨?_, ?_⟩, ?_, ?_, rfl, ?_⟩ <;> decide +kernel

/-- R356: a word that completes gives way to the pending trap, and a *before* trap is taken first, the other staying pending. -/
theorem test_late_group :
    ((match exec (.nop plainHdr noFields) (ts thLate) with | .next t => (t.herd? tk).map (fun h => (h.handler, h.pend.length)) | _ => none)
      = some (some 3#8, 0))
    ∧ ((match exec (.unassignedOpcode 0) (ts thLate) with | .next t => (t.herd? tk).map (fun h => (h.handler, h.pend.length)) | _ => none)
      = some (some 3#8, 1)) := by decide +kernel

/-- The herd in its handler with lane 7 out of its path, which its record in the save area still has. -/
def thLost : Herd := { thTrapped with furrows := thTrapped.furrows.map (fun r => { r with path := 0x7F }) }
def tsLost : State := { tsTrapped with herds := [thLost] }
def lostFurs : List Furrow :=
  thLost.idxs.map (rftFurrow thLost tsLost.hbm (saveArea tsLost thLost) 1#8 (tsLost.hbm.byte (saveArea tsLost thLost + 1))
    (BitVec.ofNat 64 (tsLost.hbm.num (saveArea tsLost thLost + 0x10) 8)))

/-- ReturnFromTrapRestores: a record that brings lane 7 back, and none that does. -/
theorem witness_ReturnFromTrapRejoins :
    Issues tsLost tw thLost ∧ activeLanes thLost tw.f plainHdr ≠ [] ∧ thLost.handler = some 1#8 ∧
      rftOk tsLost thLost (thLost.group tw.f) 1#8 = true ∧ rejoined thLost lostFurs = [7] ∧
      rejoined thTrapped (thTrapped.idxs.map (rftFurrow thTrapped tsTrapped.hbm (saveArea tsTrapped thTrapped) 1#8 1#8 0x100000008#64)) = [] := by
  refine ⟨⟨?_, ?_, ?_, ?_, rfl⟩, ?_⟩ <;> decide +kernel

/-- The herd in its handler beside a furrow whose missed `board` has completed meanwhile, with S[5] still to be written or not. -/
def thHeldBoard (b : Bool) : Herd :=
  { thTrapped with
    furrows := thTrapped.furrows ++ [{ Furrow.fresh 0x100000000 0 with
      grp := 1, st := .held, resolved := some { completed := true, wr := some (5, 1), bad := none } }]
    late := [{ fur := 1, reg := 5, stands := b }] }
def tsHeldBoard (b : Bool) : State := { tsTrapped with herds := [thHeldBoard b] }

/-- ReturnFromTrapRestores: what it asks of such a herd. -/
theorem witness_ReturnFromTrapLate : ∀ b : Bool, Issues (tsHeldBoard b) tw (thHeldBoard b) ∧
    rftOk (tsHeldBoard b) (thHeldBoard b) ((thHeldBoard b).group tw.f) 1#8 = true ∧ ((thHeldBoard b).fur 1).st = .held ∧
    ((thHeldBoard b).fur 1).resolved = some { completed := true, wr := some (5, 1), bad := none } ∧
    ((thHeldBoard b).fur 0).resolved = none ∧ (thHeldBoard b).lateStands [1] 5 = b := by
  intro b; cases b <;> refine ⟨⟨?_, ?_, ?_, ?_, rfl⟩, ?_⟩ <;> decide +kernel

/-- R158, R361: `rft` writes the status over no register that a word issued after the `board` has written. -/
theorem test_rft_late : ([true, false].map (fun b => match exec (.rft plainHdr noFields) (tsHeldBoard b) with
    | .next t => (t.herd? tk).map (fun h => (h.sreg 5 == 1#64, h.late.length)) | _ => none)) = [some (true, 0), some (false, 0)] := by
  decide +kernel

/-- R201, R361: the lane is back on the path, and its registers have been drawn as free values. -/
theorem test_rft_rejoins : (match exec (.rft plainHdr noFields) tsLost with
    | .next t => (t.herd? tk).map (fun h => (h.lanesOf (h.group 0), decide (tsLost.freeCtr < t.freeCtr))) | _ => none)
    = some ([0, 1, 2, 3, 4, 5, 6, 7], true) := by decide +kernel

/-- R66, R158: a stalled `sow` that still writes S[5] holds up the words that write it, and no vector word; a missed `board` holds up none. -/
def thSowing : Herd := { thSplit with holds := [{ group := 1#8, why := .sow tcard 0 5 }] }
def thMissed : Herd :=
  { thSplit with
    furrows := thSplit.furrows.mapIdx (fun j r => if j = 0 then { r with st := .waiting (.board 5) } else r)
    late := [{ fur := 0, reg := 5, stands := true }] }
theorem test_status_is_ordered : ∃ mv vm rt, encode (.movs plainHdr { d := 5, imm := 0 }) = some mv ∧
    encode (.movi plainHdr { d := 5, imm := 0 }) = some vm ∧
    encode (.rtile plainHdr { d := 4, sa := 0, sb := 0, sf := 0, x := 0 }) = some rt ∧
    regBusy thSowing mv = true ∧ regBusy thSowing rt = true ∧ regBusy thSowing vm = false ∧ regBusy thMissed mv = false := by
  refine ⟨_, _, _, rfl, rfl, rfl, ?_, ?_, ?_, ?_⟩ <;> decide +kernel

/-- R158: the status of a missed `board` is written when its wait ends, but over no word issued after it. -/
theorem test_late_status :
    ((thMissed.act (.s 5 7)).acts (lateActs (thMissed.act (.s 5 7)) [0] 5 1)).sreg 5 = 7#64 ∧
    ((thMissed.act (.s 6 7)).acts (lateActs (thMissed.act (.s 6 7)) [0] 5 1)).sreg 5 = 1#64 ∧
    (thMissed.acts (lateActs thMissed [0] 5 1)).late = [] := by decide +kernel

/-- SoftwareAndDebugTrapsAreTaken: a group whose herd has only a waiting one beside it. -/
theorem witness_AloneBesideAWait : Alone thMissed 1 ∧ thMissed.canIssue 1 = true := by
  unfold Alone
  decide +kernel

/-- RtileWritten: an `rtile` that issues first, and one of a group that has waited, whose first register a later word has written. -/
theorem witness_RtileWritten : (∀ q ∈ th.late, q.fur ∉ th.group 0) ∧
    ∃ h : Herd, h = { th with late := [{ fur := 0, reg := 4, stands := false }, { fur := 0, reg := 5, stands := true }] } ∧
      (∃ q ∈ h.late, q.fur ∈ h.group 0) ∧ h.lateStands (h.group 0) 4 = false ∧ h.lateStands (h.group 0) 5 = true := by
  refine ⟨by decide +kernel, _, rfl, ?_, ?_, ?_⟩ <;> decide +kernel

/-- TilesArrive: the wait of a missed `board`, at the header's arrival. -/
theorem witness_MissedBoard : thMissed.resident = true ∧ thMissed.handler = none ∧ thMissed.unresolved WaitOn.isBoard = [0] ∧
    (thMissed.fur 0).st = .waiting (.board 5) := by refine ⟨rfl, rfl, ?_, ?_⟩ <;> decide +kernel

/-- R106: a window of no length shares no byte with another. -/
theorem test_zero_length_window : overlaps 64 0 0 128 = false ∧ overlaps 0 128 64 0 = false ∧ overlaps 0 65 64 1 = true := by decide

/-- HeldWordsComplete: a herd that has ended while a store and a load were not answered: the store is left to be performed (R202). -/
theorem witness_EndedHerdHolds : ∃ h a b, a = theHold (.remote (tremote 1 0x6000000000000000#64)) ∧ b = theHold (.remote (tremote 0 0x6000000000000000#64)) ∧
    h = ({ thFur { fresh0 with st := .notLive, path := 0 } with holds := [a, b] } : Herd).act .gone ∧ h.ended = true ∧ h.holds = [a] ∧
    crewBusy { tsMem h with herds := [h] } tc = true := by
  refine ⟨_, _, _, rfl, rfl, rfl, ?_, ?_, ?_⟩ <;> decide +kernel

/-- SchedulerEventsComplete: a record of a wait that has ended, and one with STATE 7, which is inconsistent whatever the wait (R363). -/
def tsRec (w : Nat) (h : Herd) : State := { tsAway h with hbm := Memory.put (tsAway h).hbm 0x4000000408 (leBytes 8 w) }
theorem witness_EditedRecords :
    (∃ h q, h = thAway true (some q) ∧ q = { completed := true, wr := none, bad := none } ∧ isReady (tsRec 0x106000FF h) h = true ∧
      (∀ y ∈ readyHerds (tsRec 0x106000FF h) h.core h.slice, readyBefore y h = false) ∧ roomBase (tsRec 0x106000FF h) h = some 0 ∧
      restoreBad (tsRec 0x106000FF h).hbm h.saveAt false h = false ∧ (readRec (tsRec 0x106000FF h).hbm (h.saveAt + 0x400)).st = 3)
    ∧ (∃ h, h = thAway true (some { completed := true, wr := none, bad := none }) ∧ isReady (tsRec 0xE000FF h) h = true ∧
      roomBase (tsRec 0xE000FF h) h = some 0 ∧ restoreBad (tsRec 0xE000FF h).hbm h.saveAt (savedProg (tsRec 0xE000FF h).hbm h.saveAt) h = true) := by
  refine ⟨⟨_, _, rfl, rfl, ?_, ?_, ?_, ?_, ?_⟩, ⟨_, rfl, ?_, ?_, ?_⟩⟩ <;> decide +kernel

/-- R58: a furrow whose wait has ended resumes Running, though an edit of its record says Standing. -/
theorem test_resolved_wait_runs : restoreFur (tsRec 0x4000FF th).hbm 0x4000000000 false
      (thAway true (some { completed := true, wr := none, bad := none })) 0
    = { fresh0 with pc := 0x100000808#64, st := .running } := by decide +kernel

/-- SavingAndRestoringKeepsTheContext: an error mark of a lane that has not exited. -/
theorem witness_MarkedLane : ∀ k ∈ [15 * 64 + 7], k / 64 < 16 ∧ k % 64 < thWaits.width ∧ thWaits.exited (k % 64) = false := by decide

/-- R6, R362: of a trap record, a save keeps the cause, the group and the lane, and clears PROG and the reserved bits. -/
theorem test_saved_trap_word : savedTrapWord 0xFFFFFFFFFFFFFFFF#64 = 0x00FFFFFF00FFFF4F#64 := by decide

/-- RingMoves: two boardings on one core with one slot left: the later herd lacks it (log entry 92). -/
def thRing1 : Herd := { thRing (some (tboard .boarded [])) with key := { tk with herd := 1 } }
def tsTwo (n : Nat) : State :=
  { tsRing (thRing (some (tboard .boarded []))) (ringWith { ttile 11 1 false with stop := 0, held := true }) ((List.range n).map (fun i =>
      { tslot (some tc) false false with idx := i, board := none })) with herds := [thRing (some (tboard .boarded [])), thRing1] }
theorem test_one_slot_of_two : (lacking (tsTwo 15) 0 (ttile 11 1 false)).map (fun h => h.key) = [{ tk with herd := 1 }] ∧
    lacking (tsTwo 14) 0 (ttile 11 1 false) = [] := by decide +kernel

/-- R321: the boardings that a held tile waits for are judged at each step's end. -/
theorem test_holds_are_judged : (match judged (.next (tsTwo 15)) with | .next t => t.ring.tiles.map (fun u => u.blocked) | _ => [])
    = [[({ tk with herd := 1 }, 0)]] := by decide +kernel

/-- R256, R299: an access behind a window waits for the same herd's matrix command that reads there, and not for another herd's. -/
theorem test_matrix_reads_first : ∃ s, s = { tsWin with cmds := [{ tcmd 0x182 0 0 0 with ents := [{ core := 0, crew := tc, lo := 64, hi := 128, dst := false }] }] } ∧
    locWaits s tk 1#8 0 4 false true (.mem 0x20000040) = true ∧ locWaits s tk 1#8 0 4 false true (.mem 0x20000080) = false ∧
    locWaits s { tk with herd := 1 } 1#8 0 4 false true (.mem 0x20000040) = false := by
  refine ⟨_, rfl, ?_, ?_, ?_⟩ <;> decide +kernel

/-- R247: a map or unmap waits for a store that a peer's format holds back. -/
theorem test_unmap_waits : ∃ h, h = thHolds (.remote { tremote 1 0x5000000000000000#64 with later := [(0, .win tc 0 1 0x20000040 64, 5#128)] }) ∧
    mapWaits (tsMem h) tc 64 64 = true ∧ mapWaits (tsMem h) tc 128 64 = false := by
  refine ⟨_, rfl, ?_, ?_⟩ <;> decide +kernel

/-- R369: such a store waits while the crew it names is saved. -/
theorem test_saved_crew_waits : ∃ s, s = { tsMem th with crews := [{ tcrew with saved := some 0 }] } ∧ (Loc.tile tc 64).now s = .saved tc ∧
    locWaits s tk 1#8 0 4 true false ((Loc.tile tc 64).now s) = true := by
  refine ⟨_, rfl, ?_, ?_⟩ <;> decide +kernel

/-- R232: an error in memory after a window's sector was filled does not meet its copy; a sector still to be filled meets it. -/
theorem test_window_copy_is_sound : ∃ s, s = { tsWin with hbmErr := [sectorOf 0x20000040, sectorOf 0x20000080] } ∧
    poisoned s 0 true (.win tc 0 1 0x20000040 64) = false ∧ poisoned s 0 true (.win tc 0 2 0x20000080 128) = true := by
  refine ⟨_, rfl, ?_, ?_⟩ <;> decide +kernel

/-- R405: with both limits of sys.droop at 8 no group is deferred; at its reset value one may be. -/
theorem test_droop_counter : ∃ s, s = { ts th with coreRegs := Sparse.set coreReset loaded.coreRegs 0x083 0x88#64 } ∧
    counterRuns s 0 0x041 = false ∧ counterRuns (ts th) 0 0x041 = true := by
  refine ⟨_, rfl, ?_, ?_⟩ <;> decide +kernel

/-- R415: the image is REGLEN words of host memory from REGSRC. -/
theorem test_image_source : regImage { ts th with hostMem := Memory.put [] 0x8008 (leBytes 8 0x1122334455667788) }
    { part := 0, va := 0x100000000, src := 0x8000, len := 2, tag := 9 } = [0#64, 0x1122334455667788#64] := by decide +kernel

/-- R19: a blob that names no pools gives each die 300 W, and one may name a single die's. -/
theorem test_default_pools : blobPool wholeBlob 3 = 30000 ∧ blobOk { wholeBlob with pools := [] } = true ∧
    (∃ b, b = { wholeBlob with pools := [none, some 31000] } ∧ blobPool b 0 = 30000 ∧ blobPool b 1 = 31000 ∧ blobOk b = true) := by
  refine ⟨?_, ?_, _, rfl, ?_, ?_, ?_⟩ <;> decide +kernel

/-- R323: a slot that was given up stays while a command that reads it has not retired. -/
def tsFreed (l : List MCmd) : State := { ts th with slots := [{ tslot none false false with freeing := true }], cmds := l }
theorem test_slot_until_retirement : ∃ m, m = { tcmd 0x180 2 0 0 with slots := [15] } ∧ (run (tsFreed [m]) (dropFreed (tsFreed [m]))).slots.length = 1 ∧
    (run (tsFreed []) (dropFreed (tsFreed []))).slots = [] := by
  refine ⟨_, rfl, ?_, ?_⟩ <;> decide +kernel

/-- RtileCompletes: an `rtile` that has waited completes although no lane is active any more. -/
theorem witness_WaitedRtile : ∃ h hd, h = { thRing none with late := [{ fur := 0, reg := 4, stands := true }, { fur := 0, reg := 5, stands := true }] } ∧
    hd = { plainHdr with pe := true, pn := false, pk := true, pr := 9 } ∧ activeLanes h 0 hd = [] ∧ (∃ q ∈ h.late, q.fur ∈ h.group 0) ∧
    (match exec (.rtile hd { d := 4, sa := 0, sb := 0, sf := 0, x := 0 }) (tsRing h ringOn []) with
      | .next t => (t.herd? tk).map (fun g => (g.sreg 5, (g.fur 0).pc)) | _ => none) = some (0x8000000000000000#64, 0x100000008#64) := by
  refine ⟨_, _, rfl, rfl, ?_, ⟨{ fur := 0, reg := 4, stands := true }, ?_, ?_⟩, ?_⟩ <;> decide +kernel

end Sys2Proof.Tests
end

section
/-! SUPPORT. The module right after reset, register by register. -/

namespace Sys2Proof.Machine

/-- At reset a core register reads as its table gives (R46, R57, R407). -/
theorem coreReg_reset (core n : Nat) : State.reset.coreReg core n = coreReset n := by
  have e : (4096 * core + n) % 4096 = n % 4096 := by omega
  simp [State.coreReg, State.reset, Sparse.get, coreReset, e]

/-- At reset a partition register reads as its table gives (R327, R369, R409). -/
theorem partReg_reset (p n : Nat) : State.reset.partReg p n = partReset n := by
  have e : (4096 * p + n) % 4096 = n % 4096 := by omega
  simp [State.partReg, State.reset, Sparse.get, partReset, e]

/-- A core register that its table does not name is zero. -/
theorem coreReset_zero {n : Nat} (hn : n < 4096) (h80 : n ≠ 0x080) (h81 : n ≠ 0x081) (h83 : n ≠ 0x083) : coreReset n = 0#64 := by
  rw [coreReset, Nat.mod_eq_of_lt hn, if_neg h80, if_neg h81, if_neg h83]

/-- Every store of the reset state is empty, so that it is in its canonical form. -/
theorem inv_reset : Inv State.reset where
  hbm := Sparse.wf_nil zeros
  hostMem := Sparse.wf_nil zeros
  herds := fun _ hh => nomatch hh
  tiles := fun _ hc => nomatch hc
  coreRegs := Sparse.wf_nil coreReset
  partRegs := Sparse.wf_nil partReset
  hostRegs := Sparse.wf_nil zeros
  counts := Sparse.wf_nil zeros
  slotGen := Sparse.wf_nil zeros

/-- Right after reset the module can take no turn by itself. -/
theorem pickTurn_reset : pickTurn State.reset = none := rfl

/-- Settles O57: the stores of the reset state are empty, so that each register reads as its table's reset value. -/
theorem resetIsSound : Obligations.ResetIsSound := by
  refine ⟨inv_reset, fun core => ⟨coreReg_reset core 0x080, coreReg_reset core 0x081, coreReg_reset core 0x083, ?_⟩,
    fun p => ⟨partReg_reset p 0x105, partReg_reset p 0x0D2, ?_⟩, fun p off => ⟨rfl, rfl⟩,
    rfl, rfl, rfl, rfl, rfl, rfl, rfl, pickTurn_reset⟩
  · intro n hn h80 h81 h83
    rw [coreReg_reset, coreReset_zero hn h80 h81 h83]
  · have hzero : ∀ n ∈ [0x082, 0x100, 0x102, 0x103, 0x104], partReset n = 0#64 := by decide
    intro n hn
    rw [partReg_reset, hzero n hn]

end Sys2Proof.Machine
end

section
/-! SUPPORT. Numbers as little-endian bytes (R1), the bytes that stand in memory, and the fields of a word. -/

namespace Sys2Proof.Machine

@[simp] theorem length_leBytes : ∀ (n v : Nat), (leBytes n v).length = n
  | 0, _ => rfl
  | n + 1, v => by simp [leBytes, length_leBytes n]

theorem leNat_leBytes : ∀ (n v : Nat), leNat (leBytes n v) = v % 256 ^ n
  | 0, v => by simp [leBytes, leNat, Nat.mod_one]
  | n + 1, v => by
    have e : v % 256 ^ (n + 1) = v % 256 + 256 * (v / 256 % 256 ^ n) := by rw [pow_succ', Nat.mod_mul]
    simp [leBytes, leNat, leNat_leBytes n, e]

theorem leBytes_add : ∀ (k j v : Nat), leBytes (k + j) v = leBytes k v ++ leBytes j (v / 256 ^ k)
  | 0, j, v => by simp [leBytes]
  | k + 1, j, v => by
    rw [Nat.add_right_comm]
    simp only [leBytes, List.cons_append, leBytes_add k j, Nat.div_div_eq_div_mul, pow_succ']

@[simp] theorem length_zeroBytes (n : Nat) : (zeroBytes n).length = n := List.length_replicate

theorem Memory.bytes_congr {m t : Memory} : ∀ (n a : Nat), (∀ x, a ≤ x → x < a + n → t.byte x = m.byte x) →
    t.bytes a n = m.bytes a n
  | 0, _, _ => rfl
  | n + 1, a, h => by
    simp only [Memory.bytes]
    rw [h a (by omega) (by omega), Memory.bytes_congr n (a + 1) (fun x h1 h2 => h x (by omega) (by omega))]

theorem Memory.bytes_add (m : Memory) : ∀ (n k a : Nat), m.bytes a (n + k) = m.bytes a n ++ m.bytes (a + n) k
  | 0, k, a => by simp [Memory.bytes]
  | n + 1, k, a => by
    rw [Nat.add_right_comm]
    simp only [Memory.bytes, List.cons_append, Memory.bytes_add m n k (a + 1)]
    rw [Nat.add_right_comm a 1 n, Nat.add_assoc a n 1]

theorem Memory.num_one (m : Memory) (a : Nat) : m.num a 1 = (m.byte a).toNat := by simp [Memory.num, Memory.bytes, leNat]

/-- The bytes `bs` stand in memory from address `a` on. -/
def Memory.Stands (m : Memory) (a : Nat) (bs : List Byte) : Prop := m.bytes a bs.length = bs

namespace Memory.Stands

variable {m : Memory} {a : Nat}

theorem append_iff {xs ys : List Byte} : m.Stands a (xs ++ ys) ↔ m.Stands a xs ∧ m.Stands (a + xs.length) ys := by
  unfold Memory.Stands
  rw [List.length_append, Memory.bytes_add]
  refine ⟨fun h => List.append_inj h (Memory.length_bytes ..), fun ⟨h1, h2⟩ => ?_⟩
  rw [h1, h2]

/-- The same place by another expression. -/
theorem moved {b : Nat} {bs : List Byte} (h : m.Stands a bs) (e : b = a) : m.Stands b bs := e ▸ h

theorem byte {bs : List Byte} (h : m.Stands a bs) {i : Nat} (hi : i < bs.length) : m.byte (a + i) = bs.getD i 0#8 := by
  rw [← Memory.getD_bytes m bs.length a i hi, h]

/-- A number of which n bytes stand in memory, read in k of them from byte j on. -/
theorem num_part {n v j k : Nat} (h : m.Stands a (leBytes n v)) (hk : j + k ≤ n) : m.num (a + j) k = v / 256 ^ j % 256 ^ k := by
  obtain ⟨i, rfl⟩ := Nat.exists_eq_add_of_le hk
  rw [leBytes_add, append_iff, leBytes_add, append_iff, length_leBytes] at h
  obtain ⟨⟨-, hpart⟩, -⟩ := h
  unfold Memory.Stands at hpart
  rw [length_leBytes] at hpart
  rw [Memory.num, hpart, leNat_leBytes]

/-- A number that fits the bytes that stand in memory reads as itself. -/
theorem num_eq {n v : Nat} (h : m.Stands a (leBytes n v)) (hv : v < 256 ^ n) : m.num a n = v := by
  have hnum := h.num_part (j := 0) (Nat.le_of_eq (Nat.zero_add n))
  rwa [pow_zero, Nat.div_one, Nat.mod_eq_of_lt hv] at hnum

/-- A word of k bytes that stands in memory in n bytes reads as itself in the first k. -/
theorem num_low {n k w : Nat} {x : BitVec w} (h : m.Stands a (leBytes n x.toNat)) (hk : k ≤ n) (hw : w = 8 * k) :
    m.num a k = x.toNat := by
  have hnum := h.num_part (j := 0) ((Nat.zero_add k).symm ▸ hk)
  have hx : x.toNat < 256 ^ k := Nat.lt_of_lt_of_eq x.isLt (by rw [hw, pow_mul]; norm_num)
  rwa [pow_zero, Nat.div_one, Nat.mod_eq_of_lt hx] at hnum

/-- A word whose bytes stand in memory reads as itself. -/
theorem num_word {n w : Nat} {x : BitVec w} (h : m.Stands a (leBytes n x.toNat)) (hw : w = 8 * n) : m.num a n = x.toNat :=
  h.num_low (Nat.le_refl n) hw

/-- A byte of a word that stands in memory. -/
theorem byte_word {x : Word} (h : m.Stands a (leBytes 8 x.toNat)) {i : Nat} (hi : i < 8) : m.byte (a + i) = x.extractLsb' (8 * i) 8 := by
  apply BitVec.eq_of_toNat_eq
  rw [← Memory.num_one, h.num_part (by omega), BitVec.extractLsb'_toNat, Nat.shiftRight_eq_div_pow, pow_mul]
  norm_num

/-- Pieces of c bytes each, one after another: where the piece of entry i stands. -/
theorem flatMap {α : Type} {f : α → List Byte} {c : Nat} : ∀ {l : List α} {a : Nat}, m.Stands a (l.flatMap f) →
    (∀ x ∈ l, (f x).length = c) → ∀ {i : Nat} {x : α}, l[i]? = some x → m.Stands (a + c * i) (f x)
  | [], _, _, _, i, x, hx => by simp at hx
  | y :: l, a, h, hc, i, x, hx => by
    rw [List.flatMap_cons, append_iff, hc y (by simp)] at h
    obtain ⟨h1, h2⟩ := h
    cases i with
    | zero =>
      obtain rfl : y = x := by simpa using hx
      simpa using h1
    | succ i =>
      have e : a + c * (i + 1) = a + c + c * i := by ring
      rw [e]
      exact flatMap h2 (fun z hz => hc z (by simp [hz])) (by simpa using hx)

/-- Pieces of c bytes each, by number. -/
theorem range {f : Nat → List Byte} {c n : Nat} (h : m.Stands a ((List.range n).flatMap f))
    (hc : ∀ i, i < n → (f i).length = c) {i : Nat} (hi : i < n) : m.Stands (a + c * i) (f i) :=
  h.flatMap (fun x hx => hc x (List.mem_range.mp hx)) (by simp [hi])

end Memory.Stands

theorem length_flatMap_range {f : Nat → List Byte} {c : Nat} (n : Nat) (hc : ∀ i, i < n → (f i).length = c) :
    ((List.range n).flatMap f).length = n * c := by
  rw [List.length_flatMap, List.map_congr_left (g := fun _ => c) (fun x hx => hc x (List.mem_range.mp hx))]
  simp

/-- Bytes that an act writes and that no later act of the list touches stand in memory at its end. -/
theorem stands_run (pre : List Act) (pa : Nat) (bs : List Byte) (own : Option (CrewKey × Nat)) (post : List Act) (s : State)
    (hp : ∀ b ∈ post, ∀ x, pa ≤ x → x < pa + bs.length → b.stores x = false) :
    (run s (pre ++ .mem pa bs own :: post)).hbm.Stands pa bs := by
  rw [run_append, run_cons]
  unfold Memory.Stands
  rw [Memory.bytes_congr (m := Memory.put (run s pre).hbm pa bs) _ _ fun x h1 h2 => ?_, Memory.bytes_put]
  rw [byte_run post _ x (fun b hb => hp b hb x h1 h2), State.act_hbm]

/-- A byte that an act zeroes and that no later act of the list touches is zero at its end. -/
theorem byte_run_zeroed (pre : List Act) (pa n : Nat) (post : List Act) (s : State) {x : Nat} (h1 : pa ≤ x) (h2 : x < pa + n)
    (hp : ∀ b ∈ post, b.stores x = false) : (run s (pre ++ .memZero pa n :: post)).hbm.byte x = 0#8 := by
  rw [run_append, run_cons, byte_run post _ x hp, State.act_hbm]
  refine Sparse.get_of_notMem zeros _ x fun c hc e => ?_
  simp only [Sparse.clear, List.mem_filter, Bool.or_eq_true, decide_eq_true_eq] at hc
  omega

/-- A field of a word that a number gives. -/
theorem fld_ofNat (n hi lo : Nat) : fld (BitVec.ofNat 64 n) hi lo = n % 2 ^ 64 / 2 ^ lo % 2 ^ (hi + 1 - lo) := by
  simp [fld, Nat.shiftRight_eq_div_pow]

/-- A bit of a word that a number gives. -/
theorem getLsbD_ofNat_word (n i : Nat) (hi : i < 64) : (BitVec.ofNat 64 n).getLsbD i = decide (n / 2 ^ i % 2 = 1) := by
  rw [BitVec.getLsbD_ofNat, Nat.testBit_eq_decide_div_mod_eq]
  simp [hi]

end Sys2Proof.Machine
end

section
/-! SUPPORT. What a save leaves in its save area (R362, R363, R390): where each part stands, and the numbers that it reads as. -/

namespace Sys2Proof.Machine

/-- Ticket, cause and address of a herd's latch, zeros without one (R244, R362). -/
def latchWords (h : Herd) : Nat × Nat × Nat :=
  match h.latch with
  | some l => (l.ticket, l.cause, l.addr.toNat)
  | none => (0, 0, 0)

theorem latchBytes_eq (h : Herd) : latchBytes h = leBytes 8 h.copies.toNat ++ (leBytes 8 (latchWords h).1
    ++ leBytes 8 (2 ^ 8 * (latchWords h).2.1 + 2 ^ 16 * h.more.toNat) ++ leBytes 8 (latchWords h).2.2) := by
  unfold latchBytes latchWords
  cases h.latch <;> simp

/-- Bytes of a furrow record (R363). -/
theorem length_furrowRec {r : Furrow} (hr : r.stack.length ≤ 16) : (furrowRec r).length = 512 := by
  have hs : (r.stack.reverse.flatMap (fun e => leBytes 8 e.pc.toNat
      ++ leBytes 8 (e.mask.toNat + (if e.parked then 2 ^ 8 else 0) + 2 ^ 12 * e.hid + 2 ^ 16 * e.cnt.toNat))).length
      = 16 * r.stack.length := by
    simp [List.length_flatMap, Nat.mul_comm]
  unfold furrowRec
  simp only [List.length_append, hs, length_flatMap_range (c := 2) 16 (fun i _ => length_leBytes 2 _), length_leBytes,
    List.length_replicate]
  omega

/-- A furrow of a well-shaped herd has a path stack that its record holds, and so has one that the herd does not have. -/
theorem stack_length_fur {h : Herd} (hs : HerdShape h) (f : Nat) : (h.fur f).stack.length ≤ 16 := by
  unfold Herd.fur
  rw [List.getD_eq_getElem?_getD]
  cases e : h.furrows[f]? with
  | none => simp
  | some r =>
    obtain ⟨-, -, h16, -⟩ := hs.furs r (List.mem_of_getElem? e)
    exact h16

theorem length_furrowRecs {h : Herd} (hs : HerdShape h) : (furrowRecs h).length = 0x1000 :=
  length_flatMap_range (c := 512) 8 (fun f _ => length_furrowRec (stack_length_fur hs f))

/-- Bytes of a tape context record (R390). -/
@[simp] theorem length_tapeRec (t : TapeCtx) (f : Nat) : (tapeRec t f).length = 256 := by
  have hr : ((List.range 8).flatMap (fun j => leBytes 4 ((t.stream f).ref.getD j 0#32).toNat)).length = 32 :=
    length_flatMap_range (c := 4) 8 (fun j _ => length_leBytes 4 _)
  unfold tapeRec
  simp only [List.length_append, length_leBytes, length_zeroBytes, hr]
  split <;> simp

/-- The parts of bytes 0x0080 to 0x03FF of a save area, in their places (R362). -/
structure HeadStands (m : Memory) (a : Nat) (h : Herd) : Prop where
  cvsat : m.Stands (a + 0x80) (leBytes 8 h.cvsat.toNat)
  cvflush : m.Stands (a + 0x88) (leBytes 8 h.cvflush.toNat)
  cvnan : m.Stands (a + 0x90) (leBytes 8 h.cvnan.toNat)
  cvlim : m.Stands (a + 0x98) (leBytes 8 h.cvlim.toNat)
  copies : m.Stands (a + 0xA0) (leBytes 8 h.copies.toNat)
  ticket : m.Stands (a + 0xA8) (leBytes 8 (latchWords h).1)
  latch : m.Stands (a + 0xB0) (leBytes 8 (2 ^ 8 * (latchWords h).2.1 + 2 ^ 16 * h.more.toNat))
  addr : m.Stands (a + 0xB8) (leBytes 8 (latchWords h).2.2)
  poison : m.Stands (a + 0xC0) (leBytes 8 h.accPoison.toNat)
  sregs : m.Stands (a + 0x100) ((List.range 64).flatMap (fun i => leBytes 8 (h.sreg i).toNat))
  tags : m.Stands (a + 0x300) ((List.range 128).map (fun k => BitVec.ofNat 8 (h.tagOf (2 * k) + 16 * h.tagOf (2 * k + 1))))
  masks : m.Stands (a + 0x380) ((List.range 16).flatMap (fun n => leBytes 2 (h.dmask n).toNat))

theorem length_sregBytes (h : Herd) : ((List.range 64).flatMap (fun i => leBytes 8 (h.sreg i).toNat)).length = 0x200 :=
  length_flatMap_range (c := 8) 64 (fun _ _ => length_leBytes 8 _)

theorem length_maskBytes (h : Herd) : ((List.range 16).flatMap (fun n => leBytes 2 (h.dmask n).toNat)).length = 0x20 :=
  length_flatMap_range (c := 2) 16 (fun _ _ => length_leBytes 2 _)

@[simp] theorem length_saveHead (h : Herd) : (saveHead h).length = 0x380 := by
  simp only [saveHead, latchBytes_eq, List.length_append, length_leBytes, length_zeroBytes, length_sregBytes, length_maskBytes,
    List.length_map, List.length_range]

theorem headStands {m : Memory} {a : Nat} {h : Herd} (hs : m.Stands (a + 0x80) (saveHead h)) : HeadStands m a h := by
  simp only [saveHead, latchBytes_eq, Memory.Stands.append_iff, List.length_append, length_leBytes, length_zeroBytes,
    length_sregBytes, length_maskBytes, List.length_map, List.length_range, Nat.add_assoc, Nat.reduceAdd] at hs
  obtain ⟨⟨⟨⟨⟨⟨⟨⟨⟨⟨hsat, hflush⟩, hnan⟩, hlim⟩, hcopies, ⟨hticket, hlatch⟩, haddr⟩, hpoison⟩, -⟩, hsregs⟩, htags⟩,
    hmasks⟩, -⟩ := hs
  exact ⟨hsat, hflush, hnan, hlim, hcopies, hticket, hlatch, haddr, hpoison, hsregs, htags, hmasks⟩

/-- The parts of a save area from byte 0x2400 on, in their places, as numbers; `n0` numbers the free values of the save (R362). -/
structure TailStands (m : Memory) (a : Nat) (h : Herd) (n0 : Nat) : Prop where
  tape : ∀ f, f < 8 → m.Stands (a + 0x2400 + 256 * f) (tapeRec h.tape f)
  words : ∀ n l, n < h.nregs → l < h.width → m.num (a + 0x3000 + 4 * (n * h.width + l)) 4 = (h.savedWord n0 n l).toNat
  atoms : ∀ n l i, n < 16 → l < h.width → i < 8 →
    m.num (a + 0x3000 + 4 * h.nregs * h.width + 64 * (n * h.width + l) + 8 * i) 8 = (h.savedAtom n0 n l i).toNat
  accs : ∀ t i j, t < h.nacc → i < 64 → j < 64 →
    m.num (a + 0x3000 + 4 * h.nregs * h.width + 1024 * h.width + 16384 * t + 4 * (64 * i + j)) 4 = (h.accEl t i j).toNat

/-- A row of one vector register's words, and all the registers'. -/
theorem length_wordRow (h : Herd) (n0 n : Nat) :
    ((List.range h.width).flatMap (fun l => leBytes 4 (h.savedWord n0 n l).toNat)).length = 4 * h.width :=
  (length_flatMap_range (c := 4) h.width (fun _ _ => length_leBytes 4 _)).trans (Nat.mul_comm ..)

theorem length_elemBytes (h : Herd) (n0 n l : Nat) :
    ((List.range 8).flatMap (fun i => leBytes 8 (h.savedAtom n0 n l i).toNat)).length = 64 :=
  length_flatMap_range (c := 8) 8 (fun _ _ => length_leBytes 8 _)

theorem length_elemRow (h : Herd) (n0 n : Nat) :
    ((List.range h.width).flatMap (fun l => (List.range 8).flatMap (fun i => leBytes 8 (h.savedAtom n0 n l i).toNat))).length
      = 64 * h.width :=
  (length_flatMap_range (c := 64) h.width (fun l _ => length_elemBytes h n0 n l)).trans (Nat.mul_comm ..)

theorem length_accRow (h : Herd) (t i : Nat) :
    ((List.range 64).flatMap (fun j => leBytes 4 (h.accEl t i j).toNat)).length = 256 :=
  length_flatMap_range (c := 4) 64 (fun _ _ => length_leBytes 4 _)

theorem length_accTile (h : Herd) (t : Nat) :
    ((List.range 64).flatMap (fun i => (List.range 64).flatMap (fun j => leBytes 4 (h.accEl t i j).toNat))).length = 16384 :=
  length_flatMap_range (c := 256) 64 (fun i _ => length_accRow h t i)

theorem tailStands {m : Memory} {a n0 : Nat} {h : Herd} (hs : m.Stands (a + 0x2400) (saveTail h n0)) : TailStands m a h n0 := by
  have hrows := length_flatMap_range (c := 4 * h.width) h.nregs (fun n _ => length_wordRow h n0 n)
  have helems := length_flatMap_range (c := 64 * h.width) 16 (fun n _ => length_elemRow h n0 n)
  have htapes := length_flatMap_range (c := 256) 8 (fun f _ => length_tapeRec h.tape f)
  simp only [saveTail, Memory.Stands.append_iff, List.length_append, length_zeroBytes, hrows, helems, htapes] at hs
  obtain ⟨⟨⟨⟨htape, -⟩, hword⟩, hatom⟩, hacc⟩ := hs
  refine ⟨fun f hf => htape.range (fun f _ => length_tapeRec h.tape f) hf, fun n l hn hl => ?_, fun n l i hn hl hi => ?_,
    fun t i j ht hi hj => ?_⟩
  · have hrow := (hword.range (fun n _ => length_wordRow h n0 n) hn).range (fun _ _ => length_leBytes 4 _) hl
    exact (hrow.moved (by ring)).num_word rfl
  · have hrow := ((hatom.range (fun n _ => length_elemRow h n0 n) hn).range (fun l _ => length_elemBytes h n0 n l) hl).range
      (fun _ _ => length_leBytes 8 _) hi
    exact (hrow.moved (by ring)).num_word rfl
  · have hrow := ((hacc.range (fun t _ => length_accTile h t) ht).range (fun i _ => length_accRow h t i) hi).range
      (fun _ _ => length_leBytes 4 _) hj
    exact (hrow.moved (by ring)).num_word rfl

/-- Where a save puts the furrow records: at 0x1400 with a trap in progress, at 0x0400 without (R362, R427). -/
def recsAt (h : Herd) (a : Nat) : Nat := a + if h.handler.isSome then 0x1400 else 0x400

/-- What a save does to the trap record: with no trap in progress it clears PROG and the reserved fields (R6, R362). -/
def trapRecActs (s : State) (h : Herd) (a : Nat) : List Act :=
  if h.handler.isSome then []
  else [.mem a (leBytes 8 (savedTrapWord (BitVec.ofNat 64 (s.hbm.num a 8))).toNat) none, .memZero (a + 0x28) 0x18]

/-- What a save does behind the context: the rest of the area is zero, and free values are drawn. -/
def saveRest (s : State) (h : Herd) (a : Nat) : List Act :=
  (if 0x2400 + (saveTail h s.freeCtr).length < saveBytes
    then [.memZero (a + (0x2400 + (saveTail h s.freeCtr).length)) (saveBytes - (0x2400 + (saveTail h s.freeCtr).length))] else [])
    ++ savedDrawn h

/-- A save, part by part: the head, the furrow records, the trap record, the rest of the context, and what lies behind it. -/
theorem saveContext_eq (s : State) (h : Herd) (a : Nat) : saveContext s h a =
    .mem (a + 0x80) (saveHead h) none :: .mem (recsAt h a) (furrowRecs h) none :: (trapRecActs s h a
      ++ .mem (a + 0x2400) (saveTail h s.freeCtr) none :: saveRest s h a) := by
  unfold saveContext recsAt trapRecActs saveRest
  cases h.handler.isSome <;> simp

/-- Of the trap record a save writes bytes below 0x40 only. -/
theorem stores_trapRecActs (s : State) (h : Herd) {a x : Nat} (hx : a + 0x40 ≤ x) : ∀ b ∈ trapRecActs s h a, b.stores x = false := by
  unfold trapRecActs
  cases h.handler.isSome
  · simp [Act.stores]; omega
  · simp

theorem stores_saveRest (s : State) (h : Herd) {a x : Nat} (hx : x < a + 0x2400 + (saveTail h s.freeCtr).length) :
    ∀ b ∈ saveRest s h a, b.stores x = false := by
  intro b hb
  rcases List.mem_append.mp hb with hb | hb
  · split at hb
    · obtain rfl := List.mem_singleton.mp hb
      simp [Act.stores]; omega
    · simp at hb
  · unfold savedDrawn at hb
    split at hb
    · obtain rfl := List.mem_singleton.mp hb; rfl
    · simp at hb

/-- From byte 0x2400 on a save writes last. -/
theorem stores_saveBack (s : State) (h : Herd) {a x : Nat} (hx : x < a + 0x2400) :
    ∀ b ∈ Act.mem (a + 0x2400) (saveTail h s.freeCtr) none :: saveRest s h a, b.stores x = false := by
  intro b hb
  rcases List.mem_cons.mp hb with rfl | hb
  · simp [Act.stores]; omega
  · exact stores_saveRest s h (by omega) b hb

/-- What a save leaves in its save area (R362). -/
structure ContextStands (m : Memory) (s : State) (h : Herd) (a : Nat) : Prop where
  head : m.Stands (a + 0x80) (saveHead h)
  recs : m.Stands (recsAt h a) (furrowRecs h)
  tail : m.Stands (a + 0x2400) (saveTail h s.freeCtr)
  /-- the trap record of a trap in progress stays -/
  trap : h.handler.isSome = true → ∀ x, a ≤ x → x < a + 0x40 → m.byte x = s.hbm.byte x
  word : h.handler.isSome = false → m.Stands a (leBytes 8 (savedTrapWord (BitVec.ofNat 64 (s.hbm.num a 8))).toNat)
  zero : h.handler.isSome = false → ∀ x, a + 0x28 ≤ x → x < a + 0x40 → m.byte x = 0#8

theorem saveContext_stands (s : State) {h : Herd} (hs : HerdShape h) (a : Nat) :
    ContextStands (run s (saveContext s h a)).hbm s h a := by
  have hrecs := length_furrowRecs hs
  have hat : a + 0x400 ≤ recsAt h a ∧ recsAt h a + 0x1000 ≤ a + 0x2400 := by unfold recsAt; split <;> omega
  rw [saveContext_eq]
  refine ⟨?_, ?_, ?_, fun hh x h1 h2 => ?_, fun hh => ?_, fun hh x h1 h2 => ?_⟩
  · refine stands_run [] _ _ _ _ s fun b hb x h1 h2 => ?_
    rw [length_saveHead] at h2
    rcases List.mem_cons.mp hb with rfl | hb
    · simp [Act.stores]; omega
    · rcases List.mem_append.mp hb with hb | hb
      · exact stores_trapRecActs s h (by omega) b hb
      · exact stores_saveBack s h (by omega) b hb
  · refine stands_run [_] _ _ _ _ s fun b hb x h1 h2 => ?_
    rcases List.mem_append.mp hb with hb | hb
    · exact stores_trapRecActs s h (by omega) b hb
    · exact stores_saveBack s h (by omega) b hb
  · rw [← List.cons_append, ← List.cons_append]
    exact stands_run _ _ _ _ _ s fun b hb x h1 h2 => stores_saveRest s h (by omega) b hb
  · refine byte_run _ s x fun b hb => ?_
    simp only [trapRecActs, hh, if_true, List.nil_append] at hb
    rcases List.mem_cons.mp hb with rfl | hb
    · simp [Act.stores]; omega
    rcases List.mem_cons.mp hb with rfl | hb
    · simp [Act.stores]; omega
    · exact stores_saveBack s h (by omega) b hb
  · simp only [trapRecActs, hh, Bool.false_eq_true, if_false, List.cons_append, List.nil_append]
    refine stands_run [_, _] _ _ _ _ s fun b hb x h1 h2 => ?_
    rw [length_leBytes] at h2
    rcases List.mem_cons.mp hb with rfl | hb
    · simp [Act.stores]; omega
    · exact stores_saveBack s h (by omega) b hb
  · simp only [trapRecActs, hh, Bool.false_eq_true, if_false, List.cons_append, List.nil_append]
    exact byte_run_zeroed [_, _, _] _ _ _ s h1 (by omega) (stores_saveBack s h (by omega))

end Sys2Proof.Machine
end

section
/-! SUPPORT. A furrow record read back from the bytes that a save wrote (R363). -/

namespace Sys2Proof.Machine

theorem stateCode_le (x : FState) : (stateCode x).1 ≤ 4 ∧ (stateCode x).2 ≤ 3 := by
  cases x with
  | waiting w => cases w <;> simp [stateCode]
  | _ => simp [stateCode]

theorem hidCode_lt {x : FState} (hx : ∀ n, x = .standing n → n < 16) : hidCode x < 16 := by
  cases x with
  | standing n => exact hx n rfl
  | _ => exact Nat.zero_lt_succ 15

/-- The second word of a furrow record (R363). -/
def recWord (r : Furrow) : Nat :=
  r.path.toNat + 2 ^ 8 * r.grp + 2 ^ 16 * (r.stack.length % 16) + 2 ^ 20 * (r.stack.length / 16) + 2 ^ 21 * (stateCode r.st).1
    + 2 ^ 24 * hidCode r.st + 2 ^ 28 * (stateCode r.st).2

/-- The second word of a path-stack entry in a furrow record (R363). -/
def entryWord (e : PathEntry) : Nat := e.mask.toNat + (if e.parked then 2 ^ 8 else 0) + 2 ^ 12 * e.hid + 2 ^ 16 * e.cnt.toNat

/-- What R22, R38 and R40 allow a furrow, so that its record holds it. -/
structure FurShape (r : Furrow) : Prop where
  grp : r.grp < 8
  hcnt : r.hcnt.length = 16
  depth : r.stack.length ≤ 16
  hids : ∀ e ∈ r.stack, e.hid < 16
  stands : ∀ n, r.st = .standing n → n < 16

theorem furShape_fur {h : Herd} (hs : HerdShape h) {f : Nat} (hf : f < h.furrows.length) : FurShape (h.fur f) := by
  have hm : h.fur f ∈ h.furrows := by
    rw [Herd.fur, List.getD_eq_getElem _ _ hf]
    exact List.getElem_mem hf
  obtain ⟨hg, hc, hd, hi, hn⟩ := hs.furs _ hm
  exact ⟨hg, hc, hd, hi, hn⟩

/-- The fields of the second word of a furrow record. -/
theorem recWord_fields {r : Furrow} (hr : FurShape r) {w : Word} (hw : w = BitVec.ofNat 64 (recWord r)) :
    fld w 7 0 = r.path.toNat ∧ fld w 15 8 = r.grp ∧ (if w.getLsbD 20 then 16 else fld w 19 16) = r.stack.length ∧
      fld w 23 21 = (stateCode r.st).1 ∧ fld w 27 24 = hidCode r.st ∧ fld w 30 28 = (stateCode r.st).2 := by
  obtain ⟨hst, hwait⟩ := stateCode_le r.st
  have hpath := r.path.isLt
  have hgrp := hr.grp
  have hdepth := hr.depth
  have hhid := hidCode_lt hr.stands
  subst hw
  simp only [fld_ofNat, getLsbD_ofNat_word _ 20 (by decide), recWord, decide_eq_true_eq]
  norm_num only at hpath ⊢
  refine ⟨by omega, by omega, ?_, by omega, by omega, by omega⟩
  split <;> omega

/-- The fields of the second word of a path-stack entry. -/
theorem entryWord_fields {e : PathEntry} (he : e.hid < 16) {w : Word} (hw : w = BitVec.ofNat 64 (entryWord e)) :
    fld w 7 0 = e.mask.toNat ∧ w.getLsbD 8 = e.parked ∧ fld w 15 12 = e.hid ∧ fld w 31 16 = e.cnt.toNat := by
  have hmask := e.mask.isLt
  have hcnt := e.cnt.isLt
  subst hw
  simp only [fld_ofNat, getLsbD_ofNat_word _ 8 (by decide), entryWord]
  norm_num only at hmask hcnt ⊢
  cases e.parked
  · refine ⟨?_, decide_eq_false ?_, ?_, ?_⟩ <;> simp only [Bool.false_eq_true, if_false] <;> omega
  · refine ⟨?_, decide_eq_true ?_, ?_, ?_⟩ <;> simp only [if_true] <;> omega

/-- The second words of records and entries fit eight bytes. -/
theorem recWord_lt {r : Furrow} (hr : FurShape r) : recWord r < 256 ^ 8 := by
  obtain ⟨hst, hwait⟩ := stateCode_le r.st
  have hpath := r.path.isLt
  have hgrp := hr.grp
  have hdepth := hr.depth
  have hhid := hidCode_lt hr.stands
  unfold recWord
  norm_num only at hpath ⊢
  omega

theorem entryWord_lt {e : PathEntry} (he : e.hid < 16) : entryWord e < 256 ^ 8 := by
  have hmask := e.mask.isLt
  have hcnt := e.cnt.isLt
  unfold entryWord
  norm_num only at hmask hcnt ⊢
  split <;> omega

/-- The parts of a furrow record, in their places (R363). -/
structure RecordStands (m : Memory) (a : Nat) (r : Furrow) : Prop where
  pc : m.Stands a (leBytes 8 r.pc.toNat)
  word : m.Stands (a + 8) (leBytes 8 (recWord r))
  counts : m.Stands (a + 0x20) ((List.range 16).flatMap (fun n => leBytes 2 (r.hcnt.getD n 0#16).toNat))
  stack : m.Stands (a + 0x40) (r.stack.reverse.flatMap (fun e => leBytes 8 e.pc.toNat ++ leBytes 8 (entryWord e)))

theorem recordStands {m : Memory} {a : Nat} {r : Furrow} (hs : m.Stands a (furrowRec r)) : RecordStands m a r := by
  have hcounts := length_flatMap_range (c := 2) 16 (fun n _ => length_leBytes 2 (r.hcnt.getD n 0#16).toNat)
  simp only [furrowRec, Memory.Stands.append_iff, List.length_append, length_leBytes, List.length_replicate, hcounts, Nat.add_assoc,
    Nat.reduceAdd, Nat.reduceMul] at hs
  obtain ⟨⟨⟨⟨⟨hpc, hword⟩, -⟩, hcnt⟩, hstack⟩, -⟩ := hs
  exact ⟨hpc, by simpa only [recWord, Nat.add_assoc] using hword, hcnt, by simpa only [entryWord, Nat.add_assoc] using hstack⟩

theorem readRec_hcnt {m : Memory} {a : Nat} {r : Furrow} (hs : RecordStands m a r) (hr : FurShape r) :
    (readRec m a).hcnt = r.hcnt := by
  refine List.ext_getElem (by simp [readRec, hr.hcnt]) fun i h1 h2 => ?_
  have hi : i < 16 := hr.hcnt ▸ h2
  have hn := (hs.counts.range (fun _ _ => length_leBytes 2 _) hi).num_word rfl
  simp only [readRec, List.getElem_map, List.getElem_range]
  rw [hn, BitVec.ofNat_toNat, BitVec.setWidth_eq, List.getD_eq_getElem _ _ h2]

/-- Entry e of a record's path stack, counted from the bottom. -/
theorem entry_of_stands {m : Memory} {a : Nat} {r : Furrow} (hs : RecordStands m a r) (hr : FurShape r) {e : Nat} {x : PathEntry}
    (hx : r.stack.reverse[e]? = some x) :
    m.num (a + 0x40 + 16 * e) 8 = x.pc.toNat ∧ m.num (a + 0x48 + 16 * e) 8 = entryWord x := by
  have h16 := hs.stack.flatMap (c := 16) (fun y _ => by simp) hx
  rw [Memory.Stands.append_iff, length_leBytes] at h16
  obtain ⟨hpc, hword⟩ := h16
  have hid : x.hid < 16 := hr.hids x (List.mem_reverse.mp (List.mem_of_getElem? hx))
  exact ⟨hpc.num_word rfl, (hword.moved (by ring)).num_eq (entryWord_lt hid)⟩

theorem readRec_stack {m : Memory} {a : Nat} {r : Furrow} (hs : RecordStands m a r) (hr : FurShape r) :
    (readRec m a).stack = r.stack := by
  obtain ⟨-, -, hdepth, -⟩ := recWord_fields hr rfl
  simp only [readRec, hs.word.num_eq (recWord_lt hr), hdepth]
  rw [← List.reverse_reverse r.stack]
  congr 1
  refine List.ext_getElem (by simp) fun e h1 h2 => ?_
  obtain ⟨hpc, hword⟩ := entry_of_stands hs hr (List.getElem?_eq_getElem h2)
  obtain ⟨hmask, hparked, hhid, hcnt⟩ := entryWord_fields
    (hr.hids _ (List.mem_reverse.mp (List.getElem_mem h2))) rfl
  simp only [List.getElem_map, List.getElem_range, hpc, hword, hmask, hparked, hhid, hcnt, BitVec.ofNat_toNat, BitVec.setWidth_eq]

/-- R363: a furrow record that stands in memory reads as the furrow that it was written from. -/
theorem sameFurrow_of_stands {m : Memory} {a : Nat} {r : Furrow} (hs : m.Stands a (furrowRec r)) (hr : FurShape r) :
    SameFurrow r (readRec m a) := by
  have hp := recordStands hs
  obtain ⟨hpath, hgrp, -, hst, hhid, hwait⟩ := recWord_fields hr rfl
  have hw := hp.word.num_eq (recWord_lt hr)
  refine ⟨?_, ?_, ?_, readRec_stack hp hr, readRec_hcnt hp hr, ?_, ?_⟩ <;> simp only [readRec]
  · rw [hp.pc.num_word rfl, BitVec.ofNat_toNat, BitVec.setWidth_eq]
  · rw [hw, hpath, BitVec.ofNat_toNat, BitVec.setWidth_eq]
  · rw [hw, hgrp]
  · rw [hw, hst, hwait]
  · rw [hw, hhid]

end Sys2Proof.Machine
end

section
/-! SUPPORT. A tape context read back from the bytes that a save wrote (R389, R390). -/

namespace Sys2Proof.Machine

/-- The second word of a tape context record (R390). -/
def tapeWord (x : Stream) : Nat :=
  (streamMarks x).1 + 2 ^ 8 * (streamMarks x).2 + 2 ^ 16 * x.seq.toNat + 2 ^ 32 * x.mref.toNat + (if x.cutp then 2 ^ 40 else 0)

theorem streamMarks_lt {x : Stream} (hx : StreamShape x) : (streamMarks x).1 < 256 ∧ (streamMarks x).2 < 256 := by
  obtain ⟨hused, hcount⟩ := hx.block
  unfold streamMarks
  cases x.unread
  · exact ⟨by simp; omega, by simp; omega⟩
  · cases hk : x.keep with
    | none => simp
    | some k =>
      obtain ⟨h1, h2⟩ := hx.keep k hk
      exact ⟨by simp; omega, by simp; omega⟩

theorem tapeWord_lt {x : Stream} (hx : StreamShape x) : tapeWord x < 256 ^ 8 := by
  obtain ⟨h1, h2⟩ := streamMarks_lt hx
  have hseq := x.seq.isLt
  have hmref := x.mref.isLt
  unfold tapeWord
  norm_num only at hseq hmref ⊢
  split <;> omega

/-- The fields of the second word of a tape context record. -/
theorem tapeWord_fields {x : Stream} (hx : StreamShape x) {w : Word} (hw : w = BitVec.ofNat 64 (tapeWord x)) :
    fld w 7 0 = (streamMarks x).1 ∧ fld w 15 8 = (streamMarks x).2 ∧ fld w 31 16 = x.seq.toNat ∧ fld w 39 32 = x.mref.toNat ∧
      w.getLsbD 40 = x.cutp := by
  obtain ⟨h1, h2⟩ := streamMarks_lt hx
  have hseq := x.seq.isLt
  have hmref := x.mref.isLt
  subst hw
  simp only [fld_ofNat, getLsbD_ofNat_word _ 40 (by decide), tapeWord]
  norm_num only at hseq hmref ⊢
  cases x.cutp
  · refine ⟨?_, ?_, ?_, ?_, decide_eq_false ?_⟩ <;> simp only [Bool.false_eq_true, if_false] <;> omega
  · refine ⟨?_, ?_, ?_, ?_, decide_eq_true ?_⟩ <;> simp only [if_true] <;> omega

/-- The parts of a furrow's tape context record, in their places (R390). -/
structure StreamStands (m : Memory) (a : Nat) (x : Stream) : Prop where
  cur : m.Stands a (leBytes 8 x.cur.toNat)
  word : m.Stands (a + 8) (leBytes 8 (tapeWord x))
  depth : m.Stands (a + 0x10) (leBytes 8 x.depth)
  refs : m.Stands (a + 0x20) ((List.range 8).flatMap (fun j => leBytes 4 (x.ref.getD j 0#32).toNat))

/-- The segment's words, which stand in the record of furrow 0 (R390). -/
structure SegmentStands (m : Memory) (a : Nat) (t : TapeCtx) : Prop where
  sbase : m.Stands (a + 0x40) (leBytes 8 t.sbase.toNat)
  slim : m.Stands (a + 0x48) (leBytes 8 t.slim.toNat)
  next : m.Stands (a + 0x50) (leBytes 8 t.next.toNat)
  active : m.Stands (a + 0x58) (leBytes 8 (if t.active then 1 else 0))
  obase : m.Stands (a + 0x60) (leBytes 8 t.obase.toNat)
  olim : m.Stands (a + 0x68) (leBytes 8 t.olim.toNat)

theorem length_refBytes (x : Stream) : ((List.range 8).flatMap (fun j => leBytes 4 (x.ref.getD j 0#32).toNat)).length = 32 :=
  length_flatMap_range (c := 4) 8 (fun _ _ => length_leBytes 4 _)

theorem streamStands {m : Memory} {a : Nat} {t : TapeCtx} {f : Nat} (hs : m.Stands a (tapeRec t f)) : StreamStands m a (t.stream f) := by
  simp only [tapeRec, Memory.Stands.append_iff, List.length_append, length_leBytes, length_zeroBytes, Nat.add_assoc, Nat.reduceAdd] at hs
  obtain ⟨⟨⟨⟨⟨hcur, hword⟩, hdepth⟩, -⟩, hrefs⟩, -⟩ := hs
  exact ⟨hcur, by simpa only [tapeWord, Nat.add_assoc] using hword, hdepth, hrefs⟩

theorem segmentStands {m : Memory} {a : Nat} {t : TapeCtx} (hs : m.Stands a (tapeRec t 0)) : SegmentStands m a t := by
  simp only [tapeRec, if_true, Memory.Stands.append_iff, List.length_append, length_leBytes, length_zeroBytes, length_refBytes,
    Nat.add_assoc, Nat.reduceAdd] at hs
  obtain ⟨-, ⟨⟨⟨⟨⟨hbase, hlim⟩, hnext⟩, hactive⟩, hobase⟩, holim⟩, -⟩ := hs
  exact ⟨hbase, hlim, hnext, hactive, hobase, holim⟩

/-- R389: the records of the current block that a restore keeps are those that the stream had, all of the image's where the
block had not been read again since a restore. -/
theorem keep_of_marks {x : Stream} (hx : StreamShape x) :
    (if (streamMarks x).1 = 0xFF ∧ (streamMarks x).2 = 0xFF then none else some ((streamMarks x).2, (streamMarks x).1))
      = if x.unread then x.keep else some (x.count, x.used) := by
  obtain ⟨hused, hcount⟩ := hx.block
  unfold streamMarks
  cases x.unread
  · simp; omega
  · cases hk : x.keep with
    | none => simp
    | some k =>
      obtain ⟨h1, h2⟩ := hx.keep k hk
      simp; omega

theorem refs_of_stands {m : Memory} {a : Nat} {x : Stream} (hs : StreamStands m a x) (hx : StreamShape x) :
    (List.range 8).map (fun j => BitVec.ofNat 32 (m.num (a + 0x20 + 4 * j) 4)) = x.ref := by
  refine List.ext_getElem (by simp [hx.ref]) fun j h1 h2 => ?_
  have hn := (hs.refs.range (fun _ _ => length_leBytes 4 _) (hx.ref ▸ h2)).num_word rfl
  simp only [List.getElem_map, List.getElem_range]
  rw [hn, BitVec.ofNat_toNat, BitVec.setWidth_eq, List.getD_eq_getElem _ _ h2]

/-- R389, R390: a tape context record that stands in memory reads as the stream that it was written from. -/
theorem sameStream_of_stands {m : Memory} {a f : Nat} {x : Stream} (old : Stream) (hs : StreamStands m (a + 0x2400 + 256 * f) x)
    (hx : StreamShape x) : SameStream x (restoreStream m a old f) := by
  obtain ⟨hused, hcount, hseq, hmref, hcut⟩ := tapeWord_fields hx rfl
  have hcur := hs.cur.num_word rfl
  have hword := hs.word.num_eq (tapeWord_lt hx)
  have hdepth := hs.depth.num_eq hx.depth
  have hkeep := keep_of_marks hx
  unfold restoreStream
  simp only [hcur, hword, hused, hcount, hseq, hmref, hcut, hdepth, refs_of_stands hs hx, BitVec.ofNat_toNat, BitVec.setWidth_eq]
  refine ⟨⟨rfl, rfl, rfl, rfl, rfl, rfl⟩, by simp, fun h0 => ?_, ?_⟩
  · simpa [h0] using hkeep
  · simp only [Stream.dirty, decide_eq_false_iff_not]
    split <;> omega

/-- R389: where the record says that no tape is active, a restore gives the herd none. -/
theorem restoreTape_inactive {m : Memory} {a : Nat} {t : TapeCtx} (g : Herd) (hs : SegmentStands m (a + 0x2400) t)
    (ht : t.active = false) : restoreTape m a g = TapeCtx.none := by
  have hactive := hs.active.num_eq (v := if t.active then 1 else 0) (by split <;> decide)
  simp [restoreTape, hactive, ht]

theorem restoreTape_active {m : Memory} {a : Nat} {t : TapeCtx} (g : Herd) (hs : SegmentStands m (a + 0x2400) t)
    (ht : t.active = true) : restoreTape m a g =
      { g.tape with active := true, sbase := t.sbase, slim := t.slim, next := t.next, obase := t.obase, olim := t.olim
                    streams := g.idxs.map (fun f => restoreStream m a (g.tape.stream f) f), closed := [] } := by
  have hactive := hs.active.num_eq (v := if t.active then 1 else 0) (by split <;> decide)
  simp [restoreTape, hactive, ht, hs.sbase.num_word rfl, hs.slim.num_word rfl, hs.next.num_word rfl, hs.obase.num_word rfl,
    hs.olim.num_word rfl]

/-- R389, R390: an active tape context that stands in a save area is given back by a restore. -/
theorem sameTape_of_stands {m : Memory} {a n : Nat} {t : TapeCtx} {g : Herd} (hs : ∀ f, f < 8 → m.Stands (a + 0x2400 + 256 * f) (tapeRec t f))
    (hn : g.furrows.length = n) (h8 : n ≤ 8) (ht : t.active = true) (hx : ∀ f, f < n → StreamShape (t.stream f)) :
    SameTape t (restoreTape m a g) n := by
  rw [restoreTape_active g (segmentStands (hs 0 (by decide))) ht]
  refine ⟨rfl, ⟨rfl, rfl, rfl, rfl, rfl⟩, fun f hf => ?_⟩
  have hstream : ((g.idxs.map (fun f => restoreStream m a (g.tape.stream f) f)).getD f Stream.fresh)
      = restoreStream m a (g.tape.stream f) f := by
    rw [List.getD_eq_getElem _ _ (by simp [Herd.idxs, hn, hf])]
    simp [Herd.idxs]
  exact (congrArg (SameStream (t.stream f)) hstream).mpr
    (sameStream_of_stands (g.tape.stream f) (streamStands (hs f (by omega))) (hx f hf))

end Sys2Proof.Machine
end

section
/-! SUPPORT. What the acts of a restore do to a herd's registers: each register after them is what the save area reads there
(R58, R362). -/

namespace Sys2Proof.Machine

/-- The part of a herd's context that an act writes: the lists of a restore are told apart by it. -/
inductive CtxPart where
  | sregs | vregs | dist | accs | counters | other

/-- The part that an act writes. -/
def HAct.part : HAct → CtxPart
  | .s _ _ => .sregs
  | .reload _ _ => .sregs
  | .v _ _ => .vregs
  | .vtag _ _ => .vregs
  | .d _ _ => .dist
  | .dtag _ _ => .dist
  | .acc _ _ _ => .accs
  | .accPoison _ => .counters
  | .conv _ _ _ => .counters
  | .cvlim _ => .counters
  | .copies _ => .counters
  | .latch _ => .counters
  | .more _ => .counters
  | _ => .other

/-- The registers of two herds agree but for those of one part. -/
structure SameBut (p : CtxPart) (g x : Herd) : Prop where
  s : p ≠ .sregs → x.s = g.s
  v : p ≠ .vregs → x.v = g.v
  vtag : p ≠ .vregs → x.vtag = g.vtag
  d : p ≠ .dist → x.d = g.d
  dtag : p ≠ .dist → x.dtag = g.dtag
  acc : p ≠ .accs → x.acc = g.acc

theorem SameBut.refl (p : CtxPart) (g : Herd) : SameBut p g g :=
  ⟨fun _ => rfl, fun _ => rfl, fun _ => rfl, fun _ => rfl, fun _ => rfl, fun _ => rfl⟩

theorem SameBut.trans {p : CtxPart} {g x y : Herd} (h1 : SameBut p g x) (h2 : SameBut p x y) : SameBut p g y :=
  ⟨fun e => (h2.s e).trans (h1.s e), fun e => (h2.v e).trans (h1.v e), fun e => (h2.vtag e).trans (h1.vtag e),
    fun e => (h2.d e).trans (h1.d e), fun e => (h2.dtag e).trans (h1.dtag e), fun e => (h2.acc e).trans (h1.acc e)⟩

theorem act_sameBut (x : HAct) (g : Herd) : SameBut x.part g (g.act x) := by
  cases x <;> constructor <;> simp [HAct.part]

/-- Acts that write one part keep the others. -/
theorem acts_sameBut {p : CtxPart} : ∀ {l : List HAct}, (∀ x ∈ l, x.part = p) → ∀ g : Herd, SameBut p g (g.acts l)
  | [], _, g => SameBut.refl p g
  | x :: l, hl, g => by
    have h1 := act_sameBut x g
    rw [hl x (by simp)] at h1
    exact h1.trans (acts_sameBut (fun y hy => hl y (by simp [hy])) (g.act x))

@[simp] theorem Herd.acts_accLength : ∀ (l : List HAct) (g : Herd), (g.acts l).acc.length = g.acc.length
  | [], _ => rfl
  | x :: l, g => by
    rw [Herd.acts_cons, Herd.acts_accLength l]
    cases x <;> simp

/-- Of acts listed by number, of which only those of number i bear on some part of a herd, those of number i are the last word. -/
theorem acts_range {α : Type} (π : Herd → α) {f : Nat → List HAct} {i : Nat}
    (hk : ∀ j, j ≠ i → ∀ g : Herd, π (g.acts (f j)) = π g) : ∀ {n : Nat}, i < n → ∀ g : Herd,
    ∃ pre, π (g.acts ((List.range n).flatMap f)) = π ((g.acts pre).acts (f i))
  | 0, h, _ => absurd h (Nat.not_lt_zero i)
  | n + 1, h, g => by
    rw [List.range_succ, List.flatMap_append, List.flatMap_singleton, Herd.acts_append]
    rcases Nat.lt_succ_iff_lt_or_eq.mp h with hi | rfl
    · obtain ⟨pre, e⟩ := acts_range π hk hi g
      exact ⟨pre, by rw [hk n (by omega), e]⟩
    · exact ⟨_, rfl⟩

/-- The acts that load the uniform registers of a save area, by number. -/
def loadS (m : Memory) (a i : Nat) : List HAct := [.reload i (BitVec.ofNat 64 (m.num (a + 0x100 + 8 * i) 8))]

/-- The acts that load vector register n: its words and its tag. -/
def loadV (m : Memory) (a : Nat) (h : Herd) (n : Nat) : List HAct :=
  [.v (vkey n 0) ((List.range h.width).map (fun l => BitVec.ofNat 32 (m.num (a + 0x3000 + 4 * (n * h.width + l)) 4))),
   .vtag n (BitVec.ofNat 4 (m.num (a + 0x300 + n / 2) 1 / (if n % 2 = 0 then 1 else 16) % 16))]

/-- The acts that load distribution register n: its atoms and its tags. -/
def loadD (m : Memory) (a : Nat) (h : Herd) (n : Nat) : List HAct :=
  [.d (dkey n 0 0) ((List.range (8 * h.width)).map (fun i =>
      BitVec.ofNat 64 (m.num (a + 0x3000 + 4 * h.nregs * h.width + 64 * n * h.width + 8 * i) 8))),
   .dtag n (BitVec.ofNat 16 (m.num (a + 0x380 + 2 * n) 2))]

/-- The act that loads accumulator tile t. -/
def loadAcc (m : Memory) (a : Nat) (h : Herd) (t : Nat) : List HAct :=
  [.acc t 0 ((List.range 4096).map (fun i =>
    BitVec.ofNat 32 (m.num (a + 0x3000 + 4 * h.nregs * h.width + 1024 * h.width + 16384 * t + 4 * i) 4)))]

/-- The acts that load the counters, the latch and the accumulator's poison. -/
def loadCounters (m : Memory) (a : Nat) : List HAct :=
  [.accPoison (BitVec.ofNat 8 (m.num (a + 0xC0) 1)),
   .conv (BitVec.ofNat 32 (m.num (a + 0x80) 4)) (BitVec.ofNat 32 (m.num (a + 0x88) 4)) (BitVec.ofNat 32 (m.num (a + 0x90) 4)),
   .cvlim (BitVec.ofNat 64 (m.num (a + 0x98) 8 % 2 ^ 35)), .copies (BitVec.ofNat 64 (m.num (a + 0xA0) 8)),
   .latch (restoreLatch m a), .more (BitVec.ofNat 16 (m.num (a + 0xB2) 2))]

/-- The acts of a restore, part by part (R58, R362). -/
theorem restoreRegs_eq (m : Memory) (a : Nat) (h : Herd) : restoreRegs m a h =
    (List.range 64).flatMap (loadS m a) ++ (List.range h.nregs).flatMap (loadV m a h) ++ (List.range 16).flatMap (loadD m a h)
      ++ (List.range h.nacc).flatMap (loadAcc m a h) ++ loadCounters m a := by
  rw [show (List.range 64).flatMap (loadS m a) = _ from (List.map_eq_flatMap ..).symm,
    show (List.range h.nacc).flatMap (loadAcc m a h) = _ from (List.map_eq_flatMap ..).symm]
  rfl

/-- A herd after the acts of a restore, part by part. -/
theorem acts_restoreRegs (m : Memory) (a : Nat) (h g : Herd) : g.acts (restoreRegs m a h) =
    ((((g.acts ((List.range 64).flatMap (loadS m a))).acts ((List.range h.nregs).flatMap (loadV m a h))).acts
      ((List.range 16).flatMap (loadD m a h))).acts ((List.range h.nacc).flatMap (loadAcc m a h))).acts (loadCounters m a) := by
  rw [restoreRegs_eq, Herd.acts_append, Herd.acts_append, Herd.acts_append, Herd.acts_append]

/-- Acts listed by number that write one part keep the others. -/
theorem acts_range_sameBut {f : Nat → List HAct} {p : CtxPart} (hf : ∀ i, ∀ x ∈ f i, x.part = p) (n : Nat) (g : Herd) :
    SameBut p g (g.acts ((List.range n).flatMap f)) := by
  refine acts_sameBut (fun x hx => ?_) g
  obtain ⟨i, -, hi⟩ := List.mem_flatMap.mp hx
  exact hf i x hi

section
variable (m : Memory) (a : Nat) (h g : Herd)

theorem loadS_sameBut (n : Nat) : SameBut .sregs g (g.acts ((List.range n).flatMap (loadS m a))) :=
  acts_range_sameBut (fun i => by simp [loadS, HAct.part]) n g

theorem loadV_sameBut (n : Nat) : SameBut .vregs g (g.acts ((List.range n).flatMap (loadV m a h))) :=
  acts_range_sameBut (fun i => by simp [loadV, HAct.part]) n g

theorem loadD_sameBut (n : Nat) : SameBut .dist g (g.acts ((List.range n).flatMap (loadD m a h))) :=
  acts_range_sameBut (fun i => by simp [loadD, HAct.part]) n g

theorem loadAcc_sameBut (n : Nat) : SameBut .accs g (g.acts ((List.range n).flatMap (loadAcc m a h))) :=
  acts_range_sameBut (fun i => by simp [loadAcc, HAct.part]) n g

theorem loadCounters_sameBut : SameBut .counters g (g.acts (loadCounters m a)) :=
  acts_sameBut (by simp [loadCounters, HAct.part]) g

/-! Which loads bear on a register, and what it then is. -/

theorem sreg_loadS (i j : Nat) : (g.acts (loadS m a j)).sreg i =
    if i ≠ 0 ∧ j = i then BitVec.ofNat 64 (m.num (a + 0x100 + 8 * i) 8) else g.sreg i := by
  simp only [loadS, Herd.acts_cons, Herd.acts_nil, Herd.sreg, Herd.act_s]
  by_cases hi : i = 0
  · simp [hi]
  · by_cases hj : j = i
    · subst hj; simp [hi, Sparse.get_set]
    · by_cases h0 : j = 0
      · simp [hi, h0]; omega
      · simp [hi, hj, h0, Sparse.get_set, Ne.symm hj]

theorem vreg_loadV {l : Nat} (hl : l < h.width) (hw : h.width ≤ 64) (n j : Nat) : (g.acts (loadV m a h j)).vreg n l =
    if j = n then BitVec.ofNat 32 (m.num (a + 0x3000 + 4 * (n * h.width + l)) 4) else g.vreg n l := by
  simp only [loadV, Herd.acts_cons, Herd.acts_nil, Herd.vreg, Herd.act_v, Sparse.get_write, vkey, List.length_map, List.length_range]
  by_cases hj : j = n
  · subst hj
    rw [if_pos ⟨by omega, by omega⟩, if_pos rfl, Nat.add_zero (64 * j), Nat.add_sub_cancel_left]
    simp [hl]
  · rw [if_neg (by omega), if_neg hj]

theorem tagOf_loadV (n j : Nat) : (g.acts (loadV m a h j)).tagOf n =
    if j = n then m.num (a + 0x300 + n / 2) 1 / (if n % 2 = 0 then 1 else 16) % 16 else g.tagOf n := by
  simp only [loadV, Herd.acts_cons, Herd.acts_nil, Herd.tagOf, Herd.act_vtag, Sparse.get_set]
  by_cases hj : j = n
  · subst hj; simp
  · simp [hj, Ne.symm hj]

theorem datom_loadD {l i : Nat} (hl : l < h.width) (hi : i < 8) (hw : h.width ≤ 64) (n j : Nat) :
    (g.acts (loadD m a h j)).datom n l i = if j = n then
      BitVec.ofNat 64 (m.num (a + 0x3000 + 4 * h.nregs * h.width + 64 * n * h.width + 8 * (8 * l + i)) 8) else g.datom n l i := by
  simp only [loadD, Herd.acts_cons, Herd.acts_nil, Herd.datom, Herd.act_d, Sparse.get_write, dkey, List.length_map, List.length_range]
  by_cases hj : j = n
  · subst hj
    have e : 8 * (64 * j + l) + i - (8 * (64 * j + 0) + 0) = 8 * l + i := by omega
    rw [if_pos ⟨by omega, by omega⟩, if_pos rfl, e, List.getD_eq_getElem _ _ (by simp; omega)]
    simp
  · rw [if_neg (by omega), if_neg hj]

theorem dmask_loadD (n j : Nat) : (g.acts (loadD m a h j)).dmask n =
    if j = n then BitVec.ofNat 16 (m.num (a + 0x380 + 2 * n) 2) else g.dmask n := by
  simp only [loadD, Herd.acts_cons, Herd.acts_nil, Herd.dmask, Herd.act_dtag, Sparse.get_set]
  by_cases hj : j = n
  · subst hj; simp
  · simp [hj, Ne.symm hj]

theorem accEl_loadAcc_self {t i j : Nat} (ht : t < g.acc.length) (hi : i < 64) (hj : j < 64) :
    (g.acts (loadAcc m a h t)).accEl t i j = BitVec.ofNat 32
      (m.num (a + 0x3000 + 4 * h.nregs * h.width + 1024 * h.width + 16384 * t + 4 * (64 * i + j)) 4) := by
  have hk : 64 * i + j < 4096 := by omega
  simp only [loadAcc, Herd.acts_cons, Herd.acts_nil, Herd.accEl, Herd.act_acc]
  rw [List.getD_eq_getElem _ _ (by simpa using ht), List.getElem_set_self, Sparse.get_write, if_pos (by simpa using hk),
    List.getD_eq_getElem _ _ (by simpa using hk)]
  simp

theorem accEl_loadAcc_ne {t t' : Nat} (ht : t' ≠ t) (i j : Nat) : (g.acts (loadAcc m a h t')).accEl t i j = g.accEl t i j := by
  simp only [loadAcc, Herd.acts_cons, Herd.acts_nil, Herd.accEl, Herd.act_acc, List.getD_eq_getElem?_getD, List.getElem?_set_ne ht]

/-! What each register is after the whole list. -/

/-- R362: after the acts of a restore a uniform register is what the save area reads in its place; s0 stays zero. -/
theorem sreg_restoreRegs {i : Nat} (hi : i < 64) : (g.acts (restoreRegs m a h)).sreg i =
    if i = 0 then 0#64 else BitVec.ofNat 64 (m.num (a + 0x100 + 8 * i) 8) := by
  obtain ⟨pre, hlast⟩ := acts_range (fun g => g.sreg i) (f := loadS m a)
    (fun j hj g => by rw [sreg_loadS, if_neg (fun e => hj e.2)]) hi g
  have hreg : (g.acts (restoreRegs m a h)).sreg i = (g.acts ((List.range 64).flatMap (loadS m a))).sreg i := by
    rw [acts_restoreRegs, Herd.sreg, Herd.sreg, (loadCounters_sameBut ..).s nofun, (loadAcc_sameBut ..).s nofun,
      (loadD_sameBut ..).s nofun, (loadV_sameBut ..).s nofun]
  rw [hreg, hlast, sreg_loadS]
  by_cases h0 : i = 0
  · simp [h0, Herd.sreg]
  · simp [h0]

theorem vreg_restoreRegs {n l : Nat} (hn : n < h.nregs) (hl : l < h.width) (hw : h.width ≤ 64) :
    (g.acts (restoreRegs m a h)).vreg n l = BitVec.ofNat 32 (m.num (a + 0x3000 + 4 * (n * h.width + l)) 4) := by
  obtain ⟨pre, hlast⟩ := acts_range (fun g => g.vreg n l) (f := loadV m a h)
    (fun j hj g => by rw [vreg_loadV m a h g hl hw, if_neg hj]) hn (g.acts ((List.range 64).flatMap (loadS m a)))
  rw [vreg_loadV m a h _ hl hw, if_pos rfl] at hlast
  rw [acts_restoreRegs, ← hlast, Herd.vreg, Herd.vreg, (loadCounters_sameBut ..).v nofun, (loadAcc_sameBut ..).v nofun,
    (loadD_sameBut ..).v nofun]

theorem tagOf_restoreRegs {n : Nat} (hn : n < h.nregs) : (g.acts (restoreRegs m a h)).tagOf n =
    m.num (a + 0x300 + n / 2) 1 / (if n % 2 = 0 then 1 else 16) % 16 := by
  obtain ⟨pre, hlast⟩ := acts_range (fun g => g.tagOf n) (f := loadV m a h)
    (fun j hj g => by rw [tagOf_loadV, if_neg hj]) hn (g.acts ((List.range 64).flatMap (loadS m a)))
  rw [tagOf_loadV, if_pos rfl] at hlast
  rw [acts_restoreRegs, ← hlast, Herd.tagOf, Herd.tagOf, (loadCounters_sameBut ..).vtag nofun,
    (loadAcc_sameBut ..).vtag nofun, (loadD_sameBut ..).vtag nofun]

theorem datom_restoreRegs {n l i : Nat} (hn : n < 16) (hl : l < h.width) (hi : i < 8) (hw : h.width ≤ 64) :
    (g.acts (restoreRegs m a h)).datom n l i =
      BitVec.ofNat 64 (m.num (a + 0x3000 + 4 * h.nregs * h.width + 64 * n * h.width + 8 * (8 * l + i)) 8) := by
  obtain ⟨pre, hlast⟩ := acts_range (fun g => g.datom n l i) (f := loadD m a h)
    (fun j hj g => by rw [datom_loadD m a h g hl hi hw, if_neg hj]) hn
    ((g.acts ((List.range 64).flatMap (loadS m a))).acts ((List.range h.nregs).flatMap (loadV m a h)))
  rw [datom_loadD m a h _ hl hi hw, if_pos rfl] at hlast
  rw [acts_restoreRegs, ← hlast, Herd.datom, Herd.datom, (loadCounters_sameBut ..).d nofun, (loadAcc_sameBut ..).d nofun]

theorem dmask_restoreRegs {n : Nat} (hn : n < 16) : (g.acts (restoreRegs m a h)).dmask n =
    BitVec.ofNat 16 (m.num (a + 0x380 + 2 * n) 2) := by
  obtain ⟨pre, hlast⟩ := acts_range (fun g => g.dmask n) (f := loadD m a h)
    (fun j hj g => by rw [dmask_loadD, if_neg hj]) hn
    ((g.acts ((List.range 64).flatMap (loadS m a))).acts ((List.range h.nregs).flatMap (loadV m a h)))
  rw [dmask_loadD, if_pos rfl] at hlast
  rw [acts_restoreRegs, ← hlast, Herd.dmask, Herd.dmask, (loadCounters_sameBut ..).dtag nofun,
    (loadAcc_sameBut ..).dtag nofun]

theorem accEl_restoreRegs {t i j : Nat} (ht : t < h.nacc) (hg : h.nacc = g.acc.length) (hi : i < 64) (hj : j < 64) :
    (g.acts (restoreRegs m a h)).accEl t i j = BitVec.ofNat 32
      (m.num (a + 0x3000 + 4 * h.nregs * h.width + 1024 * h.width + 16384 * t + 4 * (64 * i + j)) 4) := by
  obtain ⟨pre, hlast⟩ := acts_range (fun g => g.accEl t i j) (f := loadAcc m a h)
    (fun t' ht' g => accEl_loadAcc_ne m a h g ht' i j) ht
    (((g.acts ((List.range 64).flatMap (loadS m a))).acts ((List.range h.nregs).flatMap (loadV m a h))).acts
      ((List.range 16).flatMap (loadD m a h)))
  rw [accEl_loadAcc_self m a h _ (by simpa [← hg] using ht) hi hj] at hlast
  rw [acts_restoreRegs, ← hlast, Herd.accEl, Herd.accEl, (loadCounters_sameBut ..).acc nofun]

/-- The counters, the latch and the accumulator's poison are what the last acts of a restore load. -/
theorem counters_restoreRegs : ∃ x : Herd, g.acts (restoreRegs m a h) = x.acts (loadCounters m a) := ⟨_, acts_restoreRegs m a h g⟩

end

/-! The registers of a herd whose save the area holds. -/

section
variable {m : Memory} {a : Nat} {h g : Herd}

/-- A tag is half a byte of the table at 0x300 (R362). -/
theorem tagByte_of_stands (hs : HeadStands m a h) {n : Nat} (hn : n < 256) :
    m.num (a + 0x300 + n / 2) 1 / (if n % 2 = 0 then 1 else 16) % 16 = h.tagOf n := by
  have h1 : h.tagOf (2 * (n / 2)) < 16 := (Sparse.get zeros h.vtag (2 * (n / 2))).isLt
  have h2 : h.tagOf (2 * (n / 2) + 1) < 16 := (Sparse.get zeros h.vtag (2 * (n / 2) + 1)).isLt
  have hb : m.byte (a + 0x300 + n / 2) = BitVec.ofNat 8 (h.tagOf (2 * (n / 2)) + 16 * h.tagOf (2 * (n / 2) + 1)) := by
    rw [hs.tags.byte (by simp; omega), List.getD_eq_getElem _ _ (by simp; omega)]
    simp
  have hlt : h.tagOf (2 * (n / 2)) + 16 * h.tagOf (2 * (n / 2) + 1) < 2 ^ 8 := by omega
  rw [Memory.num_one, hb, BitVec.toNat_ofNat, Nat.mod_eq_of_lt hlt]
  rcases Nat.mod_two_eq_zero_or_one n with e | e
  · have hn : 2 * (n / 2) = n := by omega
    rw [hn] at h1
    rw [if_pos e, Nat.div_one, hn]
    omega
  · have hn : 2 * (n / 2) + 1 = n := by omega
    rw [hn] at h2
    rw [if_neg (by omega), hn]
    omega

/-- The latch is given back: a ticket is never 0 (R244). -/
theorem restoreLatch_of_stands (hs : HeadStands m a h) (hh : HerdShape h) : restoreLatch m a = h.latch := by
  obtain ⟨hticket, hlatch, haddr⟩ := And.intro hs.ticket (And.intro hs.latch hs.addr)
  unfold latchWords at hticket hlatch haddr
  cases hl : h.latch with
  | none =>
    simp only [hl] at hticket
    simp [restoreLatch, hticket.num_eq (by decide)]
  | some l =>
    obtain ⟨hpos, hlt, hcause⟩ := hh.latch l hl
    have hmore := h.more.isLt
    simp only [hl] at hticket hlatch haddr
    have hfield : fld (BitVec.ofNat 64 (2 ^ 8 * l.cause + 2 ^ 16 * h.more.toNat)) 15 8 = l.cause := by
      rw [fld_ofNat]; norm_num only at hmore ⊢; omega
    simp only [restoreLatch, hticket.num_eq hlt, hlatch.num_eq (by norm_num only at hmore ⊢; omega), haddr.num_word rfl, hfield,
      if_neg (Nat.ne_of_gt hpos), BitVec.ofNat_toNat, BitVec.setWidth_eq]

/-- The count of further errors stands above the latch's cause (R244, R362). -/
theorem more_of_stands (hs : HeadStands m a h) (hh : HerdShape h) : m.num (a + 0xB2) 2 = h.more.toNat := by
  have hcause : (latchWords h).2.1 < 256 := by
    unfold latchWords
    cases hl : h.latch with
    | none => decide
    | some l => obtain ⟨-, -, hc⟩ := hh.latch l hl; exact hc
  have hmore := h.more.isLt
  rw [show a + 0xB2 = a + 0xB0 + 2 from rfl, hs.latch.num_part (by decide)]
  norm_num only at hmore ⊢
  omega

end

end Sys2Proof.Machine
end

section
/-! Saving and restoring a herd (R6, R58, R362, R363, R389, R390). -/

namespace Sys2Proof.Machine

/-- A word of a lane that has not exited is saved as it stands (R201). -/
theorem savedWord_of_live {h : Herd} {l : Nat} (hl : h.exited l = false) (n0 n : Nat) : h.savedWord n0 n l = h.vreg n l := by
  simp [Herd.savedWord, hl]

theorem savedAtom_of_live {h : Herd} {l : Nat} (hl : h.exited l = false) (n0 n i : Nat) : h.savedAtom n0 n l i = h.datom n l i := by
  simp [Herd.savedAtom, hl]

section
variable {m : Memory} {a n0 : Nat} {h g : Herd}

/-- R362: a restore from a save area that holds a herd's context gives its registers back. -/
theorem sameContext_of_stands (hh : HerdShape h) (hg : HerdShape g) (hregs : g.nregs = h.nregs) (hwidth : g.width = h.width)
    (hacc : g.nacc = h.nacc) (head : HeadStands m a h) (tail : TailStands m a h n0) :
    SameContext h (g.acts (restoreRegs m a g)) := by
  have hw : g.width ≤ 64 := hg.width
  obtain ⟨x, hcnt⟩ := counters_restoreRegs m a g g
  refine ⟨fun i hi => ?_, fun n l hn hl hx => ?_, fun n hn => ?_, fun n l i hn hl hi hx => ?_, fun n hn => ?_, fun t i j ht hi hj => ?_,
    ?_, ?_, ?_⟩
  · rw [sreg_restoreRegs m a g g hi, (head.sregs.range (fun _ _ => length_leBytes 8 _) hi).num_word rfl, BitVec.ofNat_toNat,
      BitVec.setWidth_eq]
    split
    · next h0 => simp [h0, Herd.sreg]
    · rfl
  · rw [vreg_restoreRegs m a g g (hregs ▸ hn) (hwidth ▸ hl) hw, hwidth, tail.words n l hn hl, savedWord_of_live hx, BitVec.ofNat_toNat,
      BitVec.setWidth_eq]
  · rw [tagOf_restoreRegs m a g g (hregs ▸ hn), tagByte_of_stands head (Nat.lt_of_lt_of_le hn hh.regs)]
  · have hat : a + 0x3000 + 4 * h.nregs * h.width + 64 * n * h.width + 8 * (8 * l + i)
        = a + 0x3000 + 4 * h.nregs * h.width + 64 * (n * h.width + l) + 8 * i := by ring
    rw [datom_restoreRegs m a g g hn (hwidth ▸ hl) hi hw, hwidth, hregs, hat, tail.atoms n l i hn hl hi, savedAtom_of_live hx,
      BitVec.ofNat_toNat, BitVec.setWidth_eq]
  · rw [dmask_restoreRegs m a g g hn, (head.masks.range (fun _ _ => length_leBytes 2 _) hn).num_word rfl, BitVec.ofNat_toNat,
      BitVec.setWidth_eq]
  · rw [accEl_restoreRegs m a g g (hacc ▸ ht) hg.acc.2.symm hi hj, hwidth, hregs, tail.accs t i j ht hi hj, BitVec.ofNat_toNat,
      BitVec.setWidth_eq]
  · rw [hcnt]
    simp [loadCounters, head.poison.num_low (k := 1) (by decide) rfl]
  · have hlim : h.cvlim.toNat % 34359738368 = h.cvlim.toNat := Nat.mod_eq_of_lt hh.cvlim
    rw [hcnt]
    simp [loadCounters, head.cvsat.num_low (k := 4) (by decide) rfl, head.cvflush.num_low (k := 4) (by decide) rfl,
      head.cvnan.num_low (k := 4) (by decide) rfl, head.cvlim.num_word rfl, hlim]
  · rw [hcnt]
    simp [loadCounters, head.copies.num_word rfl, restoreLatch_of_stands head hh, more_of_stands head hh]

/-- R354: the marks of erroneous elements stay where the bytes of a save area are still those of the herd. -/
theorem keptDerr_of_stands (tail : TailStands m a h n0)
    (hk : ∀ k ∈ h.derr, k / 64 < 16 ∧ k % 64 < h.width ∧ h.exited (k % 64) = false) : keptDerr m a h = h.derr := by
  refine List.filter_eq_self.mpr fun k hkm => List.all_eq_true.mpr fun i hi => decide_eq_true ?_
  obtain ⟨hn, hl, hx⟩ := hk k hkm
  rw [tail.atoms _ _ i hn hl (List.mem_range.mp hi), savedAtom_of_live hx]

/-- R297: so do those of accumulator elements. -/
theorem keptAccErr_of_stands (tail : TailStands m a h n0) (hk : ∀ k ∈ h.accErr, k / 4096 < h.nacc) : keptAccErr m a h = h.accErr := by
  refine List.filter_eq_self.mpr fun k hkm => decide_eq_true ?_
  have hat : a + 0x3000 + 4 * h.nregs * h.width + 1024 * h.width + 4 * k
      = a + 0x3000 + 4 * h.nregs * h.width + 1024 * h.width + 16384 * (k / 4096) + 4 * (64 * (k / 64 % 64) + k % 64) := by omega
  rw [hat, tail.accs _ _ _ (hk k hkm) (Nat.mod_lt _ (by decide)) (Nat.mod_lt _ (by decide))]

end

/-- A save with no trap in progress leaves a trap record whose PROG and reserved fields are zero (R6, R362). -/
theorem trapRecord_of_stands {m : Memory} {s : State} {h : Herd} {a : Nat} (hs : ContextStands m s h a) (hh : h.handler = none) :
    savedProg m a = false ∧ m.byte (a + 7) = 0#8 ∧ m.byte (a + 3) = 0#8 ∧ (m.byte a) &&& 0x30#8 = 0#8 ∧
      ∀ i, 0x28 ≤ i → i < 0x40 → m.byte (a + i) = 0#8 := by
  have hnone : h.handler.isSome = false := by rw [hh]; rfl
  have hword := hs.word hnone
  refine ⟨?_, ?_, ?_, ?_, fun i h1 h2 => hs.zero hnone (a + i) (by omega) (by omega)⟩
  · rw [savedProg, hword.num_word rfl, BitVec.ofNat_toNat, BitVec.setWidth_eq]
    simp [savedTrapWord]
  · rw [hword.byte_word (by decide), savedTrapWord, BitVec.extractLsb'_and]
    simp
  · rw [hword.byte_word (by decide), savedTrapWord, BitVec.extractLsb'_and]
    simp
  · rw [← Nat.add_zero a, hword.byte_word (by decide), savedTrapWord, BitVec.extractLsb'_and, BitVec.and_assoc]
    simp

/-- Settles O44: what a save writes stands in its save area (saveContext_stands), and each part reads as what it was written from. -/
theorem savingAndRestoringKeepsTheContext : Obligations.SavingAndRestoringKeepsTheContext := by
  intro s h g a m hh hg hregs hwidth hacc hfurs hm
  have stands : ContextStands m s h a := hm ▸ saveContext_stands s hh a
  have head := headStands stands.head
  have tail := tailStands stands.tail
  refine ⟨sameContext_of_stands hh hg hregs hwidth hacc head tail, fun f hf => ?_, keptDerr_of_stands tail, keptAccErr_of_stands tail,
    trapRecord_of_stands stands, fun hsome => ?_, restoreTape_inactive g (segmentStands (tail.tape 0 (by decide))),
    sameTape_of_stands tail.tape hfurs hh.furrows⟩
  · have h8 : f < 8 := Nat.lt_of_lt_of_le hf hh.furrows
    have hrec := stands.recs.range (fun f _ => length_furrowRec (stack_length_fur hh f)) h8
    exact sameFurrow_of_stands hrec (furShape_fur hh hf)
  · rw [savedProg, savedProg, Memory.num, Memory.num,
      Memory.bytes_congr 8 a (fun x h1 h2 => stands.trap hsome x h1 (by omega))]

end Sys2Proof.Machine
end

section
/-! SUPPORT. Which parts of the module an act can change: of a list whose acts keep to some parts, every other part stays as it was. -/

namespace Sys2Proof.Machine

/-- The parts of the module that the events of the matrix engine and of the ring change; `rest` stands for every other one. -/
inductive StPart where
  | herds | crews | hbm | hbmErr | coreRegs | l1 | cmds | ocache | leaveQ | slots | ring | nextOrder | freeCtr | rest
  deriving DecidableEq

/-- The parts that an act can change. -/
def Act.parts : Act → List StPart
  | .herd _ _ => [.herds]
  | .crew _ _ => [.crews, .ocache]
  | .mem _ _ _ => [.hbm, .crews, .ocache]
  | .memErr _ => [.hbmErr]
  | .bump _ _ => [.coreRegs]
  | .l1put _ _ _ => [.l1]
  | .l1dropSec _ _ => [.l1]
  | .cmds _ => [.cmds]
  | .ocache _ => [.ocache]
  | .leaveQ _ => [.leaveQ]
  | .slots _ => [.slots]
  | .ring _ => [.ring]
  | .nextOrder _ => [.nextOrder]
  | .free _ => [.freeCtr]
  | _ => [.rest]

/-- Every act of a list keeps to the parts `p`. -/
def Within (p : List StPart) (l : List Act) : Prop := ∀ a ∈ l, a.parts ⊆ p

/-- A state with the parts `p` of another. -/
def State.withParts (s t : State) (p : List StPart) : State :=
  { s with
    herds := if .herds ∈ p then t.herds else s.herds
    crews := if .crews ∈ p then t.crews else s.crews
    hbm := if .hbm ∈ p then t.hbm else s.hbm
    hbmErr := if .hbmErr ∈ p then t.hbmErr else s.hbmErr
    coreRegs := if .coreRegs ∈ p then t.coreRegs else s.coreRegs
    l1 := if .l1 ∈ p then t.l1 else s.l1
    cmds := if .cmds ∈ p then t.cmds else s.cmds
    ocache := if .ocache ∈ p then t.ocache else s.ocache
    leaveQ := if .leaveQ ∈ p then t.leaveQ else s.leaveQ
    slots := if .slots ∈ p then t.slots else s.slots
    ring := if .ring ∈ p then t.ring else s.ring
    nextOrder := if .nextOrder ∈ p then t.nextOrder else s.nextOrder
    freeCtr := if .freeCtr ∈ p then t.freeCtr else s.freeCtr }

/-- The frame of a step: one state is another but for the parts `p`. -/
def Only (p : List StPart) (s t : State) : Prop := t = s.withParts t p

theorem Only.refl (p : List StPart) (s : State) : Only p s s := by simp [Only, State.withParts]

/-- Parts taken twice are the ones taken last. -/
theorem State.withParts_withParts (s t u : State) (p : List StPart) : (s.withParts t p).withParts u p = s.withParts u p := by
  simp +contextual [State.withParts]

theorem Only.trans {p : List StPart} {s t u : State} (h1 : Only p s t) (h2 : Only p t u) : Only p s u := by
  unfold Only at h1 h2 ⊢
  calc u = t.withParts u p := h2
    _ = (s.withParts t p).withParts u p := by rw [← h1]
    _ = s.withParts u p := State.withParts_withParts s t u p

theorem Only.mono {p q : List StPart} (hpq : p ⊆ q) {s t : State} (h : Only p s t) : Only q s t := by
  have hn : ∀ x, x ∉ q → x ∉ p := fun x hq hp => hq (hpq hp)
  unfold Only at h ⊢
  rw [h]
  simp +contextual [State.withParts, hn]

/-- What does not read the parts `p` reads the same. -/
theorem Only.keeps {p : List StPart} {s t : State} (h : Only p s t) {α : Type} (π : State → α) (hp : π (s.withParts t p) = π s) :
    π t = π s := (congrArg π h).trans hp

/-- An act changes its own parts and nothing else. -/
theorem only_act {p : List StPart} (hr : .rest ∉ p) {a : Act} (ha : a.parts ⊆ p) (s : State) : Only p s (s.act a) := by
  cases a with
  | crew c a =>
    cases a <;> simp_all [Act.parts, Only, State.withParts, State.act]
  | _ => simp_all [Act.parts, Only, State.withParts, State.act]

theorem only_run {p : List StPart} (hr : .rest ∉ p) : ∀ {l : List Act}, Within p l → ∀ s : State, Only p s (run s l)
  | [], _, s => Only.refl p s
  | a :: l, h, s => (only_act hr (h a (by simp)) s).trans (only_run hr (fun b hb => h b (by simp [hb])) (s.act a))

theorem within_nil (p : List StPart) : Within p [] := fun _ h => nomatch h

theorem within_cons {p : List StPart} {a : Act} {l : List Act} (ha : a.parts ⊆ p) (hl : Within p l) : Within p (a :: l) :=
  List.forall_mem_cons.mpr ⟨ha, hl⟩

theorem within_append {p : List StPart} {l r : List Act} (hl : Within p l) (hr : Within p r) : Within p (l ++ r) :=
  List.forall_mem_append.mpr ⟨hl, hr⟩

theorem within_flatMap {p : List StPart} {α : Type} {l : List α} {f : α → List Act} (h : ∀ x ∈ l, Within p (f x)) :
    Within p (l.flatMap f) := fun a ha => by
  obtain ⟨x, hx, hax⟩ := List.mem_flatMap.mp ha
  exact h x hx a hax

theorem within_map {p : List StPart} {α : Type} {l : List α} {f : α → Act} (h : ∀ x ∈ l, (f x).parts ⊆ p) :
    Within p (l.map f) := List.forall_mem_map.mpr h

theorem Within.mono {p q : List StPart} (hpq : p ⊆ q) {l : List Act} (h : Within p l) : Within q l :=
  fun a ha => List.Subset.trans (h a ha) hpq

/-- What holds of the acts of every part of a chain holds of all its acts. -/
theorem forall_mem_chain {P : Act → Prop} : ∀ {gs : List (State → List Act)} (s : State),
    (∀ g ∈ gs, ∀ s : State, ∀ a ∈ g s, P a) → ∀ a ∈ chain s gs, P a
  | [], _, _ => fun _ h => nomatch h
  | g :: _, s, h => List.forall_mem_append.mpr ⟨h g (by simp) s, forall_mem_chain _ (fun g' hg => h g' (by simp [hg]))⟩

theorem within_chain {p : List StPart} {gs : List (State → List Act)} (s : State) (h : ∀ g ∈ gs, ∀ s : State, Within p (g s)) :
    Within p (chain s gs) := forall_mem_chain s h

theorem within_herdActs {p : List StPart} (hp : .herds ∈ p) (k : HerdKey) (l : List HAct) : Within p (herdActs k l) :=
  within_map (fun _ _ => by simpa [Act.parts] using hp)

theorem run_two (s : State) (g₁ g₂ : State → List Act) : run s (chain s [g₁, g₂]) = run (run s (g₁ s)) (g₂ (run s (g₁ s))) := by
  simp [run_chain]

end Sys2Proof.Machine
end

section
/-! SUPPORT. Herds under lists of acts: each herd takes the acts of its own name, in order. -/

namespace Sys2Proof.Machine

/-- What an act does to the herd of a name. -/
def Act.on (k : HerdKey) : Act → Option HAct
  | .herd k' a => if k' = k then some a else none
  | _ => none

/-- The acts of a list on the herd of a name. -/
def onHerd (k : HerdKey) (l : List Act) : List HAct := l.filterMap (Act.on k)

@[simp] theorem onHerd_nil (k : HerdKey) : onHerd k [] = [] := rfl
@[simp] theorem onHerd_append (k : HerdKey) (l r : List Act) : onHerd k (l ++ r) = onHerd k l ++ onHerd k r := by simp [onHerd]
@[simp] theorem onHerd_flatMap {α : Type} (k : HerdKey) (l : List α) (f : α → List Act) :
    onHerd k (l.flatMap f) = l.flatMap (fun x => onHerd k (f x)) := by simp [onHerd, List.filterMap_flatMap]
theorem onHerd_cons (k : HerdKey) (a : Act) (l : List Act) : onHerd k (a :: l) = (Act.on k a).toList ++ onHerd k l := by
  cases h : Act.on k a <;> simp [onHerd, h]

theorem onHerd_herdActs_self (k : HerdKey) (l : List HAct) : onHerd k (herdActs k l) = l := by
  induction l with
  | nil => rfl
  | cons a l ih => simpa [herdActs, onHerd, Act.on] using ih

theorem onHerd_herdActs_other {k k' : HerdKey} (h : k' ≠ k) (l : List HAct) : onHerd k (herdActs k' l) = [] := by
  simp [onHerd, herdActs, Act.on, h]

theorem onHerd_eq_nil {k : HerdKey} {l : List Act} : onHerd k l = [] ↔ ∀ a ∈ l, a.on k = none := List.filterMap_eq_nil_iff

/-- Acts that bring in no herd and remove none act on each herd by its name. -/
theorem herds_run {p : List StPart} (hr : .rest ∉ p) : ∀ {l : List Act}, Within p l → ∀ s : State,
    (run s l).herds = s.herds.map (fun h => h.acts (onHerd h.key l))
  | [], _, s => by simp
  | a :: l, h, s => by
    rw [run_cons, herds_run hr (fun b hb => h b (by simp [hb]))]
    have ha : .rest ∉ a.parts := fun hm => hr (h a (by simp) hm)
    cases a with
    | herd k x =>
      simp only [State.act_herds, List.map_map, onHerd_cons, Act.on]
      refine List.map_congr_left (fun g _ => ?_)
      by_cases hk : g.key = k
      · simp [hk]
      · simp [hk, Ne.symm hk]
    | _ => simp_all [Act.parts, onHerd_cons, Act.on]

/-- The herd of a name after such acts. -/
theorem herd?_run {p : List StPart} (hr : .rest ∉ p) {l : List Act} (h : Within p l) (s : State) (k : HerdKey) :
    (run s l).herd? k = (s.herd? k).map (fun g => g.acts (onHerd k l)) := by
  rw [State.herd?, herds_run hr h, find_map_key _ (fun g => Herd.acts_key _ g)]
  cases hf : s.herds.find? (fun h => decide (h.key = k)) with
  | none => simp [State.herd?, hf]
  | some g =>
    have hk : g.key = k := by simpa using List.find?_some hf
    simp [State.herd?, hf, hk]

theorem herd?_key {s : State} {k : HerdKey} {h : Herd} (hh : s.herd? k = some h) : h.key = k := by
  simpa using List.find?_some hh

/-- With names of their own, one herd stands in the list under a name, and only there. -/
theorem herds_split {s : State} {k : HerdKey} {h : Herd} (hn : (s.herds.map (fun h => h.key)).Nodup) (hh : s.herd? k = some h) :
    ∃ pre post, s.herds = pre ++ h :: post ∧ (∀ g ∈ pre, g.key ≠ k) ∧ ∀ g ∈ post, g.key ≠ k := by
  obtain ⟨hk, pre, post, e, hpre⟩ := List.find?_eq_some_iff_append.mp hh
  have hk : h.key = k := by simpa using hk
  refine ⟨pre, post, e, fun g hg => by simpa using hpre g hg, fun g hg hgk => ?_⟩
  rw [e, List.map_append, List.map_cons, List.nodup_append] at hn
  obtain ⟨-, hpost, -⟩ := hn
  exact (List.nodup_cons.mp hpost).1 (List.mem_map.mpr ⟨g, hg, hgk.trans hk.symm⟩)

end Sys2Proof.Machine
end

section
/-! SUPPORT. Tile stores and device memory under writes: what a list of stores leaves in each byte (R103, R108), and that a filled window
sector moves no byte. -/

namespace Sys2Proof.Machine

/-- A crew without what a fill or a recall of window sectors changes. -/
def Crew.bare (c : Crew) : Crew := { c with tileErr := [], windows := c.windows.map (fun w => { w with secs := [] }) }

/-- The crews of two states differ at most in filled window sectors and in marks. -/
def SameBare (s t : State) : Prop := t.crews.map Crew.bare = s.crews.map Crew.bare

theorem find_crew_map {p : Crew → Crew} (hp : ∀ c, (p c).key = c.key) (k : CrewKey) : ∀ l : List Crew,
    (l.map p).find? (fun x => decide (x.key = k)) = (l.find? (fun x => decide (x.key = k))).map p
  | [] => rfl
  | c :: l => by
    by_cases h : c.key = k
    · simp [hp, h]
    · simp [hp, h, find_crew_map hp k l]

/-- The crew of a name once every crew has been changed under its name. -/
theorem crew?_map {s t : State} {f : Crew → Crew} (hf : ∀ c, (f c).key = c.key) (h : t.crews = s.crews.map f) (c : CrewKey) :
    t.crew? c = (s.crew? c).map f := by
  rw [State.crew?, h, find_crew_map hf, State.crew?]

theorem crew?_key {s : State} {c : CrewKey} {x : Crew} (h : s.crew? c = some x) : x.key = c := by simpa using List.find?_some h

theorem touchWindow_bare (id sec : Nat) (dirty : Bool) (w : Window) :
    { touchWindow id sec dirty w with secs := [] } = { w with secs := [] } := by
  unfold touchWindow; split <;> rfl

theorem bare_touch (c : Crew) (errs : List Nat) (id sec : Nat) (dirty : Bool) : (c.act errs (.touch id sec dirty)).bare = c.bare := by
  simp [Crew.bare, Crew.act, touchWindow_bare]

theorem tileByte_congr {s t : State} (h : t.crews = s.crews) (c : CrewKey) (a : Nat) : tileByte t c a = tileByte s c a := by
  rw [tileByte, tileByte, State.crew?, h, State.crew?]

/-- The bytes of memory and tile stores are those before with these writes, and no crew comes or goes. -/
def Stores (s t : State) (l : List (Loc × List Byte)) : Prop := Stored s t l ∧ ∀ c, (t.crew? c).isSome = (s.crew? c).isSome

theorem lastStore_append (l r : List (Nat × List Byte)) (a : Nat) (b : Byte) :
    lastStore (l ++ r) a b = lastStore r a (lastStore l a b) := List.foldl_append

theorem memWrites_append (l r : List (Loc × List Byte)) : memWrites (l ++ r) = memWrites l ++ memWrites r := List.filterMap_append

theorem tileWrites_append (c : CrewKey) (l r : List (Loc × List Byte)) : tileWrites c (l ++ r) = tileWrites c l ++ tileWrites c r :=
  List.filterMap_append

theorem tileByte_of_none {s : State} {c : CrewKey} (h : (s.crew? c).isSome = false) (a : Nat) : tileByte s c a = 0#8 := by
  have h : s.crew? c = none := by simpa using h
  rw [tileByte, h]

theorem Stores.trans {s t u : State} {l r : List (Loc × List Byte)} (h1 : Stores s t l) (h2 : Stores t u r) : Stores s u (l ++ r) := by
  obtain ⟨⟨mem1, tile1⟩, crew1⟩ := h1
  obtain ⟨⟨mem2, tile2⟩, crew2⟩ := h2
  refine ⟨⟨fun a => ?_, fun c a => ?_⟩, fun c => (crew2 c).trans (crew1 c)⟩
  · rw [mem2, mem1, memWrites_append, lastStore_append]
  · rw [tile2, tile1, crew1, tileWrites_append, lastStore_append]
    cases (s.crew? c).isSome <;> rfl

/-- Where nothing is stored each byte of a tile store is as it was. -/
theorem Stores.tileByte_eq {s t : State} (h : Stores s t []) (c : CrewKey) (a : Nat) : tileByte t c a = tileByte s c a := by
  rw [h.1.2 c a]
  cases hc : (s.crew? c).isSome with
  | true => rfl
  | false => exact (tileByte_of_none hc a).symm

/-- A change of crews that keeps their names and bytes stores nothing. -/
theorem stores_nil {s t : State} (hm : t.hbm = s.hbm) {f : Crew → Crew} (hk : ∀ c, (f c).key = c.key) (ht : ∀ c, (f c).tile = c.tile)
    (hc : t.crews = s.crews.map f) : Stores s t [] := by
  refine ⟨⟨fun a => by rw [hm]; rfl, fun c a => ?_⟩, fun c => by rw [crew?_map hk hc]; simp⟩
  cases h : s.crew? c with
  | none => simp [tileByte, crew?_map hk hc, h]
  | some x => simp [tileByte, crew?_map hk hc, h, ht, tileWrites, lastStore]

theorem stores_same {s t : State} (hm : t.hbm = s.hbm) (hc : t.crews = s.crews) : Stores s t [] :=
  stores_nil (f := id) hm (fun _ => rfl) (fun _ => rfl) (by simpa using hc)

/-- Bytes written to device memory. -/
theorem stores_mem (s : State) (pa : Nat) (bs : List Byte) (own : Option (CrewKey × Nat)) {l : Loc} (hl : l.hbm? = some pa) :
    Stores s (s.act (.mem pa bs own)) [(l, bs)] := by
  obtain ⟨⟨-, tile⟩, crew⟩ := stores_nil (s := s) (t := { s.act (.mem pa bs own) with hbm := s.hbm }) rfl
    (f := recallSectors pa bs.length own) (fun _ => rfl) (fun _ => rfl) rfl
  have hw : ∀ c, tileWrites c [(l, bs)] = [] := by
    intro c; cases l <;> simp_all [Loc.hbm?, tileWrites]
  refine ⟨⟨fun a => ?_, fun c a => ?_⟩, crew⟩
  · rw [State.act_hbm, Memory.byte_put]
    simp [memWrites, hl, lastStore]
  · rw [hw]
    exact tile c a

/-- Bytes written to a tile store. -/
theorem stores_tile (s : State) (c : CrewKey) (off : Nat) (bs : List Byte) :
    Stores s (s.act (.crew c (.tile off bs))) [(.tile c off, bs)] := by
  have hc : ∀ k, (s.act (.crew c (.tile off bs))).crew? k = (s.crew? k).map (fun x => if x.key = c then x.act s.hbmErr (.tile off bs) else x) :=
    fun k => crew?_map (fun x => by split <;> simp) (by rw [State.act_crews]) k
  refine ⟨⟨fun a => by simp [memWrites, Loc.hbm?, lastStore], fun k a => ?_⟩, fun k => by rw [hc]; simp⟩
  cases h : s.crew? k with
  | none => simp [tileByte, hc, h]
  | some x =>
    have hk := crew?_key h
    by_cases e : c = k
    · subst e
      simp [tileByte, hc, h, hk, tileWrites, lastStore, Memory.byte_put]
    · simp [tileByte, hc, h, hk, e, Ne.symm e, tileWrites, lastStore]

theorem stores_touch (s : State) (c : CrewKey) (id sec : Nat) (dirty : Bool) : Stores s (s.act (.crew c (.touch id sec dirty))) [] :=
  stores_nil (by simp) (f := fun x => if x.key = c then x.act s.hbmErr (.touch id sec dirty) else x)
    (fun x => by split <;> simp) (fun x => by split <;> simp) (by rw [State.act_crews])

/-- One store to a place. -/
theorem stores_writeLoc (s : State) (core : Nat) (bs : List Byte) (l : Loc) : Stores s (run s (writeLoc core bs l)) [(l, bs)] := by
  have hl1 : ∀ (u : State) pa, Stores u (u.act (.l1put core pa bs.length)) [] := fun u pa => stores_same (by simp) (by simp)
  cases l with
  | mem pa => exact (stores_mem s pa bs none rfl).trans (hl1 _ pa)
  | win c id sec pa off =>
    exact ((stores_mem s pa bs (some (c, id)) rfl).trans (stores_touch _ c id sec true)).trans (hl1 _ pa)
  | tile c off => exact stores_tile s c off bs
  | saved c | slot i off | remote sp =>
    refine ⟨⟨fun a => rfl, fun c a => ?_⟩, fun c => rfl⟩
    cases h : s.crew? c <;> simp [writeLoc, tileByte, h, tileWrites, lastStore]

/-- Stores to places, in order. -/
theorem stores_writeLocs (core : Nat) : ∀ (l : List (Loc × List Byte)) (s : State),
    Stores s (run s (l.flatMap (fun p => writeLoc core p.2 p.1))) l
  | [], s => stores_same rfl rfl
  | p :: l, s => by
    rw [List.flatMap_cons, run_append]
    exact (stores_writeLoc s core p.2 p.1).trans (stores_writeLocs core l _)

/-- Marks of errors hold no byte. -/
theorem stores_tileErrs : ∀ (cs : List Crew) (f : Crew → List Nat) (s : State),
    Stores s (run s (cs.map (fun c => Act.crew c.key (.tileErr (f c))))) []
  | [], _, s => stores_same rfl rfl
  | c :: cs, f, s => by
    have h1 : Stores s (s.act (.crew c.key (.tileErr (f c)))) [] :=
      stores_nil (by simp) (f := fun x => if x.key = c.key then x.act s.hbmErr (.tileErr (f c)) else x)
        (fun x => by split <;> simp) (fun x => by split <;> simp) (by rw [State.act_crews])
    exact h1.trans (stores_tileErrs cs f _)

theorem stores_healed (s u : State) (l : List (Loc × Nat)) : Stores u (run u (healed s l)) [] := by
  unfold healed
  rw [run_append]
  have h1 : Stores u (run u (if marksAfter s l = s.hbmErr then [] else [.memErr (marksAfter s l)])) [] := by
    split <;> exact stores_same (by simp) (by simp)
  exact h1.trans (stores_tileErrs _ (tileHealed s l) _)

theorem within_writeLoc (core : Nat) (bs : List Byte) (l : Loc) : Within [.hbm, .crews, .ocache, .l1] (writeLoc core bs l) := by
  cases l <;> simp [writeLoc, Within, Act.parts]

theorem within_healed (s : State) (l : List (Loc × Nat)) : Within [.hbmErr, .crews, .ocache] (healed s l) := by
  refine within_append ?_ (within_map (fun _ _ => by simp [Act.parts]))
  split <;> simp [Within, Act.parts]

end Sys2Proof.Machine
end

section
/-! SUPPORT. The end of a matrix command: the queue, the counter, the leave and the landing slots (R289, R306, R307, R323), and the
herd whose group it lets go. -/

namespace Sys2Proof.Machine

theorem onHerd_within {p : List StPart} (hp : .herds ∉ p) {l : List Act} (h : Within p l) (k : HerdKey) : onHerd k l = [] :=
  onHerd_eq_nil.mpr (fun a ha => by
    have hs := h a ha
    cases a with
    | herd k' x => exact absurd (hs (by simp [Act.parts])) hp
    | _ => rfl)

theorem slotRead_congr {s t : State} (hc : t.copies = s.copies) {f : MCmd → Nat}
    (hm : t.cmds = s.cmds.map (fun q => { q with phase := f q })) (core i : Nat) : slotRead t core i = slotRead s core i := by
  simp only [slotRead, hc, hm, List.any_map, Function.comp_def]

theorem map_phase_id (l : List MCmd) : l.map (fun q => { q with phase := q.phase }) = l := List.map_id l

theorem slotRead_same {s t : State} (hc : t.copies = s.copies) (hm : t.cmds = s.cmds) (core i : Nat) :
    slotRead t core i = slotRead s core i :=
  slotRead_congr hc (f := fun q => q.phase) (by rw [hm, map_phase_id]) core i

theorem within_dropFreed (s : State) : Within [.slots, .ocache] (dropFreed s) := by
  simp only [dropFreed]; split <;> simp [Within, Act.parts]

/-- One that is still to read a slot is a reader of it. -/
theorem slotRead_of_slotReading {s : State} {core i : Nat} (h : slotReading s core i = true) : slotRead s core i = true := by
  simp only [slotReading, slotRead, Bool.or_eq_true, List.any_eq_true, List.mem_filter] at h ⊢
  exact h.imp_right (fun ⟨m, hm, hs⟩ => ⟨m, hm.1, hs⟩)

/-- R323: of the slots, those stay that have not been given up or that a reader still holds. -/
theorem mem_slots_dropFreed (s : State) (y : Slot) : y ∈ (run s (dropFreed s)).slots ↔
    y ∈ s.slots ∧ (y.freeing = true → slotRead s y.core y.idx = true) := by
  simp only [dropFreed]
  split
  · next hl =>
    simp only [run_nil]
    refine ⟨fun hy => ⟨hy, fun hf => slotRead_of_slotReading ?_⟩, And.left⟩
    have := (List.filter_eq_nil_iff.mp (List.isEmpty_iff.mp hl)) y hy
    simpa [hf] using this
  · cases hf : y.freeing <;> simp [Slot.over, hf]

/-- The head of a queue begins at once, or asks for leave, or there is nothing to do (R306). -/
theorem startHead_cases (core slice : Nat) (s : State) : startHead core slice s = [] ∨
    (∃ q ∈ s.cmds, startHead core slice s = [setCmd s { q with phase := 1 }]) ∨ ∃ l, startHead core slice s = [.leaveQ l] := by
  unfold startHead
  split
  · exact .inl rfl
  · next q r hq =>
    have hm : q ∈ s.cmds := (List.mem_filter.mp (show q ∈ sliceQueue s core slice by rw [hq]; simp)).1
    split
    · exact .inl rfl
    · split
      · exact .inr (.inl ⟨q, hm, rfl⟩)
      · split
        · exact .inl rfl
        · exact .inr (.inr ⟨_, rfl⟩)

theorem within_startHead (core slice : Nat) (s : State) : Within [.cmds, .leaveQ] (startHead core slice s) := by
  obtain h | ⟨q, -, h⟩ | ⟨l, h⟩ := startHead_cases core slice s <;> rw [h] <;> simp [Within, Act.parts, setCmd]

/-- With identifiers of their own, setting a command's phase changes no other command. -/
theorem map_setPhase {l : List MCmd} (hn : (l.map (fun q => q.id)).Nodup) {m : MCmd} (hm : m ∈ l) (n : Nat) :
    l.map (fun x => if x.id = m.id then { m with phase := n } else x)
      = l.map (fun x => { x with phase := if x.id = m.id then n else x.phase }) := by
  refine List.map_congr_left (fun x hx => ?_)
  by_cases h : x.id = m.id
  · have : x = m := List.inj_on_of_nodup_map hn hx hm h
    simp [this]
  · simp [h]

/-- The start of a head changes at most the phases of commands. -/
theorem cmds_startHead {s : State} (hn : (s.cmds.map (fun q => q.id)).Nodup) (core slice : Nat) :
    ∃ f : MCmd → Nat, (run s (startHead core slice s)).cmds = s.cmds.map (fun q => { q with phase := f q }) := by
  obtain h | ⟨q, hq, h⟩ | ⟨l, h⟩ := startHead_cases core slice s
  · exact ⟨fun q => q.phase, by rw [h, map_phase_id]; rfl⟩
  · exact ⟨fun x => if x.id = q.id then 1 else x.phase, by rw [h, ← map_setPhase hn hq]; rfl⟩
  · exact ⟨fun q => q.phase, by rw [h, map_phase_id]; rfl⟩

/-- What every retirement ends with: the command's place and leave, its count, the slots given up, and the next head. -/
def mxLeave (core slice : Nat) (m : MCmd) (s : State) : List Act :=
  chain s [fun s => chain s [
      fun s => [Act.cmds (s.cmds.filter (fun x => decide (x.id ≠ m.id))), bumpCore core 0x0E0], dropFreed],
    startHead core slice]

/-- The parts that a retirement's end changes. -/
def leaveParts : List StPart := [.cmds, .coreRegs, .slots, .ocache, .leaveQ]

theorem within_mxLeave (core slice : Nat) (m : MCmd) (s : State) : Within leaveParts (mxLeave core slice m s) := by
  refine within_chain s (List.forall_mem_cons.mpr ⟨fun s => ?_, List.forall_mem_singleton.mpr fun s => ?_⟩)
  · refine within_chain s (List.forall_mem_cons.mpr ⟨fun s => ?_, List.forall_mem_singleton.mpr fun s => ?_⟩)
    · simp [Within, Act.parts, bumpCore, leaveParts]
    · exact (within_dropFreed s).mono (by decide)
  · exact (within_startHead core slice s).mono (by decide)

theorem only_mxLeave (core slice : Nat) (m : MCmd) (s : State) : Only leaveParts s (run s (mxLeave core slice m s)) :=
  only_run (by decide) (within_mxLeave core slice m s) s

/-- R289, R306, R307, R323: what the end of a retirement leaves of the queue, the counters and the slots. -/
theorem mxGone_mxLeave {s : State} (hn : (s.cmds.map (fun q => q.id)).Nodup) (core slice : Nat) (m : MCmd) :
    MxGone s (run s (mxLeave core slice m s)) core m := by
  let u := run s [Act.cmds (s.cmds.filter (fun x => decide (x.id ≠ m.id))), bumpCore core 0x0E0]
  let v := run u (dropFreed u)
  have ht : run s (mxLeave core slice m s) = run v (startHead core slice v) := by simp only [mxLeave, run_two]; rfl
  have huv : Only [.slots, .ocache] u v := only_run (by decide) (within_dropFreed u) u
  have hvt : Only [.cmds, .leaveQ] v (run v (startHead core slice v)) := only_run (by decide) (within_startHead core slice v) v
  have hu : u.cmds = s.cmds.filter (fun x => decide (x.id ≠ m.id)) := by simp [u, bumpCore]
  have hv : v.cmds = s.cmds.filter (fun x => decide (x.id ≠ m.id)) := (huv.keeps State.cmds rfl).trans hu
  obtain ⟨f, hf⟩ := cmds_startHead (s := v) (by rw [hv]; exact hn.sublist (List.filter_sublist.map _)) core slice
  have hcmds : (run v (startHead core slice v)).cmds
      = (s.cmds.filter (fun x => decide (x.id ≠ m.id))).map (fun q => { q with phase := f q }) := hf.trans (by rw [hv])
  have hregs : (run v (startHead core slice v)).coreRegs = u.coreRegs :=
    (hvt.keeps State.coreRegs rfl).trans (huv.keeps State.coreRegs rfl)
  rw [ht]
  refine ⟨fun q hq => ?_, fun q hq hne => ?_, ?_, fun k _ => ?_, fun y => ?_⟩
  · rw [hcmds] at hq
    obtain ⟨x, hx, rfl⟩ := List.mem_map.mp hq
    simpa using (List.mem_filter.mp hx).2
  · exact ⟨f q, by rw [hcmds]; exact List.mem_map.mpr ⟨q, by simp [hq, hne], rfl⟩⟩
  · rw [State.coreReg, hregs]
    simp [u, bumpCore, State.coreReg, Sparse.get_set]
  · exact herd?_congr _ _ ((hvt.keeps State.herds rfl).trans (huv.keeps State.herds rfl)) k
  · have hslots : (run v (startHead core slice v)).slots = v.slots := hvt.keeps State.slots rfl
    have hread : slotRead (run v (startHead core slice v)) y.core y.idx = slotRead u y.core y.idx :=
      (slotRead_congr (hvt.keeps State.copies rfl) hf _ _).trans
        (slotRead_same (huv.keeps State.copies rfl) (huv.keeps State.cmds rfl) _ _)
    rw [hslots, hread]
    exact mem_slots_dropFreed u y

/-- The parts that a command's writes and the release of its group change. -/
def writeParts : List StPart := [.herds, .crews, .hbm, .hbmErr, .l1, .ocache, .freeCtr]

/-- Writes before and after that end keep what it does. -/
theorem mxGone_transfer {s u w v : State} {core : Nat} {m : MCmd} (h : MxGone u w core m) (hsu : Only writeParts s u)
    (hwv : Only writeParts w v) (h1 : ∀ k, k ≠ m.key → u.herd? k = s.herd? k) (h2 : ∀ k, k ≠ m.key → v.herd? k = w.herd? k) :
    MxGone s v core m := by
  have hcmds : v.cmds = w.cmds := hwv.keeps State.cmds rfl
  have hcmds' : u.cmds = s.cmds := hsu.keeps State.cmds rfl
  obtain ⟨gone, kept, counted, others, slots⟩ := h
  refine ⟨hcmds ▸ gone, hcmds ▸ hcmds' ▸ kept, ?_, fun k hk => (h2 k hk).trans ((others k hk).trans (h1 k hk)), fun y => ?_⟩
  · rw [State.coreReg, hwv.keeps State.coreRegs rfl]
    have hr : u.coreRegs = s.coreRegs := hsu.keeps State.coreRegs rfl
    rwa [State.coreReg, State.coreReg, hr] at counted
  · rw [show v.slots = w.slots from hwv.keeps State.slots rfl, slots y, show u.slots = s.slots from hsu.keeps State.slots rfl,
      slotRead_same (s := w) (t := v) (hwv.keeps State.copies rfl) hcmds]

end Sys2Proof.Machine
end

section
/-! SUPPORT. The read phase of a matrix command (R299 to R301): filling window sectors moves no byte that it reads. -/

namespace Sys2Proof.Machine

theorem crew?_bare {s t : State} (h : SameBare s t) (c : CrewKey) : (t.crew? c).map Crew.bare = (s.crew? c).map Crew.bare := by
  rw [State.crew?, State.crew?, ← find_crew_map (p := Crew.bare) (fun _ => rfl), ← find_crew_map (p := Crew.bare) (fun _ => rfl), h]

/-- Where a byte stands does not depend on which sectors are filled. -/
theorem tileLoc_bare (c : Crew) (off : Nat) : tileLoc c.bare off = tileLoc c off := by
  simp only [tileLoc, Crew.bare, List.find?_map, Function.comp_def]
  cases c.windows.find? (fun w => decide (w.tile ≤ off) && decide (off < w.tile + w.len)) <;> rfl

/-- What is read of a crew apart from its filled sectors is read the same. -/
theorem crew?_match {s t : State} (h : SameBare s t) (c : CrewKey) {α : Type} {f : Crew → α} (hf : ∀ x, f x.bare = f x) :
    (t.crew? c).map f = (s.crew? c).map f := by
  have e : ∀ u : State, (u.crew? c).map f = ((u.crew? c).map Crew.bare).map f := fun u => by
    simp [Option.map_map, Function.comp_def, hf]
  rw [e, e, crew?_bare h]

theorem wordLoc_congr {s t : State} (h : SameBare s t) : wordLoc t = wordLoc s := by
  funext m a x lw k i w
  have e := crew?_match h m.key.crew (f := fun c => tileLoc c (wordOff a x lw k i w)) (fun c => tileLoc_bare c _)
  unfold wordLoc
  cases ht : t.crew? m.key.crew <;> cases hs : s.crew? m.key.crew <;> simp_all

theorem scaleLoc_congr {s t : State} (h : SameBare s t) : scaleLoc t = scaleLoc s := by
  funext m b k i j
  have e := crew?_match h m.key.crew (f := fun c => tileLoc c
    (b.soff + (k * 64 + i) * (mxK ((mxClass b.fmt).getD 0) / (if b.bl then 64 else 32)) + j)) (fun c => tileLoc_bare c _)
  unfold scaleLoc
  cases ht : t.crew? m.key.crew <;> cases hs : s.crew? m.key.crew <;> simp_all

/-- An engine reads the same bytes (R110, R258). -/
theorem readLoc_congr {s t : State} (h : SameBare s t) (hm : t.hbm = s.hbm) (hsl : t.slots = s.slots) (core n : Nat) :
    readLoc t core n false = readLoc s core n false := by
  funext l
  cases l with
  | tile c off =>
    have e := crew?_match h c (f := fun x => Memory.bytes x.tile off n) (fun _ => rfl)
    unfold readLoc
    cases ht : t.crew? c <;> cases hs : s.crew? c <;> simp_all
  | mem pa => simp [readLoc, readMem, hm]
  | win c id sec pa off => simp [readLoc, hm]
  | slot i off => simp [readLoc, hsl]
  | saved c => rfl
  | remote sp => rfl

/-- So a command obtains the same result. -/
theorem mxResult_congr {s t : State} (h : SameBare s t) (hm : t.hbm = s.hbm) (hsl : t.slots = s.slots) (g : Herd) (m : MCmd) :
    mxResult t g m = mxResult s g m := by
  have hw : opWord t = opWord s := by
    funext m a x lw k i w
    simp only [opWord, wordLoc_congr h, readLoc_congr h hm hsl]
  have he : opElem t = opElem s := by
    funext m a x f lw k i e
    simp only [opElem, hw]
  have hv : scaleVal t = scaleVal s := by
    funext m b k i e
    simp only [scaleVal, scaleLoc_congr h, readLoc_congr h hm hsl]
  have hmma : mmaElem t g m = mmaElem s g m := by
    funext i j
    simp only [mmaElem, mmaTerm, he, hv]
  simp only [mxResult, hw, hmma]

/-- Reading a place through a window fills its sector, and the core's L1 does not hold it (R108, R299). -/
theorem mem_fillActs {core : Nat} {ls : List Loc} {a : Act} (h : a ∈ fillActs core ls) :
    (∃ c id sec, a = .crew c (.touch id sec false)) ∨ ∃ sec, a = .l1dropSec core sec := by
  obtain ⟨l, -, ha⟩ := List.mem_flatMap.mp (List.mem_eraseDups.mp h)
  cases l with
  | win c id sec pa off =>
    simp only [List.mem_cons, List.not_mem_nil, or_false] at ha
    exact ha.imp (fun e => ⟨c, id, sec, e⟩) (fun e => ⟨_, e⟩)
  | _ => simp at ha

/-- What the fills of a read phase leave as it was: bytes, windows but for their filled sectors, and no new L1 sector. -/
structure Filled (s t : State) : Prop where
  only : Only [.crews, .ocache, .l1] s t
  bare : SameBare s t
  bytes : Stores s t []
  l1 : ∀ q ∈ t.l1, q ∈ s.l1

theorem Filled.refl (s : State) : Filled s s := ⟨Only.refl _ s, rfl, stores_same rfl rfl, fun _ h => h⟩

theorem Filled.trans {s t u : State} (h1 : Filled s t) (h2 : Filled t u) : Filled s u :=
  ⟨h1.only.trans h2.only, h2.bare.trans h1.bare, h1.bytes.trans h2.bytes, fun q hq => h1.l1 q (h2.l1 q hq)⟩

theorem filled_touch (s : State) (c : CrewKey) (id sec : Nat) : Filled s (s.act (.crew c (.touch id sec false))) where
  only := only_act (by decide) (by simp [Act.parts]) s
  bare := by
    simp only [SameBare, State.act_crews, List.map_map]
    exact List.map_congr_left (fun x _ => by simp only [Function.comp]; split <;> simp [bare_touch])
  bytes := stores_touch s c id sec false
  l1 := fun q hq => by simpa using hq

theorem filled_l1dropSec (s : State) (core sec : Nat) : Filled s (s.act (.l1dropSec core sec)) where
  only := only_act (by decide) (by simp [Act.parts]) s
  bare := rfl
  bytes := stores_same rfl rfl
  l1 := fun _ hq => (List.mem_filter.mp hq).1

theorem filled_run : ∀ (l : List Act) (s : State),
    (∀ a ∈ l, (∃ c id sec, a = .crew c (.touch id sec false)) ∨ ∃ core sec, a = .l1dropSec core sec) → Filled s (run s l)
  | [], s, _ => Filled.refl s
  | a :: l, s, h => by
    have h1 : Filled s (s.act a) := by
      obtain ⟨c, id, sec, rfl⟩ | ⟨core, sec, rfl⟩ := h a (by simp)
      · exact filled_touch s c id sec
      · exact filled_l1dropSec s core sec
    exact h1.trans (filled_run l (s.act a) (fun b hb => h b (by simp [hb])))

theorem filled_fillActs (core : Nat) (ls : List Loc) (s : State) : Filled s (run s (fillActs core ls)) :=
  filled_run _ s (fun _ ha => (mem_fillActs ha).imp_right (fun ⟨sec, e⟩ => ⟨core, sec, e⟩))

theorem within_ocActs (s : State) (m : MCmd) : Within [.ocache, .coreRegs, .freeCtr] (ocActs s m) := by
  simp only [ocActs]; split <;> simp [Within, Act.parts]

theorem headCmd_queue {s : State} {core slice : Nat} {m : MCmd} (h : (sliceQueue s core slice).head? = some m) :
    ∃ r, sliceQueue s core slice = m :: r := by
  cases hq : sliceQueue s core slice with
  | nil => rw [hq] at h; simp at h
  | cons q r =>
    rw [hq] at h
    exact ⟨r, by rw [Option.some.inj h]⟩

/-- A command whose read phase has ended, with what it has obtained. -/
def mxRead (s : State) (h : Herd) (m : MCmd) (bad : Bool) : MCmd :=
  { m with phase := 2, bad := bad, result := if bad then List.replicate 4096 0x7FC00000#32 else mxResult s h m
           ents := m.ents.filter (fun e => e.dst) }

/-- R299 to R301: a read phase fills window sectors and uses the operand cache; then the result is kept, and slots given up are freed. -/
theorem exec_readPhaseEnd {s : State} {core slice : Nat} {m : MCmd} {h : Herd} {bad : Bool} (hc : HeadCmd s core slice m h)
    (hp : m.phase = 1) (hbad : bad = (readsPoison h m || (readLocs s m).any (poisoned s core false)))
    (ho : locsOwned s (readLocs s m) = false) : ∃ u v, Filled s u ∧ Only [.ocache, .coreRegs, .freeCtr] u v ∧
      exec (.matrixReadPhaseEnd core slice) s = .next (run (v.act (setCmd s (mxRead s h m bad)))
        (dropFreed (v.act (setCmd s (mxRead s h m bad))))) := by
  obtain ⟨hq, hh, -⟩ := hc
  obtain ⟨r, hq⟩ := headCmd_queue hq
  let u := run s (fillActs core (readLocs s m))
  let v := run u (ocActs u m)
  have hu : Filled s u := filled_fillActs core _ s
  have hv : Only [.ocache, .coreRegs, .freeCtr] u v := only_run (by decide) (within_ocActs u m) u
  have hbare : SameBare s v := (congrArg (List.map Crew.bare) (hv.keeps State.crews rfl)).trans hu.bare
  have hres : mxResult v h m = mxResult s h m :=
    mxResult_congr hbare ((hv.keeps State.hbm rfl).trans (hu.only.keeps State.hbm rfl))
      ((hv.keeps State.slots rfl).trans (hu.only.keeps State.slots rfl)) h m
  have hcmds : v.cmds = s.cmds := (hv.keeps State.cmds rfl).trans (hu.only.keeps State.cmds rfl)
  have hset : setCmd v (mxRead v h m bad) = setCmd s (mxRead s h m bad) := by
    rw [mxRead, hres, setCmd, hcmds]
    rfl
  refine ⟨u, v, hu, hv, ?_⟩
  rw [← hset]
  simp only [exec, execMatrixReadPhaseEnd, event, matrixReadPhaseEnd, hq, hp, hh, ho, ← hbad, ne_eq, not_true_eq_false, if_false,
    Bool.false_eq_true, run_chain]
  rfl

/-- The read phase of MatrixCommandsRun. -/
theorem readPhase_obtains (s : State) (core slice : Nat) (m : MCmd) (h : Herd) (bad : Bool) (hc : HeadCmd s core slice m h)
    (hp : m.phase = 1) (hbad : bad = (readsPoison h m || (readLocs s m).any (poisoned s core false)))
    (ho : locsOwned s (readLocs s m) = false) : ∃ t, exec (.matrixReadPhaseEnd core slice) s = .next t ∧
      t = { s with cmds := t.cmds, crews := t.crews, ocache := t.ocache, coreRegs := t.coreRegs, freeCtr := t.freeCtr
                   l1 := t.l1, slots := t.slots } ∧
      (∀ q ∈ t.l1, q ∈ s.l1) ∧ (∀ y, y ∈ t.slots ↔ y ∈ s.slots ∧ (y.freeing = true → slotRead t y.core y.idx = true)) ∧
      (∀ c a, tileByte t c a = tileByte s c a) ∧
      t.cmds = s.cmds.map (fun q => if q.id = m.id then mxRead s h m bad else q) := by
  obtain ⟨u, v, hu, hv, he⟩ := exec_readPhaseEnd hc hp hbad ho
  let x := v.act (setCmd s (mxRead s h m bad))
  have hx : Only [.cmds] v x := only_act (by decide) (by simp [Act.parts, setCmd]) v
  have ht : Only [.slots, .ocache] x (run x (dropFreed x)) := only_run (by decide) (within_dropFreed x) x
  have hcrews : (run x (dropFreed x)).crews = u.crews :=
    (ht.keeps State.crews rfl).trans ((hx.keeps State.crews rfl).trans (hv.keeps State.crews rfl))
  have hl1 : (run x (dropFreed x)).l1 = u.l1 := (ht.keeps State.l1 rfl).trans ((hx.keeps State.l1 rfl).trans (hv.keeps State.l1 rfl))
  have hslots : x.slots = s.slots :=
    (hx.keeps State.slots rfl).trans ((hv.keeps State.slots rfl).trans (hu.only.keeps State.slots rfl))
  refine ⟨_, he, ?_, hl1 ▸ hu.l1, fun y => ?_, fun c a => ?_, ht.keeps State.cmds rfl⟩
  · let p : List StPart := [.cmds, .crews, .ocache, .coreRegs, .freeCtr, .l1, .slots]
    exact (((hu.only.mono (by decide)).trans (hv.mono (by decide))).trans ((hx.mono (by decide)).trans (ht.mono (by decide))) : Only p s _)
  · rw [mem_slots_dropFreed, hslots, slotRead_same (ht.keeps State.copies rfl) (ht.keeps State.cmds rfl)]
  · exact (tileByte_congr hcrews c a).trans (hu.bytes.tileByte_eq c a)

end Sys2Proof.Machine
end

section
/-! SUPPORT. The retirement of a matrix command (R289, R293 to R297, R306, R307): what it writes in its herd and in memory. -/

namespace Sys2Proof.Machine

/-! The herd as a command that reads a tile finds it. -/

/-- A word of the accumulator store that reads as a free value. -/
def freeElement (n : Nat) (g : Herd) (e : Nat × Nat) : Herd :=
  { g with acc := g.acc.set (e.1 / 4096) (Sparse.set zeros (g.acc.getD (e.1 / 4096) []) (e.1 % 4096)
      (BitVec.ofNat 32 (Config.freeNat (n + e.2)))) }

theorem accRead_eq (s : State) (h : Herd) (m : MCmd) :
    accRead s h m = (h.accErr.filter (readsAcc h m)).zipIdx.foldl (freeElement s.freeCtr) h := rfl

/-- A list written with one element replaced, read by index. -/
theorem getD_set {α : Type} (l : List α) (t n : Nat) (x d : α) :
    (l.set t x).getD n d = if t = n ∧ n < l.length then x else l.getD n d := by
  simp only [List.getD_eq_getElem?_getD, List.getElem?_set]
  by_cases h : t = n
  · subst h
    by_cases hl : t < l.length <;> simp [hl]
  · simp [h]

/-- The free value of one element leaves the others. -/
theorem accEl_freeElement {n i j : Nat} (_ : i < 64) (_ : j < 64) {e : Nat × Nat} (he : e.1 ≠ 64 * i + j + 4096 * n) (c : Nat)
    (g : Herd) : (freeElement c g e).accEl n i j = g.accEl n i j := by
  simp only [Herd.accEl, freeElement, getD_set]
  split
  · next h =>
    obtain ⟨rfl, -⟩ := h
    rw [Sparse.get_set, if_neg (by omega)]
  · rfl

theorem accEl_freeElements {n i j : Nat} (hi : i < 64) (hj : j < 64) (c : Nat) : ∀ (l : List (Nat × Nat)) (g : Herd),
    (∀ e ∈ l, e.1 ≠ 64 * i + j + 4096 * n) → (l.foldl (freeElement c) g).accEl n i j = g.accEl n i j
  | [], _, _ => rfl
  | e :: l, g, h => by
    rw [List.foldl_cons, accEl_freeElements hi hj c l _ (fun x hx => h x (by simp [hx])),
      accEl_freeElement hi hj (h e (by simp))]

/-- R297: an element without an error that the command reads is read as it is. -/
theorem accEl_accRead (s : State) (h : Herd) (m : MCmd) (n i j : Nat) (hi : i < 64) (hj : j < 64)
    (he : 64 * i + j + 4096 * n ∉ h.accErr.filter (readsAcc h m)) : (accRead s h m).accEl n i j = h.accEl n i j := by
  rw [accRead_eq]
  refine accEl_freeElements hi hj _ _ h (fun e hm heq => he ?_)
  rw [← heq]
  exact List.fst_mem_of_mem_zipIdx hm

theorem freeElements_rest (c : Nat) : ∀ (l : List (Nat × Nat)) (g : Herd),
    l.foldl (freeElement c) g = { g with acc := (l.foldl (freeElement c) g).acc }
  | [], _ => rfl
  | e :: l, g => by
    rw [List.foldl_cons, freeElements_rest c l]
    rfl

/-- Only accumulator elements read as free values. -/
theorem accRead_rest (s : State) (h : Herd) (m : MCmd) : accRead s h m = { h with acc := (accRead s h m).acc } := by
  rw [accRead_eq]
  exact freeElements_rest _ _ h

/-! What a command writes. -/

theorem within_accDrawn (h : Herd) (m : MCmd) : Within [.freeCtr] (accDrawn h m) := by
  unfold accDrawn; split <;> simp [Within, Act.parts]

/-- The acts of a command on its herd (R289, R294 to R297). -/
def mxHActs (h : Herd) (m : MCmd) : List HAct :=
  if m.op = 0x183 then [convAct h (mstCount h m)]
  else if m.op = 0x184 ∨ m.op = 0x186 then (List.range h.width).map (fun l => HAct.v (vkey m.d l) [mxLane h m l]) ++ [.vtag m.d 3]
  else [.acc m.d 0 m.result, .accPoison (markTile h.accPoison m.d m.bad)]

/-- A command writes its herd and, an `mst`, the places of its stores. -/
theorem mxWrites_eq (s : State) (h : Herd) (m : MCmd) :
    mxWrites s h m = (if m.op = 0x183 then mstActs s h m else []) ++ herdActs h.key (mxHActs h m) := by
  unfold mxWrites mxHActs
  split
  · rfl
  · split <;> rename_i h2
    · rw [if_pos (by simpa using h2)]; rfl
    · rw [if_neg (by simpa using h2)]; rfl

/-- The parts of the module that stores change. -/
def storeParts : List StPart := [.hbm, .hbmErr, .crews, .ocache, .l1]

theorem mstActs_eq (s : State) (h : Herd) (m : MCmd) : ∃ ws, mstActs s h m =
    (mstStores s h m).flatMap (fun p => writeLoc m.core p.2 p.1) ++ healed s ws := by
  have e : mstStores s h m = ((List.range 64).flatMap (fun i => (List.range (lineLW (mstFmt m))).map (fun w =>
      (wordLoc s m m.a0 m.a1 (lineLW (mstFmt m)) 0 i w, mstWord h m i w)))).map (fun p => (p.1, leBytes 4 p.2.toNat)) := by
    simp only [mstStores, List.map_flatMap, List.map_map, Function.comp_def]
  rw [e, List.flatMap_map]
  exact ⟨_, rfl⟩

theorem within_mstActs (s : State) (h : Herd) (m : MCmd) : Within storeParts (mstActs s h m) := by
  obtain ⟨ws, e⟩ := mstActs_eq s h m
  rw [e]
  exact within_append (within_flatMap fun p _ => (within_writeLoc _ _ _).mono (by decide)) ((within_healed s ws).mono (by decide))

/-- R291, R295: the stores of an `mst` stand, in order. -/
theorem stores_mstActs (s : State) (h : Herd) (m : MCmd) : Stores s (run s (mstActs s h m)) (mstStores s h m) := by
  obtain ⟨ws, e⟩ := mstActs_eq s h m
  rw [e, run_append]
  simpa using (stores_writeLocs m.core (mstStores s h m) s).trans (stores_healed s _ ws)

theorem within_mxWrites (s : State) (h : Herd) (m : MCmd) : Within (.herds :: storeParts) (mxWrites s h m) := by
  rw [mxWrites_eq]
  refine within_append ?_ (within_herdActs (by decide) _ _)
  split
  · exact (within_mstActs s h m).mono (by decide)
  · exact within_nil _

/-- Its acts on herds are those on its own. -/
theorem onHerd_mxWrites (s : State) (h : Herd) (m : MCmd) (k : HerdKey) :
    onHerd k (mxWrites s h m) = if k = h.key then mxHActs h m else [] := by
  have hst : onHerd k (if m.op = 0x183 then mstActs s h m else []) = [] := by
    split
    · exact onHerd_within (p := storeParts) (by decide) (within_mstActs s h m) k
    · rfl
  rw [mxWrites_eq, onHerd_append, hst]
  split <;> rename_i hk
  · rw [hk, onHerd_herdActs_self]; rfl
  · rw [onHerd_herdActs_other (Ne.symm hk)]; rfl

/-- The acts that end the hold of a waiting group (R289). -/
def releaseHActs (h : Herd) (x : Hold) (stay : Bool) : List HAct :=
  .holds (h.holds.filter (fun y => decide (y ≠ x)))
    :: (if stay then [] else moveTo h (bitsOf x.group 8) ((h.fur ((bitsOf x.group 8).headD 0)).pc + 8#64))

theorem mxRelease_eq (h : Herd) (x : Hold) (stay : Bool) : mxRelease h x stay = herdActs h.key (releaseHActs h x stay) := rfl

/-- R289: the group goes on at PC + 8, whatever else but furrows its command wrote. -/
theorem released_acts {h g : Herd} (hf : g.furrows = h.furrows) {x : Hold} (hj : ∀ j ∈ bitsOf x.group 8, j < h.furrows.length) :
    Released h (g.acts (releaseHActs h x false)) x ∧
      g.acts (releaseHActs h x false) = { g with
        holds := (g.acts (releaseHActs h x false)).holds, furrows := (g.acts (releaseHActs h x false)).furrows } := by
  have e : g.acts (releaseHActs h x false) = (g.act (.holds (h.holds.filter (fun y => decide (y ≠ x))))).acts
      (moveTo h (bitsOf x.group 8) ((h.fur ((bitsOf x.group 8).headD 0)).pc + 8#64)) := rfl
  have hm : ∀ a ∈ moveTo h (bitsOf x.group 8) ((h.fur ((bitsOf x.group 8).headD 0)).pc + 8#64), ∃ f r, a = HAct.furrow f r := by
    intro a ha
    obtain ⟨j, -, rfl⟩ := List.mem_map.mp ha
    exact ⟨_, _, rfl⟩
  have rest := acts_only_furrow (g.act (.holds (h.holds.filter (fun y => decide (y ≠ x))))) _ hm
  rw [e]
  refine ⟨⟨by rw [rest]; rfl, fun j => ?_⟩, by rw [rest]; rfl⟩
  rw [moveTo, fur_acts h (fun _ r => { r with pc := (h.fur ((bitsOf x.group 8).headD 0)).pc + 8#64 }) _ _ j
    (by simpa [hf] using hj)]
  simp [Herd.fur, hf]

end Sys2Proof.Machine
end

section
/-! SUPPORT. MatrixCommandsRun, part by part: leave, the read phase, and the retirements of a command that no group waits for, of one
whose group goes on, and of one that has read a poisoned tile. -/

namespace Sys2Proof.Machine

theorem Stores.keeps {s t u : State} {l : List (Loc × List Byte)} (h : Stores s t l) (hm : u.hbm = t.hbm) (hc : u.crews = t.crews) :
    Stores s u l := by
  simpa using h.trans (stores_same hm hc)

theorem within_mxWrites_of_ne (s : State) (h : Herd) {m : MCmd} (hop : m.op ≠ 0x183) : Within [.herds] (mxWrites s h m) := by
  rw [mxWrites_eq, if_neg hop]
  exact within_append (within_nil _) (within_herdActs (by decide) _ _)

/-- R297: an `mst` stores in memory, and its herd's acts move no byte. -/
theorem stores_mxWrites (s : State) (h : Herd) {m : MCmd} (hop : m.op = 0x183) : Stores s (run s (mxWrites s h m)) (mstStores s h m) := by
  rw [mxWrites_eq, if_pos hop, run_append]
  have hk : Only [.herds] (run s (mstActs s h m)) (run (run s (mstActs s h m)) (herdActs h.key (mxHActs h m))) :=
    only_run (by decide) (within_herdActs (by decide) _ _) _
  exact (stores_mstActs s h m).keeps (hk.keeps State.hbm rfl) (hk.keeps State.crews rfl)

theorem herd?_mxWrites {s : State} {h g : Herd} {m : MCmd} (hh : s.herd? m.key = some h) (hg : g.key = m.key) (k : HerdKey) :
    (run s (mxWrites s g m)).herd? k = if k = m.key then some (h.acts (mxHActs g m)) else s.herd? k := by
  rw [herd?_run (by decide) (within_mxWrites s g m), onHerd_mxWrites, hg]
  split
  · next e => rw [e, hh]; rfl
  · simp

theorem herd?_only {p : List StPart} {s t : State} (h : Only p s t) (hp : .herds ∉ p) (k : HerdKey) : t.herd? k = s.herd? k :=
  herd?_congr s t (h.keeps State.herds (if_neg hp)) k

/-- A command that no group waits for writes its tile and leaves. -/
theorem exec_retire_free {s : State} {core slice : Nat} {m : MCmd} {h : Herd} (hc : HeadCmd s core slice m h) (hp : m.phase = 2)
    (ho : locsOwned s (mstLocs s m) = false) (hx : mxHold h m = none) :
    exec (.matrixCommandRetire core slice) s
      = .next (run (run s (mxWrites s h m)) (mxLeave core slice m (run s (mxWrites s h m)))) := by
  obtain ⟨hq, hh, -⟩ := hc
  obtain ⟨r, hq⟩ := headCmd_queue hq
  simp only [exec, execMatrixCommandRetire, event, matrixCommandRetire, hq, hp, hh, ho, hx, ne_eq, not_true_eq_false, decide_false,
    Bool.or_self, Bool.false_eq_true, if_false, mxLeave, run_chain]
  rfl

/-- The state in which the group of a command that has read a poisoned tile traps (R297). -/
def mxStopped (core slice : Nat) (m : MCmd) (h : Herd) (x : Hold) (s : State) : State :=
  run (run s (mxLeave core slice m s)) (mxRelease h x true)

/-- The state in which the group of another goes on: `g` is the herd as the command finds it. -/
def mxDone (core slice : Nat) (m : MCmd) (h g : Herd) (x : Hold) (s : State) : State :=
  let u := run s (mxWrites s g m ++ accDrawn h m)
  run (run u (mxLeave core slice m u)) (mxRelease h x false)

theorem exec_retire_poisoned {s : State} {core slice : Nat} {m : MCmd} {h : Herd} {x : Hold} (hc : HeadCmd s core slice m h)
    (hp : m.phase = 2) (ho : locsOwned s (mstLocs s m) = false) (hx : mxHold h m = some x)
    (hb : h.accPoison.getLsbD (mxSource m) = true) :
    exec (.matrixCommandRetire core slice) s = .next (run (mxStopped core slice m h x s) (mxTrap (mxStopped core slice m h x s) h.key x
      2 10 (h.fur ((bitsOf x.group 8).headD 0)).pc (h.fur ((bitsOf x.group 8).headD 0)).pc)) := by
  obtain ⟨hq, hh, -⟩ := hc
  obtain ⟨r, hq⟩ := headCmd_queue hq
  simp only [exec, execMatrixCommandRetire, event, matrixCommandRetire, hq, hp, hh, ho, hx, hb, ne_eq, not_true_eq_false, decide_false,
    Bool.or_self, Bool.false_eq_true, if_false, if_true, mxStopped, mxLeave, run_chain]
  rfl

theorem exec_retire_held {s : State} {core slice : Nat} {m : MCmd} {h g : Herd} {x : Hold} (hc : HeadCmd s core slice m h)
    (hp : m.phase = 2) (ho : locsOwned s (mstLocs s m) = false) (hx : mxHold h m = some x)
    (hb : h.accPoison.getLsbD (mxSource m) = false) (hg : g = accRead s h m) :
    exec (.matrixCommandRetire core slice) s = .next (run (mxDone core slice m h g x s)
      (if m.op = 0x183 && crosses g (mstCount g m) then mxTrap (mxDone core slice m h g x s) h.key x
        11 0 (h.fur ((bitsOf x.group 8).headD 0)).pc ((h.fur ((bitsOf x.group 8).headD 0)).pc + 8#64) else [])) := by
  obtain ⟨hq, hh, -⟩ := hc
  obtain ⟨r, hq⟩ := headCmd_queue hq
  simp only [exec, execMatrixCommandRetire, event, matrixCommandRetire, hq, hp, hh, ho, hx, hb, ne_eq, not_true_eq_false, decide_false,
    Bool.or_self, Bool.false_eq_true, if_false, mxDone, mxLeave, run_chain, ← hg]
  rfl

/-- A trap that nothing delays is entered. -/
theorem mxTrap_enters {v : State} {k : HerdKey} {h' : Herd} {x : Hold} (hh : v.herd? k = some h') (hn : h'.handler = none)
    (hf : TrapFree h' x.group) (cls cause : Nat) (pc resume : Word) : mxTrap v k x cls cause pc resume
      = trapEntry v h' { cls := cls, cause := cause, code := 0, lane := 255, addr := 0, tile := 0, group := x.group
                         pc := pc, resume := resume } := by
  simp [mxTrap, hh, takeTrap, hn, hf.1, hf.2]

theorem trapFree_congr {h h' : Herd} (hh : h'.holds = h.holds) (hn : h'.handler = h.handler) (hp : h'.pend = h.pend) {g : BitVec 8}
    (hf : TrapFree h g) : TrapFree h' g := by
  unfold TrapFree trapWaits pendBefore at *
  rw [hh, hn, hp]
  exact hf

/-- The parts that the retirement of a command changes, those of an `mst`'s stores apart. -/
def retireParts : List StPart := [.herds, .cmds, .leaveQ, .coreRegs, .freeCtr, .slots, .ocache]

/-- What holds of a stopped group's module. -/
theorem mxStopped_spec {s : State} {core slice : Nat} {m : MCmd} {h : Herd} {x : Hold} (hc : HeadCmd s core slice m h) :
    (mxStopped core slice m h x s).herd? m.key = some (letGo h x) ∧ MxGone s (mxStopped core slice m h x s) core m ∧
      Only (.herds :: leaveParts) s (mxStopped core slice m h x s) := by
  obtain ⟨-, hh, hn⟩ := hc
  have hleave := only_mxLeave core slice m s
  have hw : Within [.herds] (mxRelease h x true) := within_herdActs (by decide) _ _
  have hrel := only_run (by decide) hw (run s (mxLeave core slice m s))
  have hk : ∀ k, (mxStopped core slice m h x s).herd? k = if k = m.key then some (letGo h x) else s.herd? k := by
    intro k
    rw [mxStopped, herd?_run (by decide) hw, herd?_only hleave (by decide), mxRelease_eq, herd?_key hh]
    split
    · next e => rw [e, hh, onHerd_herdActs_self]; rfl
    · next e => rw [onHerd_herdActs_other (Ne.symm e)]; simp
  refine ⟨by rw [hk, if_pos rfl], ?_, (hleave.mono (by decide)).trans (hrel.mono (by decide))⟩
  refine mxGone_transfer (mxGone_mxLeave hn core slice m) (Only.refl _ s) (hrel.mono (by decide)) (fun _ _ => rfl) (fun k hne => ?_)
  exact ((hk k).trans (if_neg hne)).trans (herd?_only hleave (by decide) k).symm

/-- What holds of the module in which a group goes on: its herd, the queue, the frame and the bytes stored. -/
theorem mxDone_spec {s : State} {core slice : Nat} {m : MCmd} {h g : Herd} {x : Hold} (hc : HeadCmd s core slice m h)
    (hg : g = accRead s h m) :
    (mxDone core slice m h g x s).herd? m.key = some ((h.acts (mxHActs g m)).acts (releaseHActs h x false)) ∧
      MxGone s (mxDone core slice m h g x s) core m ∧
      (m.op ≠ 0x183 → Only retireParts s (mxDone core slice m h g x s)) ∧
      Only (retireParts ++ storeParts) s (mxDone core slice m h g x s) ∧
      (m.op = 0x183 → Stores s (mxDone core slice m h g x s) (mstStores s g m)) := by
  obtain ⟨-, hh, hn⟩ := hc
  have hgk : g.key = m.key := (congrArg Herd.key (hg.trans (accRead_rest s h m))).trans (show h.key = m.key from herd?_key hh)
  let r := run s (mxWrites s g m)
  let u := run r (accDrawn h m)
  let w := run u (mxLeave core slice m u)
  have hdone : mxDone core slice m h g x s = run w (mxRelease h x false) := by simp only [mxDone, run_append]; rfl
  have hsr : Only (.herds :: storeParts) s r := only_run (by decide) (within_mxWrites s g m) s
  have hru : Only [.freeCtr] r u := only_run (by decide) (within_accDrawn h m) r
  have huw : Only leaveParts u w := only_mxLeave core slice m u
  have hw : Within [.herds] (mxRelease h x false) := within_herdActs (by decide) _ _
  have hwv : Only [.herds] w (run w (mxRelease h x false)) := only_run (by decide) hw w
  have hsu : Only writeParts s u := (hsr.mono (by decide)).trans (hru.mono (by decide))
  have hku : ∀ k, u.herd? k = if k = m.key then some (h.acts (mxHActs g m)) else s.herd? k := fun k =>
    (herd?_only hru (by decide) k).trans (herd?_mxWrites hh hgk k)
  have hkv : ∀ k, (run w (mxRelease h x false)).herd? k
      = if k = m.key then some ((h.acts (mxHActs g m)).acts (releaseHActs h x false)) else s.herd? k := by
    intro k
    rw [herd?_run (by decide) hw, herd?_only huw (by decide), hku, mxRelease_eq, herd?_key hh]
    split
    · next e => rw [e, onHerd_herdActs_self]; rfl
    · next e => rw [onHerd_herdActs_other (Ne.symm e)]; simp
  rw [hdone]
  refine ⟨by rw [hkv, if_pos rfl], ?_, fun hop => ?_, ?_, fun hop => ?_⟩
  · refine mxGone_transfer (mxGone_mxLeave (by rw [hsu.keeps State.cmds rfl]; exact hn) core slice m) hsu (hwv.mono (by decide))
      (fun k hne => by rw [hku, if_neg hne]) (fun k hne => ?_)
    rw [hkv, if_neg hne, herd?_only huw (by decide), hku, if_neg hne]
  · have hsr' : Only [.herds] s r := only_run (by decide) (within_mxWrites_of_ne s g hop) s
    exact (((hsr'.mono (by decide)).trans (hru.mono (by decide))).trans (huw.mono (by decide))).trans (hwv.mono (by decide))
  · exact (((hsr.mono (by decide)).trans (hru.mono (by decide))).trans (huw.mono (by decide))).trans (hwv.mono (by decide))
  · exact (stores_mxWrites s g hop).keeps
      ((hwv.keeps State.hbm rfl).trans ((huw.keeps State.hbm rfl).trans (hru.keeps State.hbm rfl)))
      ((hwv.keeps State.crews rfl).trans ((huw.keeps State.crews rfl).trans (hru.keeps State.crews rfl)))

end Sys2Proof.Machine
end

section
/-! SUPPORT. The parts of MatrixCommandsRun, and the statement from them. -/

namespace Sys2Proof.Machine

/-! R20, R306: leave. -/

/-- Leave that fits the pool is granted to the first that asks for it. -/
theorem leaveGrant_fits {s : State} {core slice : Nat} {m : MCmd} (hq : (sliceQueue s core slice).head? = some m) (hp : m.phase = 0)
    (hf : s.leaveQ.find? (fun p => decide (dieOf p.1 = dieOf core)) = some (core, slice))
    (hfit : leaveOut s (dieOf core) + m.cost ≤ leavePool s (dieOf core)) :
    leaveGrant core slice s = [setCmd s { m with phase := 1 }, .leaveQ (s.leaveQ.filter (fun p => p ≠ (core, slice))),
      .bump (4096 * core + 0x042) (Config.freeNat s.freeCtr), .free 1] := by
  obtain ⟨r, hq⟩ := headCmd_queue hq
  simp [leaveGrant, hq, hp, hf, hfit]

/-- Leave that does not fit the pool waits. -/
theorem leaveGrant_waits {s : State} {core slice : Nat} {m : MCmd} (hq : (sliceQueue s core slice).head? = some m)
    (hfull : leavePool s (dieOf core) < leaveOut s (dieOf core) + m.cost) : leaveGrant core slice s = [] := by
  obtain ⟨r, hq⟩ := headCmd_queue hq
  simp [leaveGrant, hq, Nat.not_le_of_lt hfull]

theorem leave_isGranted (s : State) (core slice : Nat) (m : MCmd) (hq : (sliceQueue s core slice).head? = some m) (hp : m.phase = 0)
    (hf : s.leaveQ.find? (fun p => decide (dieOf p.1 = dieOf core)) = some (core, slice)) :
    (leaveOut s (dieOf core) + m.cost ≤ leavePool s (dieOf core) →
      ∃ t n, exec (.leaveGrant core slice) s = .next t ∧
        t = { s with cmds := t.cmds, leaveQ := t.leaveQ, coreRegs := t.coreRegs, freeCtr := s.freeCtr + 1 } ∧
        t.coreReg core 0x042 = BitVec.ofNat 64 (min ((s.coreReg core 0x042).toNat + n) (2 ^ 64 - 1)) ∧
        (∀ i, i ≠ 4096 * core + 0x042 → Sparse.get coreReset t.coreRegs i = Sparse.get coreReset s.coreRegs i) ∧
        t.cmds = s.cmds.map (fun q => if q.id = m.id then { m with phase := 1 } else q) ∧
        t.leaveQ = s.leaveQ.filter (fun p => decide (p ≠ (core, slice))))
    ∧ (leavePool s (dieOf core) < leaveOut s (dieOf core) + m.cost → exec (.leaveGrant core slice) s = .next s) := by
  refine ⟨fun hfit => ⟨_, Config.freeNat s.freeCtr, congrArg (Host.Outcome.next ∘ run s) (leaveGrant_fits hq hp hf hfit),
    rfl, ?_, fun i hi => ?_, rfl, rfl⟩, fun hfull => congrArg (Host.Outcome.next ∘ run s) (leaveGrant_waits hq hfull)⟩
  · simp [State.coreReg, setCmd, Sparse.get_set]
  · simp [setCmd, Sparse.get_set, hi]

/-! R294, R297: a command that no group waits for writes its tile. -/

theorem markTile_self {t : Nat} (ht : t < 8) (p : BitVec 8) (b : Bool) : (markTile p t b).getLsbD t = b := by
  have e : (BitVec.ofNat 8 (2 ^ t)).getLsbD t = true := by
    rw [BitVec.getLsbD_ofNat, Nat.testBit_two_pow_self, decide_eq_true ht, Bool.and_self]
  cases b
  · rw [markTile, if_neg Bool.false_ne_true, BitVec.getLsbD_and, BitVec.getLsbD_not, e, Bool.not_true, Bool.and_false, Bool.and_false]
  · rw [markTile, if_pos rfl, BitVec.getLsbD_or, e, Bool.or_true]

theorem markTile_other {t n : Nat} (hn : n ≠ t) (p : BitVec 8) (b : Bool) : (markTile p t b).getLsbD n = p.getLsbD n := by
  have e : (BitVec.ofNat 8 (2 ^ t)).getLsbD n = false := by
    rw [BitVec.getLsbD_ofNat, Nat.testBit_two_pow_of_ne (Ne.symm hn), Bool.and_false]
  cases b
  · rw [markTile, if_neg Bool.false_ne_true, BitVec.getLsbD_and, BitVec.getLsbD_not, e, Bool.not_false, Bool.and_true]
    cases hp : p.getLsbD n with
    | false => rfl
    | true => rw [decide_eq_true (BitVec.lt_of_getLsbD hp), Bool.and_self]
  · rw [markTile, if_pos rfl, BitVec.getLsbD_or, e, Bool.or_false]

/-- The herd whose tile d is written whole, and marked. -/
theorem tile_written {h : Herd} {m : MCmd} (hd : m.d < h.acc.length) (h8 : m.d < 8) (hl : m.result.length = 4096) {h' : Herd}
    (hh : h' = h.acts [.acc m.d 0 m.result, .accPoison (markTile h.accPoison m.d m.bad)]) :
    (∀ i j, i < 64 → j < 64 → h'.accEl m.d i j = m.result.getD (64 * i + j) 0) ∧
      (∀ n i j, n ≠ m.d → h'.accEl n i j = h.accEl n i j) ∧ h'.accPoison.getLsbD m.d = m.bad ∧
      (∀ n, n ≠ m.d → h'.accPoison.getLsbD n = h.accPoison.getLsbD n) ∧
      (∀ k, k ∈ h'.accErr ↔ k ∈ h.accErr ∧ k / 4096 ≠ m.d) ∧
      h' = { h with acc := h'.acc, accPoison := h'.accPoison, accErr := h'.accErr } := by
  subst hh
  simp only [Herd.acts_cons, Herd.acts_nil]
  refine ⟨fun i j hi hj => ?_, fun n i j hn => ?_, markTile_self h8 _ _, fun n hn => markTile_other hn _ _, fun k => ?_, rfl⟩
  · simp only [Herd.accEl, Herd.act_acc, getD_set, hd, and_self, if_true]
    rw [Sparse.get_write, if_pos (by omega)]
    rfl
  · simp only [Herd.accEl, Herd.act_acc, getD_set, Ne.symm hn, false_and, if_false]
  · simp only [Herd.act_accErr, List.mem_filter, hl, Bool.not_eq_true', Bool.and_eq_false_iff, decide_eq_false_iff_not]
    exact and_congr_right (fun _ => by omega)

theorem retire_writesTile (s : State) (core slice : Nat) (m : MCmd) (h : Herd) (hc : HeadCmd s core slice m h) (hp : m.phase = 2)
    (hx : mxHold h m = none) (hop : m.op ∈ [0x180, 0x181, 0x182, 0x185]) (hd : m.d < h.acc.length) (h8 : m.d < 8)
    (hl : m.result.length = 4096) :
    ∃ t h', exec (.matrixCommandRetire core slice) s = .next t ∧ t.herd? m.key = some h' ∧ MxGone s t core m ∧
      t = { s with herds := t.herds, cmds := t.cmds, leaveQ := t.leaveQ, coreRegs := t.coreRegs, slots := t.slots, ocache := t.ocache } ∧
      (∀ i j, i < 64 → j < 64 → h'.accEl m.d i j = m.result.getD (64 * i + j) 0) ∧
      (∀ n i j, n ≠ m.d → h'.accEl n i j = h.accEl n i j) ∧ h'.accPoison.getLsbD m.d = m.bad ∧
      (∀ n, n ≠ m.d → h'.accPoison.getLsbD n = h.accPoison.getLsbD n) ∧
      (∀ k, k ∈ h'.accErr ↔ k ∈ h.accErr ∧ k / 4096 ≠ m.d) ∧
      h' = { h with acc := h'.acc, accPoison := h'.accPoison, accErr := h'.accErr } := by
  have h183 : m.op ≠ 0x183 := by rintro e; rw [e] at hop; exact absurd hop (by decide)
  have hmax : ¬ (m.op = 0x184 ∨ m.op = 0x186) := by rintro (e | e) <;> rw [e] at hop <;> exact absurd hop (by decide)
  have hown : locsOwned s (mstLocs s m) = false := by simp [mstLocs, h183, locsOwned]
  have hacts : mxHActs h m = [.acc m.d 0 m.result, .accPoison (markTile h.accPoison m.d m.bad)] := by
    rw [mxHActs, if_neg h183, if_neg hmax]
  have hn := hc.2.2
  have hh := hc.2.1
  let u := run s (mxWrites s h m)
  have hsu : Only [.herds] s u := only_run (by decide) (within_mxWrites_of_ne s h h183) s
  have hut := only_mxLeave core slice m u
  have hku : ∀ k, u.herd? k = if k = m.key then some (h.acts (mxHActs h m)) else s.herd? k := fun k =>
    herd?_mxWrites hh (herd?_key hh) k
  refine ⟨_, h.acts (mxHActs h m), exec_retire_free hc hp hown hx, ?_, ?_, ?_, tile_written hd h8 hl (by rw [hacts])⟩
  · rw [herd?_only hut (by decide), hku, if_pos rfl]
  · exact mxGone_transfer (mxGone_mxLeave (by rw [hsu.keeps State.cmds rfl]; exact hn) core slice m) (hsu.mono (by decide))
      (Only.refl _ _) (fun k hne => by rw [hku, if_neg hne]) (fun _ _ => rfl)
  · exact ((hsu.mono (by decide)).trans (hut.mono (by decide)) :
      Only [.herds, .cmds, .leaveQ, .coreRegs, .slots, .ocache] s _)

/-! R296: a command that writes vector lanes. -/

/-- The herd after the lanes of one vector register have been written, before its group goes on. -/
theorem lanes_written {h g : Herd} {m : MCmd} (hop : m.op = 0x184 ∨ m.op = 0x186) (hw : g.width = h.width) (h64 : h.width ≤ 64)
    {y : Herd} (hy : y = h.acts (mxHActs g m)) :
    (∀ l < h.width, y.vreg m.d l = mxLane g m l) ∧
      (∀ n l, l < 64 → ¬ (n = m.d ∧ l < h.width) → y.vreg n l = h.vreg n l) ∧
      (∀ n, y.tagOf n = if n = m.d then 3 else h.tagOf n) ∧ y = { h with v := y.v, vtag := y.vtag } := by
  have h183 : m.op ≠ 0x183 := by rcases hop with e | e <;> rw [e] <;> decide
  have hacts : mxHActs g m = (List.range h.width).map (fun l => HAct.v (vkey m.d l) [mxLane g m l]) ++ [.vtag m.d 3] := by
    rw [mxHActs, if_neg h183, if_pos hop, hw]
  have hv : ∀ k, Sparse.get zeros y.v k = if 64 * m.d ≤ k ∧ k - 64 * m.d ∈ List.range h.width then mxLane g m (k - 64 * m.d)
      else Sparse.get zeros h.v k := by
    intro k
    rw [hy, hacts, Herd.acts_append]
    exact v_lanes m.d (mxLane g m) (List.range h.width) h k
  have hlanes : ∀ (ls : List Nat) (x : Herd), x.acts (ls.map (fun l => HAct.v (vkey m.d l) [mxLane g m l]))
      = { x with v := (x.acts (ls.map (fun l => HAct.v (vkey m.d l) [mxLane g m l]))).v } := by
    intro ls
    induction ls with
    | nil => intro x; rfl
    | cons l ls ih => intro x; rw [List.map_cons, Herd.acts_cons, ih]; rfl
  have hrest : y = { h with v := y.v, vtag := Sparse.set zeros h.vtag m.d 3 } := by
    rw [hy, hacts, Herd.acts_append, hlanes]; rfl
  refine ⟨fun l hl => ?_, fun n l hl hne => ?_, fun n => ?_, by rw [hrest]⟩
  · rw [Herd.vreg, hv, if_pos ⟨by omega, by simpa using hl⟩, Nat.add_sub_cancel_left]
  · rw [Herd.vreg, hv, if_neg]
    · rfl
    · simp only [List.mem_range]
      omega
  · rw [Herd.tagOf, hrest, Sparse.get_set]
    split <;> rfl

theorem retire_writesLanes (s : State) (core slice : Nat) (m : MCmd) (h g : Herd) (x : Hold) (hc : HeadCmd s core slice m h)
    (hp : m.phase = 2) (hx : mxHold h m = some x) (hop : m.op ∈ [0x184, 0x186]) (hg : g = accRead s h m)
    (hb : h.accPoison.getLsbD (mxTile m.x) = false) (h64 : h.width ≤ 64) (hj : ∀ j ∈ bitsOf x.group 8, j < h.furrows.length) :
    ∃ t h', exec (.matrixCommandRetire core slice) s = .next t ∧ t.herd? m.key = some h' ∧ MxGone s t core m ∧
      t = { s with herds := t.herds, cmds := t.cmds, leaveQ := t.leaveQ, coreRegs := t.coreRegs, freeCtr := t.freeCtr
                   slots := t.slots, ocache := t.ocache } ∧ Released h h' x ∧
      (∀ l < h.width, h'.vreg m.d l = if m.op = 0x184 then rowMax g (mxTile m.x) (mxG m.x * h.width + l)
        else g.accEl (mxTile m.x) (mxG m.x * h.width + l) (fld (m.x.setWidth 64) 11 6)) ∧
      (∀ n l, l < 64 → ¬ (n = m.d ∧ l < h.width) → h'.vreg n l = h.vreg n l) ∧
      (∀ n, h'.tagOf n = if n = m.d then 3 else h.tagOf n) ∧
      h' = { h with v := h'.v, vtag := h'.vtag, holds := h'.holds, furrows := h'.furrows } := by
  have hop : m.op = 0x184 ∨ m.op = 0x186 := by simpa using hop
  have h183 : m.op ≠ 0x183 := by rcases hop with e | e <;> rw [e] <;> decide
  have hown : locsOwned s (mstLocs s m) = false := by simp [mstLocs, h183, locsOwned]
  have hsrc : mxSource m = mxTile m.x := if_neg h183
  have hgw : g.width = h.width := by rw [hg, accRead_rest]
  obtain ⟨hherd, hgone, honly, -, -⟩ := mxDone_spec (x := x) hc hg
  obtain ⟨hlane, hother, htag, hrest⟩ := lanes_written hop hgw h64 (h := h) (g := g) (m := m) rfl
  obtain ⟨hrel, hgo⟩ := released_acts (h := h) (g := h.acts (mxHActs g m)) (by rw [hrest]) hj
  have hexec := exec_retire_held hc hp hown hx (hsrc ▸ hb) hg
  rw [if_neg (by simp [h183]), run_nil] at hexec
  refine ⟨_, _, hexec, hherd, hgone, honly h183, hrel, fun l hl => ?_, fun n l hl hne => ?_, fun n => ?_, ?_⟩
  · rw [Herd.vreg, hgo]
    exact (hlane l hl).trans (by rw [mxLane, hgw])
  · rw [Herd.vreg, hgo]
    exact hother n l hl hne
  · rw [Herd.tagOf, hgo]
    exact htag n
  · rw [hgo, hrest]

/-! R295, R86: an `mst`. -/

theorem retire_stores (s : State) (core slice : Nat) (m : MCmd) (h g : Herd) (x : Hold) (hc : HeadCmd s core slice m h)
    (hp : m.phase = 2) (hx : mxHold h m = some x) (hop : m.op = 0x183) (hg : g = accRead s h m) (hb : h.accPoison.getLsbD m.d = false)
    (hown : locsOwned s (mstLocs s m) = false) (hj : ∀ j ∈ bitsOf x.group 8, j < h.furrows.length)
    (htrap : crosses g (mstCount g m) = true → h.handler = none ∧ TrapFree (letGo h x) x.group) :
    ∃ t h', t.herd? m.key = some h' ∧ MxGone s t core m ∧
      t = { s with herds := t.herds, cmds := t.cmds, leaveQ := t.leaveQ, coreRegs := t.coreRegs, hbm := t.hbm
                   hbmErr := t.hbmErr, crews := t.crews, ocache := t.ocache, l1 := t.l1, freeCtr := t.freeCtr, slots := t.slots } ∧
      Released h h' x ∧
      Stored s t (mstStores s g m) ∧ h'.cvsat = convAdd h.cvsat (mstCount g m).sat ∧
      h'.cvflush = convAdd h.cvflush (mstCount g m).flush ∧ h'.cvnan = convAdd h.cvnan (mstCount g m).nan ∧
      h' = { h with cvsat := h'.cvsat, cvflush := h'.cvflush, cvnan := h'.cvnan, holds := h'.holds, furrows := h'.furrows } ∧
      exec (.matrixCommandRetire core slice) s = .next (if crosses g (mstCount g m) then run t (trapEntry t h'
        { cls := 11, cause := 0, code := 0, lane := 255, addr := 0, tile := 0, group := x.group
          pc := (h.fur ((bitsOf x.group 8).headD 0)).pc, resume := (h.fur ((bitsOf x.group 8).headD 0)).pc + 8#64 }) else t) := by
  have hh := hc.2.1
  have hsrc : mxSource m = m.d := if_pos hop
  obtain ⟨hherd, hgone, -, honly, hstores⟩ := mxDone_spec (x := x) hc hg
  have hacts : h.acts (mxHActs g m) = { h with
      cvsat := convAdd h.cvsat (mstCount g m).sat, cvflush := convAdd h.cvflush (mstCount g m).flush
      cvnan := convAdd h.cvnan (mstCount g m).nan } := by
    have hcounts : g.cvsat = h.cvsat ∧ g.cvflush = h.cvflush ∧ g.cvnan = h.cvnan := by rw [hg, accRead_rest]; exact ⟨rfl, rfl, rfl⟩
    obtain ⟨hsat, hflush, hnan⟩ := hcounts
    rw [mxHActs, if_pos hop, convAct, hsat, hflush, hnan]
    rfl
  obtain ⟨hrel, hgo⟩ := released_acts (h := h) (g := h.acts (mxHActs g m)) (by rw [hacts]) hj
  have hexec := exec_retire_held hc hp hown hx (hsrc ▸ hb) hg
  refine ⟨_, _, hherd, hgone, honly, hrel, (hstores hop).1, ?_, ?_, ?_, ?_, hexec.trans ?_⟩
  · rw [hgo, hacts]
  · rw [hgo, hacts]
  · rw [hgo, hacts]
  · rw [hgo, hacts]
  · cases hcr : crosses g (mstCount g m) with
    | false => simp
    | true =>
      obtain ⟨hnone, hfree⟩ := htrap hcr
      have hn' : ((h.acts (mxHActs g m)).acts (releaseHActs h x false)).handler = none := by rw [hgo, hacts]; exact hnone
      have hf' : TrapFree ((h.acts (mxHActs g m)).acts (releaseHActs h x false)) x.group :=
        trapFree_congr (h := letGo h x) hrel.1 (by rw [hgo, hacts]; rfl) (by rw [hgo, hacts]; rfl) hfree
      simp only [hop, decide_true, Bool.and_self, if_true]
      rw [herd?_key hh, mxTrap_enters hherd hn' hf']

/-! R297: a command that has read a poisoned tile. -/

theorem retire_traps (s : State) (core slice : Nat) (m : MCmd) (h : Herd) (x : Hold) (hc : HeadCmd s core slice m h) (hp : m.phase = 2)
    (hx : mxHold h m = some x) (hb : h.accPoison.getLsbD (mxSource m) = true) (hown : locsOwned s (mstLocs s m) = false)
    (hnone : h.handler = none) (hfree : TrapFree (letGo h x) x.group) :
    ∃ t0 h0, t0.herd? m.key = some h0 ∧ MxGone s t0 core m ∧ h0 = letGo h x ∧
      t0 = { s with herds := t0.herds, cmds := t0.cmds, leaveQ := t0.leaveQ, coreRegs := t0.coreRegs, slots := t0.slots
                    ocache := t0.ocache } ∧
      exec (.matrixCommandRetire core slice) s = .next (run t0 (trapEntry t0 h0
        { cls := 2, cause := 10, code := 0, lane := 255, addr := 0, tile := 0, group := x.group
          pc := (h.fur ((bitsOf x.group 8).headD 0)).pc, resume := (h.fur ((bitsOf x.group 8).headD 0)).pc })) := by
  obtain ⟨hherd, hgone, honly⟩ := mxStopped_spec (x := x) hc
  refine ⟨_, _, hherd, hgone, rfl, honly, (exec_retire_poisoned hc hp hown hx hb).trans ?_⟩
  rw [herd?_key hc.2.1, mxTrap_enters hherd hnone hfree]

/-- Settles O35: leave, the read phase, and each kind of retirement, a part at a time. -/
theorem matrixCommandsRun : Obligations.MatrixCommandsRun :=
  ⟨leave_isGranted, fun s core slice m h bad hc hp _ => readPhase_obtains s core slice m h bad hc hp, retire_writesTile,
    retire_writesLanes, retire_stores, fun s core slice m h x hc hp hx _ => retire_traps s core slice m h x hc hp hx, accEl_accRead⟩

end Sys2Proof.Machine
end

section
/-! SUPPORT. The shared operations of the ring (R320 to R322): what the ends of waits, landings and holds change, and of which herd. -/

namespace Sys2Proof.Machine

/-! Acts that bear on one herd. -/

/-- Acts of a list on herds are on the one of this name. -/
def ForHerd (k : HerdKey) (l : List Act) : Prop := ∀ k', k' ≠ k → onHerd k' l = []

theorem forHerd_nil (k : HerdKey) : ForHerd k [] := fun _ _ => rfl

theorem ForHerd.append {k : HerdKey} {l r : List Act} (hl : ForHerd k l) (hr : ForHerd k r) : ForHerd k (l ++ r) :=
  fun k' h => by rw [onHerd_append, hl k' h, hr k' h]; rfl

theorem forHerd_herdActs (k : HerdKey) (l : List HAct) : ForHerd k (herdActs k l) := fun _ h => onHerd_herdActs_other (Ne.symm h) l

/-- Acts on other herds leave a herd. -/
theorem herd?_forHerd {p : List StPart} (hr : .rest ∉ p) {l : List Act} (hl : Within p l) {k k' : HerdKey} (hf : ForHerd k' l) (hk : k ≠ k')
    (s : State) : (run s l).herd? k = s.herd? k := by
  rw [herd?_run hr hl, hf k hk]; simp

/-! The ends of waits. -/

/-- The acts that the ends of waits are made of. -/
def HAct.endsWait : HAct → Bool
  | .furrow _ _ => true
  | .reload _ _ => true
  | .lateDone _ => true
  | .ready _ => true
  | _ => false

/-- They change furrows, late writes and the moment of readiness. -/
theorem acts_endsWait : ∀ {l : List HAct}, (∀ a ∈ l, a.endsWait = true) → ∀ h : Herd, h.acts l =
    { h with furrows := (h.acts l).furrows, s := (h.acts l).s, late := (h.acts l).late, readyAt := (h.acts l).readyAt }
  | [], _, _ => rfl
  | a :: l, ha, h => by
    rw [Herd.acts_cons, acts_endsWait (fun b hb => ha b (by simp [hb])) (h.act a)]
    have h1 := ha a (by simp)
    cases a with
    | furrow | reload | lateDone | ready => rfl
    | _ => exact absurd h1 Bool.false_ne_true

/-- The furrow of a wait that has ended. -/
def endedWait (h : Herd) (r : Resolution) (f : Nat) (x : Furrow) : Furrow :=
  if !h.resident then { x with resolved := some r }
  else if (match h.handler with | some g => !g.getLsbD f | none => false) then { x with st := .held, resolved := some r }
  else { x with st := .running, pc := if r.completed then x.pc + 8#64 else x.pc }

theorem endWait_eq (h : Herd) (f : Nat) (r : Resolution) : endWait h f r = furAct h f (endedWait h r f) := rfl

/-- Waits that write no register end furrow by furrow. -/
theorem endRtiles_eq (h : Herd) : endRtiles h = (h.unresolved WaitOn.isRtile).map (fun f =>
    furAct h f (endedWait h { completed := false, wr := none, bad := none } f)) := by
  simp [endRtiles, endWaits, endWait_eq]

theorem mem_unresolved {h : Herd} {p : WaitOn → Bool} {f : Nat} (hf : f ∈ h.unresolved p) :
    f < h.furrows.length ∧ ∃ w, (h.fur f).st = .waiting w ∧ p w = true := by
  obtain ⟨hi, hw⟩ := List.mem_filter.mp hf
  refine ⟨by simpa [Herd.idxs] using hi, ?_⟩
  cases hs : (h.fur f).st with
  | waiting w => exact ⟨w, rfl, by simp_all⟩
  | _ => simp_all

/-- The end of the `rtile` waits of a herd leaves every furrow that does not wait for a tile. -/
theorem fur_endRtiles {h g : Herd} (hg : g.furrows.length = h.furrows.length) {j : Nat} (hj : (h.fur j).st ≠ .waiting .rtile) :
    (g.acts (endRtiles h)).fur j = g.fur j := by
  rw [endRtiles_eq, fur_acts h _ _ g j (fun f hf => hg ▸ (mem_unresolved hf).1), if_neg]
  intro hm
  obtain ⟨-, w, hs, hw⟩ := mem_unresolved hm
  cases w with
  | rtile => exact hj hs
  | _ => exact absurd hw Bool.false_ne_true

theorem endsWait_furActs {h : Herd} {fs : List Nat} {g : Nat → Furrow → Furrow} :
    ∀ a ∈ fs.map (fun f => furAct h f (g f)), a.endsWait = true := List.forall_mem_map.mpr (fun _ _ => rfl)

theorem endsWait_endRtiles (h : Herd) : ∀ a ∈ endRtiles h, a.endsWait = true := by
  rw [endRtiles_eq]; exact endsWait_furActs

theorem endsWait_lateActs (h : Herd) (fs : List Nat) (n : Nat) (x : Word) : ∀ a ∈ lateActs h fs n x, a.endsWait = true := by
  unfold lateActs; split <;> simp [HAct.endsWait]

theorem endsWait_endWaits (h : Herd) (fs : List Nat) (r : Resolution) : ∀ a ∈ endWaits h fs r, a.endsWait = true := by
  refine List.forall_mem_append.mpr ⟨endsWait_furActs (g := endedWait h r), fun a ha => ?_⟩
  cases hw : r.wr with
  | none => simp [hw] at ha
  | some p =>
    rw [hw] at ha
    exact endsWait_lateActs h fs _ _ a (List.mem_ite_nil_right.mp ha).2

theorem endsWait_endBoards (h : Herd) (x : Word) : ∀ a ∈ endBoards h x, a.endsWait = true := by
  intro a ha
  obtain ⟨f, -, hf⟩ := List.mem_flatMap.mp ha
  split at hf
  · exact endsWait_endWaits h _ _ a hf
  · simp at hf

theorem within_readyStamp (s : State) (h : Herd) (w : WaitOn → Bool) : Within [.herds, .nextOrder] (readyStamp s h w) := by
  unfold readyStamp; split <;> simp [Within, Act.parts]

theorem forHerd_readyStamp (s : State) (h : Herd) (w : WaitOn → Bool) : ForHerd h.key (readyStamp s h w) := by
  intro k hk
  unfold readyStamp
  split <;> simp [onHerd, Act.on, Ne.symm hk]

/-- The moment of readiness is all that it sets in a herd. -/
theorem onHerd_readyStamp (s : State) (h : Herd) (w : WaitOn → Bool) (k : HerdKey) :
    onHerd k (readyStamp s h w) = [] ∨ onHerd k (readyStamp s h w) = [.ready s.nextOrder] := by
  unfold readyStamp
  split
  · by_cases e : h.key = k
    · exact .inr (by simp [onHerd_cons, Act.on, e])
    · exact .inl (by simp [onHerd_cons, Act.on, e])
  · exact .inl rfl

theorem endsWait_readyStamp (s : State) (h : Herd) (w : WaitOn → Bool) (k : HerdKey) :
    ∀ a ∈ onHerd k (readyStamp s h w), a.endsWait = true := by
  obtain e | e := onHerd_readyStamp s h w k <;> rw [e] <;> simp [HAct.endsWait]

/-- A resident herd becomes ready at no moment of its own (R58). -/
theorem readyStamp_resident {h : Herd} (hr : h.resident = true) (s : State) (w : WaitOn → Bool) : readyStamp s h w = [] := by
  simp [readyStamp, hr]

theorem within_wakeRtile (s : State) (h : Herd) : Within [.herds, .nextOrder] (wakeRtile s h) :=
  within_append (within_herdActs (by decide) _ _) (within_readyStamp s h _)

theorem forHerd_wakeRtile (s : State) (h : Herd) : ForHerd h.key (wakeRtile s h) :=
  (forHerd_herdActs _ _).append (forHerd_readyStamp s h _)

theorem onHerd_wakeRtile (s : State) (h : Herd) : onHerd h.key (wakeRtile s h) = endRtiles h ++ onHerd h.key (readyStamp s h WaitOn.isRtile) := by
  rw [wakeRtile, onHerd_append, onHerd_herdActs_self]

theorem endsWait_wakeRtile (s : State) (h : Herd) : ∀ a ∈ onHerd h.key (wakeRtile s h), a.endsWait = true := by
  rw [onHerd_wakeRtile]
  exact List.forall_mem_append.mpr ⟨endsWait_endRtiles h, endsWait_readyStamp s h _ _⟩

theorem acts_endRtiles (h g : Herd) : g.acts (endRtiles h) = { g with furrows := (g.acts (endRtiles h)).furrows } := by
  refine acts_only_furrow g _ ?_
  rw [endRtiles_eq]
  exact List.forall_mem_map.mpr (fun f _ => ⟨_, _, rfl⟩)

theorem acts_readyStamp (s : State) (h g : Herd) (w : WaitOn → Bool) (k : HerdKey) :
    g.acts (onHerd k (readyStamp s h w)) = { g with readyAt := (g.acts (onHerd k (readyStamp s h w))).readyAt } := by
  obtain e | e := onHerd_readyStamp s h w k <;> rw [e] <;> rfl

/-- R322: the groups that wait for a tile go on, and nothing else of their herd changes. -/
theorem acts_wakeRtile (s : State) (h g : Herd) : g.acts (onHerd h.key (wakeRtile s h)) =
    { g with furrows := (g.acts (endRtiles h)).furrows, readyAt := (g.acts (onHerd h.key (wakeRtile s h))).readyAt } := by
  rw [onHerd_wakeRtile, Herd.acts_append, acts_readyStamp, acts_endRtiles]

/-! Holds. -/

theorem within_holdEnds (cores : List Nat) (s : State) : Within [.coreRegs, .freeCtr] (holdEnds cores s) := by
  unfold holdEnds
  split
  · exact within_nil _
  · exact within_append (within_map fun _ _ => by simp [Act.parts]) (by simp [Within, Act.parts])

/-- The end of a hold counts cycles of holds and nothing else (R332). -/
theorem coreRegs_holdEnds (cores : List Nat) (s u : State) {n : Nat} (hn : ∀ core, n ≠ 4096 * core + 0x0D5) :
    Sparse.get coreReset (run u (holdEnds cores s)).coreRegs n = Sparse.get coreReset u.coreRegs n := by
  refine coreReg_run _ u n (fun a ha => ?_)
  unfold holdEnds at ha
  split at ha
  · cases ha
  · rcases List.mem_append.mp ha with h | h
    · obtain ⟨c, -, rfl⟩ := List.mem_map.mp h
      exact ⟨fun x => (nomatch ·), fun m e => hn c (by cases e; rfl)⟩
    · rw [List.mem_singleton.mp h]
      exact ⟨fun x => (nomatch ·), fun m => (nomatch ·)⟩

@[simp] theorem holdEnds_nil (s : State) : holdEnds [] s = [] := rfl
@[simp] theorem coresLeft_nil (l : List (HerdKey × Nat)) : coresLeft [] l = [] := rfl

/-! Landings. -/

/-- The parts of the module that the ring's events change. -/
def ringParts : List StPart := [.ring, .herds, .slots, .coreRegs, .nextOrder, .freeCtr]

/-- R321, R322: a landing, in a herd that has a boarding and on a core with a free slot. -/
theorem landOne_eq {s : State} {k : HerdKey} {h : Herd} {b : Boarding} {i : Nat} (hh : s.herd? k = some h) (hb : h.boarding = some b)
    (hi : freeSlotIdx s h.core = some i) (t : RTile) : landOne t k s = .slots (s.slots ++ [slotOf t h i])
      :: .herd k (.boarding (some { b with landed := b.landed ++ [i] })) :: bumpCore h.core 0x0D4 :: wakeRtile s h := by
  have hk := herd?_key hh
  subst hk
  simp [landOne, hh, hb, hi, slotOf]

/-- A landing finds a herd with a boarding and a free slot, or does nothing. -/
theorem landOne_cases (t : RTile) (k : HerdKey) (s : State) : landOne t k s = [] ∨
    ∃ h b i, s.herd? k = some h ∧ h.boarding = some b ∧ landOne t k s = .slots (s.slots ++ [slotOf t h i])
      :: .herd k (.boarding (some { b with landed := b.landed ++ [i] })) :: bumpCore h.core 0x0D4 :: wakeRtile s h := by
  cases hh : s.herd? k with
  | none => exact .inl (by simp [landOne, hh])
  | some h =>
    cases hb : h.boarding with
    | none => exact .inl (by simp [landOne, hh, hb])
    | some b =>
      cases hi : freeSlotIdx s h.core with
      | none => exact .inl (by simp [landOne, hh, hb, hi])
      | some i => exact .inr ⟨h, b, i, rfl, hb, landOne_eq hh hb hi t⟩

theorem within_landOne (t : RTile) (k : HerdKey) (s : State) : Within [.slots, .herds, .coreRegs, .nextOrder] (landOne t k s) := by
  obtain e | ⟨h, b, i, -, -, e⟩ := landOne_cases t k s <;> rw [e]
  · exact within_nil _
  · refine within_cons ?_ (within_cons ?_ (within_cons ?_ ((within_wakeRtile s h).mono (by decide)))) <;> simp [Act.parts, bumpCore]

theorem onHerd_landOne {t : RTile} {k : HerdKey} {s : State} {h : Herd} {b : Boarding} {i : Nat} (hh : s.herd? k = some h)
    (k' : HerdKey) : onHerd k' (.slots (s.slots ++ [slotOf t h i])
      :: .herd k (.boarding (some { b with landed := b.landed ++ [i] })) :: bumpCore h.core 0x0D4 :: wakeRtile s h)
      = if k' = k then .boarding (some { b with landed := b.landed ++ [i] }) :: onHerd k (wakeRtile s h) else [] := by
  have hk := herd?_key hh
  subst hk
  by_cases e : k' = h.key
  · subst e; simp [onHerd_cons, Act.on, bumpCore]
  · simp [onHerd_cons, Act.on, bumpCore, e, Ne.symm e, forHerd_wakeRtile s h k' e]

theorem forHerd_landOne (t : RTile) (k : HerdKey) (s : State) : ForHerd k (landOne t k s) := by
  intro k' hk
  obtain e | ⟨h, b, i, hh, -, e⟩ := landOne_cases t k s <;> rw [e]
  · rfl
  · rw [onHerd_landOne hh, if_neg hk]

end Sys2Proof.Machine
end

section
/-! SUPPORT. Tiles at a stop (R318 to R321): what an attempt to land changes of the ring, of the boardings that it lands for and of the
others. -/

namespace Sys2Proof.Machine

/-! Tiles by name. -/

theorem RTile.same_congr_right {a b : RTile} (hk : a.track = b.track) (hl : a.layer = b.layer) (ht : a.tile = b.tile)
    (hp : a.lap = b.lap) (x : RTile) : x.same a = x.same b := by simp only [RTile.same, hk, hl, ht, hp]

theorem RTile.same_self (a : RTile) : a.same a = true := by simp [RTile.same]

/-- Of two replacements of one tile the second stands. -/
theorem map_setTile (l : List RTile) {a b : RTile} (hk : a.track = b.track) (hl : a.layer = b.layer) (ht : a.tile = b.tile)
    (hp : a.lap = b.lap) : (l.map (fun x => if x.same a then a else x)).map (fun x => if x.same b then b else x)
      = l.map (fun x => if x.same b then b else x) := by
  rw [List.map_map]
  refine List.map_congr_left (fun x _ => ?_)
  have hab : a.same b = true := by rw [RTile.same_congr_right hk.symm hl.symm ht.symm hp.symm a, RTile.same_self]
  simp only [Function.comp, RTile.same_congr_right hk hl ht hp x]
  cases hx : x.same b with
  | true => simp [hab]
  | false => simp [hx]

theorem run_chain_cons (s : State) (g : State → List Act) (gs : List (State → List Act)) :
    run s (chain s (g :: gs)) = run (run s (g s)) (chain (run s (g s)) gs) := by simp [chain]

/-! An attempt to land. -/

/-- A tile after an attempt to land: it holds for those that lack a slot for it. -/
def landing (stop : Nat) (t : RTile) (s : State) : RTile :=
  { t with held := !(lacking s stop t).isEmpty, blocked := (lacking s stop t).map (fun h => (h.key, h.core)) }

/-- The landings of an attempt. -/
def landings (stop : Nat) (t : RTile) (s : State) : List (State → List Act) :=
  if (lacking s stop t).isEmpty then (landTargets s stop t).map (fun h => landOne t h.key) else []

theorem tryLand_eq (stop : Nat) (t : RTile) (s : State) : tryLand stop t s = chain s ((fun u => [.ring (setTile u.ring (landing stop t s))])
    :: holdEnds (coresLeft t.blocked (landing stop t s).blocked) :: landings stop t s) := rfl

theorem mem_landings {stop : Nat} {t : RTile} {s : State} {g : State → List Act} (hg : g ∈ landings stop t s) :
    ∃ h ∈ landTargets s stop t, g = landOne t h.key := by
  obtain ⟨-, hm⟩ := List.mem_ite_nil_right.mp hg
  obtain ⟨h, hh, rfl⟩ := List.mem_map.mp hm
  exact ⟨h, hh, rfl⟩

/-- The parts that the landings of an attempt and the ends of holds change. -/
def landParts : List StPart := [.herds, .slots, .coreRegs, .nextOrder, .freeCtr]

theorem within_landRest (stop : Nat) (t : RTile) (s u : State) (cores : List Nat) :
    Within landParts (chain u (holdEnds cores :: landings stop t s)) := by
  refine within_chain u (List.forall_mem_cons.mpr ⟨fun x => (within_holdEnds cores x).mono (by decide), fun g hg x => ?_⟩)
  obtain ⟨h, -, rfl⟩ := mem_landings hg
  exact (within_landOne t h.key x).mono (by decide)

theorem within_tryLand (stop : Nat) (t : RTile) (s : State) : Within ringParts (tryLand stop t s) := by
  rw [tryLand_eq]
  exact within_append (by simp [Within, Act.parts, ringParts]) ((within_landRest stop t s _ _).mono (by decide))

/-- R321: the ring after an attempt: the tile holds or not. -/
theorem ring_tryLand (stop : Nat) (t : RTile) (s : State) : (run s (tryLand stop t s)).ring = setTile s.ring (landing stop t s) := by
  rw [tryLand_eq, run_chain_cons]
  exact (only_run (p := landParts) (by decide) (within_landRest stop t s _ _) _).keeps State.ring rfl

/-- An attempt acts on no herd that it does not land for. -/
theorem onHerd_tryLand {stop : Nat} {t : RTile} {s : State} {k : HerdKey} (hk : ∀ h ∈ landTargets s stop t, h.key ≠ k) :
    onHerd k (tryLand stop t s) = [] := by
  rw [tryLand_eq]
  refine onHerd_eq_nil.mpr (forall_mem_chain s (List.forall_mem_cons.mpr ⟨fun u a ha => ?_,
    List.forall_mem_cons.mpr ⟨fun u => onHerd_eq_nil.mp (onHerd_within (by decide) (within_holdEnds _ u) k), fun g hg u => ?_⟩⟩))
  · rw [List.mem_singleton.mp ha]; rfl
  · obtain ⟨h, hh, rfl⟩ := mem_landings hg
    exact onHerd_eq_nil.mp (forHerd_landOne t h.key u k (Ne.symm (hk h hh)))

/-! What landings keep of a boarding and of its herd. -/

/-- Landings fill slots of a boarding, and end waits for tiles alone. -/
structure LandKeeps (h h' : Herd) : Prop where
  none : h.boarding = none → h'.boarding = none
  some : ∀ b, h.boarding = some b → ∃ b', h'.boarding = some b' ∧ b'.st = b.st ∧ b'.lap = b.lap ∧ b'.count = b.count
  regs : h'.s = h.s
  runs : ∀ j, (h.fur j).st = .running → h'.fur j = h.fur j

theorem LandKeeps.refl (h : Herd) : LandKeeps h h := ⟨id, fun b hb => ⟨b, hb, rfl, rfl, rfl⟩, rfl, fun _ _ => rfl⟩

theorem LandKeeps.trans {h x y : Herd} (h1 : LandKeeps h x) (h2 : LandKeeps x y) : LandKeeps h y where
  none := fun e => h2.none (h1.none e)
  some := fun b hb => by
    obtain ⟨b1, e1, st1, lap1, n1⟩ := h1.some b hb
    obtain ⟨b2, e2, st2, lap2, n2⟩ := h2.some b1 e1
    exact ⟨b2, e2, st2.trans st1, lap2.trans lap1, n2.trans n1⟩
  regs := h2.regs.trans h1.regs
  runs := fun j hj => by
    have e := h1.runs j hj
    exact (h2.runs j (by rw [e]; exact hj)).trans e

theorem landKeeps_landed (s : State) {h : Herd} {b : Boarding} (hb : h.boarding = some b) (i : Nat) :
    LandKeeps h (h.acts (.boarding (some { b with landed := b.landed ++ [i] }) :: onHerd h.key (wakeRtile s h))) := by
  rw [Herd.acts_cons, acts_wakeRtile]
  refine ⟨fun e => ?_, fun c hc => ⟨_, rfl, ?_⟩, rfl, fun j hj => ?_⟩
  · rw [hb] at e; cases e
  · rw [hb] at hc; cases hc; exact ⟨rfl, rfl, rfl⟩
  · exact fur_endRtiles (h := h) (g := h.act (.boarding (some { b with landed := b.landed ++ [i] }))) rfl (by rw [hj]; exact nofun)

theorem landOne_keeps (t : RTile) (k : HerdKey) {s : State} {k' : HerdKey} {h : Herd} (hh : s.herd? k' = some h) :
    ∃ h', (run s (landOne t k s)).herd? k' = some h' ∧ LandKeeps h h' := by
  have hrun := herd?_run (by decide) (within_landOne t k s) s k'
  by_cases hk : k' = k
  · obtain e | ⟨g, b, i, hg, hb, e⟩ := landOne_cases t k s
    · exact ⟨h, by rw [e]; exact hh, LandKeeps.refl h⟩
    · subst hk
      cases hh.symm.trans hg
      rw [e, onHerd_landOne hh, if_pos rfl, hh] at hrun
      have hkey := herd?_key hh
      subst hkey
      exact ⟨_, (congrArg (fun l => (run s l).herd? h.key) e).trans hrun, landKeeps_landed s hb i⟩
  · exact ⟨h, by rw [herd?_forHerd (by decide) (within_landOne t k s) (forHerd_landOne t k s) hk, hh], LandKeeps.refl h⟩

/-- A chain of which each part keeps a herd in this sense keeps it. -/
theorem landKeeps_chain {k : HerdKey} : ∀ {gs : List (State → List Act)} {s : State} {h : Herd},
    (∀ g ∈ gs, ∀ (s : State) (h : Herd), s.herd? k = some h → ∃ h', (run s (g s)).herd? k = some h' ∧ LandKeeps h h') →
    s.herd? k = some h → ∃ h', (run s (chain s gs)).herd? k = some h' ∧ LandKeeps h h'
  | [], s, h, _, hh => ⟨h, hh, LandKeeps.refl h⟩
  | g :: gs, s, h, hg, hh => by
    obtain ⟨x, hx, k1⟩ := hg g (by simp) s h hh
    obtain ⟨y, hy, k2⟩ := landKeeps_chain (fun g' hg' => hg g' (List.mem_cons_of_mem g hg')) hx
    exact ⟨y, by rw [run_chain_cons]; exact hy, k1.trans k2⟩

theorem tryLand_keeps (stop : Nat) (t : RTile) {s : State} {k : HerdKey} {h : Herd} (hh : s.herd? k = some h) :
    ∃ h', (run s (tryLand stop t s)).herd? k = some h' ∧ LandKeeps h h' := by
  rw [tryLand_eq]
  refine landKeeps_chain (List.forall_mem_cons.mpr ⟨fun u x hx => ⟨x, hx, LandKeeps.refl x⟩,
    List.forall_mem_cons.mpr ⟨fun u x hx => ⟨x, ?_, LandKeeps.refl x⟩, fun g hg u x hx => ?_⟩⟩) hh
  · rw [herd?_only (only_run (by decide) (within_holdEnds _ u) u) (by decide), hx]
  · obtain ⟨y, -, rfl⟩ := mem_landings hg
    exact landOne_keeps t y.key hx

/-! A tile that lands. -/

/-- With a slot in its quota and one free, the only boarding that matches lacks none (R321). -/
theorem lacking_of_room {s : State} {stop : Nat} {t : RTile} {h : Herd} {i : Nat} (ht : landTargets s stop t = [h])
    (hq : quotaLeft s h = true) (hi : freeSlotIdx s h.core = some i) : lacking s stop t = [] := by
  have hfree : 0 < freeSlots s h.core := by
    obtain ⟨hp, pre, post, e, -⟩ := List.find?_eq_some_iff_append.mp hi
    exact List.length_pos_of_mem (List.mem_filter.mpr ⟨by rw [e]; simp, hp⟩)
  simp [lacking, ht, hq, hfree]

/-- R321, R332: one landing. -/
theorem landed_landOne {u : State} {h : Herd} {b : Boarding} {i : Nat} (hh : u.herd? h.key = some h) (hb : h.boarding = some b)
    (hi : freeSlotIdx u h.core = some i) (t : RTile) : Landed u (run u (landOne t h.key u)) t h b i := by
  have hone := landOne_eq hh hb hi t
  have hherd := herd?_run (by decide) (within_landOne t h.key u) u h.key
  rw [hone, onHerd_landOne hh, if_pos rfl, hh] at hherd
  have hwake := only_run (by decide) (within_wakeRtile u h)
  rw [hone]
  refine ⟨?_, ⟨_, hherd, ?_⟩, ?_⟩
  · simp only [run_cons]
    rw [(hwake _).keeps State.slots rfl]
    simp [bumpCore]
  · exact congrArg Herd.boarding (acts_wakeRtile u h (h.act (.boarding (some { b with landed := b.landed ++ [i] }))))
  · simp only [run_cons]
    rw [Counted1, State.coreReg, (hwake _).keeps State.coreRegs rfl]
    simp [bumpCore, State.coreReg, Sparse.get_set]

theorem freeSlotIdx_congr {s u : State} (hm : u.cmds = s.cmds) (hs : u.slots = s.slots) (core : Nat) :
    freeSlotIdx u core = freeSlotIdx s core := by
  simp only [freeSlotIdx, slotAt, hm, hs]

/-- R321, R332: a tile that lands for one boarding. -/
theorem tryLand_lands {s : State} {stop : Nat} {t : RTile} {h : Herd} {b : Boarding} {i : Nat} (ht : landTargets s stop t = [h])
    (hl : lacking s stop t = []) (hh : s.herd? h.key = some h) (hb : h.boarding = some b) (hi : freeSlotIdx s h.core = some i) :
    Landed s (run s (tryLand stop t s)) t h b i := by
  let v := s.act (.ring (setTile s.ring (landing stop t s)))
  let u := run v (holdEnds (coresLeft t.blocked (landing stop t s).blocked) v)
  have hvu : Only [.coreRegs, .freeCtr] v u := only_run (by decide) (within_holdEnds _ _) _
  have hu : Only [.ring, .coreRegs, .freeCtr] s u := (only_act (by decide) (by simp [Act.parts]) s).trans (hvu.mono (by decide))
  have hrun : run s (tryLand stop t s) = run u (landOne t h.key u) := by
    rw [tryLand_eq, landings, hl, ht]
    simp only [run_chain]
    rfl
  have hreg : u.coreReg h.core 0x0D4 = s.coreReg h.core 0x0D4 := coreRegs_holdEnds _ v v (fun core => by omega)
  obtain ⟨hslots, hherd, hcount⟩ := landed_landOne ((herd?_only hu (by decide) h.key).trans hh) hb
    ((freeSlotIdx_congr (hu.keeps State.cmds rfl) (hu.keeps State.slots rfl) h.core).trans hi) t
  rw [hrun]
  refine ⟨?_, hherd, ?_⟩
  · rw [hslots, hu.keeps State.slots rfl]
  · rwa [Counted1, hreg] at hcount

end Sys2Proof.Machine
end

section
/-! SUPPORT. The ring's events that land nothing: the judgement of holds (R321, R332), the passing of tiles (R318) and the end of a hold at
its limit (R320). -/

namespace Sys2Proof.Machine

/-! R321, R332: holds judged. -/

/-- Holds that stand as they should are left. -/
theorem judgeHolds_settled {s : State} (h : ∀ u ∈ s.ring.tiles, u.blocked = waitsFor s u) : judgeHolds s = [] :=
  if_pos (List.all_eq_true.mpr (fun u hu => decide_eq_true (h u hu)))

theorem judgeHolds_unsettled {s : State} (h : ¬ ∀ u ∈ s.ring.tiles, u.blocked = waitsFor s u) : judgeHolds s =
    .ring { s.ring with tiles := s.ring.tiles.map (fun u => { u with blocked := waitsFor s u }) }
      :: holdEnds (s.ring.tiles.flatMap (fun u => coresLeft u.blocked (waitsFor s u))) s :=
  if_neg (fun hall => h (fun u hu => of_decide_eq_true (List.all_eq_true.mp hall u hu)))

/-- A tile that no hold keeps waits for what it has waited for. -/
theorem waitsFor_free (s : State) {u : RTile} (hu : u.held = false) : waitsFor s u = u.blocked := by simp [waitsFor, hu]

theorem holdsAreJudged : HoldsAreJudged := by
  intro s
  by_cases h : ∀ u ∈ s.ring.tiles, u.blocked = waitsFor s u
  · have hj : judged (.next s) = .next s := congrArg (Host.Outcome.next ∘ run s) (judgeHolds_settled h)
    have hid : s.ring.tiles.map (fun u => { u with blocked := waitsFor s u }) = s.ring.tiles :=
      (List.map_congr_left (fun u hu => by rw [← h u hu]; rfl)).trans (List.map_id _)
    exact ⟨s, hj, rfl, congrArg (fun l => { s.ring with tiles := l }) hid.symm, fun _ _ => rfl, fun _ => rfl⟩
  · have hkeep := only_run (by decide) (within_holdEnds (s.ring.tiles.flatMap (fun u => coresLeft u.blocked (waitsFor s u))) s)
      (s.act (.ring { s.ring with tiles := s.ring.tiles.map (fun u => { u with blocked := waitsFor s u }) }))
    refine ⟨_, congrArg (Host.Outcome.next ∘ run s) (judgeHolds_unsettled h),
      (only_act (p := [.ring, .coreRegs, .freeCtr]) (by decide) (by simp [Act.parts]) s).trans (hkeep.mono (by decide)),
      hkeep.keeps State.ring rfl, fun n hn => coreRegs_holdEnds _ s _ hn, fun hfree => ?_⟩
    exact absurd (fun u hu => (waitsFor_free s (hfree u hu)).symm) h

/-! R318: tiles pass. -/

/-- The tile has passed, and the window of its layer opens or not. -/
theorem tilePassed_eq {s : State} {stop : Nat} {u u' : RTile} (hu' : u' = { u with passed := true, sent := !holding s.ring })
    (hu : s.ring.tiles.find? (fun v => decide (v.stop = stop) && !v.passed) = some u) : tilePassed stop s = [.ring
      { s.ring with
        tiles := s.ring.tiles.map (fun v => if v.same u then u' else v)
        closed := if s.ring.installed.any (fun tt => layerPassed (setTile s.ring u') tt stop u && !headerAhead (setTile s.ring u') stop u)
          then s.ring.closed.filter (fun x => x ≠ (stop, u.track, u.layer)) else s.ring.closed }] := by
  subst hu'
  simp only [tilePassed, hu]
  cases hi : s.ring.installed with
  | none => simp only [setTile, hi]; rfl
  | some tt =>
    simp only [setTile, hi, Option.any_some]
    split <;> rfl

theorem tilesPass (s : State) (stop : Nat) (u u' : RTile) (hu' : u' = { u with passed := true, sent := !holding s.ring })
    (hu : s.ring.tiles.find? (fun v => decide (v.stop = stop) && !v.passed) = some u) :
    ∃ t, exec (.tilePassed stop) s = .next t ∧ t = { s with ring := t.ring } ∧
      t.ring.tiles = s.ring.tiles.map (fun v => if v.same u then u' else v) ∧
      t.ring = { s.ring with tiles := t.ring.tiles, closed := t.ring.closed } ∧
      (∀ p, p ≠ (stop, u.track, u.layer) → (p ∈ t.ring.closed ↔ p ∈ s.ring.closed)) ∧
      ∀ tt, s.ring.installed = some tt → ((stop, u.track, u.layer) ∈ t.ring.closed ↔ (stop, u.track, u.layer) ∈ s.ring.closed ∧
        (layerPassed (setTile s.ring u') tt stop u = false ∨ headerAhead (setTile s.ring u') stop u = true)) := by
  refine ⟨_, congrArg (Host.Outcome.next ∘ run s) (tilePassed_eq hu' hu), rfl, rfl, rfl, fun p hp => ?_, fun tt htt => ?_⟩
  · simp only [run_cons, run_nil, State.act_ring]
    split
    · simp [hp]
    · exact Iff.rfl
  · simp only [run_cons, run_nil, State.act_ring, htt, Option.any_some]
    cases layerPassed (setTile s.ring u') tt stop u <;> cases headerAhead (setTile s.ring u') stop u <;> simp

/-! R320, R321: the hold limit. -/

/-- Every herd of a name has this boarding. -/
def BoardedAs (k : HerdKey) (b : Boarding) (s : State) : Prop := ∀ g ∈ s.herds, g.key = k → g.boarding = some b

/-- Tiles land for Boarded boardings alone (R321). -/
theorem landTargets_boardedAs {k : HerdKey} {b : Boarding} {s : State} (hs : BoardedAs k b s) (hb : b.st ≠ .boarded) (stop : Nat) (t : RTile) :
    ∀ g ∈ landTargets s stop t, g.key ≠ k := by
  intro g hg hk
  obtain ⟨hmem, hland⟩ := List.mem_filter.mp hg
  rw [hs g hmem hk] at hland
  simp [hb] at hland

theorem boardedAs_tryLand {k : HerdKey} {b : Boarding} {s : State} (hs : BoardedAs k b s) (hb : b.st ≠ .boarded) (stop : Nat) (t : RTile) :
    BoardedAs k b (run s (tryLand stop t s)) := by
  intro g' hg' hk
  rw [herds_run (by decide) (within_tryLand stop t s)] at hg'
  obtain ⟨g, hg, rfl⟩ := List.mem_map.mp hg'
  have hgk : g.key = k := (Herd.acts_key _ g).symm.trans hk
  rw [hgk, onHerd_tryLand (landTargets_boardedAs hs hb stop t)]
  exact hs g hg hgk

theorem boardedAs_tryLands {k : HerdKey} {b : Boarding} (hb : b.st ≠ .boarded) : ∀ (ts : List RTile) {s : State}, BoardedAs k b s →
    BoardedAs k b (run s (chain s (ts.map (fun t => tryLand t.stop t))))
  | [], _, hs => hs
  | t :: ts, s, hs => by
    rw [List.map_cons, run_chain_cons]
    exact boardedAs_tryLands hb ts (boardedAs_tryLand hs hb t.stop t)

/-- A boarding set anew, and the waits for its tiles over. -/
theorem boardedAs_set {h : Herd} (b : Boarding) (s : State) :
    BoardedAs h.key b (run s (.herd h.key (.boarding (some b)) :: wakeRtile s h)) := by
  intro g' hg' hk
  rw [herds_run (p := [.herds, .nextOrder]) (by decide)
    (within_cons (by simp [Act.parts]) (within_wakeRtile s h))] at hg'
  obtain ⟨g, -, rfl⟩ := List.mem_map.mp hg'
  have hgk : g.key = h.key := (Herd.acts_key _ g).symm.trans hk
  have hon : onHerd h.key (.herd h.key (.boarding (some b)) :: wakeRtile s h) = .boarding (some b) :: onHerd h.key (wakeRtile s h) := by
    simp [onHerd_cons, Act.on]
  rw [hgk, hon]
  exact congrArg Herd.boarding (acts_wakeRtile s h (g.act (.boarding (some b))))

/-- The held tiles that wait for a slot of a herd. -/
theorem heldFor_eq_nil {s : State} {k : HerdKey} :
    s.ring.tiles.filter (fun t => t.held && (lacking s t.stop t).any (fun x => decide (x.key = k))) = []
      ↔ ∀ v ∈ s.ring.tiles, v.held = true → ∀ y ∈ lacking s v.stop v, y.key ≠ k := by
  simp [List.filter_eq_nil_iff]

theorem holdEnds_atLimit (s : State) (k : HerdKey) (h : Herd) (b : Boarding) (hh : s.herd? k = some h) (hb : h.boarding = some b) :
    (b.st = .boarded → (∃ v ∈ s.ring.tiles, v.held = true ∧ ∃ y ∈ lacking s v.stop v, y.key = k) →
      ∃ t h', exec (.holdLimitExpiry k) s = .next t ∧ t.herd? k = some h' ∧ h'.boarding = some { b with st := .cut 3 } ∧
        t = { s with ring := t.ring, herds := t.herds, slots := t.slots, coreRegs := t.coreRegs, nextOrder := t.nextOrder
                     freeCtr := t.freeCtr })
    ∧ ((b.st ≠ .boarded ∨ ∀ v ∈ s.ring.tiles, v.held = true → ∀ y ∈ lacking s v.stop v, y.key ≠ k) →
      exec (.holdLimitExpiry k) s = .next s) := by
  have hk := herd?_key hh
  subst hk
  refine ⟨fun hst ⟨v, hv, hheld, y, hy, hyk⟩ => ?_, fun hno => ?_⟩
  · have hts : s.ring.tiles.filter (fun t => t.held && (lacking s t.stop t).any (fun x => decide (x.key = h.key))) ≠ [] :=
      fun e => heldFor_eq_nil.mp e v hv hheld y hy hyk
    let ts := s.ring.tiles.filter (fun t => t.held && (lacking s t.stop t).any (fun x => decide (x.key = h.key)))
    let gs : List (State → List Act) := (fun _ => .herd h.key (.boarding (some { b with st := .cut 3 })) :: wakeRtile s h)
      :: ts.map (fun t => tryLand t.stop t)
    have hacts : holdLimitExpiry h.key s = chain s gs := by simp [holdLimitExpiry, hh, hb, hst, hts, gs, ts]
    have hwithin : Within ringParts (chain s gs) := by
      refine within_chain s (List.forall_mem_cons.mpr ⟨fun _ => within_cons (by simp [Act.parts, ringParts])
        ((within_wakeRtile s h).mono (by decide)), List.forall_mem_map.mpr (fun t _ u => within_tryLand t.stop t u)⟩)
    have hcut : BoardedAs h.key { b with st := .cut 3 } (run s (chain s gs)) := by
      rw [run_chain_cons]
      exact boardedAs_tryLands (by simp) ts (boardedAs_set _ s)
    have hherd := herd?_run (by decide) hwithin s h.key
    rw [hh] at hherd
    exact ⟨_, _, congrArg (Host.Outcome.next ∘ run s) hacts, hherd,
      hcut _ (List.mem_of_find?_eq_some hherd) (herd?_key hherd), only_run (by decide) hwithin s⟩
  · have hacts : holdLimitExpiry h.key s = [] := by
      rcases hno with hst | hfree
      · simp [holdLimitExpiry, hh, hb, hst]
      · simp [holdLimitExpiry, hh, hb, heldFor_eq_nil.mpr hfree]
    exact congrArg (Host.Outcome.next ∘ run s) hacts

theorem tilesPassAndHoldsEnd : TilesPassAndHoldsEnd := ⟨tilesPass, holdEnds_atLimit⟩

end Sys2Proof.Machine
end

section
/-! SUPPORT. The installation of a timetable at a seam (R311, R318, R329): each herd's boarding is judged by itself. -/

namespace Sys2Proof.Machine

/-- No hold stands while no tile is on the ring. -/
theorem unhold_noTiles {s : State} (hs : s.ring.tiles = []) (k : HerdKey) : unhold k s = [] := by simp [unhold, hs]

/-- R329: what an installation leaves as it is: no boarding, one whose layer the timetable carries for the herd's partition, one that is
Cut. -/
theorem seamBoarding_keeps {tt : Timetable} {h : Herd} (hk : ∀ b, h.boarding = some b →
    (tt.grants? b.track h.key.crew.part = true ∧ tt.layerEnts b.track b.layer ≠ []) ∨ ∃ c, b.st = .cut c) (s : State) :
    seamBoarding tt s h = [] := by
  cases hb : h.boarding with
  | none => simp [seamBoarding, hb]
  | some b =>
    obtain ⟨hg, hl⟩ | ⟨c, hc⟩ := hk b hb
    · simp [seamBoarding, hb, hg, hl]
    · simp [seamBoarding, hb, hc]

/-- R329: the boarding of a layer that the timetable does not carry is Cut, or ends with the missed `board` that waits for it. -/
theorem seamBoarding_cuts {tt : Timetable} {h : Herd} {b : Boarding} (hb : h.boarding = some b)
    (hno : tt.grants? b.track h.key.crew.part = false ∨ tt.layerEnts b.track b.layer = []) (hst : ∀ c, b.st ≠ .cut c) (s : State) :
    seamBoarding tt s h =
      if h.unresolved WaitOn.isBoard = [] then .herd h.key (.boarding (some { b with st := .cut 5 })) :: wakeRtile s h
      else endBoarding s h.key ++ herdActs h.key (endRtiles h ++ endBoards h 2#64)
        ++ readyStamp s h (fun w => w.isBoard || w.isRtile) := by
  have hkeep : (tt.grants? b.track h.key.crew.part && !(tt.layerEnts b.track b.layer).isEmpty) = false := by
    rcases hno with e | e <;> simp [e]
  simp only [seamBoarding, hb, hkeep, List.isEmpty_iff]
  cases hs : b.st with
  | cut c => exact absurd hs (hst c)
  | registered => rfl
  | boarded => rfl

/-- The boarding of a herd after an installation. -/
def seamed (h : Herd) (b : Boarding) : Option Boarding :=
  if h.unresolved WaitOn.isBoard = [] then some { b with st := .cut 5 } else none

/-- The parts that an installation changes of herds and slots. -/
def seamParts : List StPart := [.herds, .slots, .nextOrder]

/-- The acts of an installation for one herd: none, or its new boarding and the ends of its waits. -/
theorem seamBoarding_cases (tt : Timetable) (h : Herd) {s : State} (hs : s.ring.tiles = []) :
    ((∀ b, h.boarding = some b → (tt.grants? b.track h.key.crew.part = true ∧ tt.layerEnts b.track b.layer ≠ []) ∨ ∃ c, b.st = .cut c) ∧
      seamBoarding tt s h = [])
    ∨ ∃ b l, h.boarding = some b ∧ (tt.grants? b.track h.key.crew.part = false ∨ tt.layerEnts b.track b.layer = []) ∧
      Within seamParts (seamBoarding tt s h) ∧ ForHerd h.key (seamBoarding tt s h) ∧
      onHerd h.key (seamBoarding tt s h) = .boarding (seamed h b) :: l ∧ ∀ a ∈ l, a.endsWait = true := by
  by_cases hk : ∀ b, h.boarding = some b →
      (tt.grants? b.track h.key.crew.part = true ∧ tt.layerEnts b.track b.layer ≠ []) ∨ ∃ c, b.st = .cut c
  · exact .inl ⟨hk, seamBoarding_keeps hk s⟩
  · push Not at hk
    obtain ⟨b, hb, hno, hst⟩ := hk
    have hno : tt.grants? b.track h.key.crew.part = false ∨ tt.layerEnts b.track b.layer = [] := by
      cases hg : tt.grants? b.track h.key.crew.part with
      | false => exact .inl rfl
      | true => exact .inr (hno hg)
    refine .inr ⟨b, ?_⟩
    rw [seamBoarding_cuts hb hno hst s, seamed]
    split
    · exact ⟨onHerd h.key (wakeRtile s h), hb, hno, within_cons (by simp [Act.parts, seamParts]) ((within_wakeRtile s h).mono (by decide)),
        fun k hk => by rw [onHerd_cons, forHerd_wakeRtile s h k hk]; simp [Act.on, Ne.symm hk],
        by simp [onHerd_cons, Act.on], endsWait_wakeRtile s h⟩
    · refine ⟨(endRtiles h ++ endBoards h 2#64) ++ onHerd h.key (readyStamp s h (fun w => w.isBoard || w.isRtile)), hb, hno,
        within_append (within_append ?_ (within_herdActs (by decide) _ _)) ((within_readyStamp s h _).mono (by decide)),
        ForHerd.append (ForHerd.append (fun k hk => ?_) (forHerd_herdActs _ _)) (forHerd_readyStamp s h _), ?_, ?_⟩
      · simp [endBoarding, unhold_noTiles hs, leaveSlots, Within, Act.parts, seamParts]
      · simp [endBoarding, unhold_noTiles hs, leaveSlots, onHerd_cons, Act.on, Ne.symm hk]
      · simp only [onHerd_append, onHerd_herdActs_self]
        simp [endBoarding, unhold_noTiles hs, leaveSlots, onHerd_cons, Act.on]
      · exact List.forall_mem_append.mpr ⟨List.forall_mem_append.mpr ⟨endsWait_endRtiles h, endsWait_endBoards h _⟩,
          endsWait_readyStamp s h _ _⟩

theorem within_seamBoarding (tt : Timetable) (h : Herd) {s : State} (hs : s.ring.tiles = []) : Within seamParts (seamBoarding tt s h) := by
  obtain ⟨-, e⟩ | ⟨b, l, -, -, hw, -⟩ := seamBoarding_cases tt h hs
  · rw [e]; exact within_nil _
  · exact hw

theorem forHerd_seamBoarding (tt : Timetable) (h : Herd) {s : State} (hs : s.ring.tiles = []) : ForHerd h.key (seamBoarding tt s h) := by
  obtain ⟨-, e⟩ | ⟨b, l, -, -, -, hf, -⟩ := seamBoarding_cases tt h hs
  · rw [e]; exact forHerd_nil _
  · exact hf

theorem only_seam (tt : Timetable) (h : Herd) {s : State} (hs : s.ring.tiles = []) : Only seamParts s (run s (seamBoarding tt s h)) :=
  only_run (by decide) (within_seamBoarding tt h hs) s

/-- An installation for a list of herds. -/
def seams (tt : Timetable) (hs : List Herd) (s : State) : State := run s (chain s (hs.map (fun h s => seamBoarding tt s h)))

theorem seams_cons (tt : Timetable) (h : Herd) (hs : List Herd) (s : State) : seams tt (h :: hs) s = seams tt hs (run s (seamBoarding tt s h)) :=
  run_chain_cons s _ _

theorem seams_append (tt : Timetable) : ∀ (pre post : List Herd) (s : State), seams tt (pre ++ post) s = seams tt post (seams tt pre s)
  | [], _, _ => rfl
  | h :: pre, post, s => by rw [List.cons_append, seams_cons, seams_cons, seams_append tt pre post]

theorem only_seams (tt : Timetable) : ∀ (hs : List Herd) {s : State}, s.ring.tiles = [] → Only seamParts s (seams tt hs s)
  | [], s, _ => Only.refl _ s
  | h :: hs, s, he => by
    have h1 := only_seam tt h he
    rw [seams_cons]
    exact h1.trans (only_seams tt hs ((congrArg Ring.tiles (h1.keeps State.ring rfl)).trans he))

/-- The others leave a herd as it is. -/
theorem herd?_seams_other (tt : Timetable) {k : HerdKey} : ∀ (hs : List Herd) {s : State}, s.ring.tiles = [] → (∀ g ∈ hs, g.key ≠ k) →
    (seams tt hs s).herd? k = s.herd? k
  | [], _, _, _ => rfl
  | h :: hs, s, he, hk => by
    have h1 := only_seam tt h he
    rw [seams_cons, herd?_seams_other tt hs ((congrArg Ring.tiles (h1.keeps State.ring rfl)).trans he) (fun g hg => hk g (by simp [hg])),
      herd?_forHerd (by decide) (within_seamBoarding tt h he) (forHerd_seamBoarding tt h he) (Ne.symm (hk h (by simp)))]

/-- What an installation makes of a herd. -/
def Seamed (tt : Timetable) (h h' : Herd) : Prop :=
  h' = { h with boarding := h'.boarding, furrows := h'.furrows, s := h'.s, late := h'.late, readyAt := h'.readyAt } ∧
  ∀ b, h.boarding = some b →
    (tt.grants? b.track h.key.crew.part = true → tt.layerEnts b.track b.layer ≠ [] → h'.boarding = some b) ∧
    ((tt.grants? b.track h.key.crew.part = false ∨ tt.layerEnts b.track b.layer = []) → (∀ c, b.st ≠ .cut c) → h'.boarding = seamed h b)

theorem seamed_self (tt : Timetable) {h : Herd} {s : State} (hs : s.ring.tiles = []) :
    Seamed tt h (h.acts (onHerd h.key (seamBoarding tt s h))) := by
  obtain ⟨hk, e⟩ | ⟨b, l, hb, hno, -, -, e, hl⟩ := seamBoarding_cases tt h hs <;> rw [e]
  · refine ⟨rfl, fun b hb => ⟨fun _ _ => hb, fun hno hst => ?_⟩⟩
    obtain ⟨hg, he⟩ | ⟨c, hc⟩ := hk b hb
    · rcases hno with hn | hn
      · rw [hg] at hn; cases hn
      · exact absurd hn he
    · exact absurd hc (hst c)
  · have hacts := acts_endsWait hl (h.act (.boarding (seamed h b)))
    rw [Herd.acts_cons]
    refine ⟨hacts.trans ?_, fun c hc => ?_⟩
    · conv => rhs; rw [hacts]
      rfl
    · cases hb.symm.trans hc
      refine ⟨fun hg he => ?_, fun _ _ => by rw [hacts]; rfl⟩
      rcases hno with hn | hn
      · rw [hg] at hn; cases hn
      · exact absurd hn he

theorem seams_herd (tt : Timetable) {s u : State} (hu : u.ring.tiles = []) (hherds : u.herds = s.herds)
    (hn : (s.herds.map (fun h => h.key)).Nodup) {h : Herd} (hh : s.herd? h.key = some h) :
    ∃ h', (seams tt s.herds u).herd? h.key = some h' ∧ Seamed tt h h' := by
  obtain ⟨pre, post, e, hpre, hpost⟩ := herds_split hn hh
  have hv : (seams tt pre u).ring.tiles = [] := (congrArg Ring.tiles ((only_seams tt pre hu).keeps State.ring rfl)).trans hu
  have hw : (run (seams tt pre u) (seamBoarding tt (seams tt pre u) h)).ring.tiles = [] :=
    (congrArg Ring.tiles ((only_seam tt h hv).keeps State.ring rfl)).trans hv
  have hfind : (seams tt pre u).herd? h.key = some h := by
    rw [herd?_seams_other tt pre hu hpre, State.herd?, hherds]; exact hh
  refine ⟨_, ?_, seamed_self tt hv⟩
  rw [e, seams_append, seams_cons, herd?_seams_other tt post hw hpost, herd?_run (by decide) (within_seamBoarding tt h hv), hfind]
  rfl

theorem timetablesInstall : TimetablesInstall := by
  intro s tt hp hlap htiles hn
  let r : Ring := { s.ring with
    installed := if tt.ents.isEmpty then none else some tt, pending := none, inLap := !tt.ents.isEmpty, ent := 0, tile := 0
    buffer := [], closed := [] }
  have hexec : exec .timetableInstall s = .next (seams tt s.herds (s.act (.ring r))) := by
    have hacts : timetableInstall s = chain s ((fun _ => [.ring r]) :: s.herds.map (fun h s => seamBoarding tt s h)) := by
      simp only [timetableInstall, hp, hlap, htiles]
      rfl
    exact congrArg Host.Outcome.next ((congrArg (run s) hacts).trans (run_chain_cons s _ _))
  have honly : Only seamParts (s.act (.ring r)) (seams tt s.herds (s.act (.ring r))) := only_seams tt s.herds htiles
  have hring : (seams tt s.herds (s.act (.ring r))).ring = r := honly.keeps State.ring rfl
  refine ⟨_, hexec, ?_, (only_act (p := [.ring, .herds, .slots, .nextOrder]) (by decide) (by simp [Act.parts]) s).trans
    (honly.mono (by decide)), fun k h hh => ?_⟩
  · rw [hring]
    simp only [r, List.isEmpty_iff]
  · have hk := herd?_key hh
    subst hk
    obtain ⟨h', hh', hframe, hb'⟩ := seams_herd tt (s := s) (u := s.act (.ring r)) htiles rfl hn hh
    refine ⟨h', hh', hframe, fun b hb => ?_⟩
    obtain ⟨hkeep, hcut⟩ := hb' b hb
    exact ⟨hkeep, fun hno hst => ⟨fun hu => by rw [hcut hno hst, seamed, if_pos hu], fun hu => by rw [hcut hno hst, seamed, if_neg hu]⟩⟩

end Sys2Proof.Machine
end

section
/-! SUPPORT. Tiles arrive (R11, R318, R320, R321): what a header makes of the boardings registered for its layer and of the missed `board`
that waits for one. -/

namespace Sys2Proof.Machine

/-! The end of a missed `board` (R319). -/

/-- Its status is written in the herd's own moment. -/
theorem endBoards_one {h : Herd} {j d : Nat} (hres : h.resident = true) (hhan : h.handler = none)
    (hu : h.unresolved WaitOn.isBoard = [j]) (hw : (h.fur j).st = .waiting (.board d)) (x : Word) :
    endBoards h x = [j].map (fun f => furAct h f (endedWait h { completed := true, wr := some (d, x), bad := none } f))
      ++ lateActs h [j] d x := by
  simp [endBoards, hu, hw, endWaits, endWait_eq, hres, hhan]

theorem furrows_lateActs (h g : Herd) (fs : List Nat) (n : Nat) (x : Word) : (g.acts (lateActs h fs n x)).furrows = g.furrows := by
  rw [lateActs]
  split <;> simp

/-- R158: a late write stands unless a word issued later has written the register. -/
theorem sreg_lateActs (h g : Herd) (fs : List Nat) {n : Nat} (hn : n ≠ 0) (x : Word) :
    (g.acts (lateActs h fs n x)).sreg n = if h.lateStands fs n then x else g.sreg n := by
  rw [lateActs]
  split <;> simp [Herd.sreg, hn, Sparse.get_set]

/-- The furrow of the missed `board` goes on after it. -/
theorem fur_endBoards {h g : Herd} {j d : Nat} (hg : g.furrows = h.furrows) (hres : h.resident = true) (hhan : h.handler = none)
    (hu : h.unresolved WaitOn.isBoard = [j]) (hw : (h.fur j).st = .waiting (.board d)) (x : Word) :
    ((g.acts (endBoards h x)).fur j).st = .running ∧ ((g.acts (endBoards h x)).fur j).pc = (h.fur j).pc + 8#64 := by
  have hj : j < g.furrows.length := hg ▸ (mem_unresolved (hu ▸ List.mem_singleton_self j : j ∈ h.unresolved WaitOn.isBoard)).1
  have hfur : (g.acts (endBoards h x)).fur j = endedWait h { completed := true, wr := some (d, x), bad := none } j (h.fur j) := by
    rw [endBoards_one hres hhan hu hw, Herd.acts_append, Herd.fur, furrows_lateActs, ← Herd.fur,
      fur_acts h _ [j] g j (by simpa using hj), if_pos (List.mem_singleton_self j)]
  rw [hfur]
  simp [endedWait, hres, hhan]

theorem sreg_endBoards {h g : Herd} {j d : Nat} (hg : g.s = h.s) (hres : h.resident = true) (hhan : h.handler = none)
    (hu : h.unresolved WaitOn.isBoard = [j]) (hw : (h.fur j).st = .waiting (.board d)) (hd : d ≠ 0) (x : Word) :
    (g.acts (endBoards h x)).sreg d = if h.lateStands [j] d then x else h.sreg d := by
  rw [endBoards_one hres hhan hu hw, Herd.acts_append, sreg_lateActs _ _ _ hd]
  simp [Herd.sreg, furAct, hg]

/-! Headers (R320). -/

/-- A header tile meets each herd by itself. -/
theorem headerBoards_flatMap {t : RTile} (ht : t.tile = 0) (stop : Nat) (s : State) :
    headerBoards stop t s = s.herds.flatMap (fun h => headerBoards stop t { s with herds := [h] }) := by
  simp only [headerBoards, ht, ne_eq, not_true, if_false, List.flatMap_singleton]
  rfl

/-- The waits that a header ends besides those of a missed `board`. -/
def headerWakes (h : Herd) (x : Option Boarding) (s : State) : List Act :=
  if x.isSome then readyStamp s h WaitOn.isBoard else herdActs h.key (endRtiles h) ++ readyStamp s h (fun w => w.isBoard || w.isRtile)

/-- The acts of a header for a boarding registered for its layer. -/
def headerMeets (h : Herd) (x : Option Boarding) (s : State) : List Act :=
  .herd h.key (.boarding x) :: herdActs h.key (endBoards h 0#64) ++ headerWakes h x s

theorem headerBoards_registered {h : Herd} {b : Boarding} {t : RTile} {stop : Nat} (ht : t.tile = 0) (hb : h.boarding = some b)
    (hdie : dieOf h.core = stop) (hst : b.st = .registered) (htr : b.track = t.track) (hl : b.layer = t.layer) (s : State) :
    headerBoards stop t { s with herds := [h] } = headerMeets h (b.boarded s.ring t.lap) s := by
  simp [headerBoards, ht, hb, hdie, hst, htr, hl, headerMeets, headerWakes]
  rfl

/-- A header does nothing to a herd, or meets its boarding. -/
theorem headerBoards_cases (t : RTile) (stop : Nat) (h : Herd) (s : State) :
    headerBoards stop t { s with herds := [h] } = [] ∨ ∃ x, headerBoards stop t { s with herds := [h] } = headerMeets h x s := by
  by_cases ht : t.tile = 0
  · cases hb : h.boarding with
    | none => exact .inl (by simp [headerBoards, hb])
    | some b =>
      by_cases hc : dieOf h.core = stop ∧ b.st = .registered ∧ b.track = t.track ∧ b.layer = t.layer
      · obtain ⟨hdie, hst, htr, hl⟩ := hc
        exact .inr ⟨_, headerBoards_registered ht hb hdie hst htr hl s⟩
      · exact .inl (by simpa [headerBoards, ht, hb] using hc)
  · exact .inl (by simp [headerBoards, ht])

theorem endsWait_headerWakes (h : Herd) (x : Option Boarding) (s : State) : ∀ a ∈ onHerd h.key (headerWakes h x s), a.endsWait = true := by
  rw [headerWakes]
  split
  · exact endsWait_readyStamp s h _ _
  · rw [onHerd_append, onHerd_herdActs_self]
    exact List.forall_mem_append.mpr ⟨endsWait_endRtiles h, endsWait_readyStamp s h _ _⟩

theorem within_headerMeets (h : Herd) (x : Option Boarding) (s : State) : Within [.herds, .nextOrder] (headerMeets h x s) := by
  refine within_append (within_cons (by simp [Act.parts]) (within_herdActs (by decide) _ _)) ?_
  rw [headerWakes]
  split
  · exact within_readyStamp s h _
  · exact within_append (within_herdActs (by decide) _ _) (within_readyStamp s h _)

theorem forHerd_headerMeets (h : Herd) (x : Option Boarding) (s : State) : ForHerd h.key (headerMeets h x s) := by
  refine ForHerd.append (fun k hk => ?_) ?_
  · rw [onHerd_cons, forHerd_herdActs h.key _ k hk]
    simp [Act.on, Ne.symm hk]
  · rw [headerWakes]
    split
    · exact forHerd_readyStamp s h _
    · exact (forHerd_herdActs _ _).append (forHerd_readyStamp s h _)

theorem onHerd_headerMeets (h : Herd) (x : Option Boarding) (s : State) : onHerd h.key (headerMeets h x s)
    = .boarding x :: (endBoards h 0#64 ++ onHerd h.key (headerWakes h x s)) := by
  rw [headerMeets, onHerd_append, onHerd_cons, onHerd_herdActs_self]
  simp [Act.on]

theorem within_headerBoards (stop : Nat) (t : RTile) (s : State) : Within [.herds, .nextOrder] (headerBoards stop t s) := by
  by_cases ht : t.tile = 0
  · rw [headerBoards_flatMap ht]
    refine within_flatMap (fun h _ => ?_)
    obtain e | ⟨x, e⟩ := headerBoards_cases t stop h s <;> rw [e]
    · exact within_nil _
    · exact within_headerMeets h x s
  · simp [headerBoards, ht, within_nil]

theorem onHerd_headerBoards_other {k : HerdKey} {stop : Nat} {t : RTile} {s : State} {l : List Herd} (hl : ∀ g ∈ l, g.key ≠ k) :
    l.flatMap (fun h => onHerd k (headerBoards stop t { s with herds := [h] })) = [] := by
  refine List.flatMap_eq_nil_iff.mpr (fun g hg => ?_)
  obtain e | ⟨x, e⟩ := headerBoards_cases t stop g s <;> rw [e]
  · rfl
  · exact forHerd_headerMeets g x s k (Ne.symm (hl g hg))

/-- A header acts on each herd once. -/
theorem onHerd_headerBoards {s : State} {h : Herd} {t : RTile} (ht : t.tile = 0) (hn : (s.herds.map (fun h => h.key)).Nodup)
    (hh : s.herd? h.key = some h) (stop : Nat) :
    onHerd h.key (headerBoards stop t s) = onHerd h.key (headerBoards stop t { s with herds := [h] }) := by
  obtain ⟨pre, post, e, hpre, hpost⟩ := herds_split hn hh
  rw [headerBoards_flatMap ht, e, onHerd_flatMap, List.flatMap_append, List.flatMap_cons, onHerd_headerBoards_other hpre,
    onHerd_headerBoards_other hpost, List.nil_append, List.append_nil]

/-- A herd whose boarding a header has met. -/
def metHerd (h : Herd) (x : Option Boarding) (s : State) : Herd := h.acts (onHerd h.key (headerMeets h x s))

theorem boarding_metHerd (h : Herd) (x : Option Boarding) (s : State) : (metHerd h x s).boarding = x := by
  rw [metHerd, onHerd_headerMeets]
  exact congrArg Herd.boarding (acts_endsWait (List.forall_mem_append.mpr ⟨endsWait_endBoards h _, endsWait_headerWakes h x s⟩) _)

/-- R58: in a resident herd a header ends besides waits for tiles alone. -/
theorem acts_headerWakes {h : Herd} (hres : h.resident = true) (x : Option Boarding) (s : State) :
    onHerd h.key (headerWakes h x s) = [] ∨ onHerd h.key (headerWakes h x s) = endRtiles h := by
  rw [headerWakes]
  split
  · exact .inl (by rw [readyStamp_resident hres]; rfl)
  · exact .inr (by rw [readyStamp_resident hres, List.append_nil, onHerd_herdActs_self])

/-- R319: the missed `board` completes. -/
theorem metHerd_board {h : Herd} {j d : Nat} (hres : h.resident = true) (hhan : h.handler = none)
    (hu : h.unresolved WaitOn.isBoard = [j]) (hw : (h.fur j).st = .waiting (.board d)) (hd : d ≠ 0) (x : Option Boarding) (s : State) :
    ((metHerd h x s).fur j).st = .running ∧ ((metHerd h x s).fur j).pc = (h.fur j).pc + 8#64 ∧
      (metHerd h x s).sreg d = if h.lateStands [j] d then 0#64 else h.sreg d := by
  let g := (h.act (.boarding x)).acts (endBoards h 0#64)
  obtain ⟨hst, hpc⟩ := fur_endBoards (h := h) (g := h.act (.boarding x)) rfl hres hhan hu hw 0#64
  have hs : g.sreg d = _ := sreg_endBoards (h := h) (g := h.act (.boarding x)) rfl hres hhan hu hw hd 0#64
  have hmet : metHerd h x s = g.acts (onHerd h.key (headerWakes h x s)) := by
    rw [metHerd, onHerd_headerMeets, Herd.acts_cons, Herd.acts_append]
  have hfur : (metHerd h x s).fur j = g.fur j ∧ (metHerd h x s).s = g.s := by
    rw [hmet]
    obtain e | e := acts_headerWakes hres x s <;> rw [e]
    · exact ⟨rfl, rfl⟩
    · exact ⟨fur_endRtiles (by simp [g]) (by rw [hw]; simp), by rw [acts_endRtiles]⟩
  obtain ⟨hf, hss⟩ := hfur
  refine ⟨hf ▸ hst, hf ▸ hpc, ?_⟩
  rw [← hs]
  simp only [Herd.sreg, hss]

end Sys2Proof.Machine
end

section
/-! SUPPORT. The parts of TilesArrive. -/

namespace Sys2Proof.Machine

/-- The ring at a tile's arrival at a stop, before it lands (R311, R318). -/
def ringAt (stop : Nat) (t : RTile) (r : Ring) : Ring :=
  { setTile r { t with stop := stop, passed := false, sent := false } with
    laps := if isLapFirst r t then Sparse.set zeros r.laps stop (Sparse.get zeros r.laps stop + 1#32) else r.laps
    closed := if t.tile = 0 && !r.closed.contains (stop, t.track, t.layer) then r.closed ++ [(stop, t.track, t.layer)] else r.closed
    lastEnt := Sparse.set zeros r.lastEnt stop (BitVec.ofNat 32 t.ent) }

/-- The module at a tile's arrival, before it lands. -/
def arriving (stop : Nat) (t : RTile) (s : State) : State :=
  let u := s.act (.ring (ringAt stop t s.ring))
  run u (headerBoards stop t u)

theorem run_arriveAt (stop : Nat) (t : RTile) (s : State) : run s (arriveAt stop t s) =
    run (arriving stop t s) (tryLand stop { t with stop := stop, passed := false, sent := false } (arriving stop t s)) := by
  rw [arriveAt, run_chain]
  rfl

/-- A tile that is not a header changes the ring alone before it lands (R320). -/
theorem arriving_data {t : RTile} (ht : t.tile ≠ 0) (stop : Nat) (s : State) :
    arriving stop t s = s.act (.ring (ringAt stop t s.ring)) := by
  simp [arriving, headerBoards, ht]

/-- A tile that no boarding matches only moves (R321). -/
theorem run_tryLand_none {stop : Nat} {t : RTile} {s : State} (ht : landTargets s stop t = []) (hb : t.blocked = []) :
    run s (tryLand stop t s) = s.act (.ring (setTile s.ring { t with held := false, blocked := [] })) := by
  simp [tryLand, lacking, ht, hb, run_chain]

/-- With no held tile that can land, a tile completes its hop. -/
theorem tileArrival_hopEnds {s : State} {stop : Nat} (hheld : ∀ v ∈ s.ring.tiles, v.stop = stop → v.held = true → lacking s stop v ≠ [])
    (bad : Bool) : tileArrival stop bad s = hopEnds stop bad s := by
  have hnone : s.ring.tiles.find? (fun t => decide (t.stop = stop) && t.held && (lacking s stop t).isEmpty) = none := by
    rw [List.find?_eq_none]
    intro v hv hp
    simp only [Bool.and_eq_true, decide_eq_true_eq, List.isEmpty_iff] at hp
    exact hheld v hv hp.1.1 hp.1.2 hp.2
  rw [tileArrival, hnone]

section Hop

variable {s : State} {stop : Nat} {bad : Bool} {u : RTile}
  (hheld : ∀ v ∈ s.ring.tiles, v.stop = stop → v.held = true → lacking s stop v ≠ [])
  (hu : s.ring.tiles.find? (fun v => v.passed && !v.held && (v.sent || !holding s.ring) && decide ((v.stop + 1) % 12 = stop)
    && (decide (v.die = stop) || !orderBlocked s.ring v stop)) = some u)

include hheld hu

/-- R11: at its origin it is dropped. -/
theorem exec_tileDropped (hdie : u.die = stop) : exec (.tileArrival stop bad) s =
    .next (s.act (.ring { s.ring with tiles := s.ring.tiles.filter (fun v => !v.same u) })) := by
  have hacts : tileArrival stop bad s = [.ring { s.ring with tiles := s.ring.tiles.filter (fun v => !v.same u) }] := by
    rw [tileArrival_hopEnds hheld, hopEnds, hu]
    exact if_pos hdie
  exact congrArg (Host.Outcome.next ∘ run s) hacts

/-- R321: elsewhere it arrives. -/
theorem exec_tileArrives (hdie : u.die ≠ stop) : exec (.tileArrival stop bad) s =
    .next (run (arriving stop { u with crcBad := u.crcBad || bad } s) (tryLand stop
      { u with crcBad := u.crcBad || bad, stop := stop, passed := false, sent := false }
      (arriving stop { u with crcBad := u.crcBad || bad } s))) := by
  have hacts : tileArrival stop bad s = arriveAt stop { u with crcBad := u.crcBad || bad } s := by
    rw [tileArrival_hopEnds hheld, hopEnds, hu]
    exact if_neg hdie
  rw [← run_arriveAt, ← hacts]
  rfl

theorem tile_moves (hblocked : u.blocked = []) (hdie : u.die ≠ stop) (htile : u.tile ≠ 0) (hland : landTargets s stop u = []) :
    ∃ t, exec (.tileArrival stop bad) s = .next t ∧ t = { s with ring := t.ring } ∧
      t.ring.tiles = s.ring.tiles.map (fun v => if v.same u then
        { u with stop := stop, passed := false, sent := false, crcBad := u.crcBad || bad, held := false, blocked := [] } else v) := by
  let v := s.act (.ring (ringAt stop { u with crcBad := u.crcBad || bad } s.ring))
  let w : RTile := { u with crcBad := u.crcBad || bad, stop := stop, passed := false, sent := false }
  have hexec : exec (.tileArrival stop bad) s = .next (run v (tryLand stop w v)) := by
    rw [exec_tileArrives hheld hu hdie, arriving_data (t := { u with crcBad := u.crcBad || bad }) htile]
  have hmove : run v (tryLand stop w v) = v.act (.ring (setTile v.ring { w with held := false, blocked := [] })) :=
    run_tryLand_none (s := v) (t := w) hland hblocked
  exact ⟨_, hexec.trans (congrArg Host.Outcome.next hmove), rfl, map_setTile s.ring.tiles rfl rfl rfl rfl⟩

theorem tile_lands {h : Herd} {b : Boarding} {i : Nat} (hdie : u.die ≠ stop) (htile : u.tile ≠ 0) (hland : landTargets s stop u = [h])
    (hh : s.herd? h.key = some h) (hb : h.boarding = some b) (hq : quotaLeft s h = true) (hi : freeSlotIdx s h.core = some i) :
    ∃ t, exec (.tileArrival stop bad) s = .next t ∧ Landed s t { u with crcBad := u.crcBad || bad } h b i := by
  refine ⟨_, exec_tileArrives hheld hu hdie, ?_⟩
  rw [arriving_data (t := { u with crcBad := u.crcBad || bad }) htile]
  exact tryLand_lands hland (lacking_of_room hland hq hi) hh hb hi

theorem header_arrives {h : Herd} {b : Boarding} {tt : Timetable} (hn : (s.herds.map (fun h => h.key)).Nodup) (hdie : u.die ≠ stop)
    (htile : u.tile = 0) (hh : s.herd? h.key = some h) (hb : h.boarding = some b) (hcore : dieOf h.core = stop)
    (hst : b.st = .registered) (htr : b.track = u.track) (hl : b.layer = u.layer) (htt : s.ring.installed = some tt) :
    ∃ t h', exec (.tileArrival stop bad) s = .next t ∧ t.herd? h.key = some h' ∧
      (shardTiles b.first b.count (tt.tileCount b.track b.layer) = 0 → h'.boarding = none) ∧
      (shardTiles b.first b.count (tt.tileCount b.track b.layer) ≠ 0 → ∃ b', h'.boarding = some b' ∧ b'.st = .boarded ∧
        b'.lap = u.lap ∧ b'.count = shardTiles b.first b.count (tt.tileCount b.track b.layer)) ∧
      ∀ j d, h.resident = true → h.handler = none → h.unresolved WaitOn.isBoard = [j] → (h.fur j).st = .waiting (.board d) → d ≠ 0 →
        (h'.fur j).st = .running ∧ (h'.fur j).pc = (h.fur j).pc + 8#64 ∧
        h'.sreg d = if h.lateStands [j] d then 0#64 else h.sreg d := by
  let w : RTile := { u with crcBad := u.crcBad || bad }
  let v := s.act (.ring (ringAt stop w s.ring))
  have hmet : (arriving stop w s).herd? h.key = some (metHerd h (b.boarded v.ring w.lap) v) := by
    rw [arriving, herd?_run (by decide) (within_headerBoards stop w v), onHerd_headerBoards (s := v) (t := w) htile hn hh,
      headerBoards_registered (t := w) htile hb hcore hst htr hl]
    exact congrArg (Option.map _) hh
  have hboarded : b.boarded v.ring w.lap = if shardTiles b.first b.count (tt.tileCount b.track b.layer) = 0 then none
      else some { b with st := .boarded, lap := u.lap, count := shardTiles b.first b.count (tt.tileCount b.track b.layer) } := by
    have hins : v.ring.installed = some tt := htt
    simp only [Boarding.boarded, hins]
    rfl
  obtain ⟨h', hh', hkeep⟩ := tryLand_keeps stop { w with stop := stop, passed := false, sent := false } hmet
  have hx := (boarding_metHerd h (b.boarded v.ring w.lap) v).trans hboarded
  refine ⟨_, h', exec_tileArrives hheld hu hdie, hh', fun h0 => hkeep.none (hx.trans (if_pos h0)), fun h0 => ?_,
    fun j d hres hhan hj hw hd => ?_⟩
  · obtain ⟨b', e, hst', hlap, hcount⟩ := hkeep.some _ (hx.trans (if_neg h0))
    exact ⟨b', e, hst', hlap, hcount⟩
  · obtain ⟨hrun, hpc, hreg⟩ := metHerd_board hres hhan hj hw hd (b.boarded v.ring w.lap) v
    have hfur := hkeep.runs j hrun
    refine ⟨hfur ▸ hrun, hfur ▸ hpc, ?_⟩
    rw [← hreg]
    simp only [Herd.sreg, hkeep.regs]

end Hop

/-- R321: a held tile lands once no boarding lacks a slot for it. -/
theorem heldTile_lands (s : State) (stop : Nat) (bad : Bool) (u : RTile) (h : Herd) (b : Boarding) (i : Nat)
    (hu : s.ring.tiles.find? (fun v => decide (v.stop = stop) && v.held && (lacking s stop v).isEmpty) = some u)
    (hland : landTargets s stop u = [h]) (hh : s.herd? h.key = some h) (hb : h.boarding = some b) (hi : freeSlotIdx s h.core = some i) :
    ∃ t, exec (.tileArrival stop bad) s = .next t ∧ Landed s t u h b i ∧
      t.ring.tiles = s.ring.tiles.map (fun v => if v.same u then { u with held := false, blocked := [] } else v) := by
  have hl : lacking s stop u = [] := by
    have hp := List.find?_some hu
    simp only [Bool.and_eq_true, List.isEmpty_iff] at hp
    exact hp.2
  have hacts : tileArrival stop bad s = tryLand stop u s := by rw [tileArrival, hu]
  refine ⟨_, congrArg (Host.Outcome.next ∘ run s) hacts, tryLand_lands hland hl hh hb hi, ?_⟩
  have hring := ring_tryLand stop u s
  rw [landing, hl] at hring
  exact congrArg Ring.tiles hring

theorem tilesArrive : TilesArrive := by
  refine ⟨fun s stop bad u hheld hn hu hblocked => ⟨fun hdie => ⟨_, exec_tileDropped hheld hu hdie, rfl, rfl⟩,
      fun hdie htile hland _ => tile_moves hheld hu hblocked hdie htile hland,
      fun h b i hdie htile hland hh hb hq hi => tile_lands hheld hu hdie htile hland hh hb hq hi,
      fun h b tt hdie htile hh hb hcore hst htr hl htt => header_arrives hheld hu hn hdie htile hh hb hcore hst htr hl htt⟩,
    fun s stop bad u h b i _ hu hland hh hb hi => heldTile_lands s stop bad u h b i hu hland hh hb hi⟩

end Sys2Proof.Machine
end

section
/-! SUPPORT. The bytes of a tile as its stop reads them (R266). -/

namespace Sys2Proof.Machine

/-- A cell moved from a range to another: `Memory.slice` reads there what memory holds here. -/
theorem get_shift {lo n base k : Nat} (h1 : base ≤ k) (h2 : k < base + n) : ∀ l : Memory, (∀ c ∈ l, lo ≤ c.1 ∧ c.1 < lo + n) →
    Sparse.get zeros (l.map (fun c => (c.1 - lo + base, c.2))) k = Sparse.get zeros l (k - base + lo)
  | [], _ => rfl
  | (j, v) :: l, hl => by
    obtain ⟨hlo, hn⟩ := hl (j, v) (by simp)
    have hj : j - lo + base = k ↔ j = k - base + lo := by simp only at hlo; omega
    rw [List.map_cons, Sparse.get, Sparse.get, get_shift h1 h2 l (fun c hc => hl c (by simp [hc])), if_congr hj rfl rfl]

theorem Memory.mem_slice {m : Memory} {lo n base : Nat} {c : Host.Cell} (hc : c ∈ m.slice lo n base) : base ≤ c.1 ∧ c.1 < base + n := by
  obtain ⟨d, hd, rfl⟩ := List.mem_map.mp hc
  have hp := (List.mem_filter.mp hd).2
  simp only [Bool.and_eq_true, decide_eq_true_eq] at hp
  exact ⟨Nat.le_add_left _ _, by simp only; omega⟩

theorem Memory.byte_slice (m : Memory) {lo n base k : Nat} (h1 : base ≤ k) (h2 : k < base + n) :
    (m.slice lo n base).byte k = m.byte (k - base + lo) := by
  rw [Memory.byte, Memory.slice, get_shift h1 h2 _ (fun c hc => by simpa using (List.mem_filter.mp hc).2)]
  exact Sparse.get_filter zeros (fun j => decide (lo ≤ j) && decide (j < lo + n)) _ (by simp; omega) m

/-- Memory in 64-byte sectors reads sector by sector. -/
theorem byte_sectors {f : Nat → Memory} (hf : ∀ q, ∀ c ∈ f q, 64 * q ≤ c.1 ∧ c.1 < 64 * q + 64) (k : Nat) : ∀ l : List Nat,
    Memory.byte (l.flatMap f) k = if k / 64 ∈ l then (f (k / 64)).byte k else 0#8
  | [] => rfl
  | q :: l => by
    have ih := byte_sectors hf k l
    rw [List.flatMap_cons, Memory.byte, Sparse.get_append, ← Memory.byte, ← Memory.byte, ih]
    by_cases hc : ∃ c ∈ f q, c.1 = k
    · have hq : k / 64 = q := by
        obtain ⟨c, hm, e⟩ := hc
        have hb := hf q c hm
        omega
      rw [if_pos hc, if_pos (by simp [hq]), hq]
    · rw [if_neg hc]
      by_cases hq : k / 64 = q
      · have hz : (f (k / 64)).byte k = 0#8 :=
          Sparse.get_of_notMem zeros _ _ (fun c hm e => hc ⟨c, hq ▸ hm, e⟩)
        rw [hz, ite_self, ite_self]
      · simp [hq]

theorem testBit_allSectors {q : Nat} (hq : q < 1024) : allSectors.testBit q = true := by
  simp only [allSectors, Nat.testBit_two_pow_sub_one, hq, decide_true]

/-- R266: after it reads all that is missing, the stop has each sector as it has read it, before or now. -/
theorem byte_gain (s : State) (a : Nat) (t : RTile) {p : Nat} (hp : p < 65536) :
    (t.gain s a allSectors).payload.byte p = if t.left.testBit (p / 64) then s.hbm.byte (a + p) else t.payload.byte p := by
  have hq : p / 64 < 1024 := by omega
  simp only [RTile.gain]
  refine (byte_sectors (fun q c hc => ?_) p _).trans ?_
  · split at hc <;> exact Memory.mem_slice hc
  rw [if_pos (List.mem_range.mpr hq), Nat.testBit_and, testBit_allSectors hq, Bool.and_true]
  split
  · rw [Memory.byte_slice s.hbm (by omega) (by omega)]
    congr 1
    omega
  · rw [Memory.byte_slice t.payload (by omega) (by omega)]
    congr 1
    omega

end Sys2Proof.Machine
end

section
/-! SUPPORT. The injection of tiles (R311 to R315), and the statement on the ring's events. -/

namespace Sys2Proof.Machine

/-! The next tile of the lap sequence. -/

theorem tile_bufferedTile (s : State) (tt : Timetable) (e : TEntry) : (bufferedTile s tt e).tile = e.first + s.ring.tile := by
  rw [bufferedTile]
  cases hf : s.ring.buffer.find? (fun b => b.at s.ring.ent s.ring.tile e) with
  | none => rfl
  | some b =>
    have hat := List.find?_some hf
    simp only [RTile.at, Bool.and_eq_true, decide_eq_true_eq] at hat
    exact hat.2

theorem lap_nextTile (s : State) (tt : Timetable) (e : TEntry) : (nextTile s tt e).lap =
    if s.ring.ent = 0 ∧ s.ring.tile = 0 then Sparse.get zeros s.ring.laps e.die + 1#32 else curLap s.ring tt := by
  simp [nextTile, RTile.sealed]

/-- R312: the CRC covers the payload and the rest of the header, and is no part of it. -/
theorem headBody_crc (t : RTile) (c : BitVec 32) : RTile.headBody { t with crc := c } = t.headBody := rfl

theorem headBody_sealed (t : RTile) (lap : BitVec 32) : (t.sealed lap).headBody = RTile.headBody { t with lap := lap } := headBody_crc _ _

theorem crc_sealed (t : RTile) (lap : BitVec 32) :
    (t.sealed lap).crc = crc32c (Memory.bytes (t.sealed lap).payload 0 65536 ++ (t.sealed lap).headBody) := by
  rw [headBody_sealed, RTile.sealed]

theorem crc_nextTile (s : State) (tt : Timetable) (e : TEntry) :
    (nextTile s tt e).crc = crc32c (Memory.bytes (nextTile s tt e).payload 0 65536 ++ (nextTile s tt e).headBody) := crc_sealed _ _

theorem byte_nextTile (s : State) (tt : Timetable) (e : TEntry) {p : Nat} (hp : p < 65536) : (nextTile s tt e).payload.byte p =
    if (bufferedTile s tt e).left.testBit (p / 64) then s.hbm.byte (e.addr + 65536 * s.ring.tile + p)
    else (bufferedTile s tt e).payload.byte p := by
  rw [← byte_gain s _ _ hp, nextTile, RTile.sealed]

/-- R315: a tile of which the stop has read nothing ahead is as memory holds it. -/
theorem bufferedTile_blank {s : State} {e : TEntry} (hf : s.ring.buffer.find? (fun b => b.at s.ring.ent s.ring.tile e) = none)
    (tt : Timetable) : bufferedTile s tt e = blankTile tt s.ring.ent s.ring.tile e := by rw [bufferedTile, hf]; rfl

/-! The ring at an injection. -/

theorem within_arriveAt (stop : Nat) (t : RTile) (s : State) : Within ringParts (arriveAt stop t s) := by
  refine within_chain s (List.forall_mem_cons.mpr ⟨fun u => by simp [Within, Act.parts, ringParts], List.forall_mem_cons.mpr
    ⟨fun u => (within_headerBoards stop t u).mono (by decide), List.forall_mem_cons.mpr ⟨fun u => within_tryLand stop _ u, nofun⟩⟩⟩)

theorem ring_arriveAt (stop : Nat) (t : RTile) (s : State) : (run s (arriveAt stop t s)).ring = setTile (ringAt stop t s.ring)
    (landing stop { t with stop := stop, passed := false, sent := false } (arriving stop t s)) := by
  have hring : (arriving stop t s).ring = ringAt stop t s.ring :=
    (only_run (by decide) (within_headerBoards stop t (s.act (.ring (ringAt stop t s.ring)))) _).keeps State.ring rfl
  rw [run_arriveAt, ring_tryLand, hring]

/-- A new tile arrives at its stop, and the others stay as they are. -/
theorem tiles_arriveAt {stop : Nat} {t : RTile} {s : State} {l : List RTile} (hs : s.ring.tiles = l ++ [t])
    (hnew : ∀ v ∈ l, v.same t = false) : (run s (arriveAt stop t s)).ring.tiles
      = l ++ [landing stop { t with stop := stop, passed := false, sent := false } (arriving stop t s)] := by
  let w := landing stop { t with stop := stop, passed := false, sent := false } (arriving stop t s)
  have hmap : (run s (arriveAt stop t s)).ring.tiles = s.ring.tiles.map (fun v => if v.same w then w else v) :=
    (congrArg Ring.tiles (ring_arriveAt stop t s)).trans (map_setTile s.ring.tiles rfl rfl rfl rfl)
  have hl : l.map (fun v => if v.same w then w else v) = l :=
    (List.map_congr_left (fun v hv => if_neg (fun h => Bool.false_ne_true ((hnew v hv).symm.trans h)))).trans (List.map_id l)
  have ht : t.same w = true := RTile.same_self t
  rw [hmap, hs, List.map_append, hl, List.map_singleton, if_pos ht]

/-- An arrival is no step of the lap. -/
theorem position_arriveAt (stop : Nat) (t : RTile) (s : State) :
    ((run s (arriveAt stop t s)).ring.ent, (run s (arriveAt stop t s)).ring.tile, (run s (arriveAt stop t s)).ring.inLap)
      = (s.ring.ent, s.ring.tile, s.ring.inLap) := by rw [ring_arriveAt]; rfl

/-- R311: the position of the lap after an injection. -/
theorem advanceLap_position {r : Ring} (tt : Timetable) (e : TEntry) (hlap : r.inLap = true) :
    ((advanceLap r tt e).ent, (advanceLap r tt e).tile, (advanceLap r tt e).inLap) =
      if r.tile + 1 < e.count then (r.ent, r.tile + 1, true) else if r.ent + 1 < tt.ents.length then (r.ent + 1, 0, true)
      else (0, 0, decide (r.pending = none)) := by
  simp only [advanceLap]
  split
  · simp [hlap]
  · split
    · simp [hlap]
    · cases r.pending <;> simp

theorem tiles_advanceLap (r : Ring) (tt : Timetable) (e : TEntry) : (advanceLap r tt e).tiles = r.tiles := by
  simp only [advanceLap]
  split
  · rfl
  · split <;> rfl

/-- What stops read ahead changes their buffers alone (R315). -/
theorem readAhead_cases (tt : Timetable) (s : State) : readAhead tt s = [.free 2] ∨
    ∃ l, readAhead tt s = [.free 2, .ring { s.ring with buffer := l }] := by
  simp only [readAhead]
  split
  · exact .inl rfl
  · split
    · exact .inl rfl
    · split
      · exact .inl rfl
      · exact .inr ⟨_, rfl⟩

theorem within_readAhead (tt : Timetable) (s : State) : Within ringParts (readAhead tt s) := by
  obtain e | ⟨l, e⟩ := readAhead_cases tt s <;> rw [e] <;> simp [Within, Act.parts, ringParts]

theorem ring_readAhead (tt : Timetable) (s : State) : ∃ l, (run s (readAhead tt s)).ring = { s.ring with buffer := l } := by
  obtain e | ⟨l, e⟩ := readAhead_cases tt s <;> rw [e]
  · exact ⟨s.ring.buffer, rfl⟩
  · exact ⟨l, rfl⟩

/-- The ring with a new tile, at the next position. -/
def injected (s : State) (tt : Timetable) (e : TEntry) (n : RTile) : State :=
  s.act (.ring (advanceLap { s.ring with tiles := s.ring.tiles ++ [n] } tt e))

theorem injectTile_eq {s : State} {tt : Timetable} {e : TEntry} (he : tt.ents[s.ring.ent]? = some e) (hlap : s.ring.inLap = true)
    (hhold : holding s.ring = false) (hpace : ringPace s tt ≠ 0) (hord : orderBlocked s.ring (nextTile s tt e) e.die = false)
    (hown : (bufferedTile s tt e).owned s (e.addr + 65536 * s.ring.tile) = false) : injectTile tt s = chain s
      [fun u => [.ring (advanceLap { u.ring with tiles := u.ring.tiles ++ [nextTile s tt e] } tt e)], arriveAt e.die (nextTile s tt e)] := by
  have hgo : (!s.ring.inLap || holding s.ring || decide (ringPace s tt = 0) || orderBlocked s.ring (nextTile s tt e) e.die
      || (bufferedTile s tt e).owned s (e.addr + 65536 * s.ring.tile)) = false := by
    rw [hlap, hhold, hord, hown, decide_eq_false hpace]
    rfl
  simp only [injectTile, he, hgo, Bool.false_eq_true, if_false]

/-- R315: a tile that the stop has not read ahead is the timetable's, as memory holds it now. -/
theorem nextTile_unread {s : State} {e : TEntry} (hf : s.ring.buffer.find? (fun b => b.at s.ring.ent s.ring.tile e) = none)
    (tt : Timetable) : (∀ p < 65536, (nextTile s tt e).payload.byte p = s.hbm.byte (e.addr + 65536 * s.ring.tile + p)) ∧
      (nextTile s tt e).gen = tt.gen ∧ (nextTile s tt e).die = e.die ∧ (nextTile s tt e).track = e.track ∧
      (nextTile s tt e).layer = e.layer := by
  have hblank := bufferedTile_blank hf tt
  refine ⟨fun p hp => ?_, ?_⟩
  · rw [byte_nextTile s tt e hp, hblank]
    exact if_pos (testBit_allSectors (by omega))
  · rw [nextTile, hblank]
    simp only [RTile.sealed, RTile.gain, blankTile, and_self]

theorem tilesAreInjected : TilesAreInjected := by
  intro s tt e b hins he hb hlap hhold hpace hnew hord hown
  subst hb
  have hinject := injectTile_eq he hlap hhold hpace hord hown
  have htile : (nextTile s tt e).tile = e.first + s.ring.tile := tile_bufferedTile s tt e
  have hlapNo := lap_nextTile s tt e
  have hcrc := crc_nextTile s tt e
  have hbyte := fun p (hp : p < 65536) => byte_nextTile s tt e hp
  have hunread := fun hf => nextTile_unread (s := s) (e := e) hf tt
  generalize nextTile s tt e = n at *
  let v := injected s tt e n
  let w := run v (arriveAt e.die n v)
  have hexec : exec .tileInjection s = .next (run w (readAhead tt w)) := by
    have hacts : tileInjection s = chain s [injectTile tt, readAhead tt] := by rw [tileInjection, hins]
    have hw : run s (injectTile tt s) = w := by rw [hinject, run_two]; rfl
    exact congrArg Host.Outcome.next (by rw [hacts, run_two, hw])
  have hvtiles : v.ring.tiles = s.ring.tiles ++ [n] := tiles_advanceLap _ tt e
  obtain ⟨l, hring⟩ := ring_readAhead tt w
  have htiles := (congrArg Ring.tiles hring).trans (tiles_arriveAt hvtiles hnew)
  refine ⟨_, _, hexec, htiles, rfl, htile, hlapNo, hcrc, hbyte, hunread, ?_, ?_⟩
  · rw [hring]
    exact (position_arriveAt e.die n v).trans (advanceLap_position (r := { s.ring with tiles := s.ring.tiles ++ [n] }) tt e hlap)
  · have h1 : Only ringParts s v := only_act (by decide) (by simp [Act.parts, ringParts]) s
    exact (h1.trans (only_run (by decide) (within_arriveAt e.die n v) v)).trans (only_run (by decide) (within_readAhead tt w) w)

/-- Settles O37: a timetable acts at a seam herd by herd (`seams_herd`); a tile's injection or arrival is a change of the ring, a header's
meeting with each herd's boarding (`metHerd`), and an attempt to land, which either lands for the boardings that match or holds
(`tryLand_lands`, `tryLand_keeps`); a Cut boarding is no target of a landing (`landTargets_boardedAs`). -/
theorem ringMoves : Obligations.RingMoves :=
  ⟨timetablesInstall, tilesAreInjected, tilesArrive, tilesPassAndHoldsEnd, holdsAreJudged⟩

end Sys2Proof.Machine
end

section
/-! SUPPORT. Every step keeps a sound state sound (R22, R33, R96, R218): no turn does more than run acts, and what it changes besides
bears on no store. -/

namespace Sys2Proof.Machine

/-- The turns still to come, the free values drawn and the issuer are no part of what a sound state stores. -/
theorem inv_withTurn {s : State} (hi : Inv s) (ts : List Turn) (n : Nat) (w : Option Issuer) :
    Inv { s with schedule := ts, freeCtr := n, issuer := w } :=
  ⟨hi.hbm, hi.hostMem, hi.herds, hi.tiles, hi.coreRegs, hi.partRegs, hi.hostRegs, hi.counts, hi.slotGen⟩

theorem exec_inv {s t : State} (hi : Inv s) {i : Instr} (he : exec i s = .next t) : Inv t := by
  obtain h | ⟨l, h⟩ := exec_cases i s
  · rw [h] at he
    cases he
  · rw [h] at he
    cases he
    exact run_inv l hi

theorem issueTurn_inv {s t : State} (hi : Inv s) {k : HerdKey} {f : Nat} {post : Bool} (he : issueTurn k f post s = .next t) :
    Inv t := by
  unfold issueTurn at he
  split at he
  · cases he
    exact hi
  · split at he
    · cases he
      exact run_inv _ hi
    · split at he
      · split at he
        · cases he
          exact run_inv _ hi
        · split at he
          · cases he
            exact hi
          · exact exec_inv (inv_withTurn (run_inv _ hi) _ _ _) he
      · cases he
        exact hi

theorem turnEffect_inv {s t : State} (hi : Inv s) {u : Turn} (he : turnEffect u s = .next t) : Inv t := by
  cases u with
  | issue k f => exact issueTurn_inv hi he
  | post k f => exact issueTurn_inv hi he
  | event e =>
    simp only [turnEffect] at he
    split at he
    · exact exec_inv (inv_withTurn hi _ _ _) he
    · cases he
      exact hi
  | outside o =>
    cases he
    exact run_inv _ hi

theorem takeTurn_inv {s t : State} (hi : Inv s) {u : Turn} (he : takeTurn u s = .next t) : Inv t := by
  unfold takeTurn at he
  cases hu : turnEffect u s with
  | next v =>
    rw [hu] at he
    cases he
    exact run_inv _ (turnEffect_inv hi hu)
  | _ =>
    rw [hu] at he
    cases he

/-- Settles O56: a step is a turn, and a turn runs acts, each of which keeps a sound state sound. -/
theorem stepKeepsSoundState : Obligations.StepKeepsSoundState := by
  intro s t hi he
  unfold step at he
  split at he
  · exact takeTurn_inv (inv_withTurn hi _ _ _) he
  · split at he
    · cases he
      exact hi
    · exact takeTurn_inv (inv_withTurn hi _ _ _) he

end Sys2Proof.Machine
end

section
/-! SUPPORT. What a turn does (R24, R125, R356): its fetch, its word, and what the fetch leaves alone. -/

namespace Sys2Proof.Machine

/-- A fetch that gives a word gives the one that memory holds there (R125). -/
theorem fetchWord_word {s : State} {h : Herd} {pc : Word} {pa : Nat} {w : Word} (hf : fetchWord s h pc = .word pa w) :
    w = BitVec.ofNat 64 (s.hbm.num pa 8) := by
  unfold fetchWord at hf
  split at hf
  · cases hf
  · split at hf
    · cases hf
    · split at hf
      · cases hf
      · dsimp only at hf
        split at hf
        · cases hf
        · cases hf
          rfl

/-- Eight bytes decode to the instruction of their word (R125). -/
theorem decodeBytes_eight {m : Memory} {pa : Nat} {i : Instr} {rest : List Byte} (hd : decodeBytes (m.bytes pa 8) = .ok (i, rest)) :
    decodeWord (BitVec.ofNat 64 (m.num pa 8)) = i := by
  have hlen := Memory.length_bytes m 8 pa
  rw [decodeBytes, if_neg (by omega), List.take_of_length_le (by omega)] at hd
  cases hd
  rfl

theorem posted_run : ∀ (l : List Act) (s : State), (∀ a ∈ l, ∀ p, a ≠ .posted p) → (run s l).posted = s.posted
  | [], _, _ => rfl
  | a :: l, s, h => by
    rw [run_cons, posted_run l _ (fun b hb => h b (by simp [hb]))]
    have := h a (by simp)
    cases a <;> simp_all

/-- A fetch and the mark of a turn post nothing (R253). -/
theorem posted_fetched (s : State) (h : Herd) (f : Nat) :
    (run s (fetchTrace s h (h.fur f).pc ++ seenActs h f)).posted = s.posted := by
  refine posted_run _ s (fun a ha p e => ?_)
  subst e
  obtain ha | ha := List.mem_append.mp ha
  · unfold fetchTrace at ha
    split at ha
    · cases ha
    · split at ha <;> split at ha <;> simp at ha
  · unfold seenActs at ha
    split at ha <;> simp [pendMark] at ha

/-- The turn of a pending trap (R356). -/
theorem issueTurn_trap {s : State} {k : HerdKey} {h : Herd} {f : Nat} (hh : s.herd? k = some h) (ht : trapTurn h f = true) (post : Bool) :
    issueTurn k f post s = .next (run s (takePending k s)) := by
  simp [issueTurn, hh, ht]

/-- The turn of a group that fetches a word (R24, R125). -/
theorem issueTurn_word {s : State} {k : HerdKey} {h : Herd} {f pa : Nat} {w : Word} (hh : s.herd? k = some h)
    (ht : trapTurn h f = false) (hc : h.canIssue f = true) (hw : fetchWord s h (h.fur f).pc = .word pa w) (post : Bool) :
    issueTurn k f post s = if regBusy h w || postedWaits s h f post w then .next s
      else exec (decodeWord w) { run s (fetchTrace s h (h.fur f).pc ++ seenActs h f ++ joinActs s h f) with
        issuer := some { key := k, f := f, pa := pa, post := post } } := by
  simp [issueTurn, hh, ht, hc, hw]

theorem step_turn {s : State} {u : Turn} {ts : List Turn} (hs : s.schedule = u :: ts) :
    step s = judged (turnEffect u { s with schedule := ts }) := by
  simp only [step, hs, takeTurn]

theorem turnEffect_issue (k : HerdKey) (f : Nat) (post : Bool) :
    turnEffect (if post then .post k f else .issue k f) = issueTurn k f post := by
  cases post <;> rfl

/-- Settles O51: a group's turn takes a pending trap, passes, or runs the word that its fetch gives. -/
theorem stepRunsTheDecodedWord : Obligations.StepRunsTheDecodedWord := by
  refine ⟨fun s k f post ts h s0 hs hh hs0 => ?_, fun s e ts hs he => ?_, fun s o ts hs => step_turn hs, fun s hs => ?_⟩
  · have hstep : step s = judged (issueTurn k f post s0) := by rw [step_turn hs, turnEffect_issue, hs0]
    have hh0 : s0.herd? k = some h := by rw [hs0]; exact hh
    have hhbm : s0.hbm = s.hbm := by rw [hs0]
    have hposted : s0.posted = s.posted := by rw [hs0]
    have hwaits (word : Word) : postedWaits s0 h f post word = postedWaits s h f post word := by rw [hs0]; rfl
    clear hs0
    refine ⟨fun ht => by rw [hstep, issueTurn_trap hh0 ht], fun pa word i ht hc hw hd => ?_⟩
    have hi : decodeWord word = i := by
      rw [fetchWord_word hw, hhbm]
      exact decodeBytes_eight hd
    rw [hstep, issueTurn_word hh0 ht hc hw, hwaits, hi]
    refine ⟨fun hwait => by rw [if_pos (Bool.or_eq_true_iff.mpr hwait)], fun hreg hpost => ⟨_, ?_, rfl⟩⟩
    rw [if_neg (by simp [hreg, hpost]), run_append, run_joinActs s0 _ h f (posted_fetched s0 h f), hposted]
  · rw [step_turn hs, turnEffect, isEventInstr, he]
    rfl
  · exact congrArg (Host.Outcome.next ∘ run s) (judgeHolds_settled (fun u hu => (waitsFor_free s (hs u hu)).symm))

end Sys2Proof.Machine
end

section
/-! SUPPORT. A herd at its launch (R33): its registers, its furrows and its one group. -/

namespace Sys2Proof.Machine

/-- The four uniform registers that a launch sets, and zero in every other (R33). -/
theorem sreg_fresh (i : HerdInit) (n : Nat) : (Herd.fresh i).sreg n = if n = 0 then 0#64 else if n ≤ 4 then
    [i.args, BitVec.ofNat 64 i.key.herd, BitVec.ofNat 64 i.key.crew.crew, BitVec.ofNat 64 i.core].getD (n - 1) 0#64 else 0#64 := by
  simp only [Herd.sreg, Herd.fresh, Sparse.get_write, List.length_cons, List.length_nil]
  by_cases h0 : n = 0
  · simp [h0]
  · by_cases h4 : n ≤ 4
    · rw [if_neg h0, if_neg h0, if_pos h4, if_pos (by omega)]
      rfl
    · rw [if_neg h0, if_neg h0, if_neg h4, if_neg (by omega)]
      rfl

/-- V1 holds the lane numbers (R33). -/
theorem vreg_fresh (i : HerdInit) (hw : i.width ≤ 64) {n l : Nat} (hl : l < 64) :
    (Herd.fresh i).vreg n l = if n = 1 ∧ l < i.width then BitVec.ofNat 32 l else 0#32 := by
  simp only [Herd.vreg, Herd.fresh, Sparse.get_write, List.length_map, List.length_range]
  by_cases h : n = 1 ∧ l < i.width
  · obtain ⟨rfl, hlt⟩ := h
    rw [if_pos (by omega), if_pos ⟨rfl, hlt⟩]
    simp [hlt]
  · rw [if_neg (by omega), if_neg h]
    rfl

theorem tagOf_fresh (i : HerdInit) (n : Nat) : (Herd.fresh i).tagOf n = if n = 1 then 2 else 0 := by
  simp only [Herd.tagOf, Herd.fresh, Sparse.get_write, List.length_cons, List.length_nil]
  by_cases h : n = 1
  · simp [h]
  · rw [if_neg (by omega), if_neg h]
    rfl

/-- Every element at the point mass at 0 (R33, R333). -/
theorem delem_fresh (i : HerdInit) (n l : Nat) :
    (Herd.fresh i).delem n l = { w := 2 ^ 24, x := 0#32 } :: List.replicate 7 { w := 0, x := 0#32 } := by
  have hatom : ∀ j, (Herd.fresh i).datom n l j = atomReset j := fun j => by
    simp only [Herd.datom, Herd.fresh, Sparse.get, atomReset, Nat.mul_add_mod]
  simp only [Herd.delem, hatom]
  decide

theorem accEl_fresh (i : HerdInit) (t r c : Nat) : (Herd.fresh i).accEl t r c = 0#32 := by
  have : (Herd.fresh i).acc.getD t [] = [] := by
    simp only [Herd.fresh, List.getD_eq_getElem?_getD, List.getElem?_replicate]
    split <;> rfl
  rw [Herd.accEl, this]
  rfl

/-- R22: one furrow to eight lanes. -/
theorem furrows_fresh {i : HerdInit} (hw : i.width ≤ 64) :
    (Herd.fresh i).furrows = List.replicate (i.width / 8) (Furrow.fresh i.entry i.order) := by
  rw [Herd.fresh, Nat.min_eq_right (by omega)]

theorem fur_fresh {i : HerdInit} (hw : i.width ≤ 64) {f : Nat} (hf : f < i.width / 8) :
    (Herd.fresh i).fur f = Furrow.fresh i.entry i.order := by
  simp [Herd.fur, furrows_fresh hw, hf]

/-- R33, R34: the furrows form one group. -/
theorem group_fresh {i : HerdInit} (hw : i.width ≤ 64) : (Herd.fresh i).group 0 = List.range (i.width / 8) := by
  rw [Herd.group, Herd.idxs, furrows_fresh hw, List.length_replicate, List.filter_eq_self]
  intro f hf
  simp [Herd.live, fur_fresh hw (List.mem_range.mp hf), Furrow.fresh]

/-- Every lane stands in the furrow's current path (R33). -/
theorem pathLanes_fresh {i : HerdInit} (hw : i.width ≤ 64) {f : Nat} (hf : f < i.width / 8) :
    (Herd.fresh i).pathLanes f = (List.range 8).map (fun b => 8 * f + b) := by
  have hall : bitsOf (Furrow.fresh i.entry i.order).path 8 = List.range 8 := by
    rw [show (Furrow.fresh i.entry i.order).path = 0xFF#8 from rfl]
    decide
  rw [Herd.pathLanes, fur_fresh hw hf, hall]

/-- Settles O58: each entry of the launch table is a reading of the fresh herd, and what the table does not name is zero. -/
theorem newHerdsBeginAsTheTableSays : Obligations.NewHerdsBeginAsTheTableSays := by
  intro i h hh hwidth
  subst hh
  have hw : i.width ≤ 64 := by omega
  have hs := sreg_fresh i
  refine ⟨⟨rfl, fun n x => rfl⟩, hs 1, hs 2, hs 3, hs 4, fun n hn => ?_, fun l hl => ?_, tagOf_fresh i 1, fun n l hn hl => ⟨?_, ?_⟩,
    fun n l => ⟨delem_fresh i n l, rfl⟩, accEl_fresh i, rfl, furrows_fresh hw, fun f hf => ⟨group_fresh hw, pathLanes_fresh hw hf⟩,
    rfl, rfl, rfl, rfl, rfl, rfl, rfl, rfl, rfl, rfl, rfl, rfl, rfl, rfl, rfl, rfl, rfl⟩
  · rw [hs, if_neg (by omega), if_neg (by omega)]
  · rw [vreg_fresh i hw (by omega), if_pos ⟨rfl, hl⟩]
  · rw [vreg_fresh i hw hl, if_neg (fun e => hn e.1)]
  · rw [tagOf_fresh, if_neg hn]

end Sys2Proof.Machine
end

section
/-! SUPPORT. The furrows of a herd once a word places them (R34, R194), and a word that completes by placing its group. -/

namespace Sys2Proof.Machine

/-- Setting furrows in turn, behind those that are set already. -/
theorem acts_setFurs_from : ∀ (l old pre : List Furrow) (h : Herd), old.length = l.length → h.furrows = pre ++ old →
    h.acts (l.mapIdx (fun f r => .furrow (pre.length + f) r)) = { h with furrows := pre ++ l }
  | [], old, pre, h, hl, hf => by
    rw [List.length_eq_zero_iff.mp hl] at hf
    rw [List.mapIdx_nil, Herd.acts_nil, ← hf]
  | a :: l, [], pre, h, hl, hf => by simp at hl
  | a :: l, b :: old, pre, h, hl, hf => by
    have hset : (h.act (.furrow pre.length a)).furrows = (pre ++ [a]) ++ old := by simp [hf]
    have ih := acts_setFurs_from l old (pre ++ [a]) (h.act (.furrow pre.length a)) (by simpa using hl) hset
    simp only [List.length_append, List.length_singleton, List.append_assoc, List.singleton_append] at ih
    rw [List.mapIdx_cons, Herd.acts_cons]
    simpa [Nat.add_assoc, Nat.add_comm 1] using ih

theorem acts_setFurs {h : Herd} {l : List Furrow} (hl : l.length = h.furrows.length) : h.acts (setFurs l) = h.withFurs l := by
  simpa [setFurs, Herd.withFurs] using acts_setFurs_from l h.furrows [] h hl.symm (by simp)

@[simp] theorem length_mapFurs (h : Herd) (fs : List Nat) (g : Nat → Furrow → Furrow) : (mapFurs h fs g).length = h.furrows.length := by
  simp [mapFurs]

theorem fur_withFurs_mapFurs (h : Herd) (fs : List Nat) (g : Nat → Furrow → Furrow) {j : Nat} (hj : j < h.furrows.length) :
    (h.withFurs (mapFurs h fs g)).fur j = if j ∈ fs then g j (h.fur j) else h.fur j := by
  simp [Herd.withFurs, Herd.fur, mapFurs, hj]

theorem fur_of_length_le {h : Herd} {j : Nat} (hj : h.furrows.length ≤ j) : h.fur j =
    { pc := 0, path := 0, stack := [], grp := 0, st := .notLive, hcnt := [], rank := 0, resolved := .none } := by
  rw [Herd.fur, List.getD_eq_default _ _ hj]

theorem fur_withFurs_mapFurs_group (h : Herd) (f : Nat) (g : Nat → Furrow → Furrow) (j : Nat) :
    (h.withFurs (mapFurs h (h.group f) g)).fur j = if j ∈ h.group f then g j (h.fur j) else h.fur j := by
  by_cases hj : j < h.furrows.length
  · exact fur_withFurs_mapFurs h _ g hj
  · rw [if_neg (fun hg => hj (group_lt h f j hg)), fur_of_length_le (Nat.le_of_not_lt hj)]
    exact fur_of_length_le (by simpa [Herd.withFurs] using hj)

theorem fur_congr {h g : Herd} (e : g.furrows = h.furrows) (j : Nat) : g.fur j = h.fur j := by simp [Herd.fur, e]

/-- A word that is counted and acts on its own herd. -/
theorem onlyHerd_counted {s : State} {w : Issuer} {h : Herd} (hi : Issues s w h) (l : List HAct) :
    OnlyHerd s (run s (bumpCore h.core 0x040 :: herdActs w.key l)) w h (h.acts l) := by
  have hherd := hi.herd
  rw [run_cons]
  refine ⟨?_, ?_, fun k hk => ?_, ?_, fun n hn => ?_, fun a => ?_, fun a => ?_, ?_⟩
  · rw [herd?_herdActs_self, herd?_congr s _ (by simp [bumpCore]), hherd]
    rfl
  · rw [run_herdActs]
    simp [bumpCore, State.act]
  · rw [herd?_herdActs_other _ _ _ _ hk, herd?_congr s _ (by simp [bumpCore])]
  · simp [run_herdActs, State.coreReg, bumpCore, Sparse.get_set]
  all_goals simp [run_herdActs, bumpCore, Sparse.get_set, *]

/-- What such a word does when its acts place the group. -/
theorem finish_jump (w : Issuer) (h : Herd) (hd : Header) (s : State) (l : List HAct) :
    (issueCtx w h hd).finish s (.jump (herdActs w.key l)) = bumpCore h.core 0x040 :: herdActs w.key l := rfl

/-! The lanes of a group, ascending. -/

theorem pairwise_bitsOf {w : Nat} (b : BitVec w) (n : Nat) : (bitsOf b n).Pairwise (· < ·) := List.pairwise_lt_range.filter _

theorem mem_pathLanes {h : Herd} {f l : Nat} : l ∈ h.pathLanes f ↔ l / 8 = f ∧ (h.fur f).path.getLsbD (l % 8) = true := by
  simp only [Herd.pathLanes, bitsOf, List.mem_map, List.mem_filter, List.mem_range]
  constructor
  · rintro ⟨b, ⟨hb, hp⟩, rfl⟩
    exact ⟨by omega, by rwa [show (8 * f + b) % 8 = b by omega]⟩
  · rintro ⟨rfl, hp⟩
    exact ⟨l % 8, ⟨by omega, hp⟩, by omega⟩

theorem pairwise_lanesOf (h : Herd) {fs : List Nat} (hfs : fs.Pairwise (· < ·)) : (h.lanesOf fs).Pairwise (· < ·) := by
  rw [Herd.lanesOf, List.pairwise_flatMap]
  refine ⟨fun f _ => ?_, hfs.imp (fun {f g} hfg l hl k hk => ?_)⟩
  · rw [Herd.pathLanes, List.pairwise_map]
    exact (pairwise_bitsOf _ 8).imp (by omega)
  · have := (mem_pathLanes.mp hl).1
    have := (mem_pathLanes.mp hk).1
    omega

theorem pairwise_group (h : Herd) (f : Nat) : (h.group f).Pairwise (· < ·) := List.pairwise_lt_range.filter _

theorem pairwise_activeLanes (h : Herd) (f : Nat) (hd : Header) : (activeLanes h f hd).Pairwise (· < ·) :=
  (pairwise_lanesOf h (pairwise_group h f)).filter _

theorem mem_activeLanes {h : Herd} {f : Nat} {hd : Header} {l : Nat} : l ∈ activeLanes h f hd ↔
    (l / 8 ∈ h.group f ∧ (h.fur (l / 8)).path.getLsbD (l % 8) = true) ∧ h.pred hd l = true := by
  rw [activeLanes, List.mem_filter, Herd.lanesOf, List.mem_flatMap]
  refine and_congr_left (fun _ => ⟨?_, fun hl => ⟨l / 8, hl.1, mem_pathLanes.mpr ⟨rfl, hl.2⟩⟩⟩)
  rintro ⟨f, hf, hl⟩
  obtain ⟨rfl, hp⟩ := mem_pathLanes.mp hl
  exact ⟨hf, hp⟩

/-- In an ascending list, what a search finds is the lowest that meets the condition. -/
theorem find?_lowest {l : List Nat} (hl : l.Pairwise (· < ·)) {p : Nat → Bool} {a : Nat} (ha : a ∈ l) (hp : p a = true)
    (hlow : ∀ k ∈ l, k < a → p k = false) : l.find? p = some a := by
  obtain ⟨pre, post, rfl⟩ := List.append_of_mem ha
  rw [List.find?_eq_some_iff_append]
  obtain ⟨-, -, hlt⟩ := List.pairwise_append.mp hl
  exact ⟨hp, pre, post, rfl, fun k hk => by rw [hlow k (by simp [hk]) (hlt k hk a (by simp)), Bool.not_false]⟩

end Sys2Proof.Machine
end

section
/-! SUPPORT. Branches (R39, R40, R194): where each furrow of a group goes, by the next PCs that its lanes choose. -/

namespace Sys2Proof.Machine

/-- R39, R194: what the PC is at which a furrow's current path continues: past the word with no active lane, the common choice of its
lanes, or, where they differ, the one that the word keeps. -/
structure Continues (conds : Option Word) (pc : Word) (t : Nat → Word) (keeps : List Nat → Word) : Prop where
  idle : keeps [] = pc + 8#64
  whole : ∀ l ls, (∀ k ∈ ls, t k = t l) → keeps (l :: ls) = t l
  split : ∀ l ls, (∃ k ∈ ls, t k ≠ t l) → keeps (l :: ls) = conds.getD (t l)

theorem continues_taken {tgt pc : Word} {t : Nat → Word} (ht : ∀ l, t l = tgt ∨ t l = pc + 8#64) :
    Continues (some tgt) pc t (keepsTaken tgt pc t) where
  idle := rfl
  whole l ls h := by
    by_cases e : t l = tgt
    · simp [keepsTaken, e]
    · have hls : ∀ k ∈ ls, ¬ t k = tgt := fun k hk => by rwa [h k hk]
      have hpc := (ht l).resolve_left e
      rw [keepsTaken, if_neg (by simpa [e] using hls), hpc]
  split l ls h := by
    obtain ⟨k, hk, hne⟩ := h
    have : ∃ m ∈ l :: ls, t m = tgt := by
      obtain e | e := ht l
      · exact ⟨l, by simp, e⟩
      · obtain e' | e' := ht k
        · exact ⟨k, by simp [hk], e'⟩
        · exact absurd (e'.trans e.symm) hne
    rw [keepsTaken, if_pos (by simpa using this)]
    rfl

theorem continues_lowest (pc : Word) (t : Nat → Word) : Continues none pc t (keepsLowest pc t) :=
  ⟨rfl, fun _ _ _ => rfl, fun _ _ _ => rfl⟩

theorem laneMask_nil : laneMask [] = 0#8 := rfl

theorem and_all (m : BitVec 8) : m &&& ~~~0#8 = m := by
  rw [show ~~~0#8 = BitVec.allOnes 8 by decide, BitVec.and_allOnes]

theorem deferredBy_nil (t : Nat → Word) (cur : Word) : deferredBy t cur [] = [] := rfl

/-- The choices of lanes that agree are one. -/
theorem eraseDups_agree {t : Nat → Word} {l : Nat} {ls : List Nat} (h : ∀ k ∈ ls, t k = t l) : ((l :: ls).map t).eraseDups = [t l] := by
  have : (ls.map t).filter (fun b => !b == t l) = [] := by simpa using h
  rw [List.map_cons, List.eraseDups_cons, this]
  rfl

/-- The choices of lanes that differ are two or more. -/
theorem eraseDups_differ {t : Nat → Word} {l : Nat} {ls : List Nat} (h : ∃ k ∈ ls, t k ≠ t l) :
    ∃ a b, ((l :: ls).map t).eraseDups = t l :: a :: b := by
  obtain ⟨k, hk, hne⟩ := h
  have hmem : t k ∈ (ls.map t).filter (fun b => !b == t l) := by simpa [hne] using ⟨k, hk, rfl⟩
  rw [List.map_cons, List.eraseDups_cons]
  cases hf : (ls.map t).filter (fun b => !b == t l) with
  | nil => simp [hf] at hmem
  | cons a b => exact ⟨a, _, by rw [List.eraseDups_cons]⟩

theorem deferredBy_agree {t : Nat → Word} {l : Nat} {ls : List Nat} (h : ∀ k ∈ ls, t k = t l) : deferredBy t (t l) (l :: ls) = [] := by
  rw [deferredBy, eraseDups_agree h]
  simp

/-- Lanes that differ leave an entry behind. -/
theorem deferredBy_differ {t : Nat → Word} {l : Nat} {ls : List Nat} (h : ∃ k ∈ ls, t k ≠ t l) (cur : Word) :
    deferredBy t cur (l :: ls) ≠ [] := by
  obtain ⟨k, hk, hne⟩ := h
  intro e
  have hall : ∀ m ∈ l :: ls, t m = cur := by
    simp only [deferredBy, List.map_eq_nil_iff, List.filter_eq_nil_iff, List.mem_eraseDups, List.mem_map, decide_eq_true_eq,
      not_not] at e
    exact fun m hm => e _ ⟨m, hm, rfl⟩
  exact hne ((hall k (by simp [hk])).trans (hall l (by simp)).symm)

/-- Lanes left behind are lanes that differ. -/
theorem differ_of_deferredBy {conds : Option Word} {pc : Word} {t : Nat → Word} {keeps : List Nat → Word}
    (hk : Continues conds pc t keeps) : ∀ {ls : List Nat}, deferredBy t (keeps ls) ls ≠ [] → ∃ l ∈ ls, ∃ k ∈ ls, t k ≠ t l
  | [], h => absurd (deferredBy_nil _ _) h
  | l :: ls, h => by
    by_contra hne
    push Not at hne
    have hall : ∀ k ∈ ls, t k = t l := fun k hk => hne l (by simp) k (by simp [hk])
    exact h (by rw [hk.whole l ls hall, deferredBy_agree hall])

/-- R39, R40, R194: a furrow of a dissolved group, all cases in one: it splits, unless it would hold a seventeenth entry. -/
theorem branchFur_eq {conds : Option Word} {pc : Word} {t : Nat → Word} {keeps : List Nat → Word} (hk : Continues conds pc t keeps)
    (ls : List Nat) (r : Furrow) : branchFur conds pc t ls r =
      if deferredBy t (keeps ls) ls ≠ [] ∧ 16 < r.stack.length + (deferredBy t (keeps ls) ls).length then none
      else some (splitFurrow t (keeps ls) ls r.grp r) := by
  cases ls with
  | nil => simpa [branchFur, deferredBy_nil, splitFurrow, hk.idle, laneMask_nil] using (and_all r.path).symm
  | cons l ls =>
    by_cases hall : ∀ k ∈ ls, t k = t l
    · have hmoved : (l :: ls).filter (fun k => decide (t k ≠ t l)) = [] := by simpa using hall
      rw [hk.whole l ls hall, if_neg (fun h => h.1 (deferredBy_agree hall)), splitFurrow, deferredBy_agree hall, hmoved, laneMask_nil,
        and_all, List.nil_append]
      simp only [branchFur, eraseDups_agree hall]
    · push Not at hall
      obtain ⟨a, b, htwo⟩ := eraseDups_differ hall
      have hcur := hk.split l ls hall
      have hdef := deferredBy_differ hall (keeps (l :: ls))
      simp only [branchFur, htwo]
      simp only [← htwo]
      cases conds with
      | none =>
        rw [Option.getD_none] at hcur
        rw [hcur] at hdef ⊢
        simp only [ne_eq, hdef, not_false_eq_true, true_and]
        rfl
      | some tgt =>
        rw [Option.getD_some] at hcur
        rw [hcur] at hdef ⊢
        simp only [ne_eq, hdef, not_false_eq_true, true_and]
        rfl

section Placed
variable {w : Issuer} {h : Herd} {hd : Header} {conds : Option Word} {t : Nat → Word} {keeps : List Nat → Word}

/-- The furrows of a dissolved group (R194). -/
def splitFurs (h : Herd) (f : Nat) (act : List Nat) (t : Nat → Word) (keeps : List Nat → Word) : List Furrow :=
  mapFurs h (h.group f) (fun j r => splitFurrow t (keeps (furLanes j act)) (furLanes j act) j r)

theorem branchFurs_eq : branchFurs (issueCtx w h hd) conds t =
    if (activeLanes h w.f hd).all (fun l => decide (t l = t ((activeLanes h w.f hd).headD 0))) then
      some (mapFurs h (h.group w.f) (fun _ r => { r with pc := t ((activeLanes h w.f hd).headD 0) }))
    else if (h.group w.f).any (fun j => (branchFur conds (h.fur w.f).pc t (furLanes j (activeLanes h w.f hd)) (h.fur j)).isNone) then none
    else some (mapFurs h (h.group w.f) (fun j r =>
      { (branchFur conds (h.fur w.f).pc t (furLanes j (activeLanes h w.f hd)) r).getD r with grp := j })) := rfl

/-- A group whose lanes choose one PC stays whole (R194). -/
theorem branchFurs_whole (ht : ∀ l ∈ activeLanes h w.f hd, t l = t ((activeLanes h w.f hd).headD 0)) :
    branchFurs (issueCtx w h hd) conds t =
      some (mapFurs h (h.group w.f) (fun _ r => { r with pc := t ((activeLanes h w.f hd).headD 0) })) := by
  rw [branchFurs_eq, if_pos (List.all_eq_true.mpr (fun l hl => decide_eq_true (ht l hl)))]

/-- R40: a furrow that would hold a seventeenth entry. -/
theorem branchFurs_overflow (hk : Continues conds (h.fur w.f).pc t keeps) {j : Nat} (hj : j ∈ h.group w.f)
    (hdef : deferredBy t (keeps (furLanes j (activeLanes h w.f hd))) (furLanes j (activeLanes h w.f hd)) ≠ [])
    (hfull : 16 < (h.fur j).stack.length
      + (deferredBy t (keeps (furLanes j (activeLanes h w.f hd))) (furLanes j (activeLanes h w.f hd))).length) :
    branchFurs (issueCtx w h hd) conds t = none := by
  obtain ⟨l, hl, k, hkm, hne⟩ := differ_of_deferredBy hk hdef
  have hact : ∀ {m}, m ∈ furLanes j (activeLanes h w.f hd) → m ∈ activeLanes h w.f hd := fun hm => (List.mem_filter.mp hm).1
  have hwhole : ¬ ∀ m ∈ activeLanes h w.f hd, t m = t ((activeLanes h w.f hd).headD 0) :=
    fun e => hne ((e k (hact hkm)).trans (e l (hact hl)).symm)
  rw [branchFurs_eq, if_neg (fun e => hwhole (fun m hm => of_decide_eq_true (List.all_eq_true.mp e m hm))), if_pos]
  exact List.any_eq_true.mpr ⟨j, hj, by rw [branchFur_eq hk, if_pos ⟨hdef, hfull⟩]; rfl⟩

/-- R194: a group whose lanes choose differently dissolves, unless a path stack overflows. -/
theorem branchFurs_split (hk : Continues conds (h.fur w.f).pc t keeps)
    (hne : ∃ l ∈ activeLanes h w.f hd, t l ≠ t ((activeLanes h w.f hd).headD 0)) :
    (branchFurs (issueCtx w h hd) conds t = none ∧ ¬ RoomFor h w.f (activeLanes h w.f hd) t keeps) ∨
      branchFurs (issueCtx w h hd) conds t = some (splitFurs h w.f (activeLanes h w.f hd) t keeps) := by
  obtain ⟨l, hl, hlt⟩ := hne
  rw [branchFurs_eq, if_neg (fun e => hlt (of_decide_eq_true (List.all_eq_true.mp e l hl)))]
  split
  · rename_i hfull
    obtain ⟨j, hj, hnone⟩ := List.any_eq_true.mp hfull
    refine .inl ⟨rfl, fun hroom => ?_⟩
    rw [branchFur_eq hk, if_neg (fun e => Nat.not_lt.mpr (hroom j hj) e.2)] at hnone
    cases hnone
  · rename_i hroom
    refine .inr (congrArg some (List.ext_getElem (by simp [splitFurs]) (fun j h1 h2 => ?_)))
    simp only [splitFurs, mapFurs, List.getElem_mapIdx, List.contains_iff_mem]
    simp only [length_mapFurs] at h1
    split
    · rename_i hj
      have hfur : h.fur j = h.furrows[j] := by simp [Herd.fur, h1]
      have hsome : branchFur conds (h.fur w.f).pc t (furLanes j (activeLanes h w.f hd)) h.furrows[j] ≠ none :=
        fun e => hroom (List.any_eq_true.mpr ⟨j, hj, by rw [hfur, e]; rfl⟩)
      rw [branchFur_eq hk] at hsome ⊢
      rw [if_neg (fun e => hsome (if_pos e))]
      rfl
    · rfl

/-- R39, R194: where the furrows of the group stand when no path stack overflows. -/
theorem branchFurs_branched (hk : Continues conds (h.fur w.f).pc t keeps) (hroom : RoomFor h w.f (activeLanes h w.f hd) t keeps) :
    ∃ l, branchFurs (issueCtx w h hd) conds t = some l ∧ l.length = h.furrows.length ∧
      Branched h (h.withFurs l) w.f (activeLanes h w.f hd) t keeps := by
  by_cases hwhole : ∀ l ∈ activeLanes h w.f hd, t l = t ((activeLanes h w.f hd).headD 0)
  · refine ⟨_, branchFurs_whole hwhole, length_mapFurs _ _ _, fun j hj => ?_, fun _ j hj => ?_, fun hne => ?_⟩
    · rw [fur_withFurs_mapFurs_group, if_neg hj]
    · rw [fur_withFurs_mapFurs_group, if_pos hj]
    · obtain ⟨l, hl, hlt⟩ := hne
      exact absurd (hwhole l hl) hlt
  · have hne : ∃ l ∈ activeLanes h w.f hd, t l ≠ t ((activeLanes h w.f hd).headD 0) := by simpa using hwhole
    obtain ⟨-, hfull⟩ | hsome := branchFurs_split hk hne
    · exact absurd hroom hfull
    · refine ⟨_, hsome, length_mapFurs _ _ _, fun j hj => ?_, fun hall => absurd hall hwhole, fun _ j hj => ?_⟩
      · rw [splitFurs, fur_withFurs_mapFurs_group, if_neg hj]
      · rw [splitFurs, fur_withFurs_mapFurs_group, if_pos hj]

end Placed
end Sys2Proof.Machine
end

section
/-! SUPPORT. Return addresses (R196, R197): what `call` and `calli` write, and what they leave. -/

namespace Sys2Proof.Machine

theorem vreg_act_v (g : Herd) (n a : Nat) (x : Lane) {m l : Nat} (ha : a < 64) (hl : l < 64) :
    (g.act (.v (vkey n a) [x])).vreg m l = if m = n ∧ l = a then x else g.vreg m l := by
  simp only [Herd.vreg, Herd.act_v, Sparse.get_write, vkey, List.length_singleton]
  by_cases e : m = n ∧ l = a
  · obtain ⟨rfl, rfl⟩ := e
    simp
  · rw [if_neg (by omega), if_neg e]

/-- The two words of an address in the pair n, n + 1 of some lanes. -/
def linkWords (n : Nat) (lo hi : Lane) (ls : List Nat) : List HAct :=
  ls.flatMap (fun l => [HAct.v (vkey n l) [lo], HAct.v (vkey (n + 1) l) [hi]])

theorem vreg_linkWords (n : Nat) (lo hi : Lane) (m : Nat) {l : Nat} (hl : l < 64) : ∀ (ls : List Nat) (g : Herd), (∀ a ∈ ls, a < 64) →
    (g.acts (linkWords n lo hi ls)).vreg m l = if l ∈ ls ∧ m = n then lo else if l ∈ ls ∧ m = n + 1 then hi else g.vreg m l
  | [], g, _ => by simp [linkWords]
  | a :: ls, g, h => by
    have ha := h a (by simp)
    have ih := vreg_linkWords n lo hi m hl ls ((g.act (.v (vkey n a) [lo])).act (.v (vkey (n + 1) a) [hi])) (fun b hb => h b (by simp [hb]))
    rw [linkWords, List.flatMap_cons, Herd.acts_append, ← linkWords, Herd.acts_cons, Herd.acts_cons, Herd.acts_nil, ih,
      vreg_act_v _ _ _ _ ha hl, vreg_act_v _ _ _ _ ha hl]
    by_cases hmem : l ∈ ls
    · by_cases hm : m = n <;> by_cases hm' : m = n + 1 <;> simp [hmem, hm, hm']
    · by_cases hla : l = a
      · subst hla
        by_cases hm : m = n <;> simp [hmem, hm]
      · simp [hmem, hla]

theorem linkActs_eq (c : Ctx) (n : Nat) {ls : List Nat} (hls : ls ≠ []) : linkActs c n ls =
    linkWords n ((c.pc + 8#64).setWidth 32) (((c.pc + 8#64) >>> 32).setWidth 32) ls ++ [.vtag n 0, .vtag (n + 1) 0] := by
  simp [linkActs, linkWords, hls]

/-- A link writes vector registers and their tags. -/
theorem mem_linkActs {c : Ctx} {n : Nat} {ls : List Nat} : ∀ a ∈ linkActs c n ls, (∃ lo xs, a = HAct.v lo xs) ∨ ∃ m x, a = HAct.vtag m x := by
  by_cases hls : ls = []
  · simp [linkActs, hls]
  · rw [linkActs_eq c n hls]
    simp only [linkWords, List.mem_append, List.mem_flatMap, List.mem_cons, List.not_mem_nil, or_false]
    rintro a (⟨l, -, rfl | rfl⟩ | rfl | rfl)
    exacts [.inl ⟨_, _, rfl⟩, .inl ⟨_, _, rfl⟩, .inr ⟨_, _, rfl⟩, .inr ⟨_, _, rfl⟩]

theorem furrows_linkActs (c : Ctx) (n : Nat) (ls : List Nat) (g : Herd) : (g.acts (linkActs c n ls)).furrows = g.furrows :=
  Herd.acts_furrows _ _ (fun a ha f r e => by
    subst e
    obtain ⟨_, _, e⟩ | ⟨_, _, e⟩ := mem_linkActs _ ha <;> cases e)

theorem tagOf_linkWords (n : Nat) (lo hi : Lane) (m : Nat) : ∀ (ls : List Nat) (g : Herd),
    (g.acts (linkWords n lo hi ls)).tagOf m = g.tagOf m
  | [], _ => rfl
  | _ :: ls, _ => tagOf_linkWords n lo hi m ls _

/-- R196, R197: a link puts the return address in the pair of its lanes, and leaves every other register. -/
theorem linked_linkActs (c : Ctx) (n : Nat) {ls : List Nat} (h64 : ∀ l ∈ ls, l < 64) (g : Herd) :
    Linked g (g.acts (linkActs c n ls)) n ls (c.pc + 8#64) := by
  have hrest : g.acts (linkActs c n ls) =
      { g with v := (g.acts (linkActs c n ls)).v, vtag := (g.acts (linkActs c n ls)).vtag, furrows := (g.acts (linkActs c n ls)).furrows } :=
    acts_only_v g _ (fun a ha => (mem_linkActs a ha).imp_right .inl)
  by_cases hls : ls = []
  · subst hls
    exact ⟨by simp, fun _ _ _ _ => rfl, fun m => by simp [linkActs], hrest⟩
  · have hv (m l : Nat) (hl : l < 64) : (g.acts (linkActs c n ls)).vreg m l =
        if l ∈ ls ∧ m = n then (c.pc + 8#64).setWidth 32
        else if l ∈ ls ∧ m = n + 1 then ((c.pc + 8#64) >>> 32).setWidth 32 else g.vreg m l := by
      rw [linkActs_eq c n hls, Herd.acts_append, ← vreg_linkWords n _ _ m hl ls g h64]
      rfl
    refine ⟨fun l hl => ⟨?_, ?_⟩, fun m l hl hne => ?_, fun m => ?_, hrest⟩
    · rw [hv n l (h64 l hl), if_pos ⟨hl, rfl⟩]
      ext i hi
      simp
    · rw [hv (n + 1) l (h64 l hl), if_neg (by omega), if_pos ⟨hl, rfl⟩]
      ext i hi
      simp
    · rw [hv m l hl, if_neg (fun e => hne ⟨.inl e.2, e.1⟩), if_neg (fun e => hne ⟨.inr e.2, e.1⟩)]
    · rw [linkActs_eq c n hls, Herd.acts_append]
      have htag := tagOf_linkWords n ((c.pc + 8#64).setWidth 32) (((c.pc + 8#64) >>> 32).setWidth 32) m ls g
      simp only [Herd.tagOf] at htag
      by_cases h1 : m = n + 1
      · simp [Herd.tagOf, Sparse.get_set, h1, hls]
      · by_cases h2 : m = n <;> simp [Herd.tagOf, Sparse.get_set, h1, h2, hls, htag]

end Sys2Proof.Machine
end

section
/-! SUPPORT. `br` and `call` (R194 to R196). -/

namespace Sys2Proof.Machine

theorem branched_congr {h g g' : Herd} {f : Nat} {act : List Nat} {t : Nat → Word} {keeps : List Nat → Word} (e : g'.furrows = g.furrows)
    (hb : Branched h g f act t keeps) : Branched h g' f act t keeps := by
  simpa only [Branched, fur_congr e] using hb

section Jump
variable {s : State} {w : Issuer} {h : Herd} {hd : Header} {conds : Option Word} {t : Nat → Word} {keeps : List Nat → Word}
  {lg : Ctx → Option Nat} {eff : Ctx → State → Res} {link : List Furrow → List HAct}

/-- A legal branch that no path stack stops places its group, and links. -/
theorem issue_branch (hi : Issues s w h) (hp : PredOk h hd) (ha : activeLanes h w.f hd ≠ []) (hl : lg (issueCtx w h hd) = none)
    (heff : eff (issueCtx w h hd) s = branchRes (issueCtx w h hd) conds t link) (hk : Continues conds (h.fur w.f).pc t keeps)
    (hroom : RoomFor h w.f (activeLanes h w.f hd) t keeps) :
    ∃ u l, issue hd lg eff s = .next u ∧ l.length = h.furrows.length ∧ OnlyHerd s u w h ((h.withFurs l).acts (link l)) ∧
      Branched h (h.withFurs l) w.f (activeLanes h w.f hd) t keeps := by
  obtain ⟨l, hsome, hlen, hb⟩ := branchFurs_branched hk hroom
  have hres : eff (issueCtx w h hd) s = .jump (herdActs w.key (setFurs l ++ link l)) := by
    rw [heff, branchRes, hsome]
    rfl
  have honly := onlyHerd_counted hi (setFurs l ++ link l)
  rw [Herd.acts_append, acts_setFurs hlen] at honly
  exact ⟨_, l, by rw [issue_legal hi hp ha lg hl, hres, finish_jump], hlen, honly, hb⟩

/-- A legal branch whose path stack overflows traps, and nothing of it happens (R40). -/
theorem issue_overflow (hi : Issues s w h) (hp : PredOk h hd) (hl : lg (issueCtx w h hd) = none)
    (heff : eff (issueCtx w h hd) s = branchRes (issueCtx w h hd) conds t link) (hk : Continues conds (h.fur w.f).pc t keeps)
    {j : Nat} (hj : j ∈ h.group w.f) (hw : TrapFree h (furMask (h.group w.f)))
    (hdef : deferredBy t (keeps (furLanes j (activeLanes h w.f hd))) (furLanes j (activeLanes h w.f hd)) ≠ [])
    (hfull : 16 < (h.fur j).stack.length
      + (deferredBy t (keeps (furLanes j (activeLanes h w.f hd))) (furLanes j (activeLanes h w.f hd))).length) :
    issue hd lg eff s = .next (trapped s h (trapAtWord w h 5 0)) := by
  have ha : activeLanes h w.f hd ≠ [] := fun e => hdef (by rw [e]; rfl)
  have hres : eff (issueCtx w h hd) s = .trap (trapOf 5 0) [] := by rw [heff, branchRes, branchFurs_overflow hk hj hdef hfull]
  rw [issue_legal hi hp ha lg hl, hres, run_finish_trap hi hd _ hw]
  rfl

end Jump

theorem condUses_sound {h : Herd} {x : FB} (hx : CondOk h x) : ∀ u ∈ condUses x, u.causes h = [] := by
  obtain ⟨hhid, hrsv, hck, h0, h1⟩ := hx
  have h0' : ¬ (x.ck = 0#2 ∧ (x.cn = true ∨ x.cr ≠ 0#5)) := by
    rintro ⟨e, hn | hr⟩
    · simp [(h0 e).1] at hn
    · exact hr (h0 e).2
  by_cases e : x.ck = 1#2
  · have := h1 e
    simp [condUses, hhid, hrsv, e, Use.causes]
    omega
  · simp_all [condUses, Use.causes]

theorem branch_continues (w : Issuer) (h : Herd) (x : FB) :
    Continues (some (branchTarget w h x)) (h.fur w.f).pc (branchChoice w h x) (keepsTaken (branchTarget w h x) (h.fur w.f).pc (branchChoice w h x)) :=
  continues_taken (fun l => by
    rw [branchChoice]
    split
    · exact .inl rfl
    · exact .inr rfl)

/-- The lanes that a branch leaves at a PC (R196). -/
theorem lanesAt_eq {w : Issuer} {h g : Herd} {hd : Header} {l : List Furrow} (hg : g.furrows = l) (hl : l.length = h.furrows.length)
    (pc : Word) : lanesAt (issueCtx w h hd) l pc = standAt g (h.group w.f) pc := by
  refine List.flatMap_congr (fun j hj => ?_)
  have hlt : j < l.length := hl ▸ group_lt h w.f j hj
  have hfur : g.fur j = l[j] := by simp [Herd.fur, hg, hlt]
  rw [Herd.pathLanes, hfur, List.getElem?_eq_getElem hlt]

theorem standAt_lt {h g : Herd} (h8 : h.furrows.length ≤ 8) (f : Nat) (pc : Word) : ∀ l ∈ standAt g (h.group f) pc, l < 64 := by
  intro l hl
  obtain ⟨j, hj, hmem⟩ := List.mem_flatMap.mp hl
  have := group_lt h f j hj
  split at hmem
  · have := (mem_pathLanes.mp hmem).1
    omega
  · cases hmem

theorem branchAndCallComplete : BranchAndCallComplete := by
  intro s w h hd x hi hh hx ha hroom
  have hlegal : legal false (condUses x) (issueCtx w h hd) = none := legal_none hh _ (condUses_sound hx)
  have hk := branch_continues w h x
  refine ⟨?_, ?_⟩
  · obtain ⟨u, l, he, -, honly, hb⟩ := issue_branch (link := fun _ => [])
      (eff := fun c _ => branchRes c (some (directTarget c x)) (nextPC c x) (fun _ => [])) hi hh.pred ha hlegal rfl hk hroom
    exact ⟨u, h.withFurs l, he, honly, rfl, hb⟩
  · obtain ⟨u, l, he, hlen, honly, hb⟩ := issue_branch (link := fun l => linkActs (issueCtx w h hd) 14 (lanesAt (issueCtx w h hd) l (branchTarget w h x)))
      (eff := fun c _ => branchRes c (some (directTarget c x)) (nextPC c x) (fun l => linkActs c 14 (lanesAt c l (directTarget c x))))
      hi hh.pred ha hlegal rfl hk hroom
    have hfurs := furrows_linkActs (issueCtx w h hd) 14 (lanesAt (issueCtx w h hd) l (branchTarget w h x)) (h.withFurs l)
    have hlanes := lanesAt_eq (w := w) (hd := hd) hfurs hlen (branchTarget w h x)
    refine ⟨u, _, he, honly, branched_congr hfurs hb, ?_⟩
    rw [← hlanes]
    exact linked_linkActs (issueCtx w h hd) 14 (hlanes ▸ standAt_lt hi.furrows w.f _) (h.withFurs l)

theorem pathStackOverflowTraps : PathStackOverflowTraps := by
  intro s w h hd x j hi hh hx hj hw hfull hdef
  have hlegal : legal false (condUses x) (issueCtx w h hd) = none := legal_none hh _ (condUses_sound hx)
  have hk := branch_continues w h x
  exact ⟨issue_overflow hi hh.pred hlegal rfl hk hj hw hdef hfull, issue_overflow hi hh.pred hlegal rfl hk hj hw hdef hfull⟩

/-- Settles O11: the lanes of `br` and `call` choose between two PCs, the target is kept where one takes it, and each furrow splits as
`branchFur_eq` says, or overflows. -/
theorem directBranchesFollowTheirRules : Obligations.DirectBranchesFollowTheirRules :=
  ⟨branchAndCallComplete, pathStackOverflowTraps⟩

end Sys2Proof.Machine
end

section
/-! SUPPORT. `jmpi`, `calli` and `ret` (R197 to R199). -/

namespace Sys2Proof.Machine

/-- A legal word that jumps to a target of each lane, and links. -/
structure IndirectWord (i : Instr) (s : State) (w : Issuer) (h : Herd) (hd : Header) (dest : Nat → Word) (link : List HAct) : Prop where
  word : ∃ lg eff, exec i s = issue hd lg eff s ∧ lg (issueCtx w h hd) = none ∧
    eff (issueCtx w h hd) s = indirect (issueCtx w h hd) dest link

/-- The two halves of a link pair, joined (R198). -/
theorem join_halves (a b : Lane) : a.setWidth 64 <<< 32 ||| b.setWidth 64 = a ++ b := by
  ext i hi
  rw [BitVec.getElem_append]
  by_cases h : i < 32
  · simp [h]
  · simp [h, BitVec.getLsbD_of_ge b i (by omega), BitVec.getLsbD_eq_getElem (x := a) (i := i - 32) (by omega)]

section Words
variable {w : Issuer} {h : Herd} {hd : Header} {x : F3} (s : State) (hh : PlainHeader h hd false) (hfn : x.fn = 0#8) (hmb : x.mb = 0#8)
include hh hfn hmb

theorem indirectWord_jmpi (hd0 : x.d = 0#8) (ha : x.a.toNat < h.nregs) (hb : x.b.toNat < 64) :
    IndirectWord (.jmpi hd x) s w h hd (tableChoice h x) [] := by
  refine ⟨_, _, rfl, legal_none hh _ ?_, rfl⟩
  simp [Use.causes, hd0, hfn, hmb, Nat.mod_one]
  omega

theorem indirectWord_calli (hd2 : x.d.toNat % 2 = 0) (hdn : x.d.toNat + 1 < h.nregs) (ha : x.a.toNat < h.nregs) (hb : x.b.toNat < 64) :
    IndirectWord (.calli hd x) s w h hd (tableChoice h x)
      (linkActs (issueCtx w h hd) x.d.toNat (lanesGone (issueCtx w h hd) (tableChoice h x))) := by
  refine ⟨_, _, rfl, legal_none hh _ ?_, rfl⟩
  simp [Use.causes, hd2, hfn, hmb, Nat.mod_one]
  omega

theorem indirectWord_ret (hd0 : x.d = 0#8) (hb : x.b = 0#8) (ha2 : x.a.toNat % 2 = 0) (han : x.a.toNat + 1 < h.nregs) :
    IndirectWord (.ret hd x) s w h hd (linkChoice h x) [] := by
  refine ⟨_, _, rfl, legal_none hh _ ?_, ?_⟩
  · simp [Use.causes, hd0, hb, ha2, hfn, hmb]
    omega
  · exact congrArg (fun t => indirect (issueCtx w h hd) t []) (funext (fun l => join_halves _ _))

/-- Each word of the table is one. -/
theorem indirectWord_of_mem {e : (Header → F3 → Instr) × (Herd → F3 → Prop) × (Herd → F3 → Nat → Word)} (he : e ∈ indirectWords)
    (hok : e.2.1 h x) : ∃ link, IndirectWord (e.1 hd x) s w h hd (e.2.2 h x) link := by
  simp only [indirectWords, List.mem_cons, List.not_mem_nil, or_false] at he
  obtain rfl | rfl | rfl := he
  · obtain ⟨h1, h2, h3⟩ := hok
    exact ⟨_, indirectWord_jmpi s hh hfn hmb h1 h2 h3⟩
  · obtain ⟨h1, h2, h3, h4⟩ := hok
    exact ⟨_, indirectWord_calli s hh hfn hmb h1 h2 h3 h4⟩
  · obtain ⟨h1, h2, h3, h4⟩ := hok
    exact ⟨_, indirectWord_ret s hh hfn hmb h1 h2 h3 h4⟩

end Words

/-! The checks of the targets (R199). -/

theorem fld_zero_of_lt {a : Word} (h : a.toNat < 2 ^ 48) : fld a 63 60 = 0 ∧ fld a 63 48 = 0 := by
  simp only [fld, BitVec.toNat_ushiftRight, Nat.shiftRight_eq_div_pow]
  constructor
  · rw [Nat.div_eq_of_lt (by omega)]
    rfl
  · rw [Nat.div_eq_of_lt h]
    rfl

section Targets
variable {w : Issuer} {h : Herd} {hd : Header} {t : Nat → Word} {l : Nat}

theorem targetFault_none (ht : ∀ l ∈ activeLanes h w.f hd, TargetOk (t l)) : targetFault (issueCtx w h hd) t = none := by
  have h1 : (activeLanes h w.f hd).find? (fun l => decide ((t l).toNat % 8 ≠ 0)) = none := by simpa using fun l hl => (ht l hl).1
  have h2 : (activeLanes h w.f hd).find? (fun l => decide (7 ≤ fld (t l) 63 60)) = none := by
    simpa using fun l hl => by simp [(fld_zero_of_lt (ht l hl).2).1]
  have h3 : (activeLanes h w.f hd).find? (fun l => decide (fld (t l) 63 48 ≠ 0)) = none := by
    simpa using fun l hl => (fld_zero_of_lt (ht l hl).2).2
  simp only [targetFault, issueCtx, h1, h2, h3]

variable (hl : l ∈ activeLanes h w.f hd)
include hl

theorem targetFault_align (hbad : (t l).toNat % 8 ≠ 0) (hlow : ∀ k ∈ activeLanes h w.f hd, k < l → (t k).toNat % 8 = 0) :
    targetFault (issueCtx w h hd) t = some (trapAt 1 0 l (t l)) := by
  have h1 := find?_lowest (pairwise_activeLanes h w.f hd) (p := fun l => decide ((t l).toNat % 8 ≠ 0)) hl (decide_eq_true hbad)
    (fun k hk hkl => by simp [hlow k hk hkl])
  simp only [targetFault, issueCtx, h1]

theorem targetFault_space (hall : ∀ k ∈ activeLanes h w.f hd, (t k).toNat % 8 = 0) (hbad : 7 ≤ fld (t l) 63 60)
    (hlow : ∀ k ∈ activeLanes h w.f hd, k < l → fld (t k) 63 60 < 7) :
    targetFault (issueCtx w h hd) t = some (trapAt 2 1 l (t l)) := by
  have h1 : (activeLanes h w.f hd).find? (fun l => decide ((t l).toNat % 8 ≠ 0)) = none := by simpa using hall
  have h2 := find?_lowest (pairwise_activeLanes h w.f hd) (p := fun l => decide (7 ≤ fld (t l) 63 60)) hl (decide_eq_true hbad)
    (fun k hk hkl => by simpa using hlow k hk hkl)
  simp only [targetFault, issueCtx, h1, h2]

theorem targetFault_field (hall : ∀ k ∈ activeLanes h w.f hd, (t k).toNat % 8 = 0 ∧ fld (t k) 63 60 < 7) (hbad : fld (t l) 63 48 ≠ 0)
    (hlow : ∀ k ∈ activeLanes h w.f hd, k < l → fld (t k) 63 48 = 0) :
    targetFault (issueCtx w h hd) t = some (trapAt 2 2 l (t l)) := by
  have h1 : (activeLanes h w.f hd).find? (fun l => decide ((t l).toNat % 8 ≠ 0)) = none := by simpa using fun k hk => (hall k hk).1
  have h2 : (activeLanes h w.f hd).find? (fun l => decide (7 ≤ fld (t l) 63 60)) = none := by simpa using fun k hk => (hall k hk).2
  have h3 := find?_lowest (pairwise_activeLanes h w.f hd) (p := fun l => decide (fld (t l) 63 48 ≠ 0)) hl (decide_eq_true hbad)
    (fun k hk hkl => by simp [hlow k hk hkl])
  simp only [targetFault, issueCtx, h1, h2, h3]

end Targets

section Go
variable {i : Instr} {s : State} {w : Issuer} {h : Herd} {hd : Header} {dest : Nat → Word} {link : List HAct}

/-- Targets that pass the checks, with room in each path stack: the word places its group and links. -/
theorem IndirectWord.goes (hw : IndirectWord i s w h hd dest link) (hi : Issues s w h) (hp : PredOk h hd)
    (ha : activeLanes h w.f hd ≠ []) (ht : ∀ l ∈ activeLanes h w.f hd, TargetOk (dest l))
    (hroom : RoomFor h w.f (activeLanes h w.f hd) dest (keepsLowest (h.fur w.f).pc dest)) :
    ∃ u l, exec i s = .next u ∧ OnlyHerd s u w h ((h.withFurs l).acts link) ∧
      Branched h (h.withFurs l) w.f (activeLanes h w.f hd) dest (keepsLowest (h.fur w.f).pc dest) := by
  obtain ⟨lg, eff, he, hl, heff⟩ := hw.word
  have hbranch : eff (issueCtx w h hd) s = branchRes (issueCtx w h hd) none dest (fun _ => link) := by
    rw [heff, indirect, targetFault_none ht]
  obtain ⟨u, l, hu, -, honly, hb⟩ := issue_branch hi hp ha hl hbranch (continues_lowest _ _) hroom
  exact ⟨u, l, he.trans hu, honly, hb⟩

/-- A target that fails a check traps. -/
theorem IndirectWord.traps (hw : IndirectWord i s w h hd dest link) (hi : Issues s w h) (hp : PredOk h hd)
    (ha : activeLanes h w.f hd ≠ []) (hfree : TrapFree h (furMask (h.group w.f))) {q : TrapReq}
    (hq : targetFault (issueCtx w h hd) dest = some q) :
    exec i s = .next (trapped s h ((issueCtx w h hd).info q (h.fur w.f).pc)) := by
  obtain ⟨lg, eff, he, hl, heff⟩ := hw.word
  rw [he, issue_legal hi hp ha lg hl, heff, indirect, hq, run_finish_trap hi hd _ hfree]

/-- A seventeenth entry traps (R40). -/
theorem IndirectWord.overflows (hw : IndirectWord i s w h hd dest link) (hi : Issues s w h) (hp : PredOk h hd)
    (hfree : TrapFree h (furMask (h.group w.f))) (ht : ∀ l ∈ activeLanes h w.f hd, TargetOk (dest l)) {j : Nat} (hj : j ∈ h.group w.f)
    (hdef : deferredBy dest (keepsLowest (h.fur w.f).pc dest (furLanes j (activeLanes h w.f hd))) (furLanes j (activeLanes h w.f hd)) ≠ [])
    (hfull : 16 < (h.fur j).stack.length + (deferredBy dest (keepsLowest (h.fur w.f).pc dest (furLanes j (activeLanes h w.f hd)))
      (furLanes j (activeLanes h w.f hd))).length) : exec i s = .next (trapped s h (trapAtWord w h 5 0)) := by
  obtain ⟨lg, eff, he, hl, heff⟩ := hw.word
  have hbranch : eff (issueCtx w h hd) s = branchRes (issueCtx w h hd) none dest (fun _ => link) := by
    rw [heff, indirect, targetFault_none ht]
  exact he.trans (issue_overflow hi hp hl hbranch (continues_lowest _ _) hj hfree hdef hfull)

end Go

/-- R197: the lanes that `calli` links. -/
theorem mem_lanesGone {w : Issuer} {h : Herd} {hd : Header} {t : Nat → Word} {l : Nat} : l ∈ lanesGone (issueCtx w h hd) t ↔
    l ∈ h.lanesOf (h.group w.f) ∧ ((∀ k ∈ activeLanes h w.f hd, t k = t ((activeLanes h w.f hd).headD 0))
      ∨ furLanes (l / 8) (activeLanes h w.f hd) ≠ []) := by
  have hfur : furLanes (l / 8) (activeLanes h w.f hd) ≠ [] ↔ ∃ k ∈ activeLanes h w.f hd, k / 8 = l / 8 := by
    simp [furLanes]
  have hgone : lanesGone (issueCtx w h hd) t =
      if (activeLanes h w.f hd).all (fun k => decide (t k = t ((activeLanes h w.f hd).headD 0))) then h.lanesOf (h.group w.f)
      else (h.lanesOf (h.group w.f)).filter (fun l => (activeLanes h w.f hd).any (fun k => decide (k / 8 = l / 8))) := rfl
  rw [hgone, hfur]
  by_cases hall : ∀ k ∈ activeLanes h w.f hd, t k = t ((activeLanes h w.f hd).headD 0)
  · rw [if_pos (List.all_eq_true.mpr (fun k hk => decide_eq_true (hall k hk)))]
    exact ⟨fun hl => ⟨hl, .inl hall⟩, fun hl => hl.1⟩
  · rw [if_neg (fun e => hall (fun k hk => of_decide_eq_true (List.all_eq_true.mp e k hk))), List.mem_filter, List.any_eq_true]
    simp only [decide_eq_true_eq, hall, false_or]

theorem indirectJumpsGo : IndirectJumpsGo := by
  intro s w h hd x hi hh hfn hmb ha
  refine ⟨fun hd0 han hb ht hroom => ?_, fun hd2 hdn han hb ht hroom => ?_, fun hd0 hb ha2 han ht hroom => ?_⟩
  · obtain ⟨u, l, he, honly, hbr⟩ := (indirectWord_jmpi s hh hfn hmb hd0 han hb).goes hi hh.pred ha ht hroom
    exact ⟨u, h.withFurs l, he, honly, rfl, hbr⟩
  · obtain ⟨u, l, he, honly, hbr⟩ := (indirectWord_calli s hh hfn hmb hd2 hdn han hb).goes hi hh.pred ha ht hroom
    refine ⟨u, _, lanesGone (issueCtx w h hd) (tableChoice h x), he, honly, branched_congr (furrows_linkActs _ _ _ _) hbr, ?_,
      fun l => mem_lanesGone⟩
    refine linked_linkActs (issueCtx w h hd) x.d.toNat (fun l hl => ?_) (h.withFurs _)
    have := lanesOf_lt h _ (group_lt h w.f) l (mem_lanesGone.mp hl).1
    have := hi.furrows
    omega
  · obtain ⟨u, l, he, honly, hbr⟩ := (indirectWord_ret s hh hfn hmb hd0 hb ha2 han).goes hi hh.pred ha ht hroom
    exact ⟨u, h.withFurs l, he, honly, rfl, hbr⟩

theorem indirectTargetsTrap : IndirectTargetsTrap := by
  intro e he s w h hd x ls dest hi hh hfn hmb hok hls ha hdest hfree
  subst hls hdest
  obtain ⟨link, hw⟩ := indirectWord_of_mem (w := w) s hh hfn hmb he hok
  refine ⟨fun l hl hbad hlow => hw.traps hi hh.pred ha hfree (targetFault_align hl hbad hlow),
    fun l hl hall hbad hlow => hw.traps hi hh.pred ha hfree (targetFault_space hl hall hbad hlow),
    fun l hl hall hbad hlow => hw.traps hi hh.pred ha hfree (targetFault_field hl hall hbad hlow),
    fun j hj ht hdef hfull => hw.overflows hi hh.pred hfree ht hj hdef hfull⟩

/-- Settles O9: the three words are one shape (`IndirectWord`): the first failed check of a target traps at its lowest lane, and targets
that pass place the group as any branch does, with the lowest lane's target kept. -/
theorem indirectJumpsComplete : Obligations.IndirectJumpsComplete := ⟨indirectJumpsGo, indirectTargetsTrap⟩

end Sys2Proof.Machine
end

section
/-! SUPPORT. The lanes of a furrow (R38): in how many places each stands, and what keeps them there. -/

namespace Sys2Proof.Machine

/-- In how many places lane b of a furrow stands: its current path and the entries of its path stack. -/
def Furrow.places (r : Furrow) (b : Nat) : Nat :=
  (if r.path.getLsbD b then 1 else 0) + (r.stack.filter (fun e => e.mask.getLsbD b)).length

/-- No lane is lost, none is gained, and none gets into a second place. -/
def KeepsLanes (r r' : Furrow) : Prop := ∀ b < 8, r'.places b ≤ r.places b ∧ (r.places b ≠ 0 → r'.places b ≠ 0)

theorem KeepsLanes.refl (r : Furrow) : KeepsLanes r r := fun _ _ => ⟨Nat.le_refl _, id⟩

theorem KeepsLanes.trans {a b c : Furrow} (h1 : KeepsLanes a b) (h2 : KeepsLanes b c) : KeepsLanes a c := fun n hn =>
  ⟨(h2 n hn).1.trans (h1 n hn).1, fun h => (h2 n hn).2 ((h1 n hn).2 h)⟩

theorem keepsLanes_of_same {r r' : Furrow} (hp : r'.path = r.path) (hs : r'.stack = r.stack) : KeepsLanes r r' := fun b _ => by
  simp [Furrow.places, hp, hs]

theorem eachLaneOnce_iff (r : Furrow) : EachLaneOnce r ↔ ∀ b < 8, r.places b ≤ 1 := Iff.rfl

theorem getLsbD_foldl_masks (b : Nat) : ∀ (st : List PathEntry) (m : BitVec 8),
    (st.foldl (fun m e => m ||| e.mask) m).getLsbD b = (m.getLsbD b || st.any (fun e => e.mask.getLsbD b))
  | [], m => by simp
  | e :: st, m => by
    rw [List.foldl_cons, getLsbD_foldl_masks b st, BitVec.getLsbD_or, List.any_cons, Bool.or_assoc]

/-- A furrow's lanes are those that stand somewhere. -/
theorem getLsbD_lanes (r : Furrow) (b : Nat) : r.lanes.getLsbD b = decide (r.places b ≠ 0) := by
  have hany : r.stack.any (fun e => e.mask.getLsbD b) = decide ((r.stack.filter (fun e => e.mask.getLsbD b)).length ≠ 0) := by
    rw [Bool.eq_iff_iff]
    simp
  rw [Furrow.lanes, getLsbD_foldl_masks, hany, Furrow.places]
  cases r.path.getLsbD b <;> simp

theorem KeepsLanes.lanes {r r' : Furrow} (h : KeepsLanes r r') : r'.lanes = r.lanes := by
  refine BitVec.eq_of_getLsbD_eq (fun b hb => ?_)
  obtain ⟨hle, hne⟩ := h b hb
  rw [getLsbD_lanes, getLsbD_lanes, decide_eq_decide]
  exact ⟨fun hn e => hn (by omega), hne⟩

theorem KeepsLanes.once {r r' : Furrow} (h : KeepsLanes r r') (hr : EachLaneOnce r) : EachLaneOnce r' := fun b hb =>
  (h b hb).1.trans (hr b hb)

/-- A furrow whose lanes are gathered in one path (R357). -/
theorem keepsLanes_gathered {r r' : Furrow} (hp : r'.path = r.lanes) (hs : r'.stack = []) : KeepsLanes r r' := by
  intro b _
  have : r'.places b = if r.places b ≠ 0 then 1 else 0 := by
    rw [Furrow.places, hp, hs, getLsbD_lanes]
    by_cases h : r.places b = 0 <;> simp [h]
  rw [this]
  split <;> omega

/-- The herd of a furrow list, its lanes where they were. -/
structure LanesKept (h g : Herd) : Prop where
  length : g.furrows.length = h.furrows.length
  fur : ∀ j, KeepsLanes (h.fur j) (g.fur j)

theorem LanesKept.refl (h : Herd) : LanesKept h h := ⟨rfl, fun _ => .refl _⟩

theorem LanesKept.trans {a b c : Herd} (h1 : LanesKept a b) (h2 : LanesKept b c) : LanesKept a c :=
  ⟨h2.length.trans h1.length, fun j => (h1.fur j).trans (h2.fur j)⟩

theorem lanesKept_of_furrows {h g : Herd} (e : g.furrows = h.furrows) : LanesKept h g :=
  ⟨by rw [e], fun j => by rw [fur_congr e]; exact .refl _⟩

theorem lanesKept_mapFurs {h : Herd} {fs : List Nat} {p : Nat → Furrow → Furrow} (hp : ∀ j ∈ fs, KeepsLanes (h.fur j) (p j (h.fur j))) :
    LanesKept h (h.withFurs (mapFurs h fs p)) := by
  refine ⟨length_mapFurs _ _ _, fun j => ?_⟩
  by_cases hj : j < h.furrows.length
  · rw [fur_withFurs_mapFurs h fs p hj]
    split
    · exact hp j ‹_›
    · exact .refl _
  · rw [fur_of_length_le (Nat.le_of_not_lt hj), fur_of_length_le (by simpa [Herd.withFurs] using hj)]
    exact .refl _

theorem lanesKept_map (h : Herd) (l : List Furrow) {p : Furrow → Furrow} (hp : ∀ r, KeepsLanes r (p r)) :
    LanesKept (h.withFurs l) (h.withFurs (l.map p)) := by
  refine ⟨List.length_map _, fun j => ?_⟩
  by_cases hj : j < l.length
  · simp only [Herd.fur, Herd.withFurs, List.getD_eq_getElem?_getD, List.getElem?_map, List.getElem?_eq_getElem hj, Option.map_some,
      Option.getD_some]
    exact hp _
  · rw [fur_of_length_le (h := h.withFurs l) (by simpa [Herd.withFurs] using hj), fur_of_length_le (by simpa [Herd.withFurs] using hj)]
    exact .refl _

end Sys2Proof.Machine
end

section
/-! SUPPORT. A furrow that splits (R39) keeps its lanes. -/

namespace Sys2Proof.Machine

theorem nodup_eraseDups {α : Type} [BEq α] [LawfulBEq α] : ∀ l : List α, l.eraseDups.Nodup
  | [] => by simp
  | a :: l => by
    rw [List.eraseDups_cons, List.nodup_cons]
    exact ⟨by simp, nodup_eraseDups _⟩
  termination_by l => l.length
  decreasing_by exact Nat.lt_succ_of_le (List.length_filter_le _ _)

theorem getLsbD_foldl_bits {b : Nat} (hb : b < 8) : ∀ (is : List Nat) (m : BitVec 8), (∀ i ∈ is, i < 8) →
    (is.foldl (fun m i => m ||| BitVec.ofNat 8 (2 ^ i)) m).getLsbD b = (m.getLsbD b || decide (b ∈ is))
  | [], m, _ => by simp
  | i :: is, m, h => by
    have hbit : (BitVec.ofNat 8 (2 ^ i)).getLsbD b = decide (b = i) := by
      rw [BitVec.getLsbD_ofNat, Nat.testBit_two_pow, decide_eq_true hb, Bool.true_and, decide_eq_decide, eq_comm]
    rw [List.foldl_cons, getLsbD_foldl_bits hb is _ (fun k hk => h k (by simp [hk])), BitVec.getLsbD_or, hbit]
    by_cases e : b = i <;> simp [e]

/-- The mask of some indices. -/
theorem getLsbD_maskOf {is : List Nat} {b : Nat} (hb : b < 8) (his : ∀ i ∈ is, i < 8) : (maskOf 8 is).getLsbD b = decide (b ∈ is) := by
  rw [maskOf, getLsbD_foldl_bits hb is _ his]
  simp

theorem getLsbD_laneMask (ls : List Nat) {b : Nat} (hb : b < 8) : (laneMask ls).getLsbD b = decide (∃ l ∈ ls, l % 8 = b) := by
  rw [laneMask, getLsbD_maskOf hb (by simpa using fun a _ => Nat.mod_lt a (by decide))]
  simp

section Split
variable {t : Nat → Word} {cur : Word} {ls : List Nat} {j : Nat}

/-- How many of the entries left behind have lane b: one if its lane moved, else none. -/
theorem count_deferredBy (hj : ∀ l ∈ ls, l / 8 = j) {b : Nat} (hb : b < 8) :
    ((deferredBy t cur ls).filter (fun e => e.mask.getLsbD b)).length = if 8 * j + b ∈ ls ∧ t (8 * j + b) ≠ cur then 1 else 0 := by
  have hmask (p : Word) : (laneMask (ls.filter (fun l => decide (t l = p)))).getLsbD b = decide (8 * j + b ∈ ls ∧ t (8 * j + b) = p) := by
    rw [getLsbD_laneMask _ hb, decide_eq_decide]
    constructor
    · rintro ⟨l, hl, hlb⟩
      obtain ⟨hl, hp⟩ := List.mem_filter.mp hl
      have : l = 8 * j + b := by have := hj l hl; omega
      exact this ▸ ⟨hl, of_decide_eq_true hp⟩
    · rintro ⟨hl, hp⟩
      exact ⟨_, List.mem_filter.mpr ⟨hl, decide_eq_true hp⟩, by omega⟩
  rw [deferredBy, List.filter_map, List.length_map, List.filter_filter]
  simp only [Function.comp_def, hmask]
  by_cases hl : 8 * j + b ∈ ls ∧ t (8 * j + b) ≠ cur
  · obtain ⟨hl, hne⟩ := hl
    have hp : ∀ p : Word, (decide (8 * j + b ∈ ls ∧ t (8 * j + b) = p) && decide (p ≠ cur)) = (p == t (8 * j + b)) := by
      intro p
      rw [Bool.eq_iff_iff]
      simp only [hl, true_and, Bool.and_eq_true, decide_eq_true_eq, beq_iff_eq]
      exact ⟨fun e => e.1.symm, fun e => ⟨e.symm, e ▸ hne⟩⟩
    rw [if_pos ⟨hl, hne⟩, List.filter_congr (fun p _ => hp p), ← List.count_eq_length_filter]
    exact List.count_eq_one_of_mem (nodup_eraseDups _) (by simpa using ⟨_, hl, rfl⟩)
  · rw [if_neg hl, List.length_eq_zero_iff, List.filter_eq_nil_iff]
    rintro p - hp
    simp only [Bool.and_eq_true, decide_eq_true_eq] at hp
    exact hl ⟨hp.1.1, hp.1.2 ▸ hp.2⟩

/-- A furrow whose lanes `ls` stand in its path keeps its lanes when it splits (R39). -/
theorem keepsLanes_splitFurrow {r : Furrow} (hj : ∀ l ∈ ls, l / 8 = j) (hpath : ∀ l ∈ ls, r.path.getLsbD (l % 8) = true) (i : Nat) :
    KeepsLanes r (splitFurrow t cur ls i r) := by
  intro b hb
  have hmoved : (laneMask (ls.filter (fun l => decide (t l ≠ cur)))).getLsbD b = decide (8 * j + b ∈ ls ∧ t (8 * j + b) ≠ cur) := by
    rw [getLsbD_laneMask _ hb, decide_eq_decide]
    constructor
    · rintro ⟨l, hl, hlb⟩
      obtain ⟨hl, hp⟩ := List.mem_filter.mp hl
      have : l = 8 * j + b := by have := hj l hl; omega
      exact this ▸ ⟨hl, of_decide_eq_true hp⟩
    · rintro ⟨hl, hp⟩
      exact ⟨_, List.mem_filter.mpr ⟨hl, decide_eq_true hp⟩, by omega⟩
  have hsame : (splitFurrow t cur ls i r).places b = r.places b := by
    simp only [Furrow.places, splitFurrow, List.filter_append, List.length_append, count_deferredBy hj hb, BitVec.getLsbD_and,
      BitVec.getLsbD_not, hmoved, hb, decide_true, Bool.true_and]
    by_cases hl : 8 * j + b ∈ ls ∧ t (8 * j + b) ≠ cur
    · have hbit := hpath _ hl.1
      rw [show (8 * j + b) % 8 = b by omega] at hbit
      simp [hl.1, hl.2, hbit]
    · simp [hl]
  rw [hsame]
  exact ⟨Nat.le_refl _, id⟩

end Split
end Sys2Proof.Machine
end

section
/-! SUPPORT. Paths that end and paths that park (R41, R42). -/

namespace Sys2Proof.Machine

/-! The end of a path (R42). -/

/-- The topmost deferred entry, below parked ones. -/
theorem resumeFur_deferred {r : Furrow} {pre post : List PathEntry} {e : PathEntry} (hs : r.stack = pre ++ e :: post)
    (hpre : ∀ q ∈ pre, q.parked = true) (he : e.parked = false) :
    resumeFur r = { r with pc := e.pc, path := e.mask, stack := pre ++ post } := by
  have hnone : pre.findIdx? (fun e => !e.parked) = none := by simpa using hpre
  have htop : topDeferred (pre ++ e :: post) = some pre.length := by
    rw [topDeferred, List.findIdx?_append, hnone, List.findIdx?_cons, he]
    simp
  simp only [resumeFur, hs, htop]
  simp [List.eraseIdx_append_of_length_le]

/-- With parked entries alone, the topmost. -/
theorem resumeFur_parked {r : Furrow} {e : PathEntry} {rest : List PathEntry} (hs : r.stack = e :: rest)
    (hall : ∀ q ∈ r.stack, q.parked = true) :
    resumeFur r = bumpHead e.hid { r with pc := e.pc + 8#64, path := e.mask, stack := rest } := by
  have htop : topDeferred (e :: rest) = none := by simpa [topDeferred, hs] using hall
  simp only [resumeFur, hs, htop]

theorem resumeFur_nil {r : Furrow} (hs : r.stack = []) : resumeFur r = { r with path := 0, st := .notLive } := by
  simp [resumeFur, topDeferred, hs]

/-- An entry list has a topmost deferred entry, or none at all. -/
theorem deferred_cases (st : List PathEntry) : (∀ q ∈ st, q.parked = true) ∨
    ∃ pre e post, st = pre ++ e :: post ∧ (∀ q ∈ pre, q.parked = true) ∧ e.parked = false := by
  cases hf : st.find? (fun e => !e.parked) with
  | none => exact .inl (by simpa using hf)
  | some e =>
    obtain ⟨he, pre, post, hst, hpre⟩ := List.find?_eq_some_iff_append.mp hf
    exact .inr ⟨pre, e, post, hst, by simpa using hpre, by simpa using he⟩

/-- A furrow that resumes has the lanes of its entries. -/
theorem places_resumeFur {r : Furrow} (hs : r.stack ≠ []) (b : Nat) :
    (resumeFur r).places b = (r.stack.filter (fun e => e.mask.getLsbD b)).length := by
  obtain hall | ⟨pre, e, post, hst, hpre, he⟩ := deferred_cases r.stack
  · obtain ⟨e, rest, hst⟩ := List.exists_cons_of_ne_nil hs
    rw [resumeFur_parked hst hall, hst, List.filter_cons, Furrow.places, bumpHead]
    split <;> simp [Nat.add_comm]
  · rw [resumeFur_deferred hst hpre he, hst, List.filter_append, List.filter_cons, Furrow.places, List.filter_append]
    split
    · simp
      omega
    · simp

/-! Parking (R41). -/

section Park
variable {n : Nat} {r : Furrow}

/-- The model's test for an entry that a path merges with. -/
theorem merges_iff (e : PathEntry) :
    (e.parked && decide (e.pc = r.pc) && decide (e.hid = n) && decide (e.cnt = r.hcnt.getD n 0#16)) = true ↔ Merges n r e := by
  simp [Merges, and_assoc]

theorem parkAt_merge {pre post : List PathEntry} {k : PathEntry} (hs : r.stack = pre ++ k :: post) (hk : Merges n r k)
    (hpre : ∀ q ∈ pre, ¬ Merges n r q) :
    parkAt r n = some (resumeFur { r with stack := pre ++ { k with mask := k.mask ||| r.path } :: post }) := by
  have hnone : pre.findIdx? (fun e => e.parked && decide (e.pc = r.pc) && decide (e.hid = n) && decide (e.cnt = r.hcnt.getD n 0#16)) = none :=
    List.findIdx?_eq_none_iff.mpr (fun q hq => Bool.eq_false_iff.mpr (fun e => hpre q hq ((merges_iff q).mp e)))
  have hidx : r.stack.findIdx? (fun e => e.parked && decide (e.pc = r.pc) && decide (e.hid = n) && decide (e.cnt = r.hcnt.getD n 0#16))
      = some pre.length := by
    rw [hs, List.findIdx?_append, hnone, List.findIdx?_cons, (merges_iff k).mpr hk]
    simp
  have hmap : r.stack.mapIdx (fun j e => if j = pre.length then { e with mask := e.mask ||| r.path } else e)
      = pre ++ { k with mask := k.mask ||| r.path } :: post := by
    rw [hs]
    refine List.ext_getElem (by simp) (fun j h1 h2 => ?_)
    rw [List.getElem_mapIdx]
    by_cases hj : j < pre.length
    · simp [hj, Nat.ne_of_lt hj]
    · by_cases he : j = pre.length
      · simp [he]
      · obtain ⟨i, rfl⟩ : ∃ i, j = pre.length + (i + 1) := ⟨j - pre.length - 1, by omega⟩
        simp
  simp only [parkAt, hidx, hmap]

theorem parkAt_new (hno : ∀ k ∈ r.stack, ¬ Merges n r k) (hlen : r.stack.length ≤ 15) :
    parkAt r n = some (resumeFur { r with stack := parkEntry n r :: r.stack }) := by
  have hidx : r.stack.findIdx? (fun e => e.parked && decide (e.pc = r.pc) && decide (e.hid = n) && decide (e.cnt = r.hcnt.getD n 0#16))
      = none := List.findIdx?_eq_none_iff.mpr (fun q hq => Bool.eq_false_iff.mpr (fun e => hno q hq ((merges_iff q).mp e)))
  simp only [parkAt, hidx]
  exact if_neg (by omega)

/-- R40: a parked entry would be a seventeenth. -/
theorem parkAt_full (hno : ∀ k ∈ r.stack, ¬ Merges n r k) (hlen : 16 ≤ r.stack.length) : parkAt r n = none := by
  have hidx : r.stack.findIdx? (fun e => e.parked && decide (e.pc = r.pc) && decide (e.hid = n) && decide (e.cnt = r.hcnt.getD n 0#16))
      = none := List.findIdx?_eq_none_iff.mpr (fun q hq => Bool.eq_false_iff.mpr (fun e => hno q hq ((merges_iff q).mp e)))
  simp only [parkAt, hidx]
  exact if_pos hlen

/-- R41: a path that parks makes its furrow resume above the entries that it leaves. -/
theorem parkAt_stack {st : List PathEntry} (hst : ParkedStack n r st) : parkAt r n = some (resumeFur { r with stack := st }) := by
  obtain ⟨pre, k, post, hs, hk, hpre, rfl⟩ | ⟨hno, hlen, rfl⟩ := hst
  · exact parkAt_merge hs hk hpre
  · exact parkAt_new hno hlen

theorem parkAt_cases (n : Nat) (r : Furrow) : parkAt r n = none ∨ ∃ st, ParkedStack n r st ∧ parkAt r n = some (resumeFur { r with stack := st }) := by
  cases hf : r.stack.find? (fun e => e.parked && decide (e.pc = r.pc) && decide (e.hid = n) && decide (e.cnt = r.hcnt.getD n 0#16)) with
  | none =>
    have hno : ∀ k ∈ r.stack, ¬ Merges n r k := fun k hk hm => List.find?_eq_none.mp hf k hk ((merges_iff k).mpr hm)
    by_cases hlen : r.stack.length ≤ 15
    · exact .inr ⟨_, .inr ⟨hno, hlen, rfl⟩, parkAt_new hno hlen⟩
    · exact .inl (parkAt_full hno (by omega))
  | some k =>
    obtain ⟨hk, pre, post, hs, hpre⟩ := List.find?_eq_some_iff_append.mp hf
    have hno : ∀ q ∈ pre, ¬ Merges n r q := fun q hq hm => by
      have hfalse := hpre q hq
      rw [(merges_iff q).mpr hm] at hfalse
      exact Bool.false_ne_true hfalse
    have hpark : ParkedStack n r (pre ++ { k with mask := k.mask ||| r.path } :: post) :=
      .inl ⟨pre, k, post, hs, (merges_iff k).mp hk, hno, rfl⟩
    exact .inr ⟨_, hpark, parkAt_stack hpark⟩

theorem parkedStack_ne_nil {st : List PathEntry} (hst : ParkedStack n r st) : st ≠ [] := by
  obtain ⟨pre, k, post, -, -, -, rfl⟩ | ⟨-, -, rfl⟩ := hst <;> simp

/-- The lanes of a path that parks stay. -/
theorem keepsLanes_parkAt {x : Furrow} (hp : parkAt r n = some x) : KeepsLanes r x := by
  obtain hnone | ⟨st, hst, hsome⟩ := parkAt_cases n r
  · rw [hnone] at hp
    cases hp
  · rw [hsome] at hp
    cases hp
    intro b _
    rw [places_resumeFur (parkedStack_ne_nil hst)]
    obtain ⟨pre, k, post, hs, -, -, rfl⟩ | ⟨-, -, rfl⟩ := hst
    · simp only [Furrow.places, hs, List.filter_append, List.filter_cons, List.length_append, BitVec.getLsbD_or]
      cases k.mask.getLsbD b <;> cases r.path.getLsbD b <;> simp
      omega
    · simp only [Furrow.places, List.filter_cons, parkEntry]
      cases r.path.getLsbD b <;> simp [Nat.add_comm]

end Park
end Sys2Proof.Machine
end

section
/-! SUPPORT. Passing headlands (R43, R46): `passAll` as acts on one herd, each furrow of it in turn. -/

namespace Sys2Proof.Machine

/-- What `passAll` does for one furrow number: its group passes if it may. -/
def passOne (s : State) (h : Herd) (f : Nat) : List HAct := if passable s h f then passHead s h (h.group f) else []

/-- What `passAll` does for furrow numbers in turn. -/
def passTurns (s : State) : List Nat → Herd → List HAct
  | [], _ => []
  | f :: fs, h => passOne s h f ++ passTurns s fs (h.acts (passOne s h f))

/-- Whether a group may pass, and is saved as it does, does not depend on other herds. -/
theorem passable_congr {s u : State} (hr : u.coreRegs = s.coreRegs) (h : Herd) (f : Nat) : passable u h f = passable s h f := by
  have hreg : u.coreReg h.core 0x080 = s.coreReg h.core 0x080 := by simp only [State.coreReg, hr]
  simp only [passable, hreg]

theorem saveNext_congr {s u : State} (hc : u.crews = s.crews) (h : Herd) : saveNext u h = saveNext s h := by
  have hcrew : u.crew? h.key.crew = s.crew? h.key.crew := by simp only [State.crew?, hc]
  simp only [saveNext, hcrew]

theorem passOne_congr {s u : State} (hc : u.crews = s.crews) (hr : u.coreRegs = s.coreRegs) (h : Herd) (f : Nat) :
    passOne u h f = passOne s h f := by
  simp only [passOne, passHead, passable_congr hr, saveNext_congr hc]

theorem passTurns_congr {s u : State} (hc : u.crews = s.crews) (hr : u.coreRegs = s.coreRegs) : ∀ (fs : List Nat) (h : Herd),
    passTurns u fs h = passTurns s fs h
  | [], _ => rfl
  | f :: fs, h => by rw [passTurns, passTurns, passOne_congr hc hr, passTurns_congr hc hr fs]

/-- The part of `passAll` for one furrow number. -/
def passStep (k : HerdKey) (f : Nat) (s : State) : List Act :=
  match s.herd? k with
  | some h => if passable s h f then herdActs k (passHead s h (h.group f)) else []
  | none => []

theorem passStep_eq {s : State} {k : HerdKey} {h : Herd} (hh : s.herd? k = some h) (f : Nat) :
    passStep k f s = herdActs k (passOne s h f) := by
  simp only [passStep, hh, passOne]
  split <;> rfl

theorem chain_passSteps {k : HerdKey} : ∀ (fs : List Nat) {s : State} {h : Herd}, s.herd? k = some h →
    chain s (fs.map (passStep k)) = herdActs k (passTurns s fs h)
  | [], _, _, _ => rfl
  | f :: fs, s, h, hh => by
    have hh' : (run s (herdActs k (passOne s h f))).herd? k = some (h.acts (passOne s h f)) := by rw [herd?_herdActs_self, hh]; rfl
    have hsame := run_herdActs (passOne s h f) s k
    have hcrews : (run s (herdActs k (passOne s h f))).crews = s.crews := by rw [hsame]
    have hregs : (run s (herdActs k (passOne s h f))).coreRegs = s.coreRegs := by rw [hsame]
    simp only [List.map_cons, chain, passStep_eq hh f]
    rw [chain_passSteps fs hh', passTurns_congr hcrews hregs, passTurns, herdActs, herdActs, herdActs, List.map_append]

/-- R46: `passAll` is acts on its herd. -/
theorem passAll_eq {s : State} {k : HerdKey} {h : Herd} (hh : s.herd? k = some h) :
    passAll s k = herdActs k (passTurns s h.idxs h) := by
  rw [← chain_passSteps h.idxs hh]
  simp only [passAll, hh]
  rfl

/-- A furrow that stands passes its headland (R43). -/
def passFur (r : Furrow) : Furrow :=
  match r.st with
  | .standing n => bumpHead n { r with pc := r.pc + 8#64, st := .running }
  | _ => r

theorem passFur_standing {r : Furrow} {n : Nat} (hr : r.st = .standing n) : passFur r = passedFur n r := by
  simp only [passFur, hr]
  rfl

theorem keepsLanes_passFur (r : Furrow) : KeepsLanes r (passFur r) := by
  unfold passFur
  split
  · exact keepsLanes_of_same rfl rfl
  · exact .refl r

/-- The furrows of a herd of which some pass. -/
def passedFurs (h : Herd) (fs : List Nat) : List Furrow := mapFurs h fs (fun _ => passFur)

/-- R43, R46, R365: what passing does to a herd. -/
theorem acts_passHead (s : State) (h : Herd) (fs : List Nat) : h.acts (passHead s h fs) =
    { h with
      furrows := passedFurs h fs
      holds := if (h.withFurs (passedFurs h fs)).ganged && saveNext s h then h.holds ++ [{ group := furMask fs, why := .save }] else h.holds } := by
  have hpass : passHead s h fs = setFurs (passedFurs h fs) ++ (if (h.withFurs (passedFurs h fs)).ganged && saveNext s h then
    [.holds (h.holds ++ [{ group := furMask fs, why := .save }])] else []) := rfl
  rw [hpass, Herd.acts_append, acts_setFurs (l := passedFurs h fs) (length_mapFurs h fs _)]
  split <;> rfl

theorem furrows_passHead (s : State) (h : Herd) (fs : List Nat) : (h.acts (passHead s h fs)).furrows = passedFurs h fs := by
  rw [acts_passHead]

/-! Groups that pass keep their lanes. -/

theorem lanesKept_passOne (s : State) (h : Herd) (f : Nat) : LanesKept h (h.acts (passOne s h f)) := by
  unfold passOne
  split
  · exact (lanesKept_mapFurs (fun j _ => keepsLanes_passFur _)).trans
      (lanesKept_of_furrows (h := h.withFurs (passedFurs h (h.group f))) (furrows_passHead s h (h.group f)))
  · exact .refl h

theorem lanesKept_passTurns (s : State) : ∀ (fs : List Nat) (h : Herd), LanesKept h (h.acts (passTurns s fs h))
  | [], h => .refl h
  | f :: fs, h => by
    rw [passTurns, Herd.acts_append]
    exact (lanesKept_passOne s h f).trans (lanesKept_passTurns s fs _)

end Sys2Proof.Machine
end

section
/-! SUPPORT. `head` (R41 to R46): the acts of one that no path stack stops. -/

namespace Sys2Proof.Machine

/-- What `head` does to its herd when it places the furrows `l`. -/
def headActs (s : State) (h : Herd) (l : List Furrow) : List HAct :=
  setFurs l ++ resumeSave s h l ++ passTurns s h.idxs (h.acts (setFurs l ++ resumeSave s h l))

/-- The furrows and holds that `setFurs` and `resumeSave` leave (R365). -/
theorem acts_resumed {s : State} {h : Herd} {l : List Furrow} (hl : l.length = h.furrows.length) :
    h.acts (setFurs l ++ resumeSave s h l) = { h with
      furrows := l
      holds := if (h.withFurs l).ganged && saveNext s h && h.idxs.any (fun f => decide (((h.withFurs l).fur f).hcnt ≠ (h.fur f).hcnt)) then
        h.holds ++ [{ group := furMask (h.withFurs l).liveFurs, why := .save }] else h.holds } := by
  rw [Herd.acts_append, acts_setFurs hl, resumeSave]
  split <;> rfl

theorem furrows_resumed {s : State} {h : Herd} {l : List Furrow} (hl : l.length = h.furrows.length) :
    (h.acts (setFurs l ++ resumeSave s h l)).furrows = l := by rw [acts_resumed hl]

theorem headRes_none {w : Issuer} {h : Herd} {hd : Header} {n : Nat} (hn : headFurs h (h.group w.f) n = none) (s : State) :
    headRes (issueCtx w h hd) n s = .trap (trapOf 5 0) [] := by
  simp only [headRes, issueCtx, hn]

theorem headRes_some {s : State} {w : Issuer} {h : Herd} (hd : Header) {n : Nat} {l : List Furrow} (hh : s.herd? w.key = some h)
    (hn : headFurs h (h.group w.f) n = some l) :
    headRes (issueCtx w h hd) n s = .jump (herdActs w.key (headActs s h l)) := by
  obtain ⟨a, ha⟩ : ∃ a, a = setFurs l ++ resumeSave s h l := ⟨_, rfl⟩
  have hh' : (run s (herdActs w.key a)).herd? w.key = some (h.acts a) := by rw [herd?_herdActs_self, hh]; rfl
  have hsame := run_herdActs a s w.key
  have hcrews : (run s (herdActs w.key a)).crews = s.crews := by rw [hsame]
  have hregs : (run s (herdActs w.key a)).coreRegs = s.coreRegs := by rw [hsame]
  have hidxs : (h.acts a).idxs = h.idxs := by simp [Herd.idxs]
  have hpass : passAll (run s (herdActs w.key a)) w.key = herdActs w.key (passTurns s h.idxs (h.acts a)) := by
    rw [passAll_eq hh', hidxs, passTurns_congr hcrews hregs]
  simp only [headRes, issueCtx, hn, chain, List.append_nil, headActs, ← ha, hpass]
  rw [herdActs, herdActs, herdActs, List.map_append]

/-- The issue of a `head` whose header is sound. -/
theorem exec_head {s : State} {w : Issuer} {h : Herd} (hi : Issues s w h) (hd : Header) (x : FB) :
    exec (.head hd x) s = .next (run s ((issueCtx w h hd).finish s (
      if (issueCtx w h hd).predBad && !(issueCtx w h hd).lanes.isEmpty then .trap (trapOf 0 3) []
      else match headLegal hd x (issueCtx w h hd) with
        | some cause => .trap (trapOf 0 cause) []
        | none => headRes (issueCtx w h hd) x.hid.toNat s))) := by
  rw [← close_inTurn hi]
  simp only [exec, execHead, ctxOf_issues hi] <;> rfl

/-! What `head` makes of the furrows keeps their lanes. -/

theorem length_regroup (l : List Furrow) : (regroup l).length = l.length := List.length_map _

theorem lanesKept_regroup (h : Herd) (l : List Furrow) : LanesKept (h.withFurs l) (h.withFurs (regroup l)) :=
  lanesKept_map h l (fun r => by
    split
    · exact .refl r
    · exact keepsLanes_of_same rfl rfl)

theorem lanesKept_joinStanding (h : Herd) (l : List Furrow) (f n : Nat) :
    LanesKept (h.withFurs l) (h.withFurs (joinStanding l f n)) :=
  (lanesKept_map h l (fun r => by
    split
    · exact keepsLanes_of_same rfl rfl
    · exact .refl r)).trans (lanesKept_regroup h _)

/-- The furrows that `head n` leaves before groups join: those with empty path stacks stand, the others have parked (R41). -/
def headPlaced (h : Herd) (fs : List Nat) (n : Nat) : List Furrow :=
  regroup (mapFurs h fs (fun i r => if r.stack.isEmpty then { r with st := .standing n, grp := (fs.filter (fun f => (h.fur f).stack.isEmpty)).headD i }
    else { (parkAt r n).getD r with grp := i }))

/-- R41, R45: `head` overflows, or places its furrows, and those that stand join. -/
theorem headFurs_eq (h : Herd) (fs : List Nat) (n : Nat) : headFurs h fs n =
    if fs.any (fun f => !(h.fur f).stack.isEmpty && (parkAt (h.fur f) n).isNone) then none
    else match fs.filter (fun f => (h.fur f).stack.isEmpty) with
      | [] => some (headPlaced h fs n)
      | f :: _ => some (joinStanding (headPlaced h fs n) ((headPlaced h fs n).getD f (Furrow.fresh 0 0)).grp n) := rfl

theorem length_headPlaced (h : Herd) (fs : List Nat) (n : Nat) : (headPlaced h fs n).length = h.furrows.length := by
  rw [headPlaced, length_regroup, length_mapFurs]

theorem length_joinStanding (l : List Furrow) (f n : Nat) : (joinStanding l f n).length = l.length := by
  simp [joinStanding, length_regroup]

theorem lanesKept_headPlaced {h : Herd} {fs : List Nat} {n : Nat}
    (hfull : ∀ f ∈ fs, (h.fur f).stack ≠ [] → parkAt (h.fur f) n ≠ none) : LanesKept h (h.withFurs (headPlaced h fs n)) := by
  refine (lanesKept_mapFurs (fun j hj => ?_)).trans (lanesKept_regroup h _)
  split
  · exact keepsLanes_of_same rfl rfl
  · rename_i hne
    obtain ⟨x, hx⟩ := Option.ne_none_iff_exists'.mp (hfull j hj (by simpa using hne))
    have hpark := keepsLanes_parkAt hx
    rw [hx, Option.getD_some]
    exact hpark.trans (keepsLanes_of_same rfl rfl)

/-- R38, R41: the furrows of `head` have the lanes that they had. -/
theorem lanesKept_headFurs {h : Herd} {fs : List Nat} {n : Nat} {l : List Furrow} (hl : headFurs h fs n = some l) :
    l.length = h.furrows.length ∧ LanesKept h (h.withFurs l) := by
  rw [headFurs_eq] at hl
  split at hl
  · cases hl
  · rename_i hfull
    have hplaced : LanesKept h (h.withFurs (headPlaced h fs n)) := lanesKept_headPlaced (fun f hf hne hnone =>
      hfull (List.any_eq_true.mpr ⟨f, hf, by simp [hne, hnone]⟩))
    split at hl <;> cases hl
    · exact ⟨length_headPlaced h fs n, hplaced⟩
    · exact ⟨(length_joinStanding _ _ _).trans (length_headPlaced h fs n), hplaced.trans (lanesKept_joinStanding h _ _ _)⟩

theorem lanesKept_headActs {s : State} {h : Herd} {l : List Furrow} (hl : l.length = h.furrows.length) (hk : LanesKept h (h.withFurs l)) :
    LanesKept h (h.acts (headActs s h l)) := by
  rw [headActs, Herd.acts_append]
  exact (hk.trans (lanesKept_of_furrows (furrows_resumed hl))).trans (lanesKept_passTurns s _ _)

end Sys2Proof.Machine
end

section
/-! SUPPORT. Whatever a word of these kinds does, no lane of its herd is lost (R38, R39, R41, R42, R194). -/

namespace Sys2Proof.Machine

/-- The outcomes of a word that places its group: nothing, a trap before the word, or a place for each furrow with the lanes it had. -/
def PlacesGroup (w : Issuer) (h : Herd) (r : Res) : Prop :=
  r = .noop ∨ (∃ t, r = .trap t []) ∨ ∃ l, r = .jump (herdActs w.key l) ∧ LanesKept h (h.acts l)

theorem lanesKept_moveTo (h : Herd) (f : Nat) (pc : Word) : LanesKept h (h.acts (moveTo h (h.group f) pc)) := by
  refine ⟨Herd.acts_length _ _, fun j => ?_⟩
  rw [moveTo, fur_acts h (fun _ r => { r with pc := pc }) (h.group f) h j (group_lt h f)]
  split
  · exact keepsLanes_of_same rfl rfl
  · exact .refl _

/-- A trap entry gathers the lanes of each furrow of the handler group in its path (R357). -/
theorem lanesKept_entry (s : State) (h : Herd) (t : TrapInfo) : LanesKept h (h.acts (entryHActs s h t)) := by
  refine ⟨Herd.acts_length _ _, fun j => ?_⟩
  have hlt : ∀ f ∈ handlerGroup h, f < h.furrows.length := fun f hf => List.mem_range.mp (List.mem_filter.mp hf).1
  rw [entryHActs, Herd.acts_append, fur_congr (Herd.acts_furrows _ _ (by simp)),
    fur_acts h (fun _ r => { r with pc := trapVector s h.key.crew.part t.cls, path := r.lanes, stack := [], grp := (handlerGroup h).headD 0, st := .running })
      (handlerGroup h) h j hlt]
  split
  · exact keepsLanes_gathered rfl rfl
  · exact .refl _

section Outcome
variable {s : State} {w : Issuer} {h : Herd} {hd : Header}

/-- A trap that a herd with none in progress meets: it waits, or is entered (R356, R357). -/
theorem finish_trap_cases (hi : Issues s w h) (hn : h.handler = none) (t : TrapReq) :
    ∃ h', (run s ((issueCtx w h hd).finish s (.trap t []))).herd? w.key = some h' ∧ LanesKept h h' := by
  by_cases hfree : TrapFree h (furMask (h.group w.f))
  · have hherd := trapBase_herd hi t.cls
    have hkey := herd?_key hherd
    obtain ⟨i, hinfo⟩ : ∃ i, i = (issueCtx w h hd).info t (h.fur w.f).pc := ⟨_, rfl⟩
    have hcls : i.cls = t.cls := by rw [hinfo]; rfl
    rw [run_finish_trap hi hd t hfree, ← hinfo, trapped, hcls]
    obtain ⟨hsome, -⟩ | ⟨-, -, hnil⟩ | ⟨-, -, hentry⟩ := takeTrap_cases (trapBase s h t.cls) h i
    · rw [hn] at hsome
      cases hsome
    · rw [hnil]
      exact ⟨h, hherd, .refl h⟩
    · refine ⟨_, ?_, lanesKept_entry (trapBase s h t.cls) h i⟩
      rw [hentry, ← hkey]
      exact trapEntry_herd (by rw [hkey]; exact hherd) i
  · have hwait : (trapWaits h (furMask (h.group w.f)) || pendBefore h (furMask (h.group w.f))) = true := by
      by_contra hno
      rw [Bool.not_eq_true, Bool.or_eq_false_iff] at hno
      exact hfree hno
    refine ⟨h, ?_, .refl h⟩
    simp only [Ctx.finish, issueCtx, hwait, if_true, run_nil]
    exact hi.herd

theorem PlacesGroup.lanesKept {r : Res} (hr : PlacesGroup w h r) (hi : Issues s w h) (hn : h.handler = none) :
    ∃ h', (run s ((issueCtx w h hd).finish s r)).herd? w.key = some h' ∧ LanesKept h h' := by
  obtain rfl | ⟨t, rfl⟩ | ⟨l, rfl, hk⟩ := hr
  · refine ⟨_, ?_, lanesKept_moveTo h w.f ((h.fur w.f).pc + 8#64)⟩
    rw [show (issueCtx w h hd).finish s .noop = herdActs w.key (moveTo h (h.group w.f) ((h.fur w.f).pc + 8#64)) from rfl,
      herd?_herdActs_self, hi.herd]
    rfl
  · exact finish_trap_cases hi hn t
  · rw [finish_jump]
    exact ⟨_, (onlyHerd_counted hi l).now, hk⟩

/-- The issue of a word is a no-op, an illegal word's trap, or its effect (R136). -/
theorem placesGroup_issueRes {lg : Ctx → Option Nat} {eff : Ctx → State → Res} (he : PlacesGroup w h (eff (issueCtx w h hd) s)) :
    PlacesGroup w h (issueRes (issueCtx w h hd) lg eff s) := by
  unfold issueRes
  split
  · exact .inr (.inl ⟨_, rfl⟩)
  · split
    · exact .inl rfl
    · split
      · exact .inr (.inl ⟨_, rfl⟩)
      · exact he

variable {conds : Option Word} {t : Nat → Word} {keeps : List Nat → Word}

theorem lanesKept_branchFurs (hk : Continues conds (h.fur w.f).pc t keeps) {l : List Furrow}
    (hl : branchFurs (issueCtx w h hd) conds t = some l) : l.length = h.furrows.length ∧ LanesKept h (h.withFurs l) := by
  by_cases hwhole : ∀ l ∈ activeLanes h w.f hd, t l = t ((activeLanes h w.f hd).headD 0)
  · rw [branchFurs_whole hwhole] at hl
    cases hl
    exact ⟨length_mapFurs _ _ _, lanesKept_mapFurs (fun _ _ => keepsLanes_of_same rfl rfl)⟩
  · obtain ⟨hnone, -⟩ | hsome := branchFurs_split hk (by simpa using hwhole)
    · rw [hnone] at hl
      cases hl
    · rw [hsome] at hl
      cases hl
      refine ⟨length_mapFurs _ _ _, lanesKept_mapFurs (fun j _ => ?_)⟩
      have hmem : ∀ l ∈ furLanes j (activeLanes h w.f hd), l / 8 = j ∧ l ∈ activeLanes h w.f hd := fun l hl =>
        ⟨of_decide_eq_true (List.mem_filter.mp hl).2, (List.mem_filter.mp hl).1⟩
      refine keepsLanes_splitFurrow (fun l hl => (hmem l hl).1) (fun l hl => ?_) j
      obtain ⟨hlj, hla⟩ := hmem l hl
      have hpath := (mem_activeLanes.mp hla).1.2
      rwa [hlj] at hpath

/-- A branch whose link writes no furrow. -/
theorem placesGroup_branchRes (hk : Continues conds (h.fur w.f).pc t keeps) {link : List Furrow → List HAct}
    (hlink : ∀ l (g : Herd), (g.acts (link l)).furrows = g.furrows) : PlacesGroup w h (branchRes (issueCtx w h hd) conds t link) := by
  cases hb : branchFurs (issueCtx w h hd) conds t with
  | none => exact .inr (.inl ⟨trapOf 5 0, by rw [branchRes, hb]⟩)
  | some l =>
    obtain ⟨hlen, hkept⟩ := lanesKept_branchFurs hk hb
    refine .inr (.inr ⟨setFurs l ++ link l, by rw [branchRes, hb]; rfl, ?_⟩)
    rw [Herd.acts_append, acts_setFurs hlen]
    exact hkept.trans (lanesKept_of_furrows (hlink l _))

theorem placesGroup_indirect (t : Nat → Word) {link : List HAct} (hlink : ∀ g : Herd, (g.acts link).furrows = g.furrows) :
    PlacesGroup w h (indirect (issueCtx w h hd) t link) := by
  unfold indirect
  split
  · exact .inr (.inl ⟨_, rfl⟩)
  · exact placesGroup_branchRes (continues_lowest _ t) (fun _ => hlink)

theorem placesGroup_headRes (hi : Issues s w h) (n : Nat) : PlacesGroup w h (headRes (issueCtx w h hd) n s) := by
  cases hf : headFurs h (h.group w.f) n with
  | none => exact .inr (.inl ⟨_, headRes_none hf s⟩)
  | some l =>
    obtain ⟨hlen, hkept⟩ := lanesKept_headFurs hf
    exact .inr (.inr ⟨_, headRes_some hd hi.herd hf, lanesKept_headActs hlen hkept⟩)

end Outcome

/-- An issue with such an outcome. -/
theorem issue_lanesKept {s : State} {w : Issuer} {h : Herd} (hi : Issues s w h) (hn : h.handler = none) (hd : Header)
    {lg : Ctx → Option Nat} {eff : Ctx → State → Res} (he : PlacesGroup w h (eff (issueCtx w h hd) s)) :
    ∃ t h', issue hd lg eff s = .next t ∧ t.herd? w.key = some h' ∧ LanesKept h h' := by
  obtain ⟨h', hh', hk⟩ := (placesGroup_issueRes (lg := lg) he).lanesKept (hd := hd) hi hn
  exact ⟨_, h', issue_next hi hd lg eff, hh', hk⟩

theorem exec_head_lanesKept {s : State} {w : Issuer} {h : Herd} (hi : Issues s w h) (hn : h.handler = none) (hd : Header) (x : FB) :
    ∃ t h', exec (.head hd x) s = .next t ∧ t.herd? w.key = some h' ∧ LanesKept h h' := by
  have hplaces : PlacesGroup w h (if (issueCtx w h hd).predBad && !(issueCtx w h hd).lanes.isEmpty then .trap (trapOf 0 3) []
      else match headLegal hd x (issueCtx w h hd) with
        | some cause => .trap (trapOf 0 cause) []
        | none => headRes (issueCtx w h hd) x.hid.toNat s) := by
    split
    · exact .inr (.inl ⟨_, rfl⟩)
    · split
      · exact .inr (.inl ⟨_, rfl⟩)
      · exact placesGroup_headRes hi _
  obtain ⟨h', hh', hk⟩ := hplaces.lanesKept (hd := hd) hi hn
  exact ⟨_, h', exec_head hi hd x, hh', hk⟩

/-- Settles O10: each of the words does nothing, traps, or places its furrows with the lanes that they had (`PlacesGroup`). -/
theorem splittingKeepsEveryLane : Obligations.SplittingKeepsEveryLane := by
  intro s w h hd x y i hi hn hmem
  have hkept : ∃ t h', exec i s = .next t ∧ t.herd? w.key = some h' ∧ LanesKept h h' := by
    simp only [List.mem_cons, List.not_mem_nil, or_false] at hmem
    obtain rfl | rfl | rfl | rfl | rfl | rfl := hmem
    · exact issue_lanesKept hi hn hd (placesGroup_branchRes (branch_continues w h x) (fun _ _ => rfl))
    · exact issue_lanesKept hi hn hd (placesGroup_branchRes (branch_continues w h x) (fun _ => furrows_linkActs _ _ _))
    · exact exec_head_lanesKept hi hn hd x
    · exact issue_lanesKept hi hn hd (placesGroup_indirect _ (fun _ => rfl))
    · exact issue_lanesKept hi hn hd (placesGroup_indirect _ (furrows_linkActs _ _ _))
    · exact issue_lanesKept hi hn hd (placesGroup_indirect _ (fun _ => rfl))
  obtain ⟨t, h', he, hh', hlanes⟩ := hkept
  exact ⟨t, h', he, hh', hlanes.length, fun j => ⟨(hlanes.fur j).lanes, (hlanes.fur j).once⟩⟩

end Sys2Proof.Machine
end

section
/-! SUPPORT. A herd whose headland counts are missing, and the refutations of O12 and O13. -/
namespace Sys2Proof.Machine

/-- A herd of one furrow above one parked entry, whose list of headland counts is empty: a pass of a headland changes no count of it. -/
def uncountedHerd : Herd :=
  { Herd.fresh { key := { crew := { part := 0, field := 1, crew := 0 }, herd := 0 }, core := 0, slice := 0, slot := 0, width := 8
                 nregs := 32, nacc := 0, sup := false, order := 0, entry := 0x100, args := 0 } with
    resident := true
    furrows := [{ pc := 0x100, path := 0x0F#8, stack := [{ pc := 0x100, mask := 0xF0#8, parked := true, hid := 0, cnt := 0 }], grp := 0
                  st := .running, hcnt := [], rank := 0, resolved := none }] }

/-- The issue of its only group. -/
def uncountedIssuer : Issuer := { key := uncountedHerd.key, f := 0, pa := 0, post := false }

/-- The herd alone on its core, with a pre-emption of its crew whose area is granted. -/
def uncountedState : State :=
  { State.reset with
    issuer := some uncountedIssuer
    herds := [uncountedHerd]
    crews := [{ Crew.fresh { key := uncountedHerd.key.crew, core := 0, herds := 1, tileLen := 0, order := 0 } with
      pre := some { area := some 0, host := false, core := none } }] }

/-- A header without a predicate, of a word that is not generic-capable. -/
def bareHeader : Header := { ss := 0, wc := 0, u := false, pe := false, pn := false, pk := false, pr := 0 }

/-- `head 0`. -/
def bareHead : FB := { off := 0, ck := 0, cn := false, cr := 0, hid := 0, rsv := 0 }

/-- The fields of `exit`. -/
def bareExit : FS := { d := 0, a := 0, sel := 0, x := 0 }

theorem issues_uncounted : Issues uncountedState uncountedIssuer uncountedHerd where
  who := rfl
  herd := rfl
  may := rfl
  furrows := by decide
  turn := rfl

theorem bareHeader_plain (h : Herd) : PlainHeader h bareHeader false where
  pred := ⟨fun _ => ⟨rfl, rfl, rfl⟩, fun hpe => nomatch hpe⟩
  ss := rfl
  wc := rfl
  uni := fun hu => hu

theorem uncounted_named : Named uncountedHerd := by
  intro j hj
  obtain rfl : j = 0 := List.mem_singleton.mp hj
  exact ⟨Nat.le_refl 0, rfl, rfl⟩

/-- R365 as the statements have it: the resumed herd is ganged and passes, and is to be saved there. -/
theorem resumeHolds_uncounted {st : List PathEntry} (hlen : st.length = 1) (hpark : ∀ q ∈ st, q.parked = true) :
    resumeHolds uncountedState uncountedHerd 0 st = [{ group := 0x01#8, why := .save }] := by
  rw [resumeHolds, if_pos ⟨rfl, hlen, hpark, rfl⟩]
  rfl

/-- The holds of the herd after a step. -/
def holdsAfter (r : Host.Outcome State Fault Refusal) : Option (List Hold) :=
  match r with
  | .next t => (t.herd? uncountedHerd.key).map (fun g => g.holds)
  | _ => none

theorem holdsAfter_head : holdsAfter (exec (.head bareHeader bareHead) uncountedState) = some [] := by rfl

theorem holdsAfter_exit : holdsAfter (exec (.exit bareHeader bareExit) uncountedState) = some [] := by rfl

/-- What a clause asks of the herd's holds contradicts what the step leaves. -/
theorem not_saved {i : Instr} (hrun : holdsAfter (exec i uncountedState) = some []) {t : State} {h' : Herd} {st : List PathEntry}
    (hlen : st.length = 1) (hpark : ∀ q ∈ st, q.parked = true) (hexec : exec i uncountedState = .next t)
    (honly : OnlyHerd uncountedState t uncountedIssuer uncountedHerd h')
    (heq : h' = { uncountedHerd with furrows := h'.furrows, holds := resumeHolds uncountedState uncountedHerd 0 st }) : False := by
  have hnow : t.herd? uncountedHerd.key = some h' := honly.now
  have hnone : h'.holds = [] := by
    rw [hexec] at hrun
    simpa [holdsAfter, hnow] using hrun
  have hsave : h'.holds = [{ group := 0x01#8, why := .save }] := by
    rw [heq]
    exact resumeHolds_uncounted hlen hpark
  rw [hnone] at hsave
  cases hsave

/-- Refutes O12: `uncountedHerd` merges with its parked path, passes with it and becomes ganged while a pre-emption waits, which R365 as the
statement has it answers with a hold for the save. The model sees a pass by a changed headland count, and the list of counts of this furrow is
empty, so nothing changes and no hold is made. No reachable herd lacks its counts; the statement does not ask for them. -/
theorem not_headlandsCompleteOrHold : ¬ Obligations.HeadlandsCompleteOrHold := by
  intro hall
  obtain ⟨-, -, -, hpark, -⟩ := hall uncountedState uncountedIssuer uncountedHerd bareHeader bareHead 0 issues_uncounted
    ⟨rfl, rfl, rfl, rfl, rfl, rfl⟩ rfl
  have hmerge : ParkedStack 0 (uncountedHerd.fur 0) [{ pc := 0x100, mask := 0xFF#8, parked := true, hid := 0, cnt := 0 }] :=
    .inl ⟨[], { pc := 0x100, mask := 0xF0#8, parked := true, hid := 0, cnt := 0 }, [], rfl, ⟨rfl, rfl, rfl, rfl⟩, nofun, rfl⟩
  obtain ⟨t, h', hexec, honly, -, -, heq⟩ := hpark _ rfl (by decide) hmerge uncounted_named (by decide)
  exact not_saved holdsAfter_head rfl (by simp) hexec honly heq

/-- Refutes O13, by its clause on a furrow that resumes: all lanes of the path of `uncountedHerd` leave, its parked path passes its headland
and the herd becomes ganged while a pre-emption waits. As with `head`, the model finds no changed count in the empty list, and makes no hold
for the save that the statement asks for. -/
theorem not_exitRemovesLanes : ¬ Obligations.ExitRemovesLanes := by
  rintro ⟨-, hresume, -, -⟩
  obtain ⟨hstack, -⟩ := hresume uncountedState uncountedIssuer uncountedHerd bareHeader bareExit issues_uncounted
    (bareHeader_plain uncountedHerd) rfl (by decide) (by decide) uncounted_named rfl (by decide)
  obtain ⟨t, h', hexec, honly, -, -, heq⟩ := hstack (by decide)
  exact not_saved holdsAfter_exit rfl (by decide) hexec honly heq

end Sys2Proof.Machine
end

section
/-! SUPPORT. A running furrow with a result of a wait that it is not in, and the refutation of O23. -/
namespace Sys2Proof.Machine

/-- A herd of one running furrow that keeps the result of a wait, as only a furrow in a wait does (R58). -/
def resolvedHerd : Herd :=
  { uncountedHerd with
    furrows := [{ pc := 0x100, path := 0xFF#8, stack := [], grp := 0, st := .running, hcnt := [], rank := 0
                  resolved := some { completed := true, wr := none, bad := none } }] }

/-- Its field, which declares one crew barrier. -/
def oneBarrierField : FieldRec :=
  { part := 0, id := 1, card := { w0 := 0, w1 := 0, w2 := 0, w3 := 0x10, w4 := 0, w5 := 0, w6 := 0, w7 := 0 }, home := 0, admitted := 1
    ended := 0, aborted := false, phases := [] }

/-- The herd alone in its field. -/
def resolvedState : State :=
  { State.reset with
    issuer := some uncountedIssuer
    herds := [resolvedHerd]
    fields := [oneBarrierField] }

theorem issues_resolved : Issues resolvedState uncountedIssuer resolvedHerd where
  who := rfl
  herd := rfl
  may := rfl
  furrows := by decide
  turn := rfl

theorem barFields_resolved : BarFields uncountedIssuer resolvedHerd bareHeader bareExit :=
  ⟨bareHeader_plain resolvedHerd, by decide, rfl, rfl, rfl, by decide, by decide⟩

theorem barAllowed_resolved : BarAllowed resolvedState resolvedHerd 0 0 :=
  ⟨by decide, oneBarrierField, rfl, by decide⟩

/-- The state of the herd's furrow after a step. -/
def waitAfter (r : Host.Outcome State Fault Refusal) : Option FState :=
  match r with
  | .next t => (t.herd? resolvedHerd.key).map (fun g => (g.fur 0).st)
  | _ => none

theorem waitAfter_barw : waitAfter (exec (.barw bareHeader bareExit) resolvedState) = some (.waiting (.barrier 0 0)) := by rfl

/-- Refutes O23, by its clause on a `barw` that completes the phase: the only member of the barrier arrives, and the phase completes. The
furrow of `resolvedHerd` holds a result already, so the completion takes it for one whose wait has ended and leaves it in the wait, where the
statement has it running at PC + 8. No reachable running furrow holds a result; the statement does not ask for that. -/
theorem not_barriersArriveWaitAndComplete : ¬ Obligations.BarriersArriveWaitAndComplete := by
  intro hall
  obtain ⟨-, hcomplete, -, -, -⟩ := hall resolvedState uncountedIssuer resolvedHerd bareHeader bareExit 0 0 issues_resolved
    barFields_resolved (by decide) (by decide)
  obtain ⟨hbarw, -⟩ := hcomplete barAllowed_resolved (by decide) nofun
  obtain ⟨t, h', hexec, hnow, -, hfurs, -, -⟩ := hbarw rfl (.inl (by decide))
  have hwaits : (h'.fur 0).st = .waiting (.barrier 0 0) := by
    have hafter := waitAfter_barw
    rw [hexec] at hafter
    have hkey : t.herd? resolvedHerd.key = some h' := hnow
    simpa [waitAfter, hkey] using hafter
  have hruns : (h'.fur 0).st = .running := by
    rw [hfurs 0]
    rfl
  rw [hwaits] at hruns
  cases hruns

end Sys2Proof.Machine
end

section
/-! SUPPORT. What a save leaves outside its herd's save area, and the events of patience, yields and penning (R46, R57, R203). -/
namespace Sys2Proof.Machine

/-- Acts on the herd of a name, as an event's change of that herd alone. -/
theorem oneHerd_herdActs {s : State} {k : HerdKey} {h : Herd} (hh : s.herd? k = some h) (l : List HAct) :
    OneHerd s (run s (herdActs k l)) k (h.acts l) :=
  ⟨by rw [herd?_herdActs_self, hh]; rfl, fun _ hj => herd?_herdActs_other s k _ l hj⟩

/-- Acts that name furrows change nothing else of their herd. -/
theorem acts_furrowActs : ∀ (l : List HAct) (h : Herd), (∀ a ∈ l, ∃ f r, a = .furrow f r) →
    h.acts l = { h with furrows := (h.acts l).furrows }
  | [], _, _ => rfl
  | a :: l, h, ha => by
    obtain ⟨f, r, rfl⟩ := ha a (by simp)
    rw [Herd.acts_cons, acts_furrowActs l _ (fun b hb => ha b (by simp [hb]))]
    rfl

/-! A group that has stood for its patience passes. -/

theorem patienceActs_eq {s : State} {k : HerdKey} {h : Herd} {f n : Nat} (hh : s.herd? k = some h) (hres : h.resident = true)
    (hg : h.group f ≠ []) (hheld : h.heldBy (h.group f) = none) (hst : ∀ j ∈ h.group f, (h.fur j).st = .standing n) :
    patienceActs k f s = herdActs k (passHead s h (h.group f)) := by
  unfold patienceActs
  simp only [hh]
  rw [if_pos]
  simp only [Bool.and_eq_true, List.all_eq_true]
  exact ⟨⟨⟨hres, by simpa using hg⟩, by rw [hheld]; rfl⟩, fun j hj => by simp [hst j hj]⟩

theorem patience_passes {s : State} {k : HerdKey} {h : Herd} {f n : Nat} (hh : s.herd? k = some h) (hres : h.resident = true)
    (hg : h.group f ≠ []) (hheld : h.heldBy (h.group f) = none) (hst : ∀ j ∈ h.group f, (h.fur j).st = .standing n)
    (hsave : saveNext s h = false) :
    ∃ t h', exec (.patienceExpiry k f) s = .next t ∧ t = { s with herds := t.herds } ∧ OneHerd s t k h' ∧ FurrowsOnly h h' ∧
      ∀ j, h'.fur j = if j ∈ h.group f then passedFur n (h.fur j) else h.fur j := by
  have hexec : exec (.patienceExpiry k f) s = .next (run s (herdActs k (passHead s h (h.group f)))) :=
    congrArg (fun l => Host.Outcome.next (run s l)) (patienceActs_eq hh hres hg hheld hst)
  have hfurs : h.acts (passHead s h (h.group f)) = h.withFurs (passedFurs h (h.group f)) := by
    rw [acts_passHead, hsave, Bool.and_false]
    rfl
  refine ⟨_, _, hexec, by rw [run_herdActs], oneHerd_herdActs hh _, by rw [hfurs]; rfl, fun j => ?_⟩
  rw [hfurs, passedFurs, fur_withFurs_mapFurs_group]
  split
  · next hj => exact passFur_standing (hst j hj)
  · rfl

/-! A yield expires. -/

theorem holdOf_heldBy {h : Herd} {f : Nat} {x : Hold} (hx : HeldBy h f x) {p : HoldWhy → Bool} (hp : p x.why = true) :
    h.holdOf f p = some x := by
  obtain ⟨hmem, hbit, huniq⟩ := hx
  rw [Herd.holdOf]
  cases hf : h.holds.find? (fun y => y.group.getLsbD f && p y.why) with
  | none => simpa [hbit, hp] using List.find?_eq_none.mp hf x hmem
  | some y =>
    have hy := List.find?_some hf
    simp only [Bool.and_eq_true] at hy
    rw [huniq y (List.mem_of_find?_eq_some hf) hy.1]

theorem yield_expires {s : State} {k : HerdKey} {h : Herd} {f n : Nat} {x : Hold} (hh : s.herd? k = some h) (hx : HeldBy h f x)
    (hw : x.why = .yield n) (hlen : ∀ j ∈ bitsOf x.group 8, j < h.furrows.length) :
    ∃ t h', exec (.yieldExpiry k f) s = .next t ∧ t = { s with herds := t.herds, nextOrder := s.nextOrder + 1 } ∧
      OneHerd s t k h' ∧ h' = { h with holds := holdsWithout h x, furrows := h'.furrows } ∧
      ∀ j, h'.fur j = if j ∈ bitsOf x.group 8 then { h.fur j with rank := s.nextOrder } else h.fur j := by
  obtain ⟨rank, hrank⟩ : ∃ rank, rank = (bitsOf x.group 8).map (fun j => furAct h j (fun r => { r with rank := s.nextOrder })) := ⟨_, rfl⟩
  have hacts : yieldActs k f s = herdActs k (dropHold h x :: rank) ++ [.nextOrder (s.nextOrder + 1)] := by
    unfold yieldActs
    simp only [hh]
    rw [holdOf_heldBy hx (by rw [hw])]
    change herdActs k [dropHold h x] ++ youngest s h (bitsOf x.group 8) = _
    rw [youngest, herd?_key hh, ← hrank]
    rfl
  have hexec : exec (.yieldExpiry k f) s = .next (run s (herdActs k (dropHold h x :: rank) ++ [.nextOrder (s.nextOrder + 1)])) :=
    congrArg (fun l => Host.Outcome.next (run s l)) hacts
  have hrun : run s (herdActs k (dropHold h x :: rank) ++ [.nextOrder (s.nextOrder + 1)])
      = { run s (herdActs k (dropHold h x :: rank)) with nextOrder := s.nextOrder + 1 } := by
    rw [run_append]
    rfl
  have hone : OneHerd s (run s (herdActs k (dropHold h x :: rank))) k (({ h with holds := holdsWithout h x } : Herd).acts rank) :=
    oneHerd_herdActs hh (dropHold h x :: rank)
  have honly : ({ h with holds := holdsWithout h x } : Herd).acts rank
      = { h with holds := holdsWithout h x, furrows := (({ h with holds := holdsWithout h x } : Herd).acts rank).furrows } :=
    acts_furrowActs rank _ (by simp [hrank, furAct])
  refine ⟨_, _, hexec, by rw [hrun, run_herdActs], ?_, honly, fun j => ?_⟩
  · rw [hrun]
    exact hone
  · rw [hrank]
    exact fur_acts h (fun _ r => { r with rank := s.nextOrder }) _ _ j hlen

/-! What a save writes, and nothing besides. -/

/-- The acts of which a save's writes of a context consist. -/
def Act.saves : Act → Bool
  | .mem _ _ _ => true
  | .memZero _ _ => true
  | .free _ => true
  | _ => false

theorem run_saves : ∀ (l : List Act) (s : State), (∀ a ∈ l, a.saves = true) →
    run s l = { s with hbm := (run s l).hbm, crews := (run s l).crews, ocache := (run s l).ocache, freeCtr := (run s l).freeCtr }
  | [], _, _ => rfl
  | a :: l, s, ha => by
    rw [run_cons, run_saves l _ (fun b hb => ha b (by simp [hb]))]
    have hone := ha a (by simp)
    cases a with
    | mem pa bs own => rfl
    | memZero pa n => rfl
    | free n => rfl
    | _ => cases hone

/-- Bytes of the tape, vector, distribution and accumulator parts of a save area (R362). -/
theorem length_saveTail (h : Herd) (n0 : Nat) : (saveTail h n0).length = 0xC00 + 4 * (h.nregs * h.width) + 1024 * h.width + 16384 * h.nacc := by
  have hrows := length_flatMap_range (c := 4 * h.width) h.nregs (fun n _ => length_wordRow h n0 n)
  have helems := length_flatMap_range (c := 64 * h.width) 16 (fun n _ => length_elemRow h n0 n)
  have htapes := length_flatMap_range (c := 256) 8 (fun f _ => length_tapeRec h.tape f)
  have haccs := length_flatMap_range (c := 16384) h.nacc (fun t _ => length_accTile h t)
  simp only [saveTail, List.length_append, length_zeroBytes, hrows, helems, htapes, haccs]
  ring

theorem length_saveTail_le {h : Herd} (hs : HerdShape h) (n0 : Nat) : 0x2400 + (saveTail h n0).length ≤ saveBytes := by
  have hregs : h.nregs * h.width ≤ 256 * 64 := Nat.mul_le_mul hs.regs hs.width
  have hwidth := hs.width
  have hacc := hs.acc.1
  rw [length_saveTail, saveBytes]
  omega

theorem saves_saveContext (s : State) (h : Herd) (a : Nat) : ∀ b ∈ saveContext s h a, b.saves = true := by
  have htrap : ∀ b ∈ trapRecActs s h a, b.saves = true := by
    unfold trapRecActs
    split <;> simp [Act.saves]
  have hrest : ∀ b ∈ saveRest s h a, b.saves = true := by
    unfold saveRest savedDrawn
    split <;> split <;> simp [Act.saves]
  rw [saveContext_eq]
  simp only [List.forall_mem_cons, List.forall_mem_append]
  exact ⟨rfl, rfl, htrap, rfl, hrest⟩

/-- R362: a save writes no byte outside its herd's area. -/
theorem stores_saveContext {s : State} {h : Herd} (hs : HerdShape h) {a x : Nat} (hx : x < a ∨ a + 0x44000 ≤ x) :
    ∀ b ∈ saveContext s h a, b.stores x = false := by
  have hlen := length_saveTail_le hs s.freeCtr
  have hrecs := length_furrowRecs hs
  have hat : a + 0x400 ≤ recsAt h a ∧ recsAt h a + 0x1000 ≤ a + 0x2400 := by unfold recsAt; split <;> omega
  rw [saveBytes] at hlen
  have htrap : ∀ b ∈ trapRecActs s h a, b.stores x = false := by
    unfold trapRecActs
    split
    · exact nofun
    · simp only [List.forall_mem_cons, Act.stores, length_leBytes]
      refine ⟨?_, ?_, nofun⟩ <;> simp <;> omega
  have hrest : ∀ b ∈ saveRest s h a, b.stores x = false := by
    unfold saveRest savedDrawn saveBytes
    rw [List.forall_mem_append]
    constructor
    · split
      · simp [Act.stores]; omega
      · exact nofun
    · split <;> simp [Act.stores]
  rw [saveContext_eq]
  simp only [List.forall_mem_cons, List.forall_mem_append, Act.stores, length_saveHead, hrecs]
  refine ⟨by simp; omega, by simp; omega, htrap, by simp; omega, hrest⟩

/-- A tape with nothing to write is not written. -/
theorem healed_nil (s : State) : healed s [] = [] := by
  have hwin : ∀ c, winSectors [] c = [] := fun _ => rfl
  have hfilled : s.crews.flatMap (fun _ => ([] : List (Nat × Bool))) = [] := List.flatMap_eq_nil_iff.mpr (fun _ _ => rfl)
  have hbefore : marksBefore s [] = s.hbmErr := by simp [marksBefore, hwin, hfilled]
  have hafter : marksAfter s [] = s.hbmErr := by
    rw [marksAfter, hbefore]
    exact List.filter_eq_self.mpr (fun _ _ => rfl)
  have htile : ∀ c, tileHealed s [] c = c.tileErr := fun c => by
    have hunc : uncovered (tileRanges [] c.key) c.tileErr = c.tileErr := List.filter_eq_self.mpr (fun _ _ => rfl)
    simp [tileHealed, hwin, hunc]
  simp [healed, hafter, htile, hwin]

theorem dirtyBlocks_clean {t : TapeCtx} (hc : t.closed = []) (hd : ∀ x ∈ t.streams, x.dirty = false) : dirtyBlocks t = [] := by
  rw [dirtyBlocks, hc, List.nil_append, List.flatMap_eq_nil_iff]
  intro f hf
  have hlt : f < t.streams.length := List.mem_range.mp hf
  have hmem : t.stream f ∈ t.streams := by
    rw [TapeCtx.stream, List.getD_eq_getElem _ _ hlt]
    exact List.getElem_mem hlt
  rw [hd _ hmem]
  rfl

theorem flushTape_clean {t : TapeCtx} (hc : t.closed = []) (hd : ∀ x ∈ t.streams, x.dirty = false) (s : State) (core : Nat) :
    flushTape s core t = [] := by
  rw [flushTape, dirtyBlocks_clean hc hd, writeBlocks]
  simp [healed_nil]

end Sys2Proof.Machine
end

section
/-! SUPPORT. A penning: the save of a herd whose tape has nothing to write, and its place in the step (R57). -/
namespace Sys2Proof.Machine

section Penning
variable {s : State} {k : HerdKey} {h : Herd}

/-- The herd that a save writes, with its tape clean, and the state that it is written in. -/
def savedHerd (h : Herd) : Herd := { h with tape := h.tape.cleaned }
def savingState (s : State) (k : HerdKey) (h : Herd) : State := run s (herdActs k [.tape h.tape.cleaned])

/-- The state once the context is written. -/
def contextSaved (s : State) (k : HerdKey) (h : Herd) : State :=
  run (savingState s k h) (saveContext (savingState s k h) (savedHerd h) (saveArea s h))

theorem herdShape_saved (hs : HerdShape h) : HerdShape (savedHerd h) :=
  ⟨hs.regs, hs.width, hs.acc, hs.furrows, hs.cvlim, hs.latch, hs.furs⟩

theorem contextSaved_eq (s : State) (k : HerdKey) (h : Herd) : ∃ m cr oc n, contextSaved s k h =
    { savingState s k h with hbm := m, crews := cr, ocache := oc, freeCtr := n } :=
  ⟨_, _, _, _, run_saves _ _ (saves_saveContext _ _ _)⟩

theorem saveArea_contextSaved (s : State) (k : HerdKey) (h : Herd) : saveArea (contextSaved s k h) h = saveArea s h := by
  obtain ⟨m, cr, oc, n, heq⟩ := contextSaved_eq s k h
  rw [heq, savingState, run_herdActs]
  rfl

/-- R57, R389: with nothing of its tape to write, a save writes the context, and the herd leaves its slice. -/
theorem run_saveHerd (hh : s.herd? k = some h) (hc : h.tape.closed = []) (hd : ∀ x ∈ h.tape.streams, x.dirty = false) :
    run s (saveHerd s k) = (run (contextSaved s k h) (herdActs k [.holds [], .leave (saveArea s h)])).act
      (dropSlice (contextSaved s k h) h.core h.slice) := by
  have harea : saveArea (savingState s k h) h = saveArea s h := by
    rw [savingState, run_herdActs]
    rfl
  have hlast : run (savingState s k h) (saveContext (savingState s k h) (savedHerd h) (saveArea (savingState s k h) h))
      = contextSaved s k h := by
    rw [harea, contextSaved]
  unfold saveHerd
  simp only [hh, run_chain, List.foldl_cons, List.foldl_nil]
  rw [flushTape_clean hc hd, run_nil]
  obtain ⟨u, hu⟩ : ∃ u, u = run (savingState s k h) (saveContext (savingState s k h) (savedHerd h) (saveArea (savingState s k h) h)) := ⟨_, rfl⟩
  have hends : ∀ v, v = u → run v (herdActs k [.holds [], .leave (saveArea v h)] ++ [dropSlice v h.core h.slice])
      = (run (contextSaved s k h) (herdActs k [.holds [], .leave (saveArea s h)])).act (dropSlice (contextSaved s k h) h.core h.slice) := by
    rintro v rfl
    rw [hu, hlast, saveArea_contextSaved, run_append]
    rfl
  exact hends _ hu.symm

theorem penActs_eq {y : Herd} (hh : s.herd? k = some h) (hres : h.resident = true) (hwait : isWaiting h = true)
    (hlong : waitsLongest s h = true) (hpend : savePending s k = false) (hy : y ∈ readyHerds s h.core h.slice)
    (hroom : roomBase s y = none) (hc : h.tape.closed = []) (hd : ∀ x ∈ h.tape.streams, x.dirty = false) :
    penActs k s = saveHerd s k ++ [bumpCore h.core 0x045] := by
  have howned : flushOwned s h.tape = false := by
    rw [flushOwned, dirtyBlocks_clean hc hd]
    rfl
  have hany : (readyHerds s h.core h.slice).any (fun x => (roomBase s x).isNone) = true :=
    List.any_eq_true.mpr ⟨y, hy, by rw [hroom]; rfl⟩
  unfold penActs
  simp only [hh]
  rw [hres, hwait, hlong, hpend, howned, hany]
  rfl

/-- The state that a penning leaves. -/
theorem run_penning {y : Herd} (hh : s.herd? k = some h) (hres : h.resident = true) (hwait : isWaiting h = true)
    (hlong : waitsLongest s h = true) (hpend : savePending s k = false) (hy : y ∈ readyHerds s h.core h.slice)
    (hroom : roomBase s y = none) (hc : h.tape.closed = []) (hd : ∀ x ∈ h.tape.streams, x.dirty = false) :
    run s (penActs k s) = ((run (contextSaved s k h) (herdActs k [.holds [], .leave (saveArea s h)])).act
      (dropSlice (contextSaved s k h) h.core h.slice)).act (bumpCore h.core 0x045) := by
  rw [penActs_eq hh hres hwait hlong hpend hy hroom hc hd, run_append, run_saveHerd hh hc hd]
  rfl

theorem penning_saves {y : Herd} (hh : s.herd? k = some h) (hs : HerdShape h) (hres : h.resident = true) (hwait : isWaiting h = true)
    (hlong : waitsLongest s h = true) (hpend : savePending s k = false) (hy : y ∈ readyHerds s h.core h.slice)
    (hroom : roomBase s y = none) (hc : h.tape.closed = []) (hd : ∀ x ∈ h.tape.streams, x.dirty = false) :
    ∃ t h', exec (.penning k) s = .next t ∧ OneHerd s t k h' ∧
      h' = { h with resident := false, stored := true, saveAt := saveArea s h, holds := [], tape := h.tape.cleaned } ∧
      (∀ i, i < 64 → t.hbm.num (saveArea s h + 0x100 + 8 * i) 8 = (h.sreg i).toNat) ∧
      (∀ n l, n < h.nregs → l < h.width →
        h.exited l = false → t.hbm.num (saveArea s h + 0x3000 + 4 * (n * h.width + l)) 4 = (h.vreg n l).toNat) ∧
      (∀ p, p < saveArea s h ∨ saveArea s h + 0x44000 ≤ p → t.hbm.byte p = s.hbm.byte p) ∧
      Counted1 s t h.core 0x045 ∧
      t = { s with herds := t.herds, hbm := t.hbm, crews := t.crews, ocache := t.ocache, coreRegs := t.coreRegs, freeCtr := t.freeCtr } := by
  have hrun := run_penning hh hres hwait hlong hpend hy hroom hc hd
  obtain ⟨t, ht⟩ : ∃ t, t = run s (penActs k s) := ⟨_, rfl⟩
  obtain ⟨m, cr, oc, n, hsaved⟩ := contextSaved_eq s k h
  have hsaving : savingState s k h = { s with herds := (savingState s k h).herds } := by
    rw [savingState, run_herdActs]
  have hherds : t.herds = (run (savingState s k h) (herdActs k [.holds [], .leave (saveArea s h)])).herds := by
    rw [ht, hrun, hsaved, run_herdActs, run_herdActs]
    rfl
  have hone := oneHerd_herdActs hh [.tape h.tape.cleaned, .holds [], .leave (saveArea s h)]
  have hhbm : t.hbm = (contextSaved s k h).hbm := by
    rw [ht, hrun, run_herdActs]
    rfl
  have hstands : ContextStands t.hbm (savingState s k h) (savedHerd h) (saveArea s h) := by
    rw [hhbm]
    exact saveContext_stands _ (herdShape_saved hs) _
  refine ⟨t, _, by rw [ht]; rfl, ⟨(herd?_congr _ t hherds k).trans hone.1, fun j hj => (herd?_congr _ t hherds j).trans (hone.2 j hj)⟩,
    rfl, fun i hi => ?_, fun n l hn hl hlive => ?_, fun p hp => ?_, ?_, ?_⟩
  · exact ((headStands hstands.head).sregs.range (fun _ _ => length_leBytes 8 _) hi).num_word rfl
  · exact ((tailStands hstands.tail).words n l hn hl).trans (congrArg BitVec.toNat (savedWord_of_live (h := savedHerd h) hlive _ n))
  · rw [hhbm, contextSaved, byte_run _ _ p (stores_saveContext (herdShape_saved hs) hp), hsaving]
  · rw [Counted1, ht, hrun, hsaved, run_herdActs, hsaving]
    simp [State.coreReg, bumpCore, dropSlice, Sparse.get_set]
  · rw [ht, hrun, hsaved, run_herdActs, hsaving]
    rfl

end Penning

end Sys2Proof.Machine
end

section
/-! SUPPORT. A herd that becomes resident, with the context of its save area where it has one (R58, R363), and O43. -/
namespace Sys2Proof.Machine

theorem getElem?_regroup {l : List Furrow} {j : Nat} {r : Furrow} (hr : l[j]? = some r) : ∃ g, (regroup l)[j]? = some { r with grp := g } := by
  rw [regroup, List.getElem?_map, hr]
  by_cases hn : r.st = .notLive
  · exact ⟨r.grp, by simp only [if_pos hn, Option.map_some]⟩
  · simp [hn]

section Restore
variable {m : Memory} {a : Nat} {h : Herd}

/-- The furrows that a restore without a trap in progress gives. -/
def restoredFurs (m : Memory) (a : Nat) (h : Herd) : List Furrow := regroup (h.furrows.mapIdx (fun f _ => restoreFur m a false h f))

theorem length_restoredFurs (m : Memory) (a : Nat) (h : Herd) : (restoredFurs m a h).length = h.furrows.length := by
  rw [restoredFurs, length_regroup, List.length_mapIdx]

/-- The herd that a restore without a trap in progress and without late writes gives. -/
def restored (m : Memory) (a : Nat) (h : Herd) : Herd :=
  { h.acts (restoreRegs m a h) with
    derr := keptDerr m a h, accErr := keptAccErr m a h, furrows := restoredFurs m a h, tape := restoreTape m a h, handler := none }

/-- The shape of a restore: registers, marks of errors, furrows, tape and handler in turn. -/
theorem acts_restoreShape (regs : List HAct) (de ae : List Nat) {fs : List Furrow} (tp : TapeCtx) (hg : Option (BitVec 8))
    (hlen : fs.length = h.furrows.length) : h.acts (regs ++ [.derr de, .accErr ae] ++ setFurs fs ++ [.tape tp, .handler hg]) =
      { h.acts regs with derr := de, accErr := ae, furrows := fs, tape := tp, handler := hg } := by
  have hregs : fs.length = (h.acts regs).furrows.length := hlen.trans (Herd.acts_length regs h).symm
  rw [Herd.acts_append, Herd.acts_append, Herd.acts_append]
  generalize h.acts regs = g at hregs
  have hmarks : (g.acts [.derr de, .accErr ae]).acts (setFurs fs) = (g.acts [.derr de, .accErr ae]).withFurs fs := acts_setFurs hregs
  rw [hmarks]
  rfl

/-- R58, R363: with no trap in progress and no late write owed, the acts of a restore are its registers, its furrows and its tape. -/
theorem acts_restore (hprog : savedProg m a = false) (hw : ∀ j q, (h.fur j).resolved = some q → q.wr = none) :
    h.acts (restoreActs m a h) = restored m a h := by
  have hacts : restoreActs m a h = restoreRegs m a h ++ [.derr (keptDerr m a h), .accErr (keptAccErr m a h)]
      ++ setFurs (restoredFurs m a h) ++ [.tape (restoreTape m a h), .handler none] := by
    unfold restoreActs
    simp only [hprog]
    rw [(List.flatMap_eq_nil_iff (l := h.idxs)).mpr]
    · rw [List.append_nil]
      rfl
    · intro f _
      cases hres : (h.fur f).resolved with
      | none => rfl
      | some q =>
        obtain ⟨c, wr, bad⟩ := q
        obtain rfl : wr = none := hw f _ hres
        rfl
  rw [hacts, acts_restoreShape _ _ _ _ _ (length_restoredFurs m a h)]
  rfl

/-- R58: each furrow of a restored herd is what its record gives, but for the name of its group. -/
theorem fur_restored {j : Nat} (hj : j < h.furrows.length) : ∃ g, (restored m a h).fur j = { restoreFur m a false h j with grp := g } := by
  have hget : (h.furrows.mapIdx (fun f _ => restoreFur m a false h f))[j]? = some (restoreFur m a false h j) := by
    rw [List.getElem?_mapIdx, List.getElem?_eq_getElem hj]
    rfl
  obtain ⟨g, hg⟩ := getElem?_regroup hget
  have hfurs : (restored m a h).furrows[j]? = some { restoreFur m a false h j with grp := g } := hg
  exact ⟨g, by rw [Herd.fur, List.getD_eq_getElem?_getD, hfurs, Option.getD_some]⟩

theorem sreg_restored {i : Nat} (h0 : 0 < i) (hi : i < 64) : (restored m a h).sreg i = BitVec.ofNat 64 (m.num (a + 0x100 + 8 * i) 8) := by
  have hs : (restored m a h).s = (h.acts (restoreRegs m a h)).s := by rw [restored]
  rw [Herd.sreg, hs, ← Herd.sreg, sreg_restoreRegs m a h h hi, if_neg (Nat.ne_of_gt h0)]

/-- R58: a furrow whose wait has resolved resumes, past its word when that has completed. -/
theorem restoreFur_resolved {f : Nat} {q : Resolution} (hq : (h.fur f).resolved = some q) :
    (restoreFur m a false h f).st = .running ∧ (restoreFur m a false h f).resolved = none ∧
      (restoreFur m a false h f).pc = BitVec.ofNat 64 (m.num (a + 0x400 + 512 * f) 8) + if q.completed then 8#64 else 0#64 := by
  unfold restoreFur
  simp only [hq]
  refine ⟨rfl, rfl, ?_⟩
  cases q.completed
  · exact (BitVec.add_zero _).symm
  · rfl

theorem restoreFur_running {f : Nat} (hq : (h.fur f).resolved = none) (hst : (readRec m (a + 0x400 + 512 * f)).st = 1) :
    (restoreFur m a false h f).st = .running ∧ (restoreFur m a false h f).pc = BitVec.ofNat 64 (m.num (a + 0x400 + 512 * f) 8) := by
  have hrec : (restoreRec m a false f).st = 1 := hst
  unfold restoreFur
  simp only [hq, hrec]
  exact ⟨rfl, rfl⟩

end Restore

section Residency
variable {s : State} {k : HerdKey} {h : Herd} {b : Nat}

/-- The acts of a residency whose herd is the one of the slice that became ready first, and has room (R58). -/
theorem residencyActs_eq (hh : s.herd? k = some h) (hready : isReady s h = true)
    (hfirst : ∀ y ∈ readyHerds s h.core h.slice, readyBefore y h = false) (hroom : roomBase s h = some b) :
    residencyActs k s =
      if !h.stored then herdActs k [.reside b]
      else if restoreBad s.hbm h.saveAt (savedProg s.hbm h.saveAt) h then doubleTrap s h 15 2 255
      else chain s ([fun s => herdActs k (restoreActs s.hbm h.saveAt h ++ [.reside b]),
        fun s => moveRecord s h.saveAt (saveArea s h)] ++ owedActs h k) := by
  have hnone : (readyHerds s h.core h.slice).any (fun x => readyBefore x h) = false := by
    rw [List.any_eq_false]
    exact fun y hy => by simp [hfirst y hy]
  unfold residencyActs
  simp only [hh, hroom]
  rw [hready, hnone]
  rfl

theorem owedActs_nil (hbad : ∀ j q, (h.fur j).resolved = some q → q.bad = none) : owedActs h k = [] := by
  have hnone : h.idxs.findSome? (fun f => (h.fur f).resolved.bind (fun q => q.bad)) = none := by
    rw [List.findSome?_eq_none_iff]
    intro f _
    cases hres : (h.fur f).resolved with
    | none => rfl
    | some q => exact hbad f q hres
  rw [owedActs, hnone]

/-- R58, R363: a stored herd whose area has not moved takes its context back and becomes resident. -/
theorem run_residency_stored (hh : s.herd? k = some h) (hready : isReady s h = true)
    (hfirst : ∀ y ∈ readyHerds s h.core h.slice, readyBefore y h = false) (hroom : roomBase s h = some b) (hst : h.stored = true)
    (hat : h.saveAt = saveArea s h) (hgood : restoreBad s.hbm h.saveAt (savedProg s.hbm h.saveAt) h = false)
    (hres : ∀ j q, (h.fur j).resolved = some q → q.wr = none ∧ q.bad = none) :
    run s (residencyActs k s) = run s (herdActs k (restoreActs s.hbm h.saveAt h ++ [.reside b])) := by
  obtain ⟨u, hu⟩ : ∃ u, u = run s (herdActs k (restoreActs s.hbm h.saveAt h ++ [.reside b])) := ⟨_, rfl⟩
  have harea : saveArea u h = saveArea s h := by
    rw [hu, run_herdActs]
    rfl
  rw [residencyActs_eq hh hready hfirst hroom, hst, hgood, owedActs_nil (fun j q hq => (hres j q hq).2)]
  simp only [Bool.not_true, Bool.false_eq_true, if_false, List.append_nil, run_two]
  rw [← hu, harea, hat, moveRecord, if_pos rfl, run_nil]

end Residency

/-- Settles O43, event by event: a passed headland, an expired yield, a penning (run_penning and the context that saveContext_stands finds
in the area) and a residency (acts_restore). -/
theorem schedulerEventsComplete : Obligations.SchedulerEventsComplete := by
  refine ⟨fun s k h f n hh hres hg hheld hst hsave => patience_passes hh hres hg hheld hst hsave,
    fun s k h f n x hh hx hw hlen => yield_expires hh hx hw hlen,
    fun s k h y hh hs hres hwait hlong hpend hy hroom hc hd => penning_saves hh hs hres hwait hlong hpend hy hroom hc hd,
    fun s k h b hh hready hfirst hroom => ⟨fun hst => ?_, fun hst hat hgood hres hprog => ?_, fun hst hbad => ?_⟩⟩
  · have hexec : exec (.herdResidency k) s = .next (run s (herdActs k [.reside b])) := by
      change Host.Outcome.next (run s (residencyActs k s)) = _
      rw [residencyActs_eq hh hready hfirst hroom, hst]
      rfl
    exact ⟨_, hexec, by rw [run_herdActs], oneHerd_herdActs hh [.reside b]⟩
  · have hexec : exec (.herdResidency k) s = .next (run s (herdActs k (restoreActs s.hbm h.saveAt h ++ [.reside b]))) :=
      congrArg Host.Outcome.next (run_residency_stored hh hready hfirst hroom hst hat hgood hres)
    obtain ⟨g, hg⟩ : ∃ g, g = restored s.hbm h.saveAt h := ⟨_, rfl⟩
    have hherd : h.acts (restoreActs s.hbm h.saveAt h ++ [.reside b]) = { g with resident := true, base := b, stored := false } := by
      rw [Herd.acts_append, acts_restore hprog (fun j q hq => (hres j q hq).1), ← hg]
      rfl
    refine ⟨_, _, hexec, by rw [run_herdActs], hherd ▸ oneHerd_herdActs hh _, rfl, rfl, rfl, by rw [hg]; rfl, fun i h0 hi => ?_,
      fun j q hj hq => ?_, fun j hj hq hst => ?_⟩
    · exact (hg ▸ sreg_restored h0 hi : g.sreg i = _)
    · obtain ⟨grp, hfur⟩ := fur_restored (m := s.hbm) (a := h.saveAt) hj
      rw [← hg] at hfur
      rw [fur_congr (g := { g with resident := true, base := b, stored := false }) (h := g) rfl, hfur]
      exact restoreFur_resolved hq
    · obtain ⟨grp, hfur⟩ := fur_restored (m := s.hbm) (a := h.saveAt) hj
      rw [← hg] at hfur
      rw [fur_congr (g := { g with resident := true, base := b, stored := false }) (h := g) rfl, hfur]
      exact restoreFur_running hq hst
  · change Host.Outcome.next (run s (residencyActs k s)) = _
    rw [residencyActs_eq hh hready hfirst hroom, hst, hbad]
    rfl

end Sys2Proof.Machine
end

section
/-! SUPPORT. A field of which another core's head has asked for a crew already, and the refutation of O46. -/
namespace Sys2Proof.Machine

/-- A crew of field 1 with the whole tile store of its core. -/
def tileCrew (crew core : Nat) : Crew :=
  Crew.fresh { key := { part := 0, field := 1, crew := crew }, core := core, herds := 1, tileLen := 2 ^ 21, order := 0 }

/-- A crew of the field on core 1, for which the head of core 1 has asked. -/
def askedCrew : Crew := { tileCrew 1 1 with pre := some { area := none, host := false, core := some 1 } }

/-- Field 1 has a field barrier, so that it is taken whole (R364). -/
def wholeTileField : FieldRec :=
  { part := 0, id := 1, card := { w0 := 0, w1 := 0, w2 := 0x200010020, w3 := 0x80000200, w4 := 0, w5 := 0, w6 := 0, w7 := 0 }, home := 0
    admitted := 2, ended := 0, aborted := false, phases := [] }

/-- Field 2, of priority 1, waits for 1 MiB of the tile store of core 0. -/
def waitingField : FieldRec :=
  { part := 0, id := 2, card := { w0 := 0, w1 := 0, w2 := 0x104010020, w3 := 0x40000000, w4 := 0, w5 := 0, w6 := 0, w7 := 0 }, home := 0
    admitted := 0, ended := 0, aborted := false, phases := [] }

def waitingSeed : Seed := { core := 0, prio := 1, part := 0, field := 2 }

/-- Field 1 runs on cores 0 and 1, and field 2 waits for core 0. -/
def askedState : State :=
  { State.reset with
    boot := .enabled, cfg := some wholeBlob, crews := [tileCrew 0 0, askedCrew], fields := [wholeTileField, waitingField], seeds := [waitingSeed] }

/-- Which cores' heads asked for the crews, after a step. -/
def askersAfter (r : Host.Outcome State Fault Refusal) : Option (List (Option Nat)) :=
  match r with
  | .next t => some (t.crews.map (fun c => c.pre.bind (fun q => q.core)))
  | _ => none

/-- The request of core 0 takes the field whole, and leaves the name of core 1 on the crew that core 1 has asked for. -/
theorem askersAfter_admission : askersAfter (exec (.admission 0) askedState) = some [some 0, some 1] := by decide +kernel

/-- Refutes O46, by its clause on a head that asks for a pre-emption: the head of core 0 asks for the crew on core 0, with its whole field. For
the field's crew on core 1 the head of core 1 has asked before; the model keeps that core's name on the request, where the statement
writes core 0 over it. -/
theorem not_admissionAndReleaseComplete : ¬ Obligations.AdmissionAndReleaseComplete := by
  rintro ⟨⟨-, hasks⟩, -⟩
  obtain ⟨t, hexec, -, hcrews⟩ := hasks askedState 0 waitingSeed waitingField (tileCrew 0 0) _ (by decide +kernel) (by decide +kernel)
    (by decide +kernel) (by decide +kernel) (by decide +kernel) (by decide +kernel) rfl rfl (by decide +kernel) (by decide +kernel)
    (by decide +kernel)
  have hafter := askersAfter_admission
  rw [hexec] at hafter
  have hcores : t.crews.map (fun c => c.pre.bind (fun q => q.core)) = [some 0, some 0] := by
    rw [hcrews]
    decide +kernel
  rw [askersAfter, hcores] at hafter
  exact absurd hafter (by decide)

end Sys2Proof.Machine
end

section
/-! SUPPORT. What translations leave, groups that park on a page fault, and the faults of a fetch (R118, R120, R125, R199, R422). -/
namespace Sys2Proof.Machine

/-- A state that differs from another at most in what translations and the count of a word leave: TLB entries, free values and core
registers. -/
def Looked (s t : State) : Prop := t = { s with tlb := t.tlb, freeCtr := t.freeCtr, coreRegs := t.coreRegs }

theorem looked_refl (s : State) : Looked s s := rfl

theorem Looked.trans {s t u : State} (h : Looked s t) (g : Looked t u) : Looked s u := by
  unfold Looked at *
  rw [g, h]

theorem Looked.herd? {s t : State} (e : Looked s t) (k : HerdKey) : t.herd? k = s.herd? k := by rw [e]; rfl

/-- The acts of a translation. -/
def LookAct (a : Act) : Prop := (∃ l, a = .tlbAdd l) ∨ (∃ n, a = .free n) ∨ ∃ k n, a = .bump k n

theorem looked_run : ∀ (l : List Act) (s : State), (∀ a ∈ l, LookAct a) → Looked s (run s l)
  | [], s, _ => looked_refl s
  | a :: l, s, h => by
    have ha : Looked s (s.act a) := by
      obtain ⟨x, rfl⟩ | ⟨x, rfl⟩ | ⟨k, n, rfl⟩ := h a (by simp) <;> rfl
    exact ha.trans (looked_run l _ (fun b hb => h b (by simp [hb])))

/-- Translations leave TLB entries and free values, and nothing else. -/
theorem run_look : ∀ (l : List Act) (s : State), (∀ a ∈ l, (∃ x, a = .tlbAdd x) ∨ ∃ n, a = .free n) →
    run s l = { s with tlb := (run s l).tlb, freeCtr := (run s l).freeCtr }
  | [], _, _ => rfl
  | a :: l, s, h => by
    rw [run_cons, run_look l _ (fun b hb => h b (by simp [hb]))]
    obtain ⟨x, rfl⟩ | ⟨x, rfl⟩ := h a (by simp) <;> rfl

theorem mem_lookActs {f : List TlbEntry} {d : Bool} {a : Act}
    (h : a ∈ (if f.isEmpty then [] else [Act.tlbAdd f]) ++ (if d then [Act.free 1] else [])) :
    (∃ x, a = .tlbAdd x) ∨ ∃ n, a = .free n := by
  obtain h | h := List.mem_append.mp h
  · split at h
    · cases h
    · exact .inl ⟨_, List.mem_singleton.mp h⟩
  · split at h
    · exact .inr ⟨_, List.mem_singleton.mp h⟩
    · cases h

theorem mem_fetchTrace {s : State} {h : Herd} {pc : Word} {a : Act} (ha : a ∈ fetchTrace s h pc) :
    (∃ x, a = .tlbAdd x) ∨ ∃ n, a = .free n := by
  unfold fetchTrace at ha
  split at ha
  · cases ha
  · exact mem_lookActs ha

theorem mem_xlateActs {l : List LaneAcc} {a : Act} (ha : a ∈ xlateActs l) : (∃ x, a = .tlbAdd x) ∨ ∃ n, a = .free n := mem_lookActs ha

theorem lookAct_of {a : Act} (h : (∃ x, a = .tlbAdd x) ∨ ∃ n, a = .free n) : LookAct a := h.imp_right .inl

theorem looked_fetchTrace (s : State) (h : Herd) (pc : Word) : Looked s (run s (fetchTrace s h pc)) :=
  looked_run _ s (fun _ ha => lookAct_of (mem_fetchTrace ha))

/-- What a park reads of the module. -/
theorem park_looked {s t : State} (e : Looked s t) (h : Herd) (fs : List Nat) (cause lane : Nat) (addr : Word) :
    park t h fs cause lane addr = park s h fs cause lane addr := by rw [e]; rfl

/-- The acts of a park on its herd: its furrows wait for the answer to fault `seq`, and the order of the wait is noted. -/
def parkHerd (h : Herd) (fs : List Nat) (seq order : Nat) : List HAct :=
  fs.map (fun f => furAct h f (fun r => { r with st := .waiting (.fault seq) })) ++ [.waitAt order]

/-- The acts of a park on the queues of the fault report. -/
def parkQueue (s : State) (h : Herd) (fs : List Nat) (cause lane : Nat) (addr : Word) : List Act :=
  queueFault s h.key.crew.part { part := h.key.crew.part, seq := 0, kind := 1, cause := cause, core := h.core, slot := h.slot
                                 addr := addr, field := h.key.crew.field, lane := lane, cls := 0 }
  ++ [.parked (s.parked ++ [{ part := h.key.crew.part, seq := (nextSeq s h.key.crew.part).toNat, key := some h.key
                              group := furMask fs, cause := cause, addr := addr, lane := lane }])]

theorem park_eq (s : State) (h : Herd) (fs : List Nat) (cause lane : Nat) (addr : Word) :
    park s h fs cause lane addr = parkQueue s h fs cause lane addr
      ++ herdActs h.key (parkHerd h fs (nextSeq s h.key.crew.part).toNat s.nextOrder) ++ [.nextOrder (s.nextOrder + 1)] := by
  simp [park, parkQueue, parkHerd, waitStamp, herdActs]

theorem acts_parkHerd (h : Herd) (f seq order : Nat) :
    h.acts (parkHerd h (h.group f) seq order) =
        { h with furrows := (h.acts (parkHerd h (h.group f) seq order)).furrows, waitAt := order } ∧
      ∀ j, (h.acts (parkHerd h (h.group f) seq order)).fur j =
        if j ∈ h.group f then { h.fur j with st := .waiting (.fault seq) } else h.fur j := by
  unfold parkHerd
  rw [Herd.acts_append, acts_furrowActs _ h (fun a ha => by
    obtain ⟨j, -, rfl⟩ := List.mem_map.mp ha
    exact ⟨_, _, rfl⟩)]
  exact ⟨rfl, fun j => fur_acts h _ (h.group f) h j (fun i hi => group_lt h f i hi)⟩

/-- R120, R414: a group that parks waits for the answer to its fault record, and nothing else changes but what the fault queue and the
order of waits need. -/
theorem parksOn_park {s s1 : State} {k : HerdKey} {h : Herd} (hh : s.herd? k = some h) (e : Looked s s1) (f cause lane : Nat)
    (addr : Word) :
    ∃ t h', run s1 (park s h (h.group f) cause lane addr) = t ∧ ParksOn s t k h h' (h.group f) cause lane addr ∧
      t = { s1 with herds := t.herds, counts := t.counts, faults := t.faults, parked := t.parked, nextOrder := s.nextOrder + 1 } := by
  obtain rfl := herd?_key hh
  let s2 := run s1 (parkQueue s h (h.group f) cause lane addr)
  have hh2 (j : HerdKey) : s2.herd? j = s.herd? j := e.herd? j
  obtain ⟨hself, hothers⟩ := oneHerd_herdActs (hh2 _ ▸ hh) (parkHerd h (h.group f) (nextSeq s h.key.crew.part).toNat s.nextOrder)
  obtain ⟨hact, hfur⟩ := acts_parkHerd h f (nextSeq s h.key.crew.part).toNat s.nextOrder
  rw [park_eq, run_append, run_append, run_herdActs]
  rw [run_herdActs] at hself hothers
  exact ⟨_, _, rfl, ⟨⟨hself, fun j hj => (hothers j hj).trans (hh2 j)⟩, hact, hfur, rfl, rfl⟩, rfl⟩

/-! The faults of a fetch. -/

theorem fld_parts_zero {a : Word} (h : fld a 63 48 = 0) : fld a 63 60 = 0 := by
  have hlt : a.toNat < 2 ^ 48 := by
    simp only [fld, BitVec.toNat_ushiftRight, Nat.shiftRight_eq_div_pow] at h
    have := a.isLt
    omega
  exact (fld_zero_of_lt hlt).1

theorem fetchLoc_ok {s : State} {h : Herd} {pc : Word} (h8 : pc.toNat % 8 = 0) (hz : fld pc 63 48 = 0) :
    fetchLoc s h pc = .ok (xlate s h.core h.key.crew.part (fld pc 47 0)) := by
  simp [fetchLoc, h8, hz, fld_parts_zero hz]

theorem permFault_fetch (sup : Bool) (e : Word) : permFault .fetch sup e =
    if e.getLsbD 7 = false then some (2, 9) else if e.getLsbD 5 = false ∧ sup = false then some (4, 3) else none := by
  unfold permFault
  cases e.getLsbD 7 <;> cases e.getLsbD 5 <;> cases sup <;> rfl

/-- R118, R199, R422: the faults with which a fetch traps, in the order in which it meets them. -/
theorem fetchWord_traps {s : State} {h : Herd} {pc : Word} {cls cause : Nat} (ht : FetchTraps s h pc cls cause) :
    fetchWord s h pc = .fault cls cause ∧ cls ≠ 4 := by
  obtain ⟨h8, e⟩ | ⟨h8, h7, e⟩ | ⟨h8, h7, hz, e⟩ | ⟨h8, hz, l, x, hres, hpage⟩ := ht
  · obtain ⟨rfl, rfl⟩ := Prod.mk.inj e
    simp [fetchWord, fetchLoc, h8]
  · obtain ⟨rfl, rfl⟩ := Prod.mk.inj e
    simp [fetchWord, fetchLoc, h8, h7]
  · obtain ⟨rfl, rfl⟩ := Prod.mk.inj e
    simp [fetchWord, fetchLoc, h8, Nat.not_le.mpr h7, hz]
  · obtain ⟨hca, e⟩ | ⟨hca, hus, herr, e⟩ := hpage
    · obtain ⟨rfl, rfl⟩ := Prod.mk.inj e
      simp [fetchWord, fetchLoc_ok h8 hz, hres, permFault_fetch, -BitVec.getLsbD_eq_getElem, hca]
    · obtain ⟨rfl, rfl⟩ := Prod.mk.inj e
      have hperm : permFault .fetch h.sup x = none := by
        rw [permFault_fetch, hca]
        obtain hus | hus := hus <;> rw [hus] <;> simp
      simp [fetchWord, fetchLoc_ok h8 hz, hres, hperm, herr]

/-- R118, R120, R422: the page faults on which a fetch parks. -/
theorem fetchWord_parks {s : State} {h : Herd} {pc : Word} {cause : Nat} (hp : FetchParks s h pc cause) :
    fetchWord s h pc = .fault 4 cause := by
  obtain ⟨h8, hz, hres | ⟨l, e, hres, hca, hus, hsup, rfl⟩⟩ := hp
  · simp [fetchWord, fetchLoc_ok h8 hz, hres]
  · simp [fetchWord, fetchLoc_ok h8 hz, hres, permFault_fetch, -BitVec.getLsbD_eq_getElem, hca, hus, hsup]

/-- The turn of a group whose fetch meets a fault while no trap of its herd pends (R120, R125, R199). -/
theorem issueTurn_fault {s : State} {k : HerdKey} {h : Herd} {f cls cause : Nat} (hh : s.herd? k = some h) (hp : h.pend = [])
    (hc : h.canIssue f = true) (hw : fetchWord s h (h.fur f).pc = .fault cls cause) (post : Bool) :
    issueTurn k f post s = .next (run s (fetchTrace s h (h.fur f).pc ++ fetchFault s h f cls cause)) := by
  have ht : trapTurn h f = false := by simp [trapTurn, hp]
  have hl : h.lateTurn f = false := by simp [Herd.lateTurn, hp]
  simp [issueTurn, hh, ht, hc, hw, seenActs, fetchTurn, hl, hp]

/-- Settles O52: the fetch answers the fault, and the turn traps or parks with it. -/
theorem fetchFaultsTrapOrPark : Obligations.FetchFaultsTrapOrPark := by
  intro s k f ts h pc s0 hs hh hc hpc hs0 hp
  subst hpc
  have hh0 : s0.herd? k = some h := by rw [hs0]; exact hh
  have hturn {cls cause : Nat} (hw : fetchWord s0 h (h.fur f).pc = .fault cls cause) :
      step s = judged (.next (run s0 (fetchTrace s0 h (h.fur f).pc ++ fetchFault s0 h f cls cause))) := by
    rw [step_turn hs, ← hs0, ← issueTurn_fault hh0 hp hc hw false]
    rfl
  refine ⟨fun cls cause ht hnone hwait => ?_, fun cls cause ht hsome => ?_, fun cause hpark => ?_⟩
  · obtain ⟨hw, h4⟩ := fetchWord_traps ht
    rw [hturn hw, fetchFault, if_neg h4]
    simp [takeTrap, hnone, hwait, pendBefore, hp]
  · obtain ⟨hw, h4⟩ := fetchWord_traps ht
    rw [hturn hw, fetchFault, if_neg h4]
    simp [takeTrap, hsome]
  · obtain ⟨t, h', ht, hpk, -⟩ := parksOn_park hh0 (looked_fetchTrace s0 h (h.fur f).pc) f cause 255 (h.fur f).pc
    refine ⟨t, h', ?_, hpk⟩
    rw [hturn (fetchWord_parks hpark), fetchFault, if_pos rfl, run_append, ht]

end Sys2Proof.Machine
end

section
/-! SUPPORT. The host's queues: the doorbell, the read of a launch-queue entry, and the records that the module writes (R396, R397, R410,
R412, R414). -/
namespace Sys2Proof.Machine

/-- The register file of the page after one register is set. -/
theorem hostRegSet_of {s t : State} {p off : Nat} {v : Word} (e : t.hostRegs = Sparse.set zeros s.hostRegs (4096 * p + off) v) :
    HostRegSet s t p off v := by
  refine ⟨by rw [State.hostReg, e, Sparse.get_set, if_pos rfl], fun n hn => by rw [e, Sparse.get_set, if_neg hn]⟩

/-- The doorbell (R396, R410). -/
theorem lqtail_sets {s : State} {p : Nat} (v : Word) (hon : hostOn s p = true) :
    ∃ t, exec (.lqtail p v) s = .next t ∧ t = { s with hostRegs := t.hostRegs } ∧ HostRegSet s t p 0x018 v := by
  have e : exec (.lqtail p v) s = .next (s.act (setHostReg p 0x018 v)) := by
    have hacts : (if hostOn s p then [setHostReg p 0x018 v] else []) = [setHostReg p 0x018 v] := if_pos hon
    exact congrArg (fun l => Host.Outcome.next (run s l)) hacts
  exact ⟨_, e, rfl, hostRegSet_of rfl⟩

/-! The launch queue. -/

section Entry
variable {s : State} {p : Nat}

/-- Nothing keeps an entry that waits from being read. -/
theorem entryWaits_guard (hw : EntryWaits s p) : (!hostOn s p || s.hostReg p 0x010 = s.hostReg p 0x018
    || 16 < fld (s.hostReg p 0x008) 4 0 || s.parked.any (fun x => decide (x.part = p) && x.key.isNone)) = false := by
  obtain ⟨hon, hne, hsize, hparked⟩ := hw
  have hany : s.parked.any (fun x => decide (x.part = p) && x.key.isNone) = false := by simpa using hparked
  simp [hon, hne, hany, Nat.not_lt.mpr hsize]

theorem entryActs_later (hr : readEntry s p (entryAddr s p) = .later) : entryActs p s = [] := by
  simp [entryActs, hr]

theorem entryActs_unread {cls cause : Nat} (hw : EntryWaits s p) (hr : readEntry s p (entryAddr s p) = .fault cls cause) (h4 : cls ≠ 4) :
    entryActs p s = rejectUnread s p cls cause := by
  simp only [entryActs, entryWaits_guard hw, hr, Bool.false_eq_true, if_false]

/-- The report of a page fault of the launch queue, whose reads park (R396, R414). -/
def entryParks (s : State) (p cause : Nat) : List Act :=
  queueFault s p { part := p, seq := 0, kind := 1, cause := cause, core := 0xFF, slot := 0xFF, addr := entryAddr s p
                   field := 0, lane := 0xFF, cls := 0 }
    ++ [.parked (s.parked ++ [{ part := p, seq := (nextSeq s p).toNat, key := none, group := 0, cause := cause
                                addr := entryAddr s p, lane := 0xFF }])]

theorem entryActs_pageFault {cause : Nat} (hw : EntryWaits s p) (hr : readEntry s p (entryAddr s p) = .fault 4 cause) :
    entryActs p s = entryParks s p cause := by
  simp only [entryActs, entryWaits_guard hw, hr, Bool.false_eq_true, if_false]
  rfl

/-- The completion event of a card that is refused. -/
def refusal (s : State) (p : Nat) (c : Card) : Comp :=
  { part := p, typ := 2, status := cardStatus s p c c.home false false, tag := c.tag, field := 0
    detail := BitVec.ofNat 64 (cardStatus s p c c.home false false) }

theorem entryActs_card {bs : List Byte} (hw : EntryWaits s p) (hr : readEntry s p (entryAddr s p) = .card bs) : entryActs p s =
    if cardStatus s p (cardOf bs) (cardOf bs).home false false ≠ 0 then [queueComp s (refusal s p (cardOf bs)), bumpHead' s p]
    else if queueFull s (cardOf bs).home (cardOf bs).prio || !(sowsStalled s (cardOf bs).home (cardOf bs).prio).isEmpty then []
    else postCard s p (cardOf bs) (cardOf bs).home ++ [bumpHead' s p] := by
  simp only [entryActs, entryWaits_guard hw, hr, Bool.false_eq_true, if_false]
  rfl

/-- The rejection of an entry moves the head and queues its completion event. -/
theorem run_reject (c : Comp) :
    ∃ t, run s [queueComp s c, bumpHead' s p] = t ∧ t = { s with hostRegs := t.hostRegs, comps := t.comps } ∧
      HostRegSet s t p 0x010 (s.hostReg p 0x010 + 1) ∧ t.comps = s.comps ++ [c] :=
  ⟨_, rfl, rfl, hostRegSet_of rfl, rfl⟩

theorem exec_entryRead : exec (.launchQueueEntryRead p) s = .next (run s (entryActs p s)) := rfl

/-- An entry that is read: a card that is refused, one that is queued, and one that waits for room or for stalled `sow`s (R396,
R397, R411). -/
theorem entry_card {bs : List Byte} {c : Card} (hw : EntryWaits s p) (hr : readEntry s p (entryAddr s p) = .card bs) (hc : c = cardOf bs) :
    (cardStatus s p c c.home false false ≠ 0 → ∃ t, exec (.launchQueueEntryRead p) s = .next t ∧
      t = { s with hostRegs := t.hostRegs, comps := t.comps } ∧ HostRegSet s t p 0x010 (s.hostReg p 0x010 + 1) ∧
      t.comps = s.comps ++ [{ part := p, typ := 2, status := cardStatus s p c c.home false false, tag := c.tag, field := 0
                              detail := BitVec.ofNat 64 (cardStatus s p c c.home false false) }])
    ∧ (cardStatus s p c c.home false false = 0 → queueFull s c.home c.prio = false → sowsStalled s c.home c.prio = [] →
      ∃ t, exec (.launchQueueEntryRead p) s = .next t ∧ HostRegSet s t p 0x010 (s.hostReg p 0x010 + 1) ∧
        t = { s with hostRegs := t.hostRegs, counts := t.counts, fields := t.fields, seeds := t.seeds } ∧
        t.seeds = s.seeds ++ [{ core := c.home, prio := c.prio, part := p, field := (nextFieldId s p).toNat }] ∧
        t.fields = s.fields ++ [{ part := p, id := (nextFieldId s p).toNat, card := c, home := c.home, admitted := 0, ended := 0
                                  aborted := false, phases := [] }])
    ∧ (cardStatus s p c c.home false false = 0 → (queueFull s c.home c.prio = true ∨ sowsStalled s c.home c.prio ≠ []) →
      exec (.launchQueueEntryRead p) s = .next s) := by
  subst hc
  have hacts := entryActs_card hw hr
  refine ⟨fun hst => ?_, fun hst hfull hsow => ?_, fun hst hwait => ?_⟩
  · obtain ⟨t, ht, hrest⟩ := run_reject (s := s) (p := p) (refusal s p (cardOf bs))
    exact ⟨t, by rw [exec_entryRead, hacts, if_pos hst, ht], hrest⟩
  · have e : entryActs p s = postCard s p (cardOf bs) (cardOf bs).home ++ [bumpHead' s p] := by
      simp [hacts, hst, hfull, hsow]
    exact ⟨_, by rw [exec_entryRead, e], hostRegSet_of rfl, rfl, rfl, rfl⟩
  · have e : entryActs p s = [] := by
      rw [hacts, if_neg (not_not.mpr hst), if_pos]
      obtain hfull | hsow := hwait
      · simp [hfull]
      · simp [hsow]
    rw [exec_entryRead, e, run_nil]

/-- An entry that cannot be read is rejected; on a page fault the queue parks (R396, R412, R414). -/
theorem entry_fault {cls cause : Nat} (hw : EntryWaits s p) (hr : readEntry s p (entryAddr s p) = .fault cls cause) :
    (cls ≠ 4 → ∃ t, exec (.launchQueueEntryRead p) s = .next t ∧ t = { s with hostRegs := t.hostRegs, comps := t.comps } ∧
      HostRegSet s t p 0x010 (s.hostReg p 0x010 + 1) ∧
      t.comps = s.comps ++ [{ part := p, typ := 2, status := 6, tag := 0, field := 0
                              detail := BitVec.ofNat 64 (6 + 2 ^ 8 * cls + 2 ^ 16 * cause) }])
    ∧ (cls = 4 → ∃ t, exec (.launchQueueEntryRead p) s = .next t ∧
      t = { s with counts := t.counts, faults := t.faults, parked := t.parked } ∧
      t.faults = s.faults ++ [{ part := p, seq := (nextSeq s p).toNat, kind := 1, cause := cause, core := 0xFF, slot := 0xFF
                                addr := entryAddr s p, field := 0, lane := 0xFF, cls := 0 }] ∧
      ∃ q, t.parked = s.parked ++ [q] ∧ q.part = p ∧ q.seq = (nextSeq s p).toNat ∧ q.key = none) := by
  refine ⟨fun h4 => ?_, fun h4 => ?_⟩
  · obtain ⟨t, ht, hrest⟩ := run_reject (s := s) (p := p)
      { part := p, typ := 2, status := 6, tag := 0, field := 0, detail := BitVec.ofNat 64 (6 + 2 ^ 8 * cls + 2 ^ 16 * cause) }
    exact ⟨t, by rw [exec_entryRead, entryActs_unread hw hr h4, rejectUnread, ht], hrest⟩
  · subst h4
    exact ⟨_, by rw [exec_entryRead, entryActs_pageFault hw hr], rfl, rfl, _, rfl, rfl, rfl, rfl⟩

end Entry

/-! The records. -/

section Records
variable {s : State} {p : Nat}

/-- A record of four words, written where the queue's tail says, and the tail advanced (R412). -/
theorem writeRecord_writes {off w0 w1 w2 : Nat} (h0 : w0 < 2 ^ 64) (h1 : w1 < 2 ^ 64) (h2 : w2 < 2 ^ 64) :
    ∃ t, run s (writeRecord s p off w0 w1 w2) = t ∧ RecordAt s t (recordAddr s p off) w0 w1 w2 ∧
      HostRegSet s t p (off + 0x18) (s.hostReg p (off + 0x18) + 1) ∧
      t = { s with hostMem := t.hostMem, hostRegs := t.hostRegs, time := t.time, freeCtr := s.freeCtr + 1 } := by
  let bs := leBytes 8 w0 ++ leBytes 8 w1 ++ leBytes 8 w2 ++ leBytes 8 (nowTime s).toNat
  have hmem : (Memory.put s.hostMem (recordAddr s p off) bs).Stands (recordAddr s p off) bs := Memory.bytes_put _ _ _
  obtain ⟨hs, s3⟩ := Memory.Stands.append_iff.mp hmem
  obtain ⟨hs, s2⟩ := Memory.Stands.append_iff.mp hs
  obtain ⟨s0, s1⟩ := Memory.Stands.append_iff.mp hs
  simp only [List.length_append, length_leBytes] at s1 s2 s3
  refine ⟨_, rfl, ⟨s0.num_eq (by omega), s1.num_eq (by omega), s2.num_eq (by omega), s3.num_word rfl, fun q hq => ?_⟩,
    hostRegSet_of rfl, rfl⟩
  exact Memory.byte_put_of_lt s.hostMem (recordAddr s p off) bs q (by rwa [show bs.length = 32 by simp [bs]])

theorem exec_compWrite : exec (.completionRecordWrite p) s = .next (run s (compActs p s)) := rfl
theorem exec_faultWrite : exec (.faultRecordWrite p) s = .next (run s (faultActs p s)) := rfl

/-- The oldest event of a partition in a queue, and the queue without it. -/
theorem oldest_split {α : Type} {q : α → Bool} {pre post : List α} {c : α} (hpre : ∀ x ∈ pre, q x = false) (hc : q c = true) :
    (pre ++ c :: post).find? q = some c ∧ (pre ++ c :: post).eraseP q = pre ++ post := by
  constructor
  · rw [List.find?_append, List.find?_eq_none.mpr (by simpa using hpre)]
    simp [hc]
  · rw [List.eraseP_append_right _ (by simpa using hpre)]
    simp [hc]

theorem comp_written {pre post : List Comp} {c : Comp} (hs : s.comps = pre ++ c :: post) (hpre : ∀ x ∈ pre, x.part ≠ p)
    (hc : c.part = p) (hon : hostOn s p = true) (hopen : queueOpen s p 0x020 = true) (htag : c.tag < 2 ^ 32)
    (hstatus : c.status < 2 ^ 24) (htyp : c.typ < 2 ^ 8) (hfield : c.field < 2 ^ 64) :
    ∃ t, exec (.completionRecordWrite p) s = .next t ∧ t.comps = pre ++ post ∧
      RecordAt s t (recordAddr s p 0x020) (c.tag * 2 ^ 32 + c.status * 2 ^ 8 + c.typ) c.field c.detail.toNat ∧
      HostRegSet s t p 0x038 (s.hostReg p 0x038 + 1) ∧
      t = { s with comps := t.comps, hostMem := t.hostMem, hostRegs := t.hostRegs, time := t.time, freeCtr := s.freeCtr + 1 } := by
  obtain ⟨hfind, herase⟩ := oldest_split (q := fun x : Comp => decide (x.part = p)) (post := post)
    (fun x hx => decide_eq_false (hpre x hx)) (decide_eq_true hc)
  obtain ⟨t, ht, hrec, hreg, hrest⟩ := writeRecord_writes (s := s) (p := p) (off := 0x020)
    (w0 := c.tag * 2 ^ 32 + c.status * 2 ^ 8 + c.typ) (by omega) hfield c.detail.isLt
  refine ⟨t.act (.comps (pre ++ post)), ?_, rfl, hrec, hreg, ?_⟩
  · have e : compActs p s = writeRecord s p 0x020 (c.tag * 2 ^ 32 + c.status * 2 ^ 8 + c.typ) c.field c.detail.toNat
        ++ [.comps (pre ++ post)] := by
      simp only [compActs, hs, hfind, herase, hon, hopen, Bool.and_self, if_true]
    rw [exec_compWrite, e, run_append, ht, run_cons, run_nil]
  · rw [hrest]
    rfl

theorem fault_written {pre post : List FaultRec} {r : FaultRec} (hs : s.faults = pre ++ r :: post) (hpre : ∀ x ∈ pre, x.part ≠ p)
    (hc : r.part = p) (hon : hostOn s p = true) (hopen : queueOpen s p 0x040 = true) (hseq : r.seq < 2 ^ 32) (hkind : r.kind < 2 ^ 8)
    (hcause : r.cause < 2 ^ 8) (hcore : r.core < 2 ^ 8) (hslot : r.slot < 2 ^ 8) (hfield : r.field < 2 ^ 32) (hlane : r.lane < 2 ^ 8)
    (hcls : r.cls < 2 ^ 4) :
    ∃ t, exec (.faultRecordWrite p) s = .next t ∧ t.faults = pre ++ post ∧
      RecordAt s t (recordAddr s p 0x040)
        (r.slot * 2 ^ 56 + r.core * 2 ^ 48 + r.cause * 2 ^ 40 + r.kind * 2 ^ 32 + r.seq) r.addr.toNat
        (r.cls * 2 ^ 40 + r.lane * 2 ^ 32 + r.field) ∧
      HostRegSet s t p 0x058 (s.hostReg p 0x058 + 1) ∧
      t = { s with faults := t.faults, hostMem := t.hostMem, hostRegs := t.hostRegs, time := t.time, freeCtr := s.freeCtr + 1 } := by
  obtain ⟨hfind, herase⟩ := oldest_split (q := fun x : FaultRec => decide (x.part = p)) (post := post)
    (fun x hx => decide_eq_false (hpre x hx)) (decide_eq_true hc)
  obtain ⟨t, ht, hrec, hreg, hrest⟩ := writeRecord_writes (s := s) (p := p) (off := 0x040)
    (w0 := r.slot * 2 ^ 56 + r.core * 2 ^ 48 + r.cause * 2 ^ 40 + r.kind * 2 ^ 32 + r.seq)
    (w2 := r.cls * 2 ^ 40 + r.lane * 2 ^ 32 + r.field) (by omega) r.addr.isLt (by omega)
  refine ⟨t.act (.faults (pre ++ post)), ?_, rfl, hrec, hreg, ?_⟩
  · have e : faultActs p s = writeRecord s p 0x040
        (r.slot * 2 ^ 56 + r.core * 2 ^ 48 + r.cause * 2 ^ 40 + r.kind * 2 ^ 32 + r.seq) r.addr.toNat
        (r.cls * 2 ^ 40 + r.lane * 2 ^ 32 + r.field) ++ [.faults (pre ++ post)] := by
      simp only [faultActs, hs, hfind, herase, hon, hopen, Bool.and_self, if_true]
      congr 2 <;> omega
    rw [exec_faultWrite, e, run_append, ht, run_cons, run_nil]
  · rw [hrest]
    rfl

end Records

/-- Settles O48: the doorbell, the read of an entry and the writes of the records, each from what its acts do. -/
theorem hostQueueEventsComplete : Obligations.HostQueueEventsComplete := by
  refine ⟨fun s p v hon => lqtail_sets v hon, fun s p hw => ⟨fun hr => ?_, fun bs c hr hc => entry_card hw hr hc,
      fun cls cause hr => entry_fault hw hr⟩,
    fun s p pre post c hs hpre hc hon hopen h1 h2 h3 h4 => comp_written hs hpre hc hon hopen h1 h2 h3 h4,
    fun s p pre post r hs hpre hc hon hopen h1 h2 h3 h4 h5 h6 h7 h8 => fault_written hs hpre hc hon hopen h1 h2 h3 h4 h5 h6 h7 h8⟩
  rw [exec_entryRead, entryActs_later hr, run_nil]

end Sys2Proof.Machine
end

section
/-! SUPPORT. The register page, the answers to parked page faults, registration, pre-emption requests, attestation and the peers (R120,
R284, R410, R414 to R417, R421). -/
namespace Sys2Proof.Machine

/-! The plain registers of the page. -/

section Page
variable {s : State} {p off : Nat} {v : Word}

theorem exec_hostWrite : exec (.hostRegisterWrite p off v) s = .next (run s (hostWriteActs p off v s)) := rfl

/-- Which writes of the page's registers take place (R410). -/
theorem hostWriteActs_sets (hon : hostOn s p = true)
    (hoff : off ∈ [0x030, 0x050, 0x080, 0x088, 0x090] ∨ (off ∈ [0x000, 0x008] ∧ s.hostReg p 0x010 = s.hostReg p 0x018)
      ∨ (off ∈ [0x020, 0x028] ∧ s.hostReg p 0x030 = s.hostReg p 0x038)
      ∨ (off ∈ [0x040, 0x048] ∧ s.hostReg p 0x050 = s.hostReg p 0x058)) :
    hostWriteActs p off v s = [setHostReg p off v] := by
  simp only [List.mem_cons, List.not_mem_nil, or_false] at hoff
  obtain (rfl | rfl | rfl | rfl | rfl) | ⟨rfl | rfl, hq⟩ | ⟨rfl | rfl, hq⟩ | ⟨rfl | rfl, hq⟩ := hoff
  all_goals simp_all [hostWriteActs]

theorem hostWriteActs_other
    (hoff : off ∉ [0x000, 0x008, 0x020, 0x028, 0x030, 0x040, 0x048, 0x050, 0x080, 0x088, 0x090]) : hostWriteActs p off v s = [] := by
  simp only [List.mem_cons, List.not_mem_nil, or_false, not_or] at hoff
  simp [hostWriteActs, hoff]

/-- The base and the size of the launch queue stay while it holds unread entries. -/
theorem hostWriteActs_busy (hoff : off ∈ [0x000, 0x008]) (hq : s.hostReg p 0x010 ≠ s.hostReg p 0x018) : hostWriteActs p off v s = [] := by
  simp only [List.mem_cons, List.not_mem_nil, or_false] at hoff
  obtain rfl | rfl := hoff <;> simp [hostWriteActs, hq]

end Page

/-! The answer to a parked page fault. -/

section Answers
variable {s : State} {p : Nat} {v : Word} {q : Parked} {k : HerdKey} {h : Herd}

theorem exec_fresp : exec (.fresp p v) s = .next (run s (frespActs p v s)) := rfl

/-- What the answer does to the herd of a parked group. -/
theorem frespActs_herd (hq : s.parked.find? (fun x => decide (x.part = p) && decide (x.seq = fld v 31 0)) = some q)
    (hk : q.key = some k) (hh : s.herd? k = some h) : frespActs p v s = respondHerd q h (v.getLsbD 32) s := by
  simp only [frespActs, hq, hk, hh]

/-- The furrows of a parked group, once the answer has ended their wait, and the queue of parked faults without it. -/
theorem answered_run (hh : s.herd? k = some h) (hres : h.resident = true) (hnone : h.handler = none) :
    ∃ t h', run s (.parked (s.parked.filter (fun x => decide (x ≠ q))) :: herdActs k (endWaits h (h.waitingOn (.fault q.seq)) reissue)) = t ∧
      t = { s with herds := t.herds, parked := t.parked } ∧ (∀ x, x ∈ t.parked ↔ x ∈ s.parked ∧ x ≠ q) ∧
      OneHerd s t k h' ∧ FurrowsOnly h h' ∧
      ∀ j, h'.fur j = if j ∈ h.waitingOn (.fault q.seq) then { h.fur j with st := .running } else h.fur j := by
  let fs := h.waitingOn (.fault q.seq)
  let s1 := s.act (.parked (s.parked.filter (fun x => decide (x ≠ q))))
  have hacts : endWaits h fs reissue = fs.map (fun f => furAct h f (endedWait h reissue f)) := by
    simp [endWaits, endWait_eq, reissue]
  have hended (j : Nat) (x : Furrow) : endedWait h reissue j x = { x with st := .running } := by
    simp [endedWait, hres, hnone, reissue]
  obtain ⟨hself, hothers⟩ := oneHerd_herdActs (s := s1) (show s1.herd? k = some h from hh) (endWaits h fs reissue)
  refine ⟨_, _, rfl, ?_, fun x => ?_, ⟨hself, hothers⟩, ?_, fun j => ?_⟩
  · rw [run_cons, run_herdActs]
    rfl
  · rw [run_cons, run_herdActs]
    simp
  · rw [hacts]
    exact acts_furrowActs _ h (fun a ha => by
      obtain ⟨j, -, rfl⟩ := List.mem_map.mp ha
      exact ⟨_, _, rfl⟩)
  · rw [hacts, fur_acts h _ fs h j (fun f hf => (mem_unresolved hf).1), hended]

/-- A serviced page fault lets its group issue again (R120, R414). -/
theorem fresp_serviced (hq : s.parked.find? (fun x => decide (x.part = p) && decide (x.seq = fld v 31 0)) = some q)
    (hk : q.key = some k) (hh : s.herd? k = some h) (hv : v.getLsbD 32 = false) (hres : h.resident = true) (hnone : h.handler = none) :
    ∃ t h', exec (.fresp p v) s = .next t ∧ t = { s with herds := t.herds, parked := t.parked } ∧
      (∀ x, x ∈ t.parked ↔ x ∈ s.parked ∧ x ≠ q) ∧ OneHerd s t k h' ∧ FurrowsOnly h h' ∧
      ∀ j, h'.fur j = if j ∈ h.waitingOn (.fault q.seq) then { h.fur j with st := .running } else h.fur j := by
  obtain ⟨t, h', ht, hrest⟩ := answered_run (q := q) hh hres hnone
  refine ⟨t, h', ?_, hrest⟩
  have e : frespActs p v s =
      .parked (s.parked.filter (fun x => decide (x ≠ q))) :: herdActs k (endWaits h (h.waitingOn (.fault q.seq)) reissue) := by
    rw [frespActs_herd hq hk hh, hv, ← herd?_key hh]
    simp [respondHerd, readyStamp_resident hres]
  rw [exec_fresp, e, ht]

/-- A page fault that the host cannot service traps (R120, R357). -/
theorem fresp_failed (hq : s.parked.find? (fun x => decide (x.part = p) && decide (x.seq = fld v 31 0)) = some q)
    (hk : q.key = some k) (hh : s.herd? k = some h) (hv : v.getLsbD 32 = true) (hres : h.resident = true) (hnone : h.handler = none)
    (hfree : TrapFree h (furMask (h.waitingOn (.fault q.seq)))) :
    ∃ t1 h1, exec (.fresp p v) s = .next (run t1 (takeTrap t1 h1 (faultTrap h q (h.waitingOn (.fault q.seq))))) ∧
      t1 = { s with herds := t1.herds, parked := t1.parked } ∧ OneHerd s t1 k h1 ∧ FurrowsOnly h h1 ∧ q ∉ t1.parked ∧
      ∀ j, h1.fur j = if j ∈ h.waitingOn (.fault q.seq) then { h.fur j with st := .running } else h.fur j := by
  obtain ⟨t1, h1, ht, hframe, hparked, hone, hfurs, hfur⟩ := answered_run (q := q) hh hres hnone
  refine ⟨t1, h1, ?_, hframe, hone, hfurs, fun hm => ((hparked q).mp hm).2 rfl, hfur⟩
  have hfree1 : TrapFree h1 (furMask (h.waitingOn (.fault q.seq))) :=
    trapFree_congr (by rw [hfurs]) (by rw [hfurs]) (by rw [hfurs]) hfree
  obtain rfl := herd?_key hh
  rw [exec_fresp, frespActs_herd hq hk hh, hv]
  simp only [respondHerd, Bool.not_true, Bool.false_eq_true, if_false, hres]
  rw [run_two, ht, hone.1]
  exact congrArg (fun l => Host.Outcome.next (run t1 l)) (raiseTrap_free hfree1 t1)

/-- The launch queue's read issues again (R396). -/
theorem fresp_entry (hq : s.parked.find? (fun x => decide (x.part = p) && decide (x.seq = fld v 31 0)) = some q)
    (hk : q.key = none) (hv : v.getLsbD 32 = false) :
    ∃ t, exec (.fresp p v) s = .next t ∧ t = { s with parked := t.parked } ∧ ∀ x, x ∈ t.parked ↔ x ∈ s.parked ∧ x ≠ q := by
  have e : frespActs p v s = [.parked (s.parked.filter (fun x => decide (x ≠ q)))] := by
    simp [frespActs, hq, hk, hv, -BitVec.getLsbD_eq_getElem]
  refine ⟨_, by rw [exec_fresp, e], rfl, fun x => ?_⟩
  simp

theorem hostAnswersComplete : Sys2Proof.HostAnswersComplete := by
  refine ⟨fun s p off v hon => ⟨fun hoff => ?_, fun hoff => ?_, fun hoff hq => ?_⟩, fun s p v hp => ?_, fun s p v q k h hq hk hh =>
    ⟨fun hv hres hnone => fresp_serviced hq hk hh hv hres hnone, fun hv hres hnone hf => fresp_failed hq hk hh hv hres hnone hf⟩,
    fun s p v q hq hk hv => fresp_entry hq hk hv⟩
  · exact ⟨_, by rw [exec_hostWrite, hostWriteActs_sets hon hoff], rfl, hostRegSet_of rfl⟩
  · rw [exec_hostWrite, hostWriteActs_other hoff, run_nil]
  · rw [exec_hostWrite, hostWriteActs_busy hoff hq, run_nil]
  · have hnone : s.parked.find? (fun x => decide (x.part = p) && decide (x.seq = fld v 31 0)) = none := by
      simpa using fun x hx => not_and.mp (hp x hx)
    have e : frespActs p v s = [] := by simp [frespActs, hnone]
    rw [exec_fresp, e, run_nil]

end Answers

/-! Requests of pre-emption. -/

/-- Requests, one for each key of a list. -/
def preActs (l : List (CrewKey × PreReq)) : List Act := l.map (fun x => .crew x.1 (.pre (some x.2)))

/-- Requests of the host reach the crews that they name and no other, and nothing else changes. -/
theorem run_preActs : ∀ (l : List (CrewKey × PreReq)) (s : State), (∀ x ∈ l, x.2.host = true) → ∃ g : Crew → Crew,
    run s (preActs l) = { s with crews := s.crews.map g } ∧ ∀ c, (g c).key = c.key ∧ (g c).saved = c.saved ∧
      (c.key ∉ l.map Prod.fst → g c = c) ∧ (c.key ∈ l.map Prod.fst → ∃ r, (g c).pre = some r ∧ r.host = true)
  | [], s, _ => ⟨id, by simp [preActs], fun c => by simp⟩
  | x :: l, s, h => by
    let f (c : Crew) : Crew := if c.key = x.1 then { c with pre := some x.2 } else c
    obtain ⟨g, hg, hspec⟩ := run_preActs l (s.act (.crew x.1 (.pre (some x.2)))) (fun y hy => h y (by simp [hy]))
    have hf (c : Crew) : (f c).key = c.key ∧ (f c).saved = c.saved := by
      simp only [f]
      split <;> simp
    refine ⟨g ∘ f, ?_, fun c => ?_⟩
    · rw [preActs, List.map_cons, run_cons]
      refine hg.trans ?_
      simp only [State.act, List.map_map]
      rfl
    · obtain ⟨hkey, hsaved, hout, hin⟩ := hspec (f c)
      obtain ⟨fkey, fsaved⟩ := hf c
      rw [fkey] at hkey hout hin
      refine ⟨hkey, hsaved.trans fsaved, fun hc => ?_, fun hc => ?_⟩
      · simp only [List.map_cons, List.mem_cons, not_or] at hc
        obtain ⟨hne, hc⟩ := hc
        exact (hout hc).trans (if_neg hne)
      · by_cases hl : c.key ∈ l.map Prod.fst
        · exact hin hl
        · have hx : c.key = x.1 := by simpa [hl] using hc
          refine ⟨x.2, ?_, h x (by simp)⟩
          rw [Function.comp_apply, hout hl]
          simp only [f, if_pos hx]

/-- The request that a crew has once the host asks for it. -/
def askHost (c : Crew) : PreReq :=
  match c.pre with
  | some r => { r with host := r.host || true, core := r.core.or none }
  | none => { area := none, host := true, core := none }

theorem askHost_host (c : Crew) : (askHost c).host = true := by
  unfold askHost
  cases c.pre <;> simp

theorem requestCrews_host (s : State) (pick : Crew → Bool) : requestCrews s pick true none =
    preActs ((s.crews.filter (fun c => pick c && c.saved.isNone)).map (fun c => (c.key, askHost c))) := by
  unfold requestCrews preActs
  rw [List.map_map]
  rfl

/-- R416: a request for a field asks for each of its crews that is not saved. -/
theorem preempt_asks {s : State} {p : Nat} {v : Word} {f : FieldRec} (hon : hostOn s p = true) (hf : s.field? p (fld v 31 0) = some f)
    (hab : f.aborted = false) (hcrew : ∃ c ∈ s.crews, c.key.part = p ∧ c.key.field = fld v 31 0 ∧ c.saved = none) :
    ∃ t, exec (.preempt p v) s = .next t ∧ t = { s with crews := t.crews } ∧ t.crews.length = s.crews.length ∧
      ∀ c ∈ t.crews, c.key.part = p → c.key.field = fld v 31 0 → c.saved = none → ∃ r, c.pre = some r ∧ r.host = true := by
  let mine (c : Crew) : Bool := decide (c.key.part = p) && decide (c.key.field = fld v 31 0)
  obtain ⟨g, hg, hspec⟩ := run_preActs
    ((s.crews.filter (fun c => mine c && c.saved.isNone)).map (fun c => (c.key, askHost c))) s
    (fun x hx => by
      obtain ⟨c, -, rfl⟩ := List.mem_map.mp hx
      exact askHost_host c)
  rw [← requestCrews_host] at hg
  have hasked : ∀ c ∈ s.crews, c.key.part = p → c.key.field = fld v 31 0 → c.saved = none → ∃ r, (g c).pre = some r ∧ r.host = true := by
    intro c hc hp hfield hsaved
    obtain ⟨-, -, -, hin⟩ := hspec c
    refine hin ?_
    simp only [List.map_map, List.mem_map, List.mem_filter]
    exact ⟨c, ⟨hc, by simp [mine, hp, hfield, hsaved]⟩, rfl⟩
  have hdone : preemptDone { s with crews := s.crews.map g } p (fld v 31 0) = [] := by
    obtain ⟨c, hc, hp, hfield, hsaved⟩ := hcrew
    obtain ⟨r, hr, hhost⟩ := hasked c hc hp hfield hsaved
    obtain ⟨hkey, -⟩ := hspec c
    refine if_pos (List.any_eq_true.mpr ⟨g c, List.mem_map_of_mem hc, ?_⟩)
    simp [hkey, hp, hfield, Crew.asked, hr, hhost]
  have hany : s.crews.any mine = true := by
    obtain ⟨c, hc, hp, hfield, -⟩ := hcrew
    exact List.any_eq_true.mpr ⟨c, hc, by simp [mine, hp, hfield]⟩
  have e : preemptActs p v s = chain s [fun s => requestCrews s mine true none, fun s => preemptDone s p (fld v 31 0)] := by
    simp only [preemptActs, hon, hf, hab, Bool.not_true, Bool.false_eq_true, if_false, Bool.false_or]
    rw [if_neg (by rw [hany]; simp)]
  refine ⟨{ s with crews := s.crews.map g }, ?_, rfl, List.length_map _, fun c hc hp hfield hsaved => ?_⟩
  · show Host.Outcome.next (run s (preemptActs p v s)) = _
    rw [e, run_two, hg, hdone, run_nil]
  · obtain ⟨c0, hc0, rfl⟩ := List.mem_map.mp hc
    obtain ⟨hkey, hsv, -⟩ := hspec c0
    exact hasked c0 hc0 (hkey ▸ hp) (hkey ▸ hfield) (hsv ▸ hsaved)

theorem preempt_none {s : State} {p : Nat} {v : Word} (hon : hostOn s p = true)
    (hcrew : ∀ c ∈ s.crews, ¬ (c.key.part = p ∧ c.key.field = fld v 31 0)) :
    exec (.preempt p v) s = .next (s.act (queueComp s { part := p, typ := 5, status := 1, tag := 0, field := fld v 31 0, detail := 0 })) := by
  have hany : s.crews.any (fun c => decide (c.key.part = p) && decide (c.key.field = fld v 31 0)) = false := by simpa using hcrew
  have e : preemptActs p v s = [queueComp s { part := p, typ := 5, status := 1, tag := 0, field := fld v 31 0, detail := 0 }] := by
    simp [preemptActs, hon, hany]
  show Host.Outcome.next (run s (preemptActs p v s)) = _
  rw [e, run_cons, run_nil]

/-! Registration. -/

/-- Bytes of the host or of the module written to device memory one after another. -/
def memActs (l : List (Nat × List Byte)) : List Act := l.map (fun p => .mem p.1 p.2 none)

theorem run_memActs : ∀ (l : List (Nat × List Byte)) (s : State), ∃ t, run s (memActs l) = t ∧ t.hbm = putAll s.hbm l ∧
    t = { s with hbm := t.hbm, crews := t.crews, ocache := t.ocache }
  | [], s => ⟨s, rfl, rfl, rfl⟩
  | x :: l, s => by
    obtain ⟨t, ht, hmem, hrest⟩ := run_memActs l (s.act (.mem x.1 x.2 none))
    exact ⟨t, ht, hmem, hrest⟩

theorem restoreObj_eq (o : CodeObj) : restoreObj o = memActs (objectBytes o) := by
  exact List.ext_getElem (by simp [restoreObj, memActs, objectBytes]) (fun i h1 h2 => by simp [restoreObj, memActs, objectBytes])

section Registration
variable {s : State} {p : Nat} {pre post : List RegReq} {r : RegReq} {err : Bool}

/-- The object that a registration leaves is the one that its fields describe. -/
theorem registered_object {o : CodeObj} (hp : o.part = p) (hva : o.va = r.va) (hlen : o.words.length = r.len)
    (hwords : ∀ i, i < r.len → (o.words.getD i 0#64).toNat = s.hostMem.num (r.src.toNat + 8 * i) 8)
    (hpages : some o.pages = objPages s p r.va r.len) (hdigest : o.digest = sha384 (o.words.flatMap (fun z => leBytes 8 z.toNat))) :
    registerActs s p r.va (regImage s r) =
      .objs (s.objs.filter (fun x => decide (x.part ≠ p ∨ x.va ≠ r.va)) ++ [o]) :: memActs (objectBytes o) := by
  have himage : regImage s r = o.words := by
    refine List.ext_getElem (by simp [regImage, hlen]) (fun i h1 h2 => ?_)
    have hi : i < r.len := hlen ▸ h2
    have e := hwords i hi
    rw [List.getD_eq_getElem _ _ h2] at e
    simp only [regImage, List.getElem_map, List.getElem_range, ← e, BitVec.ofNat_toNat, BitVec.setWidth_eq]
  obtain ⟨part, va, words, pages, digest⟩ := o
  simp only at hp hva hlen hpages hdigest himage
  subst hp hva hdigest
  simp only [registerActs, himage, hlen, ← hpages, Option.getD_some, restoreObj_eq]

/-- A registration that completes or is refused (R284, R415). -/
theorem regActs_oldest (hs : s.regs = pre ++ r :: post) (hpre : ∀ x ∈ pre, x.part ≠ p) (hr : r.part = p) : regActs p err s =
    (if regStatus s p r.va r.len err = 0 then registerActs s p r.va (regImage s r) else []) ++ [.regs (pre ++ post),
      queueComp s { part := p, typ := 4, status := regStatus s p r.va r.len err, tag := r.tag, field := 0, detail := r.va }] := by
  obtain ⟨hfind, herase⟩ := oldest_split (q := fun x : RegReq => decide (x.part = p)) (post := post)
    (fun x hx => decide_eq_false (hpre x hx)) (decide_eq_true hr)
  simp only [regActs, hs, hfind, herase]

theorem exec_registration : exec (.registrationComplete p err) s = .next (run s (regActs p err s)) := rfl

theorem registration_completes {o : CodeObj} (hs : s.regs = pre ++ r :: post) (hpre : ∀ x ∈ pre, x.part ≠ p) (hr : r.part = p)
    (hst : regStatus s p r.va r.len err = 0) (hp : o.part = p) (hva : o.va = r.va) (hlen : o.words.length = r.len)
    (hwords : ∀ i, i < r.len → (o.words.getD i 0#64).toNat = s.hostMem.num (r.src.toNat + 8 * i) 8)
    (hpages : some o.pages = objPages s p r.va r.len) (hdigest : o.digest = sha384 (o.words.flatMap (fun z => leBytes 8 z.toNat))) :
    ∃ t, exec (.registrationComplete p err) s = .next t ∧ t.regs = pre ++ post ∧
      t.objs = s.objs.filter (fun x => decide (x.part ≠ p ∨ x.va ≠ r.va)) ++ [o] ∧ t.hbm = putAll s.hbm (objectBytes o) ∧
      t.comps = s.comps ++ [{ part := p, typ := 4, status := 0, tag := r.tag, field := 0, detail := r.va }] ∧
      t = { s with regs := t.regs, comps := t.comps, objs := t.objs, hbm := t.hbm, crews := t.crews, ocache := t.ocache } := by
  obtain ⟨t, ht, hmem, hrest⟩ := run_memActs (objectBytes o)
    (s.act (.objs (s.objs.filter (fun x => decide (x.part ≠ p ∨ x.va ≠ r.va)) ++ [o])))
  have e := regActs_oldest (err := err) hs hpre hr
  rw [hst, if_pos rfl, registered_object hp hva hlen hwords hpages hdigest] at e
  refine ⟨run t [.regs (pre ++ post),
    queueComp s { part := p, typ := 4, status := 0, tag := r.tag, field := 0, detail := r.va }], ?_, rfl, ?_, hmem, rfl, ?_⟩
  · rw [exec_registration, e, List.cons_append, run_cons, run_append, ht]
  all_goals
    rw [hrest]
    rfl

end Registration

/-! Attestation. -/

theorem attestation_writes {s : State} {p : Nat} {pre post : List AttestReq} {r : AttestReq} (hs : s.attests = pre ++ r :: post)
    (hpre : ∀ x ∈ pre, x.part ≠ p) (hr : r.part = p) :
    ∃ t n, exec (.attestationWritten p) s = .next t ∧ t.attests = pre ++ post ∧
      (∀ i, i < (reportOf s r n).length → t.hostMem.byte (r.addr.toNat + 64 + i) = (reportOf s r n).getD i 0#8) ∧
      (∀ a, a < r.addr.toNat + 64 ∨ r.addr.toNat + 64 + (reportOf s r n).length ≤ a → t.hostMem.byte a = s.hostMem.byte a) ∧
      t.comps = s.comps ++ [{ part := p, typ := 6, status := 0, tag := 0, field := 0, detail := 0 }] ∧
      t = { s with attests := t.attests, hostMem := t.hostMem, comps := t.comps, freeCtr := s.freeCtr + 1 } := by
  obtain ⟨hfind, herase⟩ := oldest_split (q := fun x : AttestReq => decide (x.part = p)) (post := post)
    (fun x hx => decide_eq_false (hpre x hx)) (decide_eq_true hr)
  have e : attestActs p s = [.hostMem (r.addr.toNat + 64) (reportOf s r s.freeCtr), .free 1, .attests (pre ++ post),
      queueComp s { part := p, typ := 6, status := 0, tag := 0, field := 0, detail := 0 }] := by
    simp only [attestActs, hs, hfind, herase, reportOf]
  refine ⟨run s (attestActs p s), s.freeCtr, rfl, ?_, fun i hi => ?_, fun a ha => ?_, ?_, ?_⟩ <;> rw [e]
  · rfl
  · refine (Memory.byte_put s.hostMem _ _ _).trans ?_
    rw [if_pos (by omega), Nat.add_sub_cancel_left]
  · exact Memory.byte_put_of_lt s.hostMem _ _ _ ha
  · rfl
  · rfl

theorem hostRequestsComplete : Sys2Proof.HostRequestsComplete := by
  refine ⟨fun s p v hon => ⟨?_, ?_, fun hc => ?_, fun f hf hab hc => preempt_asks hon hf hab hc⟩,
    fun s p pre post r err o hs hpre hr => ⟨fun hst => ?_, fun hst hp hva hlen hwords hpages hdigest =>
      registration_completes hs hpre hr hst hp hva hlen hwords hpages hdigest⟩,
    fun s p pre post r hs hpre hr => attestation_writes hs hpre hr⟩
  · exact ⟨_, (congrArg (fun l => Host.Outcome.next (run s l)) (if_pos hon) : exec (.reggo p v) s = _), rfl, rfl⟩
  · exact ⟨_, (congrArg (fun l => Host.Outcome.next (run s l)) (if_pos hon) : exec (.attest p v) s = _), rfl, rfl⟩
  · exact ⟨_, preempt_none hon hc, rfl, rfl⟩
  · have e := regActs_oldest (err := err) hs hpre hr
    rw [if_neg hst, List.nil_append] at e
    exact ⟨_, by rw [exec_registration, e], rfl, rfl, rfl⟩

/-! The peers and the links. -/

theorem exec_peer (s : State) (r : PeerRequest) : exec (.peerAccessRequest r) s = .next (run s (peerActs r s)) := rfl

theorem peerActs_served {s : State} {r : PeerRequest} {l pa : Nat} {e : Word} (hserve : servesPeer s r = true)
    (hon : hostOn s r.target = true) (hal : r.va.toNat % peerWidth r.op = 0) (hwalk : walk s r.target r.va.toNat = .leaf l e)
    (hpa : pa = leafPA l e r.va.toNat) (hperm : permFault (peerKind r.op) false e = none) (hown : lineOwned s pa (peerWidth r.op) = false)
    (herr : s.hbmErr.contains (sectorOf pa) = false) : peerActs r s = peerWrites s r.op pa := by
  subst hpa
  simp only [peerActs, hserve, hon, hal, hwalk, hperm, hown, herr, Bool.not_true, ne_eq, not_true, decide_false,
    Bool.false_eq_true, if_false, Option.isSome_none, Bool.or_self, Bool.false_and]

theorem peersAreServed : Sys2Proof.PeersAreServed := by
  refine ⟨fun s r hserve => ?_, fun s r l e pa hserve hon hal hwalk hpa hperm hown herr => ?_, fun s l hl => ⟨?_, ?_⟩⟩
  · have e : peerActs r s = [] := by simp [peerActs, hserve]
    rw [exec_peer, e, run_nil]
  · have hacts := peerActs_served hserve hon hal hwalk hpa hperm hown herr
    refine ⟨fun n hop => ?_, fun n x hop => ?_, fun o x y hop hcas => ?_⟩ <;> rw [exec_peer, hacts, hop]
    · rfl
    · exact ⟨_, rfl, rfl, rfl⟩
    · simp only [peerWrites, if_neg hcas]
      exact ⟨_, rfl, rfl, rfl⟩
  · have e : exec (.poljorLinkDown l) s
        = .next (run s (if 16 ≤ l || s.linksDown.contains l then [] else [.linksDown (s.linksDown ++ [l])])) := rfl
    rw [e]
    by_cases hm : l ∈ s.linksDown
    · rw [if_pos (by simp [hm])]
      exact ⟨s, rfl, rfl, fun m => ⟨.inr, fun hm' => hm'.elim (· ▸ hm) id⟩⟩
    · rw [if_neg (by simp [hm, hl])]
      exact ⟨_, rfl, rfl, fun m => by simp [or_comm]⟩
  · have e : exec (.poljorLinkUp l) s
        = .next (run s (if s.linksDown.contains l then [.linksDown (s.linksDown.filter (fun x => x ≠ l))] else [])) := rfl
    rw [e]
    by_cases hm : l ∈ s.linksDown
    · rw [if_pos (by simp [hm])]
      exact ⟨_, rfl, rfl, fun m => by simp [and_comm]⟩
    · rw [if_neg (by simp [hm])]
      exact ⟨s, rfl, rfl, fun m => ⟨fun h => ⟨fun he => hm (he ▸ h), h⟩, fun h => h.2⟩⟩

/-- Settles O49: the register page, the requests of the host, and the peers, each from what its acts do. -/
theorem hostAndPeerEventsComplete : Obligations.HostAndPeerEventsComplete :=
  ⟨hostAnswersComplete, hostRequestsComplete, peersAreServed⟩

end Sys2Proof.Machine
end

section
/-! SUPPORT. What the outcomes of a word leave when more than its herd changes: completion, a trap after translations, and a park; and the
classes of the faults of an access (R103, R120, R136, R422). -/
namespace Sys2Proof.Machine

section Outcomes
variable {s : State} {w : Issuer} {h : Herd}

theorem counted_coreReg (s : State) (h : Herd) :
    (counted s h).coreReg h.core 0x040 = BitVec.ofNat 64 (min ((s.coreReg h.core 0x040).toNat + 1) (2 ^ 64 - 1)) ∧
      ∀ n, n ≠ 4096 * h.core + 0x040 → Sparse.get coreReset (counted s h).coreRegs n = Sparse.get coreReset s.coreRegs n := by
  constructor
  · simp [counted, State.coreReg, bumpCore, Sparse.get_set]
  · intro n hn
    simp [counted, bumpCore, Sparse.get_set, hn]

/-- A word that completes with acts that leave its herd as `g`. -/
theorem run_finish_doneBy (hd : Header) {l : List Act} {s1 : State} {g : Herd} (h1 : run (counted s h) l = s1)
    (hone : OneHerd s s1 w.key g) (hregs : s1.coreRegs = (counted s h).coreRegs) :
    ∃ t, run s ((issueCtx w h hd).finish s (.done l)) = t ∧ t = { s1 with herds := t.herds } ∧
      WordDone s t w h (g.acts (moveTo h (h.group w.f) ((h.fur w.f).pc + 8#64))) := by
  have e : run s ((issueCtx w h hd).finish s (.done l)) = run s1 (herdActs w.key (moveTo h (h.group w.f) ((h.fur w.f).pc + 8#64))) := by
    rw [← h1]
    simp only [Ctx.finish, Ctx.advance, List.cons_append, run_cons, run_append]
    rfl
  obtain ⟨hself, hothers⟩ := hone
  obtain ⟨hself1, hothers1⟩ := oneHerd_herdActs hself (moveTo h (h.group w.f) ((h.fur w.f).pc + 8#64))
  obtain ⟨hcount, hrest⟩ := counted_coreReg s h
  rw [run_herdActs] at e hself1 hothers1
  refine ⟨_, e, rfl, hself1, fun k hk => (hothers1 k hk).trans (hothers k hk), ?_, fun n hn => ?_⟩
  · rw [State.coreReg, hregs]
    exact hcount
  · rw [hregs]
    exact hrest n hn

/-- A word that completes with acts on the module and acts on its herd. -/
theorem run_finish_done (hi : Issues s w h) (hd : Header) {l : List Act} (ha : List HAct) {s1 : State} (h1 : run (counted s h) l = s1)
    (hherds : s1.herds = s.herds) (hregs : s1.coreRegs = (counted s h).coreRegs) :
    ∃ t, run s ((issueCtx w h hd).finish s (.done (l ++ herdActs w.key ha))) = t ∧ t = { s1 with herds := t.herds } ∧
      WordDone s t w h ((h.acts ha).acts (moveTo h (h.group w.f) ((h.fur w.f).pc + 8#64))) := by
  have hh1 (k : HerdKey) : s1.herd? k = s.herd? k := herd?_congr _ _ hherds k
  obtain ⟨hself, hothers⟩ := oneHerd_herdActs (hh1 w.key ▸ hi.herd) ha
  obtain ⟨t, ht, hframe, hdone⟩ := run_finish_doneBy hd (l := l ++ herdActs w.key ha) (by rw [run_append, h1])
    ⟨hself, fun k hk => (hothers k hk).trans (hh1 k)⟩ (by rw [run_herdActs]; exact hregs)
  exact ⟨t, ht, by rw [hframe, run_herdActs], hdone⟩

/-- A *before* trap that an issue raises once it has done something that changes no herd. -/
theorem run_finish_trapAfter (hi : Issues s w h) (hd : Header) (t : TrapReq) {pre : List Act} (hpre : (run (counted s h) pre).herds = s.herds)
    (hcls : t.cls ≠ 0) (hw : TrapFree h (furMask (h.group w.f))) : run s ((issueCtx w h hd).finish s (.trap t pre)) =
      run (run (counted s h) pre) (takeTrap (run (counted s h) pre) h ((issueCtx w h hd).info t (h.fur w.f).pc)) := by
  have hself : (run (counted s h) pre).herd? w.key = some h := (herd?_congr s _ hpre w.key).trans hi.herd
  have hacts : (issueCtx w h hd).trapCount t.cls ++ pre = bumpCore h.core 0x040 :: pre := by
    rw [Ctx.trapCount, if_neg hcls]
    rfl
  obtain ⟨hnone, hpend⟩ := hw
  simp only [Ctx.finish, issueCtx, hnone, hpend, Bool.or_self, Bool.false_eq_true, if_false, thenTrap, run_two]
  simp only [issueCtx] at hacts
  rw [hacts, run_cons]
  rw [counted] at hself
  rw [hself]
  rfl

/-- A *before* trap that an issue raises once its accesses have been translated. -/
theorem run_finish_trapLooked (hi : Issues s w h) (hd : Header) (t : TrapReq) {pre : List Act}
    (hpre : ∀ a ∈ pre, (∃ x, a = .tlbAdd x) ∨ ∃ n, a = .free n) (hcls : t.cls ≠ 0) (hw : TrapFree h (furMask (h.group w.f))) :
    ∃ t0, run s ((issueCtx w h hd).finish s (.trap t pre)) = run t0 (takeTrap t0 h ((issueCtx w h hd).info t (h.fur w.f).pc)) ∧
      t0 = { counted s h with tlb := t0.tlb, freeCtr := t0.freeCtr } :=
  ⟨_, run_finish_trapAfter hi hd t (by rw [run_look pre _ hpre]; rfl) hcls hw, run_look pre _ hpre⟩

/-- A word that parks on a page fault once its accesses have been translated. -/
theorem run_finish_park (hi : Issues s w h) (hd : Header) (cause lane : Nat) (addr : Word) {pre : List Act}
    (hpre : ∀ a ∈ pre, (∃ x, a = .tlbAdd x) ∨ ∃ n, a = .free n) :
    ∃ t h', run s ((issueCtx w h hd).finish s (.park cause lane addr pre)) = t ∧
      ParksOn s t w.key h h' (h.group w.f) cause lane addr ∧
      t = { s with herds := t.herds, coreRegs := t.coreRegs, tlb := t.tlb, freeCtr := t.freeCtr, counts := t.counts
                   faults := t.faults, parked := t.parked, nextOrder := s.nextOrder + 1 } := by
  have hlook : Looked s (run s (bumpCore h.core 0x040 :: pre)) := looked_run _ s (fun a ha => by
    obtain rfl | ha := List.mem_cons.mp ha
    · exact .inr (.inr ⟨_, _, rfl⟩)
    · exact lookAct_of (hpre a ha))
  have hself := (hlook.herd? w.key).trans hi.herd
  obtain ⟨t, h', ht, hpark, hframe⟩ := parksOn_park hi.herd hlook w.f cause lane addr
  refine ⟨t, h', ?_, hpark, ?_⟩
  · rw [← ht, ← park_looked hlook]
    simp only [Ctx.finish, issueCtx, run_two, Ctx.count, Ctx.core]
    rw [hself]
  · rw [hframe, hlook]

end Outcomes

/-! The faults of an access (R103, R422). -/

/-- A fault, if it is one, of classes 1 to 4. -/
def ClassOk (f : Option (Nat × Nat)) : Prop := ∀ q, f = some q → 1 ≤ q.1 ∧ q.1 ≤ 4

theorem classOk_none : ClassOk none := fun _ h => nomatch h

theorem classOk_some {cls cause : Nat} (h : 1 ≤ cls ∧ cls ≤ 4) : ClassOk (some (cls, cause)) := fun _ e => Option.some.inj e ▸ h

/-- R422: the classes of the faults of a page's permissions. -/
theorem classOk_permFault (kind : AKind) (sup : Bool) (e : Word) : ClassOk (permFault kind sup e) := by
  have h2 (c : Nat) : ClassOk (some (2, c)) := classOk_some (by decide)
  have h4 (c : Nat) : ClassOk (some (4, c)) := classOk_some (by decide)
  unfold permFault
  refine iteInduction (fun _ => h2 4) (fun _ => iteInduction (fun _ => h2 9) (fun _ => iteInduction (fun _ => h2 11)
    (fun _ => iteInduction (fun _ => h4 3) (fun _ => iteInduction (fun _ => h4 2) (fun _ => classOk_none)))))

/-- R103: the faults of the checks of an access are of classes 1 to 4. -/
theorem classOk_checkLane (s : State) (h : Herd) (kind : AKind) (n : Nat) (spc : Option Nat) (lane : Nat) (a : Word) :
    ClassOk (checkLane s h kind n spc lane a).flt := by
  have h1 (c : Nat) : ClassOk (some (1, c)) := classOk_some (by decide)
  have h2 (c : Nat) : ClassOk (some (2, c)) := classOk_some (by decide)
  have h3 (c : Nat) : ClassOk (some (3, c)) := classOk_some (by decide)
  have h4 (c : Nat) : ClassOk (some (4, c)) := classOk_some (by decide)
  unfold checkLane
  simp only
  split; · exact h1 0
  split; · exact h2 1
  split; · exact h2 2
  split; · exact h2 _
  split
  · split; · exact h3 0
    split; · exact h3 0
    exact classOk_none
  split
  · split; · exact h2 5
    split; · exact h3 0
    exact classOk_none
  split
  · split; · exact h2 6
    exact classOk_none
  split; · exact classOk_none
  split; · exact classOk_none
  split; · exact h4 _
  split
  · next e => exact fun q hq => classOk_permFault _ _ _ q (e.trans hq)
  · exact classOk_none

end Sys2Proof.Machine
end

section
/-! SUPPORT. Stash windows: what is refused, what a map and an unmap leave, and the recall of a sector (R104, R106 to R109, R246 to R248). -/
namespace Sys2Proof.Machine

/-! What refuses an `smap` before translation. -/

/-- The space code and the zero field under it are the bits above bit 47. -/
theorem fld_mid_zero {a : Word} (h : fld a 63 48 = 0) : fld a 59 48 = 0 := by
  have hlt : a.toNat < 2 ^ 48 := by
    simp only [fld, BitVec.toNat_ushiftRight, Nat.shiftRight_eq_div_pow] at h
    have := a.isLt
    omega
  simp only [fld, BitVec.toNat_ushiftRight, Nat.shiftRight_eq_div_pow]
  rw [Nat.div_eq_of_lt hlt, Nat.zero_mod]

theorem spaceCause_code {sp : Nat} {a : Word} (h : 7 ≤ fld a 63 60) : spaceCause sp a = some 1 := if_pos h

theorem spaceCause_other {sp : Nat} {a : Word} (h7 : fld a 63 60 < 7) (h : fld a 63 60 ≠ sp ∨ zeroFieldBad sp a = true) :
    spaceCause sp a = some 2 := by
  rw [spaceCause, if_neg (Nat.not_le.mpr h7), if_pos (by simpa using h)]

theorem spaceCause_none {sp : Nat} {a : Word} (h7 : sp < 7) (h : fld a 63 60 = sp) (hz : zeroFieldBad sp a = false) :
    spaceCause sp a = none := by
  rw [spaceCause, if_neg (by omega), if_neg (by simp [h, hz])]

theorem zeroFieldBad_tile (a : Word) : zeroFieldBad 1 a = decide (fld a 59 21 ≠ 0) := by simp [zeroFieldBad]

theorem zeroFieldBad_global (a : Word) : zeroFieldBad 0 a = decide (fld a 59 48 ≠ 0) := by simp [zeroFieldBad]

theorem windowsAreRefused : Sys2Proof.WindowsAreRefused := by
  intro cr t g n
  refine ⟨fun h7 => ?_, fun h7 hbad => ?_, fun ht htz => ?_⟩
  · simp only [smapFault, spaceCause_code h7]
  · have hz : fld t 63 60 ≠ 1 ∨ zeroFieldBad 1 t = true := by rwa [zeroFieldBad_tile, decide_eq_true_eq]
    simp only [smapFault, spaceCause_other h7 hz]
  have ht1 : spaceCause 1 t = none := spaceCause_none (by decide) ht (by simp [zeroFieldBad_tile, htz])
  have hg0 (hg : fld g 63 48 = 0) : spaceCause 0 g = none :=
    spaceCause_none (by decide) (fld_parts_zero hg) (by simp [zeroFieldBad_global, fld_mid_zero hg])
  refine ⟨fun h7 => ?_, fun h7 hbad => ?_, fun hg hlen => ?_, fun hg hlen => ⟨fun hbad => ?_, fun h1 h2 h3 h4 h5 h6 => ?_⟩⟩
  · simp only [smapFault, ht1, spaceCause_code h7]
  · have hz : fld g 63 60 ≠ 0 ∨ zeroFieldBad 0 g = true := by rwa [zeroFieldBad_global, decide_eq_true_eq]
    simp only [smapFault, ht1, spaceCause_other h7 hz]
  · simp only [smapFault, ht1, hg0 hg]
    rw [if_pos hlen]
  · simp only [smapFault, ht1, hg0 hg]
    rw [if_neg (Nat.not_lt.mpr hlen), if_pos]
    simp only [Bool.or_eq_true, decide_eq_true_eq, List.any_eq_true, or_assoc]
    exact hbad
  · have hany : cr.windows.any (fun w => overlaps w.tile w.len (fld t 20 0) n) = false := by simpa using h6
    simp only [smapFault, ht1, hg0 hg]
    rw [if_neg (Nat.not_lt.mpr hlen), if_neg]
    simp [h1, h2, h3, hany, Nat.not_le.mpr h5]
    omega

/-! The words. -/

/-- The effect of `smap` in a crew that has a tile store. -/
def smapRes (c : Ctx) (s : State) (cr : Crew) (d : Nat) (t g : Word) (n : Nat) : Res :=
  match smapFault cr t g n with
  | some (cls, cause, a) => .trap (trapAt cls cause 255 a) []
  | none =>
    if mapWaits s cr.key (fld t 20 0) n then .stall
    else
      match pageFault (pageAccs s c.h .map g n) with
      | some a =>
        (match a.flt with
         | some (4, cause) => .park cause 255 a.addr (xlateActs (pageAccs s c.h .map g n))
         | some (cls, cause) => .trap (trapAt cls cause 255 a.addr) (xlateActs (pageAccs s c.h .map g n))
         | none => .stall)
      | none =>
        .done (xlateActs (pageAccs s c.h .map g n) ++ [.crew cr.key (.windows (cr.windows ++
            [{ id := freeWindow cr, tile := fld t 20 0, va := g, len := n, pages := (pageAccs s c.h .map g n).map pageBase, secs := [] }]))]
          ++ uniActs c d (BitVec.ofNat 64 (freeWindow cr)))

section Words
variable {s : State} {w : Issuer} {h : Herd} {hd : Header} {x : FE} {cr : Crew}

theorem exec_smap (hi : Issues s w h) (hp : PlainHeader h hd false) (hx : x.d.toNat < 64) (hz : x.x = 0#14)
    (ha : activeLanes h w.f hd ≠ []) (hc : s.crew? w.key.crew = some cr) :
    exec (.smap hd x) s = .next (run s ((issueCtx w h hd).finish s (smapRes (issueCtx w h hd) s cr x.d.toNat (h.sreg x.sa.toNat)
      (h.sreg x.sb.toNat) (h.sreg x.sf.toNat).toNat))) := by
  have hl : legal false [.s x.d.toNat 1, .rsv x.x.toNat] (issueCtx w h hd) = none :=
    legal_none hp _ (by simp [Use.causes, hz]; omega)
  have e := issue_legal hi hp.pred ha _ hl (fun c s => match s.crew? c.key.crew with
    | none => .stall
    | some cr => smapRes c s cr x.d.toNat (c.h.sreg x.sa.toNat) (c.h.sreg x.sb.toNat) (c.h.sreg x.sf.toNat).toNat)
  simp only [issueCtx, hc] at e
  exact e

/-- A crew's acts change the crews of its name and no other. -/
theorem crew?_setWindows {s1 s2 : State} {c : CrewKey} {ws : List Window} (hc : s1.crew? c = some cr)
    (h2 : s2.crews = s1.crews.map (fun y => if y.key = c then { y with windows := ws } else y)) :
    s2.crew? c = some { cr with windows := ws } ∧ ∀ d, d ≠ c → s2.crew? d = s1.crew? d := by
  have hf : ∀ y : Crew, (if y.key = c then { y with windows := ws } else y).key = y.key := fun y => by split <;> rfl
  constructor
  · rw [crew?_map hf h2, hc, Option.map_some, if_pos (crew?_key hc)]
  · intro d hd
    rw [crew?_map hf h2]
    cases e : s1.crew? d with
    | none => rfl
    | some y => rw [Option.map_some, if_neg (by rw [crew?_key e]; exact hd)]

theorem pageFault_none {as : List LaneAcc} (h : ∀ a ∈ as, a.flt = none) : pageFault as = none :=
  List.find?_eq_none.mpr (fun a ha => by simp [h a ha])

theorem pageFault_some {pre post : List LaneAcc} {a : LaneAcc} (hpre : ∀ b ∈ pre, b.flt = none) (ha : a.flt.isSome = true) :
    pageFault (pre ++ a :: post) = some a :=
  (oldest_split (q := fun a : LaneAcc => a.flt.isSome) (fun b hb => by simp [hpre b hb]) ha).1

/-- A map that nothing refuses (R246). -/
theorem smap_maps (hi : Issues s w h) (hp : PlainHeader h hd false) (hx : x.d.toNat < 64) (hz : x.x = 0#14)
    (ha : activeLanes h w.f hd ≠ []) (hc : s.crew? w.key.crew = some cr)
    (hf : smapFault cr (h.sreg x.sa.toNat) (h.sreg x.sb.toNat) (h.sreg x.sf.toNat).toNat = none)
    (hw : mapWaits s cr.key (fld (h.sreg x.sa.toNat) 20 0) (h.sreg x.sf.toNat).toNat = false) {as : List LaneAcc}
    (has : as = pageAccs s h .map (h.sreg x.sb.toNat) (h.sreg x.sf.toNat).toNat) (hflt : ∀ a ∈ as, a.flt = none) :
    ∃ t h' cr', exec (.smap hd x) s = .next t ∧ WordDone s t w h h' ∧
      SregWritten h h' w.f x.d.toNat (BitVec.ofNat 64 (freeWindow cr)) ∧
      t = { s with herds := t.herds, coreRegs := t.coreRegs, crews := t.crews, tlb := t.tlb, freeCtr := t.freeCtr } ∧
      t.crew? w.key.crew = some cr' ∧ (∀ c, c ≠ w.key.crew → t.crew? c = s.crew? c) ∧
      cr'.windows = cr.windows ++ [{ id := freeWindow cr, tile := fld (h.sreg x.sa.toNat) 20 0, va := h.sreg x.sb.toNat
                                     len := (h.sreg x.sf.toNat).toNat, pages := as.map pageBase, secs := [] }] ∧
      cr' = { cr with windows := cr'.windows } := by
  obtain ⟨ws, hws⟩ : ∃ ws, ws = cr.windows ++ [{ id := freeWindow cr, tile := fld (h.sreg x.sa.toNat) 20 0, va := h.sreg x.sb.toNat
                                                 len := (h.sreg x.sf.toNat).toNat, pages := as.map pageBase, secs := [] }] := ⟨_, rfl⟩
  have hres : smapRes (issueCtx w h hd) s cr x.d.toNat (h.sreg x.sa.toNat) (h.sreg x.sb.toNat) (h.sreg x.sf.toNat).toNat =
      .done (xlateActs as ++ [.crew cr.key (.windows ws)] ++ herdActs w.key [.s x.d.toNat (BitVec.ofNat 64 (freeWindow cr))]) := by
    have hpf : pageFault (pageAccs s (issueCtx w h hd).h .map (h.sreg x.sb.toNat) (h.sreg x.sf.toNat).toNat) = none := by
      rw [has] at hflt
      exact pageFault_none hflt
    rw [hws, has]
    simp only [smapRes, hf, hw, hpf, Bool.false_eq_true, if_false]
    rfl
  let s1 := run (counted s h) (xlateActs as)
  have hlook : s1 = { counted s h with tlb := s1.tlb, freeCtr := s1.freeCtr } := run_look _ _ (fun a ha => mem_xlateActs ha)
  have hcrews : s1.crews = s.crews := by rw [hlook]; rfl
  obtain ⟨t, ht, hframe, hdone⟩ := run_finish_done hi hd (l := xlateActs as ++ [.crew cr.key (.windows ws)])
    [.s x.d.toNat (BitVec.ofNat 64 (freeWindow cr))] (s1 := s1.act (.crew cr.key (.windows ws)))
    (by rw [run_append, run_cons, run_nil]) (by rw [State.act_herds, hlook]; rfl) (by rw [State.act_coreRegs, hlook])
  obtain ⟨hself, hothers⟩ := crew?_setWindows (s2 := t) (ws := ws) hc (by rw [hframe, State.act_crews, ← hcrews, crew?_key hc]; rfl)
  refine ⟨t, _, { cr with windows := ws }, by rw [exec_smap hi hp hx hz ha hc, hres, ht], hdone, sregWritten_s h w.f x.d.toNat _, ?_, hself,
    hothers, hws, rfl⟩
  rw [hframe, hlook]
  rfl

theorem windowsMap : Sys2Proof.WindowsMap := fun _ _ _ _ _ _ _ hi hp hx hz ha hc hf hw has hflt =>
  smap_maps hi hp hx hz ha hc hf hw has hflt

theorem windowsFault : Sys2Proof.WindowsFault := by
  intro s w h hd x cr t g n hi hp hx hz ha hc ht hg hn
  have hexec := exec_smap hi hp hx hz ha hc
  rw [← ht, ← hg, ← hn] at hexec
  refine ⟨fun cls cause a hf hfree => ?_, fun pre post a cls cause hf hw has hpre hflt => ?_⟩
  · have hres : smapRes (issueCtx w h hd) s cr x.d.toNat t g n = .trap (trapAt cls cause 255 a) [] := by
      simp only [smapRes, hf]
    rw [hexec, hres, run_finish_trap hi hd _ hfree]
    rfl
  · have hacc : pageAccs s (issueCtx w h hd).h .map g n = pre ++ a :: post := has
    have hfind := pageFault_some (a := a) (post := post) hpre (by rw [hflt]; rfl)
    have hcls : 1 ≤ cls := by
      have hm : a ∈ pageAccs s h .map g n := by rw [has]; simp
      obtain ⟨va, -, rfl⟩ := List.mem_map.mp hm
      exact (classOk_checkLane _ _ _ _ _ _ _ _ hflt).1
    refine ⟨fun h4 hfree => ?_, fun h4 => ?_⟩
    · have hres : smapRes (issueCtx w h hd) s cr x.d.toNat t g n = .trap (trapAt cls cause 255 a.addr) (xlateActs (pre ++ a :: post)) := by
        simp only [smapRes, hf, hw, hacc, hfind, hflt, Bool.false_eq_true, if_false]
      obtain ⟨t0, ht0, hframe⟩ := run_finish_trapLooked hi hd (trapAt cls cause 255 a.addr) (fun b hb => mem_xlateActs (l := pre ++ a :: post) hb)
        (Nat.ne_of_gt hcls) hfree
      exact ⟨t0, by rw [hexec, hres, ht0]; rfl, hframe⟩
    · subst h4
      have hres : smapRes (issueCtx w h hd) s cr x.d.toNat t g n = .park cause 255 a.addr (xlateActs (pre ++ a :: post)) := by
        simp only [smapRes, hf, hw, hacc, hfind, hflt, Bool.false_eq_true, if_false]
      obtain ⟨u, h', hu, hpark, hframe⟩ := run_finish_park hi hd cause 255 a.addr (fun b hb => mem_xlateActs (l := pre ++ a :: post) hb)
      exact ⟨u, h', by rw [hexec, hres, hu], hpark, hframe⟩

/-! Unmapping. -/

/-- The bytes that an unmapped window leaves, by their place: those of a filled sector are memory's, the others are zero (R248). -/
theorem windowBytes_getD (s : State) {v : Window} (hlen : v.len % 64 = 0) {i : Nat} (hi : i < v.len) :
    (windowBytes s v).getD i 0#8 =
      if v.secs.any (fun q => decide (q.1 = i / 64)) then s.hbm.byte (v.pa (64 * (i / 64)) + i % 64) else 0#8 := by
  have hsec (j : Nat) : (if v.secs.any (fun q => decide (q.1 = j)) then s.hbm.bytes (v.pa (64 * j)) 64 else List.replicate 64 0#8).length
      = 64 := by split <;> simp [Memory.length_bytes]
  have hstands : (Memory.put [] 0 (windowBytes s v)).Stands 0 (windowBytes s v) := Memory.bytes_put _ _ _
  have hpiece := Memory.Stands.range hstands (fun j _ => hsec j) (show i / 64 < v.len / 64 by omega)
  have hbyte := hpiece.byte (i := i % 64) (by rw [hsec]; omega)
  have hlength : (windowBytes s v).length = v.len / 64 * 64 := length_flatMap_range _ (fun j _ => hsec j)
  rw [Memory.byte_put, if_pos (by omega), show 0 + 64 * (i / 64) + i % 64 - 0 = i by omega] at hbyte
  rw [hbyte]
  split
  · exact Memory.getD_bytes _ _ _ _ (by omega)
  · rw [List.getD_eq_getElem _ _ (by rw [List.length_replicate]; omega), List.getElem_replicate]

/-- A crew after its window `v` is unmapped. -/
def unmapped (s : State) (cr : Crew) (v : Window) : Crew :=
  { cr with windows := cr.windows.filter (fun y => decide (y.id ≠ v.id)), tile := Memory.put cr.tile v.tile (windowBytes s v)
            tileErr := windowErrs cr v }

/-- The acts of an unmap on the module: the crew's, and the operand cache. -/
theorem run_unmapActs (s s0 : State) (cr : Crew) (v : Window) : ∃ t, run s0 (unmapActs s cr v) = t ∧
    t = { s0 with crews := t.crews, ocache := t.ocache } ∧
    t.crews = s0.crews.map (fun y => if y.key = cr.key then { y with
      windows := cr.windows.filter (fun y => decide (y.id ≠ v.id)), tile := Memory.put y.tile v.tile (windowBytes s v)
      tileErr := windowErrs cr v } else y) := by
  refine ⟨_, rfl, rfl, ?_⟩
  simp only [unmapActs, run_cons, run_nil, State.act_crews, List.map_map]
  refine List.map_congr_left (fun y _ => ?_)
  by_cases hk : y.key = cr.key <;> simp [hk, Crew.act]

theorem exec_sunmap (hi : Issues s w h) (hp : PlainHeader h hd false) (hx : x.d.toNat < 64) (hb : x.sb = 0#6) (hf : x.sf = 0#6)
    (hz : x.x = 0#14) (ha : activeLanes h w.f hd ≠ []) (hc : s.crew? w.key.crew = some cr) :
    exec (.sunmap hd x) s = .next (run s ((issueCtx w h hd).finish s
      (match cr.windows.find? (fun v => decide (v.id = (h.sreg x.sa.toNat).toNat)) with
      | none => .done (uniActs (issueCtx w h hd) x.d.toNat 1#64)
      | some v =>
        if mapWaits s cr.key v.tile v.len then .stall
        else .done (unmapActs s cr v ++ uniActs (issueCtx w h hd) x.d.toNat 0#64)))) := by
  have hl : legal false [.s x.d.toNat 1, .rsv x.sb.toNat, .rsv x.sf.toNat, .rsv x.x.toNat] (issueCtx w h hd) = none :=
    legal_none hp _ (by simp [Use.causes, hz, hb, hf]; omega)
  have e := issue_legal hi hp.pred ha _ hl (fun c s => match s.crew? c.key.crew with
    | none => .stall
    | some cr =>
      match cr.windows.find? (fun w => decide (w.id = (c.h.sreg x.sa.toNat).toNat)) with
      | none => .done (uniActs c x.d.toNat 1#64)
      | some w =>
        if mapWaits s cr.key w.tile w.len then .stall
        else .done (unmapActs s cr w ++ uniActs c x.d.toNat 0#64))
  have hck : s.crew? (issueCtx w h hd).key.crew = some cr := hc
  simp only [hck] at e
  exact e

/-- A window that is unmapped leaves its bytes in the tile store (R247, R248). -/
theorem sunmap_unmaps (hi : Issues s w h) (hp : PlainHeader h hd false) (hx : x.d.toNat < 64) (hb : x.sb = 0#6) (hf : x.sf = 0#6)
    (hz : x.x = 0#14) (ha : activeLanes h w.f hd ≠ []) (hc : s.crew? w.key.crew = some cr) {v : Window}
    (hv : cr.windows.find? (fun v => decide (v.id = (h.sreg x.sa.toNat).toNat)) = some v) (hlen : v.len % 64 = 0)
    (hw : mapWaits s cr.key v.tile v.len = false) :
    ∃ t h' cr', exec (.sunmap hd x) s = .next t ∧ WordDone s t w h h' ∧ SregWritten h h' w.f x.d.toNat 0#64 ∧
      t = { s with herds := t.herds, coreRegs := t.coreRegs, crews := t.crews, ocache := t.ocache } ∧
      t.crew? w.key.crew = some cr' ∧ (∀ c, c ≠ w.key.crew → t.crew? c = s.crew? c) ∧
      cr'.windows = cr.windows.filter (fun u => decide (u.id ≠ v.id)) ∧
      (∀ i < v.len, cr'.tile.byte (v.tile + i) = if v.secs.any (fun q => decide (q.1 = i / 64)) then
        s.hbm.byte (v.pa (64 * (i / 64)) + i % 64) else 0#8) ∧
      (∀ a, ¬ (v.tile ≤ a ∧ a < v.tile + v.len) → cr'.tile.byte a = cr.tile.byte a) := by
  have hexec := exec_sunmap hi hp hx hb hf hz ha hc
  rw [hv] at hexec
  simp only [hw, Bool.false_eq_true, if_false] at hexec
  obtain ⟨s1, hs1, hframe1, hcrews1⟩ := run_unmapActs s (counted s h) cr v
  obtain ⟨t, ht, hframe, hdone⟩ := run_finish_done hi hd [.s x.d.toNat 0#64] hs1 (by rw [hframe1]; rfl) (by rw [hframe1])
  have hcrews : t.crews = s.crews.map (fun y => if y.key = cr.key then { y with
      windows := cr.windows.filter (fun y => decide (y.id ≠ v.id)), tile := Memory.put y.tile v.tile (windowBytes s v)
      tileErr := windowErrs cr v } else y) := by rw [hframe, hcrews1]; rfl
  have hkey : ∀ y : Crew, (if y.key = cr.key then { y with
      windows := cr.windows.filter (fun y => decide (y.id ≠ v.id)), tile := Memory.put y.tile v.tile (windowBytes s v)
      tileErr := windowErrs cr v } else y).key = y.key := fun y => by split <;> rfl
  have hlength : (windowBytes s v).length = v.len := by
    rw [windowBytes, length_flatMap_range (c := 64) _ (fun j _ => by split <;> simp [Memory.length_bytes])]
    omega
  refine ⟨t, _, unmapped s cr v, by rw [hexec, ← ht]; rfl, hdone, sregWritten_s h w.f x.d.toNat _, ?_, ?_, fun c hcne => ?_, rfl,
    fun i hil => ?_, fun a hout => ?_⟩
  · rw [hframe, hframe1]
    rfl
  · rw [crew?_map hkey hcrews, hc, Option.map_some, if_pos rfl]
    rfl
  · rw [crew?_map hkey hcrews]
    cases e : s.crew? c with
    | none => rfl
    | some y => rw [Option.map_some, if_neg (by rw [crew?_key e, crew?_key hc]; exact hcne)]
  · refine (Memory.byte_put _ _ _ _).trans ?_
    rw [if_pos (by omega), Nat.add_sub_cancel_left, windowBytes_getD s hlen hil]
  · exact Memory.byte_put_of_lt _ _ _ _ (by omega)

/-- A recall changes the windows of its crew, after the operand cache has dropped what it held of the sector. -/
theorem run_recall {s : State} {c : CrewKey} {cr : Crew} (i n : Nat) (hc : s.crew? c = some cr) :
    ∃ s1 : State, s1 = { s with ocache := s1.ocache } ∧ run s (windowSectorRecall c i n s) = s1.act (.crew c (.windows
      (cr.windows.map (fun v => if v.id = i then { v with secs := v.secs.filter (fun q => decide (q.1 ≠ n)) } else v)))) := by
  simp only [windowSectorRecall, hc]
  cases cr.windows.find? (fun v => decide (v.id = i)) with
  | none => exact ⟨s, rfl, rfl⟩
  | some v => exact ⟨s.act (.ocache (dropCovered c (v.tile + 64 * n) 64 s.ocache)), rfl, rfl⟩

/-- A recalled sector is unfilled (R108). -/
theorem recall_unfills {s : State} {c : CrewKey} {cr : Crew} (i n : Nat) (hc : s.crew? c = some cr) :
    ∃ t cr', exec (.windowSectorRecall c i n) s = .next t ∧ t = { s with crews := t.crews, ocache := t.ocache } ∧
      t.crew? c = some cr' ∧ (∀ c', c' ≠ c → t.crew? c' = s.crew? c') ∧
      cr'.windows = cr.windows.map (fun v =>
        if v.id = i then { v with secs := v.secs.filter (fun q => decide (q.1 ≠ n)) } else v) ∧
      cr' = { cr with windows := cr'.windows } := by
  obtain ⟨s1, hs1, e⟩ := run_recall i n hc
  have hcl (d : CrewKey) : s1.crew? d = s.crew? d := by rw [hs1]; rfl
  obtain ⟨hself, hothers⟩ := crew?_setWindows (s2 := s1.act (.crew c (.windows
    (cr.windows.map (fun v => if v.id = i then { v with secs := v.secs.filter (fun q => decide (q.1 ≠ n)) } else v))))) (hcl c ▸ hc) rfl
  refine ⟨_, _, congrArg Host.Outcome.next e, ?_, hself, fun d hd => (hothers d hd).trans (hcl d), rfl, rfl⟩
  rw [hs1]
  rfl

theorem windowsUnmap : Sys2Proof.WindowsUnmap := by
  refine ⟨fun s w h hd x cr hi hp hx hb hf hz ha hc => ⟨fun v hv hlen hw => sunmap_unmaps hi hp hx hb hf hz ha hc hv hlen hw,
    fun hnone => ?_⟩, fun s c i n cr hc => recall_unfills i n hc⟩
  have hexec := exec_sunmap hi hp hx hb hf hz ha hc
  have hfind : cr.windows.find? (fun v => decide (v.id = (h.sreg x.sa.toNat).toNat)) = none := by simpa using hnone
  rw [hfind] at hexec
  exact ⟨_, _, hexec, finish_done_herd hi hd [.s x.d.toNat 1#64], sregWritten_s h w.f x.d.toNat _⟩

/-- Settles O33: what an `smap` maps and refuses, and what an unmap and a recall leave. -/
theorem windowsMapAndUnmap : Obligations.WindowsMapAndUnmap := ⟨windowsMap, windowsUnmap, windowsAreRefused, windowsFault⟩

end Words

end Sys2Proof.Machine
end

section
/-! SUPPORT. Copies: their issue and its faults, their start, and the wait for them (R116, R240 to R245). -/
namespace Sys2Proof.Machine

/-! The start of a copy. -/

/-- What starts with a copy: its ticket and, unless it copies zero bytes, the copy, with its global destination translated (R116,
R242, R243). -/
theorem run_copyStart (s s0 : State) (h : Herd) (g : BitVec 8) (r : CopyReq) :
    ∃ t, run s0 (copyStartActs s h g r) = t ∧
      t = { run s0 (herdActs h.key [.copies (h.copies + 1#64), .s r.d (h.copies + 1#64)]) with
        copies := t.copies, tlb := t.tlb, freeCtr := t.freeCtr } ∧
      (r.total = 0 ∨ fld r.dst 63 60 ≠ 0 → t.tlb = s0.tlb ∧ t.freeCtr = s0.freeCtr) ∧
      t.copies = if r.total = 0 then s0.copies else s.copies ++ [newCopy s h g r] := by
  let s1 := run s0 (herdActs h.key [.copies (h.copies + 1#64), .s r.d (h.copies + 1#64)])
  have hs1 : s1.tlb = s0.tlb ∧ s1.freeCtr = s0.freeCtr ∧ s1.copies = s0.copies := ⟨rfl, rfl, rfl⟩
  by_cases h0 : r.total = 0
  · refine ⟨s1, ?_, rfl, fun _ => ⟨rfl, rfl⟩, by rw [if_pos h0]; rfl⟩
    simp only [copyStartActs, if_pos h0, List.append_nil]
    rfl
  · have hlook := run_look (xlateActs (destAccs s { h with sup := r.sup } r)) s1 (fun a ha => mem_xlateActs ha)
    refine ⟨(run s1 (xlateActs (destAccs s { h with sup := r.sup } r))).act (.copies (s.copies ++ [newCopy s h g r])), ?_, ?_, fun hr => ?_,
      by rw [if_neg h0]; rfl⟩
    · simp only [copyStartActs, if_neg h0, run_append, run_cons, run_nil]
      rfl
    · rw [hlook]
      rfl
    · have hnil : destAccs s { h with sup := r.sup } r = [] := if_pos (hr.resolve_left h0)
      rw [hnil]
      exact ⟨rfl, rfl⟩

/-! The issue of a copy. -/

section Issue
variable {s : State} {w : Issuer} {h : Herd} {hd : Header} {r : CopyReq} {g : Bool}

/-- A copy that its checks let pass starts or is held (R242, R243). -/
theorem copyRes_ok (hok : CopyOk s h r g) : copyRes r g (issueCtx w h hd) s =
    if r.total = 0 || copyMayStart s h r then .done (copyStartActs s h (furMask (h.group w.f)) r)
    else .jump (herdActs w.key [.holds (h.holds ++ [{ group := furMask (h.group w.f), why := .copy r }])]) := by
  obtain ⟨h1, h2, h3, h4, h5⟩ := hok
  have hd4 : rangeFault s (issueCtx w h hd).h r.dst (rowSpan r.rows r.len r.dpitch) true = none := h4
  have hs4 : rangeFault s (issueCtx w h hd).h r.src (rowSpan r.rows r.len r.spitch) false = none := h5
  simp only [copyRes, h1, h2, h3, hd4, hs4, ne_eq, not_true, if_false, Bool.not_true, Bool.false_eq_true]
  rfl

/-- What a copy that issues leaves. -/
theorem copy_issues (hi : Issues s w h) (hok : CopyOk s h r g) (hsup : r.sup = h.sup) :
    ∃ t h', run s ((issueCtx w h hd).finish s (copyRes r g (issueCtx w h hd) s)) = t ∧ CopyIssued s t w h h' r := by
  have hkey := herd?_key hi.herd
  have heta : ({ h with sup := r.sup } : Herd) = h := by rw [hsup]
  rw [copyRes_ok hok]
  by_cases hgo : r.total = 0 ∨ copyMayStart s h r = true
  · rw [if_pos (by simpa using hgo)]
    obtain ⟨s1, hs1, hframe1, hsame, hcopies⟩ := run_copyStart s (counted s h) h (furMask (h.group w.f)) r
    obtain ⟨hself, hothers⟩ := oneHerd_herdActs (counted_herd hi) [.copies (h.copies + 1#64), .s r.d (h.copies + 1#64)]
    rw [hkey, run_herdActs] at hframe1
    rw [run_herdActs] at hself hothers
    obtain ⟨t, ht, hframe, hdone⟩ := run_finish_doneBy (w := w) (h := h) hd hs1 (g := h.acts [.copies (h.copies + 1#64), .s r.d (h.copies + 1#64)])
      ⟨by rw [hframe1]; exact hself, fun k hk => by rw [hframe1]; exact (hothers k hk)⟩ (by rw [hframe1])
    refine ⟨t, _, ht, hdone, ?_, fun hor => ?_, fun _ => ⟨?_, ?_⟩, fun h0 hno => ?_⟩
    · rw [hframe, hframe1]
      rfl
    · have hor' : r.total = 0 ∨ fld r.dst 63 60 ≠ 0 := by
        obtain h0 | hf | hno := hor
        · exact .inl h0
        · exact .inr hf
        · exact .inl (hgo.resolve_right (by simp [hno]))
      rw [hframe]
      exact hsame hor'
    · exact sregWritten_s { h with copies := h.copies + 1#64 } w.f r.d _
    · rw [hframe]
      refine hcopies.trans ?_
      rw [newCopy, heta]
      rfl
    · exact absurd (hgo.resolve_left h0) (by simp [hno])
  · obtain ⟨h0, hno⟩ := not_or.mp hgo
    rw [if_neg (by simpa using hgo), finish_jump]
    have hone := onlyHerd_counted hi [.holds (h.holds ++ [{ group := furMask (h.group w.f), why := .copy r }])]
    have hrest := hone.rest
    refine ⟨_, _, rfl, ⟨hone.now, hone.others, hone.issued, hone.regs⟩, ?_, fun _ => ?_, fun hor => absurd hor hgo, fun _ _ => ⟨?_, rfl⟩⟩
    · rw [hrest]
    · rw [hrest]
      exact ⟨rfl, rfl⟩
    · rw [hrest]

variable {x : FE}

theorem exec_cpy (hi : Issues s w h) (hp : PlainHeader h hd false) (hx : x.d.toNat < 64) (hz : x.x = 0#14)
    (ha : activeLanes h w.f hd ≠ []) :
    exec (.cpy hd x) s = .next (run s ((issueCtx w h hd).finish s (copyRes (cpyReq h x) false (issueCtx w h hd) s))) :=
  issue_legal hi hp.pred ha _ (legal_none hp [.s x.d.toNat 1, .rsv x.x.toNat] (by simp [Use.causes, hz]; omega)) _

theorem exec_cpyg (hi : Issues s w h) (hp : PlainHeader h hd false) (hx : x.d.toNat < 64) (hz : x.x = 0#14)
    (ha : activeLanes h w.f hd ≠ []) (hsf : x.sf.toNat % 2 = 0) :
    exec (.cpyg hd x) s = .next (run s ((issueCtx w h hd).finish s (copyRes (cpygReq h x) true (issueCtx w h hd) s))) := by
  have hlt := x.sf.isLt
  exact issue_legal hi hp.pred ha _ (legal_none hp [.s x.d.toNat 1, .s x.sf.toNat 2, .rsv x.x.toNat]
    (by simp [Use.causes, hz, hsf]; omega)) _

theorem copiesIssue : Sys2Proof.CopiesIssue := by
  intro s w h hd x hi hp hx hz ha
  refine ⟨fun hok => ?_, fun hsf hok => ?_⟩
  · obtain ⟨t, h', ht, hissued⟩ := copy_issues (hd := hd) hi hok rfl
    exact ⟨t, h', by rw [exec_cpy hi hp hx hz ha, ht], hissued⟩
  · obtain ⟨t, h', ht, hissued⟩ := copy_issues (hd := hd) hi hok rfl
    exact ⟨t, h', by rw [exec_cpyg hi hp hx hz ha hsf, ht], hissued⟩

/-! The faults of a copy at its issue. -/

/-- The faults of a range are of classes 2 and 3. -/
theorem rangeFault_class {a : Word} {n cls cause : Nat} {dst : Bool} (hf : rangeFault s h a n dst = some (cls, cause)) : cls ≠ 0 := by
  have hq : ∀ q, rangeFault s h a n dst = some q → q.1 ≠ 0 := by
    have h2 (c : Nat) : ∀ q, some (2, c) = some q → q.1 ≠ 0 := fun q e => Option.some.inj e ▸ (by decide : 2 ≠ 0)
    have h3 (c : Nat) : ∀ q, some (3, c) = some q → q.1 ≠ 0 := fun q e => Option.some.inj e ▸ (by decide : 3 ≠ 0)
    have hn : ∀ q : Nat × Nat, none = some q → q.1 ≠ 0 := fun q e => nomatch e
    unfold rangeFault
    simp only
    split; · exact h2 1
    split; · exact h2 2
    split; · exact h2 2
    split; · exact h2 7
    split
    · split; · exact h2 3
      split; · exact h2 6
      exact hn
    split
    · split; · exact h2 5
      split; · exact h3 0
      exact hn
    split
    · split; · exact h3 0
      split; · exact h2 5
      split; · exact h3 0
      exact hn
    exact hn
  exact hq _ hf

/-- The trap of a copy at its issue, with nothing done but perhaps a free value taken. -/
theorem copy_traps (hi : Issues s w h) (hfree : TrapFree h (furMask (h.group w.f))) {cls cause : Nat} (a : Word)
    (hres : copyRes r g (issueCtx w h hd) s = .trap (trapAt cls cause 255 a) []) :
    run s ((issueCtx w h hd).finish s (copyRes r g (issueCtx w h hd) s)) = trapped s h { trapAtWord w h cls cause with addr := a } := by
  rw [hres, run_finish_trap hi hd _ hfree]
  rfl

/-- Of two faults of one class either is taken (log entry 47). -/
theorem copy_trapsEither (hi : Issues s w h) (hfree : TrapFree h (furMask (h.group w.f))) {cls cause : Nat} (a : Word) (hcls : cls ≠ 0)
    (hres : copyRes r g (issueCtx w h hd) s = .trap (trapAt cls cause 255 a) [.free 1]) :
    ∃ t0, run s ((issueCtx w h hd).finish s (copyRes r g (issueCtx w h hd) s))
        = run t0 (takeTrap t0 h { trapAtWord w h cls cause with addr := a }) ∧ t0 = { counted s h with freeCtr := s.freeCtr + 1 } := by
  have hcount : (issueCtx w h hd).trapCount cls ++ [Act.free 1] = [bumpCore h.core 0x040, .free 1] := by
    rw [Ctx.trapCount, if_neg hcls]
    rfl
  have hself : (run s [bumpCore h.core 0x040, .free 1]).herd? w.key = some h := (counted_herd hi :)
  refine ⟨run s [bumpCore h.core 0x040, .free 1], ?_, rfl⟩
  rw [hres]
  simp only [Ctx.finish, trapAt, issueCtx, hfree.1, hfree.2, Bool.or_self, Bool.false_eq_true, if_false, thenTrap, run_two]
  simp only [issueCtx] at hcount
  rw [hcount, hself]
  rfl

/-- The traps of a copy's checks (R103, R242). -/
theorem copyRes_faults (hi : Issues s w h) (hfree : TrapFree h (furMask (h.group w.f))) {i : Instr}
    (he : exec i s = .next (run s ((issueCtx w h hd).finish s (copyRes r g (issueCtx w h hd) s)))) :
    (r.dst.toNat % 4 ≠ 0 → exec i s = .next (trapped s h { trapAtWord w h 1 0 with addr := r.dst }))
    ∧ (r.dst.toNat % 4 = 0 → r.src.toNat % 4 ≠ 0 → exec i s = .next (trapped s h { trapAtWord w h 1 0 with addr := r.src }))
    ∧ (r.dst.toNat % 4 = 0 → r.src.toNat % 4 = 0 →
      (r.shapeOk g = false → exec i s = .next (trapped s h { trapAtWord w h 1 0 with addr := r.dst }))
      ∧ (∀ fd fs, r.shapeOk g = true → fd = rangeFault s h r.dst (rowSpan r.rows r.len r.dpitch) true →
        fs = rangeFault s h r.src (rowSpan r.rows r.len r.spitch) false →
        (∀ cls cause, fd = some (cls, cause) → (∀ q, fs = some q → cls < q.1) →
          exec i s = .next (trapped s h { trapAtWord w h cls cause with addr := r.dst }))
        ∧ (∀ cls cause, fs = some (cls, cause) → (∀ q, fd = some q → cls < q.1) →
          exec i s = .next (trapped s h { trapAtWord w h cls cause with addr := r.src }))
        ∧ (∀ cls cd cs, fd = some (cls, cd) → fs = some (cls, cs) →
          ∃ t0 q, exec i s = .next (run t0 (takeTrap t0 h q)) ∧ t0 = { counted s h with freeCtr := s.freeCtr + 1 } ∧
            (q = { trapAtWord w h cls cd with addr := r.dst } ∨ q = { trapAtWord w h cls cs with addr := r.src })))) := by
  rw [he]
  refine ⟨fun hd4 => ?_, fun hd4 hs4 => ?_, fun hd4 hs4 => ⟨fun hshape => ?_, fun fd fs hshape hfd hfs =>
    ⟨fun cls cause hf hlt => ?_, fun cls cause hf hlt => ?_, fun cls cd cs hf1 hf2 => ?_⟩⟩⟩
  · rw [copy_traps hi hfree (cls := 1) (cause := 0) r.dst (by simp only [copyRes, if_pos hd4])]
  · rw [copy_traps hi hfree (cls := 1) (cause := 0) r.src (by simp only [copyRes, if_neg (not_not.mpr hd4), if_pos hs4])]
  · rw [copy_traps hi hfree (cls := 1) (cause := 0) r.dst (by
      simp only [copyRes, if_neg (not_not.mpr hd4), if_neg (not_not.mpr hs4), hshape, Bool.not_false, if_true])]
  all_goals
    have hcd : rangeFault s (issueCtx w h hd).h r.dst (rowSpan r.rows r.len r.dpitch) true = fd := hfd.symm
    have hcs : rangeFault s (issueCtx w h hd).h r.src (rowSpan r.rows r.len r.spitch) false = fs := hfs.symm
  · rw [copy_traps hi hfree (cls := cls) (cause := cause) r.dst]
    simp only [copyRes, if_neg (not_not.mpr hd4), if_neg (not_not.mpr hs4), hshape, hcd, hcs, hf, Bool.not_true, Bool.false_eq_true, if_false]
    cases hfs' : fs with
    | none => rfl
    | some q => simp only [if_pos (hlt q hfs')]
  · rw [copy_traps hi hfree (cls := cls) (cause := cause) r.src]
    simp only [copyRes, if_neg (not_not.mpr hd4), if_neg (not_not.mpr hs4), hshape, hcd, hcs, hf, Bool.not_true, Bool.false_eq_true, if_false]
    cases hfd' : fd with
    | none => rfl
    | some q => simp only [if_neg (Nat.lt_asymm (hlt q hfd')), if_pos (hlt q hfd')]
  · have hcls : cls ≠ 0 := rangeFault_class (hfd.symm.trans hf1)
    have hres : copyRes r g (issueCtx w h hd) s = if (Config.freeNat s.freeCtr).testBit 0 then .trap (trapAt cls cd 255 r.dst) [.free 1]
        else .trap (trapAt cls cs 255 r.src) [.free 1] := by
      simp only [copyRes, if_neg (not_not.mpr hd4), if_neg (not_not.mpr hs4), hshape, hcd, hcs, hf1, hf2, Bool.not_true, Bool.false_eq_true,
        if_false, Nat.lt_irrefl]
    by_cases hbit : (Config.freeNat s.freeCtr).testBit 0
    · rw [if_pos hbit] at hres
      obtain ⟨t0, ht0, hframe⟩ := copy_trapsEither hi hfree r.dst hcls hres
      exact ⟨t0, _, by rw [ht0], hframe, .inl rfl⟩
    · rw [if_neg hbit] at hres
      obtain ⟨t0, ht0, hframe⟩ := copy_trapsEither hi hfree r.src hcls hres
      exact ⟨t0, _, by rw [ht0], hframe, .inr rfl⟩

theorem copiesTrap : Sys2Proof.CopiesTrap := by
  intro s w h hd x g r i hi hp hx hz ha hsf hr hi' hfree
  subst hr hi'
  cases g with
  | false => exact copyRes_faults hi hfree (exec_cpy hi hp hx hz ha)
  | true => exact copyRes_faults hi hfree (exec_cpyg hi hp hx hz ha (hsf rfl))

end Issue

/-! The fault of one range. -/

theorem copyRangesFault : Sys2Proof.CopyRangesFault := by
  intro s h a n dst
  refine ⟨fun h7 => ?_, fun sp hsp hlt hz => ?_, fun sp hsp hz => ?_⟩
  · rw [rangeFault, if_pos h7]
  · subst hsp
    rw [rangeFault, if_neg (Nat.not_le.mpr hlt), if_pos hz]
  subst hsp
  refine ⟨fun h06 hlen => ?_, fun h3 => ?_, fun h4 hd => ?_, fun h4 hd hslot => ?_, fun h2 hc => ?_, fun c h2 hc hlen => ?_,
    fun c h1 hc => ⟨fun hov hn => ?_, fun hov hlen => ?_, fun hov hlen => ?_⟩⟩
  · obtain h0 | h6 := h06
    · simp [rangeFault, h0, h0 ▸ hz]
      omega
    · simp [rangeFault, h6, h6 ▸ hz]
      omega
  · simp [rangeFault, h3, h3 ▸ hz]
  · simp [rangeFault, h4, h4 ▸ hz, hd]
  · obtain hnone | hlen := hslot
    · simp [rangeFault, h4, h4 ▸ hz, hd, hnone]
    · simp [rangeFault, h4, h4 ▸ hz, hd, hlen]
  · have hnone : acreTarget s h a = none := by
      unfold acreTarget
      split
      · rfl
      · next c e => exact if_neg (by rintro hand; simp at hand; exact (hc c e).elim (by simp [hand.1]) (fun hne => hne hand.2))
    simp [rangeFault, h2, h2 ▸ hz, hnone]
  · simp [rangeFault, h2, h2 ▸ hz, hc, hlen]
  · simp [rangeFault, h1, h1 ▸ hz, hc, hn, hov]
  · have hany : c.windows.any (fun w => overlaps w.tile w.len (fld a 20 0) n) = false := by simpa using hov
    simp [rangeFault, h1, h1 ▸ hz, hc, hany, hlen]
  · have hany : c.windows.any (fun w => overlaps w.tile w.len (fld a 20 0) n) = false := by simpa using hov
    simp [rangeFault, h1, h1 ▸ hz, hc, hany, Nat.not_lt.mpr hlen]

/-! A held copy starts. -/

/-- A herd after acts on its furrows that follow others: what those change stands. -/
theorem acts_moveTo (g h : Herd) (fs : List Nat) (pc : Word) (hlen : ∀ j ∈ fs, j < g.furrows.length) :
    g.acts (moveTo h fs pc) = { g with furrows := (g.acts (moveTo h fs pc)).furrows } ∧
      ∀ j, (g.acts (moveTo h fs pc)).fur j = if j ∈ fs then { h.fur j with pc := pc } else g.fur j :=
  ⟨acts_furrowActs _ g (fun a ha => by
    obtain ⟨j, -, rfl⟩ := List.mem_map.mp ha
    exact ⟨_, _, rfl⟩), fun j => fur_acts h (fun _ r => { r with pc := pc }) fs g j hlen⟩

/-- What a uniform register holds after a write (R33). -/
theorem sreg_written {g h : Herd} {d : Nat} {x : Word} (e : g.s = if d = 0 then h.s else Sparse.set zeros h.s d x) (n : Nat) :
    g.sreg n = if n = d then (if d = 0 then 0#64 else x) else h.sreg n := by
  simp only [Herd.sreg, e]
  by_cases hn : n = d
  · subst hn
    by_cases h0 : n = 0 <;> simp [h0, Sparse.get_set]
  · rw [if_neg hn]
    by_cases h0 : d = 0
    · rw [if_pos h0]
    · rw [if_neg h0, Sparse.get_set, if_neg hn]

theorem heldCopyStarts : Sys2Proof.HeldCopyStarts := by
  intro s k f h x r hh hheld hwhy hmay htot hlen8 hfs
  obtain rfl := herd?_key hh
  let fs := bitsOf x.group 8
  let moves := moveTo h fs ((h.fur (fs.headD 0)).pc + 8#64)
  have hacts : copyStart h.key f s = copyStartActs s h x.group r
      ++ herdActs h.key (moves ++ [.holds (h.holds.filter (fun y => decide (y ≠ x)))]) := by
    simp only [copyStart, hh, hheld, hwhy, hmay, if_true]
    rfl
  obtain ⟨s1, hs1, hframe1, hsame, hcopies⟩ := run_copyStart s s h x.group r
  rw [if_neg htot] at hcopies
  obtain ⟨hself, hothers⟩ := oneHerd_herdActs hh [.copies (h.copies + 1#64), .s r.d (h.copies + 1#64)]
  rw [run_herdActs] at hframe1 hself hothers
  let g := h.acts [.copies (h.copies + 1#64), .s r.d (h.copies + 1#64)]
  have hself1 : s1.herd? h.key = some g := by rw [hframe1]; exact hself
  have hothers1 (j : HerdKey) (hj : j ≠ h.key) : s1.herd? j = s.herd? j := by rw [hframe1]; exact hothers j hj
  obtain ⟨hself2, hothers2⟩ := oneHerd_herdActs hself1 (moves ++ [.holds (h.holds.filter (fun y => decide (y ≠ x)))])
  obtain ⟨hmoved, hfur⟩ := acts_moveTo g h fs ((h.fur (fs.headD 0)).pc + 8#64) hfs
  have hg : g.acts (moves ++ [.holds (h.holds.filter (fun y => decide (y ≠ x)))]) =
      { g with furrows := (g.acts moves).furrows, holds := h.holds.filter (fun y => decide (y ≠ x)) } := by
    rw [Herd.acts_append, hmoved]
    rfl
  have hsregs := sreg_written (g := g.acts (moves ++ [.holds (h.holds.filter (fun y => decide (y ≠ x)))])) (h := h) (d := r.d)
    (x := h.copies + 1#64) (by rw [hg]; rfl)
  rw [run_herdActs] at hself2 hothers2
  refine ⟨_, g.acts (moves ++ [.holds (h.holds.filter (fun y => decide (y ≠ x)))]),
    by rw [show exec (.copyStart h.key f) s = .next (run s (copyStart h.key f s)) from rfl, hacts, run_append, hs1, run_herdActs],
    hself2, fun j hj => (hothers2 j hj).trans (hothers1 j hj), ?_, fun hdst => hsame (.inr hdst), hcopies, ?_, fun n hn => ?_, fun j => ?_, ?_⟩
  · rw [hframe1]
  · rw [hsregs, if_pos rfl]
  · rw [hsregs, if_neg hn]
  · rw [fur_congr (h := g.acts moves) (by rw [hg])]
    exact hfur j
  · rw [hg]
    rfl

/-! The wait for copies. -/

section Wait
variable {s : State} {w : Issuer} {h : Herd} {hd : Header} {x : FE}

/-- The acts with which `cwait` answers a status. -/
def cwaitActs (h : Herd) (k d st : Nat) : List HAct :=
  (cwaitWords h k st).2.2 ++ [.s d (cwaitWords h k st).1, .s (d + 1) (cwaitWords h k st).2.1]

/-- R245: the status of a wait that does not stall. -/
def cwaitStatus (s : State) (w : Issuer) (h : Herd) (k : Nat) : Nat :=
  if h.copies.toNat < k then 3 else if s.copies.any (fun y => decide (y.key = w.key) && decide (y.ticket ≤ k)) then 2 else 0

theorem exec_cwait (hi : Issues s w h) (hp : PlainHeader h hd false) (hx2 : x.d.toNat % 2 = 0) (hx : x.d.toNat < 64) (hb : x.sb = 0#6)
    (hf : x.sf = 0#6) (hz : x.x.toNat < 2) (ha : activeLanes h w.f hd ≠ []) {k : Nat} (hk : k = (h.sreg x.sa.toNat).toNat)
    (hgo : h.copies.toNat < k ∨ (∀ y ∈ s.copies, y.key = w.key → k < y.ticket) ∨ x.x = 1#14) :
    exec (.cwait hd x) s
      = .next (run s ((issueCtx w h hd).finish s (.done (herdActs w.key (cwaitActs h k x.d.toNat (cwaitStatus s w h k)))))) := by
  have hl : legal false [.s x.d.toNat 2, .rsv x.sb.toNat, .rsv x.sf.toNat, .rsv (x.x.toNat / 2)] (issueCtx w h hd) = none :=
    legal_none hp _ (by simp [Use.causes, hb, hf, hx2]; omega)
  let write (c : Ctx) (st : Nat) : Res :=
    let r := cwaitWords c.h (c.h.sreg x.sa.toNat).toNat st
    .done (herdActs c.key (r.2.2 ++ [.s x.d.toNat r.1, .s (x.d.toNat + 1) r.2.1]))
  have e := issue_legal hi hp.pred ha _ hl (fun c s =>
    if c.h.copies.toNat < (c.h.sreg x.sa.toNat).toNat then write c 3
    else if !s.copies.any (fun y => decide (y.key = c.key) && decide (y.ticket ≤ (c.h.sreg x.sa.toNat).toNat)) then write c 0
    else if x.x.getLsbD 0 then write c 2
    else .stall)
  refine e.trans ?_
  subst hk
  congr 3
  simp only [cwaitStatus]
  by_cases h3 : h.copies.toNat < (h.sreg x.sa.toNat).toNat
  · rw [if_pos h3]
    exact if_pos h3
  · rw [if_neg h3]
    refine (if_neg h3).trans ?_
    by_cases ho : s.copies.any (fun y => decide (y.key = w.key) && decide (y.ticket ≤ (h.sreg x.sa.toNat).toNat)) = true
    · have h1 : x.x = 1#14 := by
        refine (hgo.resolve_left h3).resolve_left (fun hall => ?_)
        obtain ⟨y, hy, hyk⟩ := List.any_eq_true.mp ho
        simp only [Bool.and_eq_true, decide_eq_true_eq] at hyk
        exact absurd (hall y hy hyk.1) (Nat.not_lt.mpr hyk.2)
      rw [if_pos ho]
      refine (if_neg ?_).trans (if_pos (by rw [h1]; rfl))
      exact fun hn => absurd (ho ▸ hn) (by decide)
    · rw [if_neg ho]
      exact if_pos (Bool.not_eq_true' _ ▸ Bool.not_eq_true _ ▸ ho)

/-- What a wait's answer leaves of the latch (R245). -/
def cwaitLatch (h : Herd) (k st : Nat) : Option Latch × BitVec 16 :=
  ((h.acts (cwaitWords h k st).2.2).latch, (h.acts (cwaitWords h k st).2.2).more)

/-- The herd after a wait's answer: two uniform registers and the latch. -/
theorem acts_cwait (h : Herd) (k d st : Nat) :
    ∃ g, h.acts (cwaitActs h k d st) = g ∧ (d ≠ 0 → g.sreg d = (cwaitWords h k st).1) ∧ g.sreg (d + 1) = (cwaitWords h k st).2.1 ∧
      (∀ n, n ≠ d → n ≠ d + 1 → g.sreg n = h.sreg n) ∧ g.latch = (cwaitLatch h k st).1 ∧ g.more = (cwaitLatch h k st).2 ∧
      g = { h with s := g.s, latch := g.latch, more := g.more, late := h.overrules [d, d + 1] } := by
  have hwords : (cwaitWords h k st).2.2 = [] ∨ (cwaitWords h k st).2.2 = [.latch none, .more 0] := by
    unfold cwaitWords
    split
    · split
      · exact .inr rfl
      · exact .inl rfl
    · exact .inl rfl
  let g0 := h.acts (cwaitWords h k st).2.2
  have hg0 : g0 = { h with latch := g0.latch, more := g0.more } := by
    obtain e | e := hwords <;> simp only [g0, e] <;> rfl
  let g1 := g0.act (.s d (cwaitWords h k st).1)
  have h1 := sreg_written (g := g1) (h := g0) (d := d) (x := (cwaitWords h k st).1) rfl
  have h2 := sreg_written (g := g1.act (.s (d + 1) (cwaitWords h k st).2.1)) (h := g1) (d := d + 1) (x := (cwaitWords h k st).2.1) rfl
  have h0 (n : Nat) : g0.sreg n = h.sreg n := by rw [hg0]; rfl
  refine ⟨g1.act (.s (d + 1) (cwaitWords h k st).2.1), ?_, fun hd => ?_, ?_, fun n hn hn1 => ?_, rfl, rfl, ?_⟩
  · rw [cwaitActs, Herd.acts_append]
    rfl
  · rw [h2, if_neg (by omega), h1, if_pos rfl, if_neg hd]
  · rw [h2, if_pos rfl, if_neg (by omega)]
  · rw [h2, if_neg hn1, h1, if_neg hn, h0]
  · simp only [g1]
    rw [hg0]
    rfl

/-- A status that names a wait's failure writes itself, and keeps the latch (R245). -/
theorem cwait_status (h : Herd) (k : Nat) {st : Nat} (hst : st ≠ 0) :
    (cwaitWords h k st).1 = BitVec.ofNat 64 st ∧ (cwaitWords h k st).2.1 = 0#64 ∧ cwaitLatch h k st = (h.latch, h.more) := by
  have e : cwaitWords h k st = (BitVec.ofNat 64 st, 0#64, []) := by rw [cwaitWords, if_neg hst]
  rw [cwaitLatch, e]
  exact ⟨rfl, rfl, rfl⟩

/-- A wait that finds a latched error gives it and clears the latch (R245). -/
theorem cwait_latched {h : Herd} {k : Nat} {q : Latch} (hq : h.latch = some q) (ht : q.ticket ≤ k) :
    (cwaitWords h k 0).1 = BitVec.ofNat 64 (1 + 2 ^ 8 * q.cause + 2 ^ 16 * h.more.toNat) ∧ (cwaitWords h k 0).2.1 = q.addr ∧
      cwaitLatch h k 0 = (none, 0) := by
  have e : cwaitWords h k 0 = (BitVec.ofNat 64 (1 + 2 ^ 8 * q.cause + 2 ^ 16 * h.more.toNat), q.addr, [.latch none, .more 0]) := by
    simp [cwaitWords, hq, ht]
  rw [cwaitLatch, e]
  exact ⟨rfl, rfl, rfl⟩

/-- A wait that finds no error among its copies answers zero (R245). -/
theorem cwait_clean {h : Herd} {k : Nat} (hq : ∀ q, h.latch = some q → k < q.ticket) :
    (cwaitWords h k 0).1 = 0#64 ∧ (cwaitWords h k 0).2.1 = 0#64 ∧ cwaitLatch h k 0 = (h.latch, h.more) := by
  have e : cwaitWords h k 0 = (0#64, 0#64, []) := by
    cases hl : h.latch with
    | none => simp [cwaitWords, hl]
    | some q => simp [cwaitWords, hl, Nat.not_le.mpr (hq q hl)]
  rw [cwaitLatch, e]
  exact ⟨rfl, rfl, rfl⟩

theorem copyWaitsComplete : Sys2Proof.CopyWaitsComplete := by
  intro s w h hd x k hi hp hx2 hx hb hf hz ha hk hgo
  obtain ⟨g, hg, hreg0, hreg1, hregs, hlatch, hmore, hframe⟩ := acts_cwait h k x.d.toNat (cwaitStatus s w h k)
  have honly := finish_done_herd hi hd (cwaitActs h k x.d.toNat (cwaitStatus s w h k))
  rw [hg] at honly
  have hlen : ∀ j ∈ h.group w.f, j < g.furrows.length := fun j hj => by rw [hframe]; exact group_lt h w.f j hj
  obtain ⟨hmoved, hfur⟩ := acts_moveTo g h (h.group w.f) ((h.fur w.f).pc + 8#64) hlen
  have hsreg (n : Nat) : (g.acts (moveTo h (h.group w.f) ((h.fur w.f).pc + 8#64))).sreg n = g.sreg n := by rw [hmoved]; rfl
  have hl : (g.acts (moveTo h (h.group w.f) ((h.fur w.f).pc + 8#64))).latch = g.latch := by rw [hmoved]
  have hm : (g.acts (moveTo h (h.group w.f) ((h.fur w.f).pc + 8#64))).more = g.more := by rw [hmoved]
  refine ⟨_, _, (cwaitWords h k (cwaitStatus s w h k)).1, (cwaitWords h k (cwaitStatus s w h k)).2.1, exec_cwait hi hp hx2 hx hb hf hz ha hk hgo,
    honly, fun j => ?_, fun hd0 => (hsreg _).trans (hreg0 hd0), (hsreg _).trans hreg1, fun n hn hn1 => (hsreg n).trans (hregs n hn hn1), ?_,
    fun hlt => ?_, fun hle hopen => ?_, fun hle hdone => ⟨fun q hq ht => ?_, fun hq => ?_⟩⟩
  · rw [hfur, fur_congr (h := h) (g := g) (by rw [hframe])]
  · rw [hmoved]
    generalize (g.acts (moveTo h (h.group w.f) ((h.fur w.f).pc + 8#64))).furrows = furs
    rw [hframe]
  · have hst : cwaitStatus s w h k = 3 := if_pos hlt
    rw [hl, hm, hlatch, hmore, hst]
    obtain ⟨e0, e1, e2⟩ := cwait_status h k (st := 3) (by decide)
    exact ⟨e0, e1, by rw [e2], by rw [e2]⟩
  · have hst : cwaitStatus s w h k = 2 := by
      obtain ⟨y, hy, hyk, hyt⟩ := hopen
      rw [cwaitStatus, if_neg (Nat.not_lt.mpr hle), if_pos (List.any_eq_true.mpr ⟨y, hy, by simp [hyk, hyt]⟩)]
    rw [hl, hlatch, hst]
    obtain ⟨e0, e1, e2⟩ := cwait_status h k (st := 2) (by decide)
    exact ⟨e0, e1, by rw [e2]⟩
  all_goals
    have hst : cwaitStatus s w h k = 0 := by
      rw [cwaitStatus, if_neg (Nat.not_lt.mpr hle), if_neg (by simpa using hdone)]
    rw [hl, hm, hlatch, hmore, hst]
  · obtain ⟨e0, e1, e2⟩ := cwait_latched hq ht
    exact ⟨e0, e1, by rw [e2], by rw [e2]⟩
  · obtain ⟨e0, e1, e2⟩ := cwait_clean hq
    exact ⟨e0, e1, by rw [e2], by rw [e2]⟩

end Wait

/-- Settles O31: the issue of a copy, its waits, its late start and its faults. -/
theorem copiesStartAndAreAwaited : Obligations.CopiesStartAndAreAwaited :=
  ⟨copiesIssue, copyWaitsComplete, heldCopyStarts, copiesTrap, copyRangesFault⟩

end Sys2Proof.Machine
end

section
/-! SUPPORT. A copy to the host whose second row lies past the end of the host's space, and the refutation of O32. -/
namespace Sys2Proof.Machine

/-- A copy of two rows of four bytes to the host: the pitch leads from host address 0 to byte 0 of the tile space. -/
def wrapReq : CopyReq :=
  { d := 0, dst := 0x6000000000000000, src := 0, rows := 2, len := 4, dpitch := 0xB000000000000000, spitch := 4, sup := false }

/-- The copy, which has read both of its rows. -/
def wrapCopy : Copy :=
  { key := uncountedHerd.key, group := 1#8, ticket := 1, core := 0, req := wrapReq, ents := [], lines := [], pages := []
    got := [{ lin := 0, data := [1#8, 1#8, 1#8, 1#8], err := none }, { lin := 4, data := [1#8, 1#8, 1#8, 1#8], err := none }] }

/-- The copy of a herd whose crew has a tile store of 256 bytes, all zero. -/
def wrapState : State :=
  { State.reset with
    herds := [uncountedHerd]
    crews := [Crew.fresh { key := uncountedHerd.key.crew, core := 0, herds := 1, tileLen := 256, order := 0 }]
    copies := [wrapCopy] }

/-- No remote answer. -/
def noEnv : CopyEnv := { bytes := [], failed := [] }

/-- The pieces of the copy as its retirement finds them. -/
def wrapRuns : List ChunkRun :=
  wrapReq.chunks.map (chunkRun wrapState { uncountedHerd with core := wrapCopy.core, sup := wrapReq.sup } wrapCopy noEnv)

/-- Byte 0 of the crew's tile store after a step. -/
def tileAfter (r : Host.Outcome State Fault Refusal) : Option Byte :=
  match r with
  | .next t => some (tileByte t uncountedHerd.key.crew 0)
  | _ => none

/-- Both rows are written to host memory. -/
theorem tileAfter_retire : tileAfter (exec (.copyRetire uncountedHerd.key 1 noEnv) wrapState) = some 0#8 := by decide +kernel

/-- Where the statement has the second row stand. -/
theorem wrapRuns_reach : lastStore (tileWrites uncountedHerd.key.crew ((wrapRuns.filter (fun x =>
    !(wrapRuns.any (fun y => y.failed && decide (y.sector = x.sector))))).map (fun x => (x.dst.loc, x.data)))) 0
    (tileByte wrapState uncountedHerd.key.crew 0) = 1#8 := by decide +kernel

/-- Refutes O32, by its clause on what a retiring copy leaves in memory: the second row of `wrapCopy` has an address of the tile space. The model
takes the space of the whole destination from its first byte and writes both rows to the host; the statement also has the second row stand in
the tile store. No copy that issues is of this kind, since its range is checked against the end of the host's space (R242); the statement
asks for no such check of the copy that retires. -/
theorem not_copiesRetire : ¬ Obligations.CopiesRetire := by
  rintro ⟨-, hretire⟩
  obtain ⟨t, h', hexec, -, -, -, -, ⟨-, htile⟩, -⟩ := hretire wrapState uncountedHerd.key 1 noEnv wrapCopy uncountedHerd false wrapRuns _ _
    (by decide +kernel) rfl (by decide +kernel) (by rw [if_neg (by decide)]; rfl) rfl (by decide +kernel) rfl
  have hafter := tileAfter_retire
  have hbyte := htile uncountedHerd.key.crew 0
  rw [hexec] at hafter
  rw [if_pos (by decide), if_neg (by decide), List.append_nil, wrapRuns_reach] at hbyte
  rw [tileAfter, hbyte] at hafter
  exact absurd hafter (by decide)

end Sys2Proof.Machine
end

section
/-! SUPPORT. The words that access memory: their legality, the fault that they take, what they leave when they complete, and what the
accesses of a load or a store do (R102, R103, R134, R223 to R232, R257, R269 to R279). -/
namespace Sys2Proof.Machine

/-! Legality. -/

section Legality
variable {w : Issuer} {h : Herd} {hd : Header} {nib : Nat} {x : FM}

theorem genHdrCauses_nil (hm : MemHeader h hd nib x) : genHdrCauses hd = [] := by
  obtain ⟨⟨hpred, -⟩, -, hss⟩ := hm
  have h1 : (if !hd.pe && (hd.pn || hd.pk || hd.pr ≠ 0#5) then [2] else []) = ([] : List Nat) := by
    cases hpe : hd.pe with
    | true => rfl
    | false =>
      obtain ⟨hpn, hpk, hpr⟩ := hpred hpe
      simp [hpn, hpk, hpr]
  rw [genHdrCauses, h1]
  obtain ⟨hs, hw, -⟩ | ⟨hs, hw, hu, -⟩ | ⟨hs, hw, -⟩ | ⟨hs, hw, hu, -⟩ := hss <;> simp [*]

theorem fmGenUses_causes (hm : MemHeader h hd nib x) : ∀ u ∈ fmGenUses hd x nib, u.causes h = [] := by
  obtain ⟨-, hwid, hss⟩ := hm
  obtain ⟨hs, -, hok⟩ | ⟨hs, -, -, hspc, hnib⟩ | ⟨hs, -, hspc, hok⟩ | ⟨hs, -, -, hspc, hnib⟩ := hss
  · simp [fmGenUses, Use.causes, hs, hok]
  · simp [fmGenUses, Use.causes, hs, hspc, hnib]
    omega
  · simp [fmGenUses, Use.causes, hs, hspc, hok]
  · simp [fmGenUses, Use.causes, hs, hspc, hnib]
    omega

theorem legalGen_none (hm : MemHeader h hd nib x) (uses : List Use) (hu : ∀ u ∈ uses, u.causes h = []) :
    legalGen uses (issueCtx w h hd) = none := by
  have e : uses.flatMap (fun u => u.causes h) = [] := List.flatMap_eq_nil_iff.mpr hu
  simp [legalGen, lowest, issueCtx, genHdrCauses_nil hm, e]

theorem regCount_pos (wid : Nat) : 1 ≤ regCount wid := by
  unfold regCount
  split <;> [skip; split] <;> omega

/-- The uses of registers by a memory word. -/
theorem regUses_causes {d k v : Nat} (hk : 1 ≤ k) (hal : d % k = 0) (hle : d + k ≤ h.nregs) (hv : v < h.nregs) :
    ∀ u ∈ [Use.v d k, .v v 1], u.causes h = [] := by
  simp [Use.causes, hal, Nat.mod_one]
  omega

end Legality

/-! The fault that a word takes over its lanes (R103). -/

/-- In a list that ascends by a key, the first entry that a test finds is the least of them. -/
theorem find?_least {α : Type} {key : α → Nat} {q : α → Bool} {a b : α} : ∀ {l : List α}, l.Pairwise (fun x y => key x < key y) →
    l.find? q = some b → a ∈ l → q a = true → a = b ∨ key b < key a
  | [], _, hf, _, _ => nomatch hf
  | c :: l, hp, hf, ha, hq => by
    rw [List.pairwise_cons] at hp
    by_cases hc : q c = true
    · obtain rfl : c = b := by simpa [hc] using hf
      obtain rfl | ha := List.mem_cons.mp ha
      · exact .inl rfl
      · exact .inr (hp.1 a ha)
    · have hf : l.find? q = some b := by simpa [hc] using hf
      obtain rfl | ha := List.mem_cons.mp ha
      · exact absurd hq hc
      · exact find?_least hp.2 hf ha hq

/-- R103: the fault that a word takes is the one of the first class at its lowest lane. -/
theorem worstFault_takes {accs : List LaneAcc} {a : LaneAcc} {cls cause : Nat} (hp : accs.Pairwise (fun x y => x.lane < y.lane))
    (ht : TakesFault accs a cls cause) : worstFault accs = some a := by
  obtain ⟨ha, hflt, h1, h4, hall⟩ := ht
  have hbelow {k : Nat} (hk : k < cls) : firstOfClass accs k = none := by
    refine List.find?_eq_none.mpr (fun b hb => ?_)
    cases hf : b.flt with
    | none => simp
    | some q =>
      obtain ⟨-, hlt | ⟨heq, -⟩⟩ := hall b hb q hf
      · simp; omega
      · simp; omega
  have hself : firstOfClass accs cls = some a := by
    cases hf : firstOfClass accs cls with
    | none => exact absurd (List.find?_eq_none.mp hf a ha) (by simp [hflt])
    | some b =>
      obtain rfl | hlt := find?_least hp hf ha (by simp [hflt])
      · rfl
      · have hq := List.find?_some hf
        cases hbf : b.flt with
        | none => simp [hbf] at hq
        | some q =>
          obtain ⟨-, hlt' | ⟨-, hle⟩⟩ := hall b (List.mem_of_find?_eq_some hf) q hbf
          · simp only [hbf, decide_eq_true_eq] at hq
            omega
          · omega
  unfold worstFault
  obtain rfl | rfl | rfl | rfl : cls = 1 ∨ cls = 2 ∨ cls = 3 ∨ cls = 4 := by omega
  · simp [hself]
  · simp [hself, hbelow (k := 1) (by decide)]
  · simp [hself, hbelow (k := 1) (by decide), hbelow (k := 2) (by decide)]
  · simp [hself, hbelow (k := 1) (by decide), hbelow (k := 2) (by decide), hbelow (k := 3) (by decide)]

theorem faultRes_takes {accs : List LaneAcc} {a : LaneAcc} {cls cause : Nat} (hp : accs.Pairwise (fun x y => x.lane < y.lane))
    (ht : TakesFault accs a cls cause) : faultRes accs = some (if cls = 4 then .park cause a.lane a.addr (xlateActs accs)
      else .trap (trapAt cls cause a.lane a.addr) (xlateActs accs)) := by
  have hw := worstFault_takes hp ht
  obtain ⟨-, hflt, -⟩ := ht
  simp only [faultRes, hw, hflt]
  split <;> rfl

theorem faultRes_none {accs : List LaneAcc} (h : ∀ a ∈ accs, a.flt = none) : faultRes accs = none := by
  have hnone (k : Nat) : firstOfClass accs k = none := List.find?_eq_none.mpr (fun a ha => by simp [h a ha])
  simp [faultRes, worstFault, hnone]

theorem checkLane_lane (s : State) (h : Herd) (kind : AKind) (n : Nat) (spc : Option Nat) (lane : Nat) (a : Word) :
    (checkLane s h kind n spc lane a).lane = lane := by
  unfold checkLane
  simp only
  repeat' split
  all_goals rfl

/-- The accesses of a memory word stand in ascending order of their lanes. -/
theorem pairwise_memAccs (w : Issuer) (h : Herd) (hd : Header) (s : State) (kind : AKind) (x : FM) :
    (memAccs (issueCtx w h hd) s kind x).Pairwise (fun a b => a.lane < b.lane) := by
  have hlanes : (if (issueCtx w h hd).hdr.ss = 0#2 && (issueCtx w h hd).hdr.u then [(issueCtx w h hd).low] else (issueCtx w h hd).act).Pairwise
      (· < ·) := by
    split
    · exact List.pairwise_singleton _ _
    · exact pairwise_activeLanes h w.f hd
  unfold memAccs
  rw [List.pairwise_map]
  exact hlanes.imp (fun hlt => by rwa [checkLane_lane, checkLane_lane])

/-- R103, R120, R226: a word whose effect begins with the fault of its accesses traps with it, or parks. -/
theorem faultsOver {i : Instr} {s : State} {w : Issuer} {h : Herd} {hd : Header} {accs : List LaneAcc} {r : Res} (hi : Issues s w h)
    (hp : accs.Pairwise (fun x y => x.lane < y.lane)) (he : exec i s = .next (run s ((issueCtx w h hd).finish s r)))
    (hr : ∀ q, faultRes accs = some q → r = q) : FaultsOver i s w h accs := by
  intro a cls cause ht
  have hq := hr _ (faultRes_takes hp ht)
  obtain ⟨-, -, h1, -⟩ := ht
  refine ⟨fun hlt hfree => ?_, fun h4 => ?_⟩
  · rw [if_neg (Nat.ne_of_lt hlt)] at hq
    obtain ⟨t0, ht0, hframe⟩ := run_finish_trapLooked hi hd (trapAt cls cause a.lane a.addr) (fun b hb => mem_xlateActs (l := accs) hb)
      (Nat.ne_of_gt h1) hfree
    exact ⟨t0, by rw [he, hq, ht0]; rfl, hframe⟩
  · rw [if_pos h4] at hq
    obtain ⟨t, h', ht, hpark, hframe⟩ := run_finish_park hi hd cause a.lane a.addr (fun b hb => mem_xlateActs (l := accs) hb)
    exact ⟨t, h', by rw [he, hq, ht], hpark, hframe⟩

/-! What a site settles, added to an outcome. -/

/-- The hold of a word that attempts a rewrite (R274). -/
def planActs (w : Issuer) (h : Herd) (p : Plan) (word : Word) : List HAct :=
  match p.rw with
  | none => []
  | some (new, widen) => [.holds (h.holds ++ [rewriteOf w h word new widen])]

theorem acts_planActs (w : Issuer) (h g : Herd) (p : Plan) (word : Word) (hg : g.holds = h.holds) :
    g.acts (planActs w h p word) = { g with holds := holdsOf w h p word } := by
  unfold planActs holdsOf
  cases p.rw with
  | none => rw [Herd.acts_nil, ← hg]
  | some r => rfl

/-- A plan rewrites the word of its site. -/
structure Sited (t : Option Site) (p : Plan) (word : Word) : Prop where
  word : ∀ u, t = some u → u.word = word
  native : t = none → p.rw = none

theorem sited_siteOf {i : Instr} {c : Ctx} {dim : Bool} {srcs : List Nat} {addr : Nat → Word} {word : Word} (he : encode i = some word)
    (nib : Nat) (u : Bool) (fmts : List Nat) : Sited (siteOf i c dim srcs addr) (planOf (siteOf i c dim srcs addr) nib u fmts) word where
  word := fun t ht => by
    unfold siteOf at ht
    split at ht
    · cases ht
    · obtain rfl := Option.some.inj ht
      simp [he]
  native := fun ht => by rw [ht]; rfl

section Plans
variable {w : Issuer} {h : Herd} {hd : Header} {s : State} {t : Option Site} {p : Plan} {word : Word}

theorem withPlan_done (hs : Sited t p word) (l : List Act) :
    withPlan (issueCtx w h hd) s t p (.done l) = .done (l ++ herdActs w.key (planActs w h p word)) := by
  cases ht : t with
  | none =>
    have hrw := hs.native ht
    simp [withPlan, planActs, hrw, herdActs]
  | some u =>
    have hword := hs.word u ht
    cases hrw : p.rw with
    | none => simp [withPlan, planActs, hrw, herdActs]
    | some r =>
      obtain ⟨new, widen⟩ := r
      subst hword
      simp only [withPlan, planActs, hrw]
      rfl

/-- A word that completes and acts on its herd, with its rewrite still to be answered. -/
theorem run_finish_plan (hi : Issues s w h) (hs : Sited t p word) {l : List Act} (ha : List HAct) {s1 : State}
    (h1 : run (counted s h) l = s1) (hherds : s1.herds = s.herds) (hregs : s1.coreRegs = (counted s h).coreRegs) :
    ∃ u, run s ((issueCtx w h hd).finish s (withPlan (issueCtx w h hd) s t p (.done (l ++ herdActs w.key ha)))) = u ∧
      u = { s1 with herds := u.herds } ∧
      WordDone s u w h ((h.acts (ha ++ planActs w h p word)).acts (moveTo h (h.group w.f) ((h.fur w.f).pc + 8#64))) := by
  have e : withPlan (issueCtx w h hd) s t p (.done (l ++ herdActs w.key ha)) = .done (l ++ herdActs w.key (ha ++ planActs w h p word)) := by
    rw [withPlan_done hs, List.append_assoc]
    simp only [herdActs, List.map_append]
  rw [e]
  exact run_finish_done hi hd _ h1 hherds hregs

/-- The herd of a word that changes no register: it goes on, and a rewrite holds it. -/
theorem acts_planMoves (w : Issuer) (h : Herd) (p : Plan) (word : Word) :
    let h' := (h.acts (planActs w h p word)).acts (moveTo h (h.group w.f) ((h.fur w.f).pc + 8#64))
    Advanced h h' w.f ∧ h' = { h with furrows := h'.furrows, holds := holdsOf w h p word } := by
  rw [acts_planActs w h h p word rfl]
  obtain ⟨hmoved, hfur⟩ := acts_moveTo { h with holds := holdsOf w h p word } h (h.group w.f) ((h.fur w.f).pc + 8#64)
    (fun j hj => group_lt h w.f j hj)
  exact ⟨hfur, hmoved⟩

/-- A word whose accesses are posted (R257). -/
theorem run_finish_posted (hi : Issues s w h) (hs : Sited t p word) (accs : List LaneAcc) (parts : List Posted) :
    ∃ u h', run s ((issueCtx w h hd).finish s (withPlan (issueCtx w h hd) s t p
        (.done (xlateActs accs ++ [.posted (s.posted ++ parts)])))) = u ∧
      WordPosted s u w h h' parts (holdsOf w h p word) := by
  have hlook := run_look (xlateActs accs) (counted s h) (fun a ha => mem_xlateActs ha)
  obtain ⟨u, hu, hframe, hdone⟩ := run_finish_plan (hd := hd) hi hs (l := xlateActs accs ++ [.posted (s.posted ++ parts)]) []
    (s1 := (run (counted s h) (xlateActs accs)).act (.posted (s.posted ++ parts))) (by rw [run_append, run_cons, run_nil])
    (by rw [State.act_herds, hlook]; rfl) (by rw [State.act_coreRegs, hlook])
  simp only [herdActs, List.map_nil, List.append_nil] at hu
  obtain ⟨hadv, hrest⟩ := acts_planMoves w h p word
  refine ⟨u, _, hu, ⟨hdone, ?_, hadv, hrest⟩⟩
  rw [hframe, hlook]
  rfl

end Plans

/-! A load or a store after its checks. -/

/-- A place that may be posted meets no error (R232, R257). -/
theorem not_poisoned_of_postable {s : State} {l : Loc} (hl : l.postable s = true) (core : Nat) (via : Bool) : poisoned s core via l = false := by
  cases l with
  | mem pa => simp_all [Loc.postable, poisoned]
  | win c id sec pa off =>
    simp only [Loc.postable, Bool.and_eq_true, Bool.not_eq_true'] at hl
    obtain ⟨hmem, htile⟩ := hl
    simp only [poisoned]
    split
    · exact htile
    · exact hmem
  | tile c off => simp_all [Loc.postable, poisoned]
  | slot i off => cases hl
  | _ => rfl

theorem not_remote_of_postable {s : State} {a : LaneAcc} (hl : a.loc.postable s = true) : a.remote = false := by
  unfold LaneAcc.remote
  cases h : a.loc with
  | remote sp => simp [h, Loc.postable] at hl
  | _ => rfl

/-- The accesses that a word makes: with U one for all its lanes (R229). -/
def didAccs (p : Plan) (accs : List LaneAcc) : List LaneAcc := if p.uni then accs.take 1 else accs

theorem mem_didAccs {p : Plan} {accs : List LaneAcc} {a : LaneAcc} (h : a ∈ didAccs p accs) : a ∈ accs := by
  unfold didAccs at h
  split at h
  · exact List.mem_of_mem_take h
  · exact h

/-- Accesses that none of which is remote are all local. -/
theorem locals_eq {accs : List LaneAcc} (h : ∀ a ∈ accs, a.remote = false) :
    accs.filter (fun a => !a.remote) = accs ∧ accs.filter (fun a => a.remote) = [] :=
  ⟨List.filter_eq_self.mpr (fun a ha => by simp [h a ha]), List.filter_eq_nil_iff.mpr (fun a ha => by simp [h a ha])⟩

section Access
variable {i : Instr} {reads : Bool} {x : FM} {nib : Nat} {srcs : List Nat} {w : Issuer} {h : Herd} {hd : Header} {s : State}
  {accs : List LaneAcc} {t : Option Site} {p : Plan}

/-- What lane accesses a load obtains. -/
def accVals (s : State) (h : Herd) (n : Nat) (accs : List LaneAcc) : List (Nat × BitVec 128) :=
  accs.map (fun a => (a.lane, BitVec.ofNat 128 (leNat (readLoc s h.core n true a.loc))))

/-- What a load or a store does at its turn. -/
def accEffect (w : Issuer) (h : Herd) (hd : Header) (s : State) (reads : Bool) (x : FM) (p : Plan) (accs : List LaneAcc) : List Act :=
  if reads then loadTraces s h.core (didAccs p accs) else storeActs (issueCtx w h hd) s x.d.toNat x.wid.toNat (didAccs p accs)

/-- The acts on its herd of a load or a store that is performed at its turn. -/
def accHerd (w : Issuer) (h : Herd) (hd : Header) (s : State) (reads : Bool) (x : FM) (p : Plan) (accs : List LaneAcc) : List HAct :=
  if reads then loadWrites x.d.toNat x.wid.toNat p.nib (activeLanes h w.f hd) (accVals s h (2 ^ x.wid.toNat) accs) p.uni else []

/-- A word that meets a fault takes it (R103). -/
theorem accessRes_fault (hacc : accs = memAccs (issueCtx w h hd) s (if reads then .load else .store) x) {r : Res}
    (hf : faultRes accs = some r) : accessRes i reads x nib srcs (issueCtx w h hd) s = r := by
  rw [hacc] at hf
  simp only [accessRes, hf]

/-- A word whose accesses are local, unrefused, and wait for nothing: it traps on an error that it meets, or its accesses are posted, or
performed. -/
theorem accessRes_local (hacc : accs = memAccs (issueCtx w h hd) s (if reads then .load else .store) x)
    (ht : t = siteOf i (issueCtx w h hd) true srcs (memEa (issueCtx w h hd) x)) (hp : p = planOf t nib hd.u (accs.map (fun a => a.fmt)))
    (href : fmtRefused t x.wid.toNat (accs.map (fun a => a.fmt)) p = false) (hflt : ∀ a ∈ accs, a.flt = none)
    (hloc : ∀ a ∈ accs, a.remote = false) (hheld : ∀ a ∈ accs, locHeld s h.key h.core (2 ^ x.wid.toNat) (!reads) reads a.loc = false)
    (hbehind : (issueCtx w h hd).posts s accs = false → ∀ a ∈ accs,
      behindPosted s.posted h.key (furMask (h.group w.f)) (2 ^ x.wid.toNat) (!reads) a.loc = false) (hk : h.key = w.key) :
    accessRes i reads x nib srcs (issueCtx w h hd) s =
      match (if reads then (didAccs p accs).find? (fun a => poisoned s h.core true a.loc) else none) with
      | some a => withPlan (issueCtx w h hd) s t p (.trap (trapAt 2 10 a.lane a.addr) (xlateActs accs))
      | none =>
        if (issueCtx w h hd).posts s accs then
          withPlan (issueCtx w h hd) s t p (.done (xlateActs accs ++ [.posted (s.posted ++ postedParts (issueCtx w h hd) reads x.d.toNat
            x.wid.toNat p.nib (if p.uni then activeLanes h w.f hd else []) (didAccs p accs))]))
        else withPlan (issueCtx w h hd) s t p (.done (xlateActs accs ++ accEffect w h hd s reads x p accs
          ++ herdActs w.key (accHerd w h hd s reads x p accs))) := by
  obtain ⟨hall, hnone⟩ := locals_eq hloc
  have hstall : (accs.any (fun a => locHeld s (issueCtx w h hd).key (issueCtx w h hd).core (2 ^ x.wid.toNat) (!reads) reads a.loc)
      || (!(issueCtx w h hd).posts s accs && accs.any (fun a =>
        behindPosted s.posted (issueCtx w h hd).key (issueCtx w h hd).mask (2 ^ x.wid.toNat) (!reads) a.loc))) = false := by
    have h1 : accs.any (fun a => locHeld s w.key h.core (2 ^ x.wid.toNat) (!reads) reads a.loc) = false :=
      List.any_eq_false.mpr (fun a ha => by rw [← hk, hheld a ha]; simp)
    refine Bool.or_eq_false_iff.mpr ⟨h1, ?_⟩
    cases hposts : (issueCtx w h hd).posts s accs with
    | true => rfl
    | false =>
      refine List.any_eq_false.mpr (fun a ha => ?_)
      have hb := hbehind hposts a ha
      rw [hk] at hb
      rw [show behindPosted s.posted (issueCtx w h hd).key (issueCtx w h hd).mask (2 ^ x.wid.toNat) (!reads) a.loc = false from hb]
      simp
  have hawait : awaitsFormats t [] = false := by simp [awaitsFormats]
  have hp' : planOf t nib (issueCtx w h hd).hdr.u (accs.map (fun a => a.fmt)) = p := hp.symm
  simp only [accessRes, ← hacc, faultRes_none hflt, hstall, hall, hnone, ← ht, List.isEmpty_nil, if_true, hp', href, hawait,
    Bool.false_eq_true, if_false]
  cases reads <;> rfl

end Access

end Sys2Proof.Machine
end

section
/-! SUPPORT. Loads: the registers that they write, the trace that they leave, and their completion, at their turn and posted (R102, R227,
R229, R230, R257). -/
namespace Sys2Proof.Machine

/-! Lanes of consecutive registers. -/

/-- Writes of lanes `ls` of registers d to d + k - 1, with one tag. -/
def blockActs (d k : Nat) (ls : List Nat) (tag : Nat) (val : Nat → Nat → Lane) : List HAct :=
  (List.range k).flatMap (fun j => ls.map (fun l => HAct.v (vkey (d + j) l) [val j l]) ++ [.vtag (d + j) (BitVec.ofNat 4 tag)])

theorem blockActs_succ (d k : Nat) (ls : List Nat) (tag : Nat) (val : Nat → Nat → Lane) : blockActs d (k + 1) ls tag val =
    blockActs d k ls tag val ++ (ls.map (fun l => HAct.v (vkey (d + k) l) [val k l]) ++ [.vtag (d + k) (BitVec.ofNat 4 tag)]) := by
  simp [blockActs, List.range_succ]

theorem acts_v_vtag (ls : List Nat) (f : Nat → HAct) (hf : ∀ l, ∃ lo xs, f l = .v lo xs) (h : Herd) : (h.acts (ls.map f)).vtag = h.vtag := by
  induction ls generalizing h with
  | nil => rfl
  | cons l ls ih =>
    obtain ⟨lo, xs, e⟩ := hf l
    rw [List.map_cons, Herd.acts_cons, ih, e]
    rfl

/-- Writes of lanes and tags change nothing else of their herd. -/
theorem acts_lanes : ∀ (l : List HAct) (h : Herd), (∀ a ∈ l, (∃ lo xs, a = .v lo xs) ∨ ∃ n c, a = .vtag n c) →
    h.acts l = { h with v := (h.acts l).v, vtag := (h.acts l).vtag }
  | [], _, _ => rfl
  | a :: l, h, ha => by
    rw [Herd.acts_cons, acts_lanes l _ (fun b hb => ha b (by simp [hb]))]
    obtain ⟨lo, xs, rfl⟩ | ⟨n, c, rfl⟩ := ha a (by simp) <;> rfl

theorem blockActs_lanes {d k : Nat} {ls : List Nat} {tag : Nat} {val : Nat → Nat → Lane} :
    ∀ a ∈ blockActs d k ls tag val, (∃ lo xs, a = .v lo xs) ∨ ∃ n c, a = .vtag n c := by
  intro a ha
  obtain ⟨j, -, ha⟩ := List.mem_flatMap.mp ha
  obtain ha | ha := List.mem_append.mp ha
  · obtain ⟨l, -, rfl⟩ := List.mem_map.mp ha
    exact .inl ⟨_, _, rfl⟩
  · exact .inr ⟨_, _, List.mem_singleton.mp ha⟩

/-- One register's lanes and tag, seen from any register. -/
theorem read_registerActs (d : Nat) {ls : List Nat} (hls : ∀ l ∈ ls, l < 64) (tag : Nat) (f : Nat → Lane) (g : Herd) :
    (∀ n l, l < 64 → (g.acts (ls.map (fun l => HAct.v (vkey d l) [f l]) ++ [.vtag d (BitVec.ofNat 4 tag)])).vreg n l
      = if n = d ∧ l ∈ ls then f l else g.vreg n l) ∧
    ∀ n, (g.acts (ls.map (fun l => HAct.v (vkey d l) [f l]) ++ [.vtag d (BitVec.ofNat 4 tag)])).tagOf n
      = if n = d then tag % 16 else g.tagOf n := by
  rw [Herd.acts_append, Herd.acts_cons, Herd.acts_nil]
  refine ⟨fun n l hl => ?_, fun n => ?_⟩
  · refine (v_lanes d f ls g (64 * n + l)).trans ?_
    by_cases hin : n = d ∧ l ∈ ls
    · obtain ⟨rfl, hl⟩ := hin
      rw [Nat.add_sub_cancel_left, if_pos ⟨by omega, hl⟩, if_pos ⟨rfl, hl⟩]
    · rw [if_neg hin, if_neg]
      · rfl
      · rintro ⟨hle, hmem⟩
        have hlt := hls _ hmem
        obtain rfl : n = d := by omega
        exact hin ⟨rfl, by rwa [Nat.add_sub_cancel_left] at hmem⟩
  · simp only [Herd.tagOf, Herd.act_vtag, Sparse.get_set, acts_v_vtag ls (fun l => HAct.v (vkey d l) [f l]) (fun l => ⟨_, _, rfl⟩) g]
    split
    · simp
    · rfl

/-- What the registers and the tags are after the writes of a block. -/
theorem read_blockActs (d : Nat) {ls : List Nat} (hls : ∀ l ∈ ls, l < 64) (tag : Nat) (val : Nat → Nat → Lane) (h : Herd) : ∀ k,
    (∀ n l, l < 64 → (h.acts (blockActs d k ls tag val)).vreg n l = if d ≤ n ∧ n < d + k ∧ l ∈ ls then val (n - d) l else h.vreg n l) ∧
    ∀ n, (h.acts (blockActs d k ls tag val)).tagOf n = if d ≤ n ∧ n < d + k then tag % 16 else h.tagOf n
  | 0 => by
    refine ⟨fun n l hl => ?_, fun n => ?_⟩ <;> rw [if_neg (by omega)] <;> rfl
  | k + 1 => by
    obtain ⟨hv, ht⟩ := read_blockActs d hls tag val h k
    obtain ⟨hv1, ht1⟩ := read_registerActs (d + k) hls tag (val k) (h.acts (blockActs d k ls tag val))
    rw [blockActs_succ, Herd.acts_append]
    refine ⟨fun n l hl => ?_, fun n => ?_⟩
    · rw [hv1 n l hl]
      by_cases hn : n = d + k ∧ l ∈ ls
      · obtain ⟨rfl, hl⟩ := hn
        rw [if_pos ⟨rfl, hl⟩, if_pos ⟨by omega, by omega, hl⟩, Nat.add_sub_cancel_left]
      · rw [if_neg hn, hv n l hl]
        refine if_congr ⟨fun ⟨h1, h2, h3⟩ => ⟨h1, by omega, h3⟩, fun ⟨h1, h2, h3⟩ => ⟨h1, ?_, h3⟩⟩ rfl rfl
        by_contra hlt
        exact hn ⟨by omega, h3⟩
    · rw [ht1 n]
      by_cases hn : n = d + k
      · rw [if_pos hn, if_pos ⟨by omega, by omega⟩]
      · rw [if_neg hn, ht n]
        exact if_congr ⟨fun ⟨h1, h2⟩ => ⟨h1, by omega⟩, fun ⟨h1, h2⟩ => ⟨h1, by omega⟩⟩ rfl rfl

theorem loadWrites_eq (d wid nib : Nat) (act : List Nat) (vals : List (Nat × BitVec 128)) (uni : Bool) : loadWrites d wid nib act vals uni =
    blockActs d (regCount wid) act nib (fun j l => loadWord nib wid (obtained vals uni l) j) := rfl

/-- The herd of a word that writes a block, with its rewrite still to be answered. -/
theorem blockWritten_acts {w : Issuer} {h : Herd} {hd : Header} (h8 : h.furrows.length ≤ 8) (p : Plan) (word : Word) (d k tag : Nat)
    (val : Nat → Nat → Lane) :
    BlockWritten h ((h.acts (blockActs d k (activeLanes h w.f hd) tag val ++ planActs w h p word)).acts
      (moveTo h (h.group w.f) ((h.fur w.f).pc + 8#64))) w.f d k (activeLanes h w.f hd) (tag % 16) val (holdsOf w h p word) := by
  have hls := activeLanes_lt h w.f hd h8
  obtain ⟨hv, ht⟩ := read_blockActs d hls tag val h k
  obtain ⟨g, hg⟩ : ∃ g, h.acts (blockActs d k (activeLanes h w.f hd) tag val) = g := ⟨_, rfl⟩
  have hrest := acts_lanes (blockActs d k (activeLanes h w.f hd) tag val) h blockActs_lanes
  rw [hg] at hv ht hrest
  rw [Herd.acts_append, hg, acts_planActs w h g p word (by rw [hrest])]
  obtain ⟨hmoved, hfur⟩ := acts_moveTo { g with holds := holdsOf w h p word } h (h.group w.f) ((h.fur w.f).pc + 8#64)
    (fun j hj => by rw [hrest]; exact group_lt h w.f j hj)
  obtain ⟨h', hh'⟩ : ∃ h', ({ g with holds := holdsOf w h p word } : Herd).acts (moveTo h (h.group w.f) ((h.fur w.f).pc + 8#64)) = h' :=
    ⟨_, rfl⟩
  rw [hh'] at hmoved hfur ⊢
  have hvreg (n l : Nat) : h'.vreg n l = g.vreg n l := by rw [hmoved]; rfl
  refine ⟨fun j hj l hl => ?_, fun n l hl hn => ?_, fun n => ?_, fun j => ?_, ?_⟩
  · rw [hvreg, hv _ _ (hls l hl), if_pos ⟨by omega, by omega, hl⟩, Nat.add_sub_cancel_left]
  · rw [hvreg, hv _ _ hl, if_neg hn]
  · rw [← ht n, hmoved]
    rfl
  · rw [hfur, fur_congr (h := h) (g := { g with holds := holdsOf w h p word }) (by rw [hrest])]
  · rw [hmoved]
    generalize h'.furrows = furs
    rw [hrest]

/-! What lanes obtain. -/

theorem assocGet_map {α : Type} (f : LaneAcc → α) (dflt : α) (l : Nat) : ∀ accs : List LaneAcc,
    assocGet dflt (accs.map (fun a => (a.lane, f a))) l = match accs.find? (fun a => decide (a.lane = l)) with | some a => f a | none => dflt
  | [] => rfl
  | a :: accs => by
    by_cases h : a.lane = l
    · simp [assocGet, h]
    · simp [assocGet, h, assocGet_map f dflt l accs]

/-- R229: what a lane obtains is what its location holds, or with U that of the lowest. -/
theorem obtained_laneBytes (s : State) (h : Herd) (n : Nat) (accs : List LaneAcc) (uni : Bool) (l : Nat) :
    obtained (accVals s h n accs) uni l = laneBytes s h n accs uni l := by
  cases uni with
  | false => exact assocGet_map _ _ l accs
  | true =>
    cases accs with
    | nil => rfl
    | cons a accs => simp [obtained, accVals, laneBytes, assocGet]

theorem accHerd_loads (w : Issuer) (h : Herd) (hd : Header) (s : State) (x : FM) (p : Plan) (accs : List LaneAcc) :
    accHerd w h hd s true x p accs = blockActs x.d.toNat (regCount x.wid.toNat) (activeLanes h w.f hd) p.nib
      (fun j l => loadWord p.nib x.wid.toNat (laneBytes s h (2 ^ x.wid.toNat) accs p.uni l) j) := by
  simp only [← obtained_laneBytes]
  rfl

/-! The traces of loads. -/

/-- Fills of an L1 keep every byte. -/
structure Traced (s t : State) : Prop where
  frame : t = { s with l1 := t.l1, crews := t.crews, ocache := t.ocache }
  bytes : ∀ c a, tileByte t c a = tileByte s c a

theorem traced_filled {s t : State} (h : Filled s t) : Traced s t where
  frame := by
    have e := h.only
    simp only [Only, State.withParts, List.mem_cons, List.not_mem_nil, or_false, reduceCtorEq, or_true, or_self, if_true, if_false] at e
    exact e
  bytes := h.bytes.tileByte_eq

theorem Traced.trans {s t u : State} (h : Traced s t) (g : Traced t u) : Traced s u where
  frame := by
    rw [g.frame, h.frame]
  bytes := fun c a => (g.bytes c a).trans (h.bytes c a)

theorem mem_l1Drops {core : Nat} {as : List LaneAcc} {a : Act} (h : a ∈ (as.flatMap (fun a => match a.loc with
      | .win c id sec pa _ => [Act.crew c (.touch id sec false), Act.l1dropSec core (sectorOf pa)]
      | _ => [])).eraseDups) : (∃ c id sec, a = .crew c (.touch id sec false)) ∨ ∃ core sec, a = .l1dropSec core sec := by
  obtain ⟨b, -, ha⟩ := List.mem_flatMap.mp (List.mem_eraseDups.mp h)
  split at ha
  · simp only [List.mem_cons, List.not_mem_nil, or_false] at ha
    exact ha.imp (fun e => ⟨_, _, _, e⟩) (fun e => ⟨_, _, e⟩)
  · cases ha

theorem traced_loadTraces (s s0 : State) (core : Nat) (as : List LaneAcc) : Traced s0 (run s0 (loadTraces s core as)) := by
  unfold loadTraces
  rw [run_append]
  refine Traced.trans ?_ (traced_filled (filled_run _ _ (fun a ha => mem_l1Drops ha)))
  split
  · exact ⟨rfl, fun _ _ => rfl⟩
  · exact ⟨rfl, fun _ _ => rfl⟩

/-! The word. -/

section Loads
variable {s : State} {w : Issuer} {h : Herd} {hd : Header} {nib : BitVec 4} {x : FM}

theorem exec_ld (hi : Issues s w h) (hm : MemHeader h hd nib.toNat x) (hal : x.d.toNat % regCount x.wid.toNat = 0)
    (hreg : x.d.toNat + regCount x.wid.toNat ≤ h.nregs) (hvo : x.vo.toNat < h.nregs) (ha : activeLanes h w.f hd ≠ []) :
    exec (.ld hd nib x) s = .next (run s ((issueCtx w h hd).finish s
      (accessRes (.ld hd nib x) true x nib.toNat [x.vo.toNat] (issueCtx w h hd) s))) :=
  issue_legal hi hm.1 ha _ (legalGen_none hm _ (List.forall_mem_append.mpr
    ⟨regUses_causes (regCount_pos _) hal hreg hvo, fmGenUses_causes hm⟩)) _

/-- Whether the turn posts the accesses of its word, as the statements say it. -/
theorem posts_of_posted {n : Nat} {wr via : Bool} {accs : List LaneAcc} (hp : AccessesPosted s w h n wr via accs) :
    (issueCtx w h hd).posts s accs = true := by
  obtain ⟨hpost, hall⟩ := hp
  exact Bool.and_eq_true_iff.mpr ⟨hpost, List.all_eq_true.mpr (fun a ha => (hall a ha).2.2)⟩

theorem posts_of_now {accs : List LaneAcc} (hp : PerformsNow s w accs) : (issueCtx w h hd).posts s accs = false := by
  obtain hpost | ⟨a, ha, hn⟩ := hp
  · exact Bool.and_eq_false_iff.mpr (.inl hpost)
  · exact Bool.and_eq_false_iff.mpr (.inr (List.all_eq_false.mpr ⟨a, ha, by simp [hn]⟩))

/-- What `AccessesOk` says of each access, apart. -/
theorem accessesOk_parts {n : Nat} {wr rd via : Bool} {accs : List LaneAcc} (hok : AccessesOk s w h n wr rd via accs) :
    (∀ a ∈ accs, a.flt = none) ∧ (∀ a ∈ accs, a.remote = false) ∧ (∀ a ∈ accs, locHeld s h.key h.core n wr via a.loc = false) ∧
      (∀ a ∈ accs, behindPosted s.posted h.key (furMask (h.group w.f)) n wr a.loc = false) ∧
      (rd = true → ∀ a ∈ accs, poisoned s h.core via a.loc = false) := by
  refine ⟨fun a ha => (hok a ha).1, fun a ha => (hok a ha).2.1, fun a ha => ?_, fun a ha => ?_, fun hr a ha => (hok a ha).2.2.2 hr⟩
  · obtain ⟨-, -, hw, -⟩ := hok a ha
    exact (Bool.or_eq_false_iff.mp hw).1
  · obtain ⟨-, -, hw, -⟩ := hok a ha
    exact (Bool.or_eq_false_iff.mp hw).2

/-- What `AccessesPosted` says of each access, apart. -/
theorem posted_parts {n : Nat} {wr via : Bool} {accs : List LaneAcc} (hp : AccessesPosted s w h n wr via accs) :
    (∀ a ∈ accs, a.flt = none) ∧ (∀ a ∈ accs, a.remote = false) ∧ (∀ a ∈ accs, locHeld s h.key h.core n wr via a.loc = false) ∧
      ∀ a ∈ accs, poisoned s h.core via a.loc = false := by
  obtain ⟨-, hall⟩ := hp
  exact ⟨fun a ha => (hall a ha).1, fun a ha => not_remote_of_postable (hall a ha).2.2, fun a ha => (hall a ha).2.1,
    fun a ha => not_poisoned_of_postable (hall a ha).2.2 _ _⟩

/-- R255: the parts that a posted word appends, as the statements write them. -/
theorem postedParts_eq (hk : h.key = w.key) (ha : activeLanes h w.f hd ≠ []) (reads : Bool) (d wid nib : Nat) (uni : Bool)
    (as : List LaneAcc) : postedParts (issueCtx w h hd) reads d wid nib (if uni then activeLanes h w.f hd else []) as =
      as.flatMap (fun a => (List.range (regCount wid)).map (fun j => postedOf w h (a.loc.shift (4 * j)) (min wid 2)
        (if reads then .load (d + j) nib else .store (((leBytes (2 ^ wid) (operandOf h d wid a.lane).toNat).drop (4 * j)).take 4))
        (if uni then activeLanes h w.f hd else [a.lane]))) := by
  have hall (a : LaneAcc) : (if (if uni then activeLanes h w.f hd else []).isEmpty then [a.lane] else
      (if uni then activeLanes h w.f hd else [])) = if uni then activeLanes h w.f hd else [a.lane] := by
    cases uni with
    | true => simp [ha]
    | false => rfl
  simp only [postedParts, hall, postedOf, hk]
  rfl

theorem loadsIssue : Sys2Proof.LoadsIssue := by
  intro s w h hd nib x accs word p hi hm hal hreg hvo ha hacc hword hp href
  have hk := herd?_key hi.herd
  have hexec := exec_ld hi hm hal hreg hvo ha
  have hsited : Sited (siteOf (.ld hd nib x) (issueCtx w h hd) true [x.vo.toNat] (memEa (issueCtx w h hd) x)) p word := by
    rw [hp]
    exact sited_siteOf hword _ _ _
  refine ⟨fun hnow hok => ?_, fun hposted => ?_⟩
  · obtain ⟨hflt, hloc, hheld, hbehind, hpois⟩ := accessesOk_parts hok
    have hbad : (didAccs p accs).find? (fun a => poisoned s h.core true a.loc) = none :=
      List.find?_eq_none.mpr (fun a ha => by simp [hpois rfl a (mem_didAccs ha)])
    have hres := accessRes_local (reads := true) (srcs := [x.vo.toNat]) hacc rfl hp href hflt hloc hheld (fun _ => hbehind) hk
    simp only [if_true, hbad, posts_of_now (hd := hd) (h := h) hnow, Bool.false_eq_true, if_false] at hres
    have hlook := run_look (xlateActs accs) (counted s h) (fun a ha => mem_xlateActs ha)
    have htr := traced_loadTraces s (run (counted s h) (xlateActs accs)) h.core (didAccs p accs)
    obtain ⟨s1, hs1⟩ : ∃ s1, run (run (counted s h) (xlateActs accs)) (loadTraces s h.core (didAccs p accs)) = s1 := ⟨_, rfl⟩
    rw [hs1] at htr
    obtain ⟨t, ht, hframe, hdone⟩ := run_finish_plan (hd := hd) hi hsited
      (l := xlateActs accs ++ accEffect w h hd s true x p accs) (accHerd w h hd s true x p accs) (s1 := s1)
      (by rw [run_append]; exact hs1) (by rw [htr.frame, hlook]; rfl) (by rw [htr.frame, hlook])
    refine ⟨t, _, by rw [hexec, hres, ht], hdone, ?_, fun c a => ?_, ?_⟩
    · rw [hframe, htr.frame, hlook]
      rfl
    · rw [tileByte_congr (s := s1) (t := t) (by rw [hframe]), htr.bytes, tileByte_congr (s := s) (by rw [hlook]; rfl)]
    · have hblock := blockWritten_acts (w := w) (hd := hd) hi.furrows p word x.d.toNat (regCount x.wid.toNat) p.nib
        (fun j l => loadWord p.nib x.wid.toNat (laneBytes s h (2 ^ x.wid.toNat) accs p.uni l) j)
      rwa [← accHerd_loads] at hblock
  · obtain ⟨hflt, hloc, hheld, hpois⟩ := posted_parts hposted
    have hbad : (didAccs p accs).find? (fun a => poisoned s h.core true a.loc) = none :=
      List.find?_eq_none.mpr (fun a ha => by simp [hpois a (mem_didAccs ha)])
    have hposts := posts_of_posted (hd := hd) hposted
    have hres := accessRes_local (reads := true) (srcs := [x.vo.toNat]) hacc rfl hp href hflt hloc hheld
      (fun hn => absurd (hposts.symm.trans hn) (by decide)) hk
    simp only [if_true, hbad, hposts] at hres
    obtain ⟨t, h', ht, hdone⟩ := run_finish_posted (hd := hd) hi hsited accs (postedParts (issueCtx w h hd) true x.d.toNat
      x.wid.toNat p.nib (if p.uni then activeLanes h w.f hd else []) (didAccs p accs))
    refine ⟨t, h', by rw [hexec, hres, ht], ?_⟩
    rw [postedParts_eq hk ha] at hdone
    exact hdone

end Loads

/-- The lanes and tags that a posted load writes. -/
theorem loadWrites_posted {wid : Nat} (hw : wid ≤ 2) (reg nib : Nat) (ls : List Nat) (a : Nat) (v : BitVec 128) :
    loadWrites reg wid nib ls [(a, v)] true = blockActs reg 1 ls nib (fun j _ => loadWord nib wid v j) := by
  have hcount : regCount wid = 1 := by
    rw [regCount, if_neg (by omega), if_neg (by omega)]
  rw [loadWrites_eq, hcount]
  simp [obtained, assocGet]

theorem postedLoadsPerform : Sys2Proof.PostedLoadsPerform := by
  intro s i reg nib p h hp hop hwid hh hlanes
  have hact : outsideActs (.perform i) s = performActs i s := rfl
  rw [hact]
  refine ⟨fun hw => by rw [performActs_waits hp hw, run_nil], fun hw => ?_⟩
  obtain ⟨word, hword⟩ : ∃ v, BitVec.ofNat 128 (leNat (readLoc s p.core (2 ^ p.wid) true p.loc)) = v := ⟨_, rfl⟩
  have heff : p.effect s = loadTraces s p.core [p.acc] ++ herdActs p.key (blockActs reg 1 p.lanes nib (fun j _ => loadWord nib p.wid word j)) := by
    rw [← loadWrites_posted hwid, ← hword]
    simp only [Posted.effect, hop]
    rfl
  have htr := traced_loadTraces s s p.core [p.acc]
  obtain ⟨s1, hs1⟩ : ∃ s1, run s (loadTraces s p.core [p.acc]) = s1 := ⟨_, rfl⟩
  rw [hs1] at htr
  have hh1 (k : HerdKey) : s1.herd? k = s.herd? k := by rw [htr.frame]; rfl
  obtain ⟨hself, hother⟩ := oneHerd_herdActs ((hh1 p.key).trans hh) (blockActs reg 1 p.lanes nib (fun j _ => loadWord nib p.wid word j))
  obtain ⟨hv, ht⟩ := read_blockActs reg hlanes nib (fun j _ => loadWord nib p.wid word j) h 1
  rw [performActs_performs hp hw, heff, run_append, run_append, hs1, hword, run_cons, run_nil]
  rw [run_herdActs] at hself hother ⊢
  refine ⟨_, _, rfl, ?_, fun c a => ?_, hself, fun k hk => (hother k hk).trans (hh1 k), fun l hl => ?_, fun n l hl hn => ?_, fun n => ?_,
    acts_lanes _ h blockActs_lanes⟩
  · rw [htr.frame]
    rfl
  · exact htr.bytes c a
  · rw [hv _ _ (hlanes l hl), if_pos ⟨by omega, by omega, hl⟩, Nat.sub_self]
  · rw [hv _ _ hl, if_neg]
    rintro ⟨h1, h2, h3⟩
    exact hn ⟨by omega, h3⟩
  · rw [ht]
    exact if_congr (by omega) rfl rfl

/-- Settles O26: at its turn a load writes what its locations hold, which the traces that it leaves do not change; posted, it appends its
parts, and each writes when it is performed. -/
theorem loadsComplete : Obligations.LoadsComplete := ⟨loadsIssue, postedLoadsPerform⟩

end Sys2Proof.Machine
end

section
/-! SUPPORT. Stores: the bytes that they write, one store in the place of several of the same bytes, the parts of an operand, and their
completion, at their turn and posted (R102, R228 to R230, R257). -/
namespace Sys2Proof.Machine

/-! What stores change. -/

theorem stores_storeActs (c : Ctx) (s u : State) (d wid : Nat) (as : List LaneAcc) :
    Stores u (run u (storeActs c s d wid as)) (as.map (fun a => (a.loc, leBytes (2 ^ wid) (operandOf c.h d wid a.lane).toNat))) := by
  have e : as.flatMap (fun a => writeLoc c.core (leBytes (2 ^ wid) (operandOf c.h d wid a.lane).toNat) a.loc) =
      (as.map (fun a => (a.loc, leBytes (2 ^ wid) (operandOf c.h d wid a.lane).toNat))).flatMap (fun p => writeLoc c.core p.2 p.1) := by
    rw [List.flatMap_map]
  rw [storeActs, run_append, e]
  simpa using (stores_writeLocs c.core _ u).trans (stores_healed s _ _)

theorem only_storeActs (c : Ctx) (s u : State) (d wid : Nat) (as : List LaneAcc) : Only storeParts u (run u (storeActs c s d wid as)) :=
  only_run (by decide) (within_append (within_flatMap (fun _ _ => (within_writeLoc _ _ _).mono (by decide)))
    ((within_healed _ _).mono (by decide))) u

/-- Only the parts that stores change, as one equation. -/
theorem only_storeParts {s t : State} (h : Only storeParts s t) :
    t = { s with hbm := t.hbm, hbmErr := t.hbmErr, crews := t.crews, ocache := t.ocache, l1 := t.l1 } := by
  simp only [Only, State.withParts, storeParts, List.mem_cons, List.not_mem_nil, or_false, reduceCtorEq, or_true, or_self, if_true,
    if_false] at h
  exact h

/-! One store in the place of several of the same bytes. -/

theorem lastStore_replicate {α : Type} (g : α → Option (Nat × List Byte)) (q : α) (a : Nat) (old : Byte) : ∀ n,
    lastStore ((List.replicate (n + 1) q).filterMap g) a old = lastStore ([q].filterMap g) a old
  | 0 => rfl
  | n + 1 => by
    have hsplit : List.replicate (n + 2) q = [q] ++ List.replicate (n + 1) q := rfl
    rw [hsplit, List.filterMap_append, lastStore_append, lastStore_replicate g q a _ n]
    cases hg : g q with
    | none => simp [hg, lastStore]
    | some r =>
      simp only [List.filterMap_cons, hg, List.filterMap_nil, lastStore, List.foldl_cons, List.foldl_nil]
      split <;> rfl

theorem stored_replicate {s t : State} {q : Loc × List Byte} (h : Stored s t [q]) (n : Nat) : Stored s t (List.replicate (n + 1) q) := by
  obtain ⟨hmem, htile⟩ := h
  refine ⟨fun a => (hmem a).trans (lastStore_replicate _ q a _ n).symm, fun c a => ?_⟩
  rw [htile]
  exact if_congr Iff.rfl (lastStore_replicate _ q a _ n).symm rfl

/-! The parts of an operand. -/

theorem take_drop_leBytes (k m r v : Nat) : ((leBytes (k + (m + r)) v).drop k).take m = leBytes m (v / 256 ^ k) := by
  rw [leBytes_add, List.drop_left' (length_leBytes k v), leBytes_add, List.take_left' (length_leBytes m _)]

theorem leBytes_congr : ∀ {n v u : Nat}, v % 256 ^ n = u % 256 ^ n → leBytes n v = leBytes n u
  | 0, _, _, _ => rfl
  | n + 1, v, u, h => by
    rw [pow_succ', Nat.mod_mul, Nat.mod_mul] at h
    have h0 : v % 256 = u % 256 := by omega
    have h1 : v / 256 % 256 ^ n = u / 256 % 256 ^ n := by omega
    rw [leBytes, leBytes, leBytes_congr h1]
    congr 1
    exact BitVec.eq_of_toNat_eq (by simpa using h0)

/-- The digits of a sum of digits times powers of their base. -/
theorem digits_sum {b : Nat} (f : Nat → Nat) (hf : ∀ j, f j < b) : ∀ k,
    ((List.range k).map (fun j => f j * b ^ j)).sum < b ^ k ∧
      ∀ j < k, ((List.range k).map (fun j => f j * b ^ j)).sum / b ^ j % b = f j
  | 0 => ⟨by simp, fun j hj => absurd hj (Nat.not_lt_zero j)⟩
  | k + 1 => by
    obtain ⟨hlt, hdig⟩ := digits_sum f hf k
    have hb : 0 < b := Nat.zero_lt_of_lt (hf 0)
    simp only [List.range_succ, List.map_append, List.map_cons, List.map_nil, List.sum_append, List.sum_cons, List.sum_nil, Nat.add_zero]
    refine ⟨?_, fun j hj => ?_⟩
    · calc _ < b ^ k + f k * b ^ k := Nat.add_lt_add_right hlt _
        _ = (f k + 1) * b ^ k := by rw [Nat.succ_mul, Nat.add_comm]
        _ ≤ b * b ^ k := Nat.mul_le_mul_right _ (hf k)
        _ = b ^ (k + 1) := (pow_succ' b k).symm
    · obtain hjk | rfl := Nat.lt_succ_iff_lt_or_eq.mp hj
      · have hpow : f k * b ^ k = f k * b ^ (k - j - 1) * b * b ^ j := by
          rw [Nat.mul_assoc, Nat.mul_assoc, ← pow_succ', ← pow_add]
          congr 2
          omega
        rw [hpow, Nat.add_mul_div_right _ _ (Nat.pow_pos hb), Nat.add_mul_mod_self_right, hdig j hjk]
      · rw [Nat.add_mul_div_right _ _ (Nat.pow_pos hb), Nat.div_eq_of_lt hlt, Nat.zero_add, Nat.mod_eq_of_lt (hf j)]

/-- R228: register D + j stands at bits 32j of an operand. -/
theorem operandOf_word (h : Herd) (d l : Nat) {wid j : Nat} (hj : j < regCount wid) :
    (operandOf h d wid l).toNat / 256 ^ (4 * j) % 256 ^ 4 = (h.vreg (d + j) l).toNat := by
  have hcount : regCount wid ≤ 4 := by
    unfold regCount
    split <;> [skip; split] <;> decide
  have hbase (j : Nat) : 2 ^ (32 * j) = (2 ^ 32) ^ j := pow_mul 2 32 j
  obtain ⟨hlt, hdig⟩ := digits_sum (fun j => (h.vreg (d + j) l).toNat) (fun j => (h.vreg (d + j) l).isLt) (regCount wid)
  have hfits : (2 ^ 32) ^ regCount wid ≤ 2 ^ 128 := by
    rw [← pow_mul]
    exact Nat.pow_le_pow_right (by decide) (by omega)
  have h256 : 256 ^ (4 * j) = (2 ^ 32) ^ j := by rw [pow_mul]; rfl
  have h4 : 256 ^ 4 = 2 ^ 32 := by decide
  rw [operandOf, BitVec.toNat_ofNat, h256, h4]
  simp only [hbase]
  rw [Nat.mod_eq_of_lt (Nat.lt_of_lt_of_le hlt hfits)]
  exact hdig j hj

/-- R255: the bytes of a part of a store are those of its register. -/
theorem part_operandOf (h : Herd) (d l : Nat) {wid j : Nat} (hw : wid < 5) (hj : j < regCount wid) :
    ((leBytes (2 ^ wid) (operandOf h d wid l).toNat).drop (4 * j)).take 4 =
      leBytes (2 ^ min wid 2) (operandOf h (d + j) (min wid 2) l).toNat := by
  by_cases hle : wid ≤ 2
  · have hc : regCount wid = 1 := by rw [regCount, if_neg (by omega), if_neg (by omega)]
    obtain rfl : j = 0 := by omega
    have hlen : 2 ^ wid ≤ 4 := Nat.pow_le_pow_right (n := 2) (by decide) hle
    rw [Nat.min_eq_left hle, Nat.mul_zero, List.drop_zero, List.take_of_length_le (by rw [length_leBytes]; exact hlen), Nat.add_zero]
  · have hsize : 2 ^ wid = 4 * j + (4 + (2 ^ wid - 4 - 4 * j)) := by
      obtain rfl | rfl : wid = 3 ∨ wid = 4 := by omega
      · have hj : j < 2 := hj
        omega
      · have hj : j < 4 := hj
        omega
    have h2 := operandOf_word h (d + j) l (wid := 2) (j := 0) (by decide)
    rw [Nat.min_eq_right (by omega), hsize, take_drop_leBytes]
    refine leBytes_congr ?_
    rw [operandOf_word h d l hj, ← Nat.add_zero (d + j), ← h2]
    simp

/-! The accesses of a word that makes one for its lanes. -/

theorem checkLane_loc (s : State) (h : Herd) (kind : AKind) (n : Nat) (spc : Option Nat) (l m : Nat) (a : Word) :
    (checkLane s h kind n spc l a).loc = (checkLane s h kind n spc m a).loc := by
  obtain ⟨b, hb⟩ : ∃ b, checkLane s h kind n spc m a = b := ⟨_, rfl⟩
  rw [hb]
  unfold checkLane at hb ⊢
  simp only at hb ⊢
  repeat' split
  all_goals simp_all
  all_goals rw [← hb]

/-- R272, R277: a site settles one access only where its operands have one value. -/
theorem oneValue_of_uni {i : Instr} {c : Ctx} {srcs : List Nat} {addr : Nat → Word} {nib : Nat} {u : Bool} {fmts : List Nat}
    (hss : c.hdr.ss ≠ 0#2) (hu : (planOf (siteOf i c true srcs addr) nib u fmts).uni = true) : oneValue c srcs = true := by
  simp only [siteOf, if_neg hss, planOf, sitePlan] at hu
  split at hu
  · split at hu
    · exact (Bool.and_eq_true_iff.mp hu).2
    · cases hu
  · split at hu
    · split at hu
      · next hguard =>
        have hone := (Bool.and_eq_true_iff.mp hguard).2
        have hbit : BitVec.getLsbD ((encode i).getD 0) 48 = true := hu
        rwa [hbit] at hone
      · cases hu
    · cases hu

/-- R229: the lanes of a word that makes one access have one location, and one value of each operand. -/
theorem uni_accs {i : Instr} {w : Issuer} {h : Herd} {hd : Header} {s : State} {kind : AKind} {x : FM} {srcs : List Nat} {nib : Nat}
    {fmts : List Nat} (hvo : x.vo.toNat ∈ srcs)
    (hu : (planOf (siteOf i (issueCtx w h hd) true srcs (memEa (issueCtx w h hd) x)) nib hd.u fmts).uni = true) :
    ∃ loc lane, ∀ a ∈ memAccs (issueCtx w h hd) s kind x, a.loc = loc ∧ ∀ r ∈ srcs, h.vreg r a.lane = h.vreg r lane := by
  refine ⟨(checkLane s h kind (2 ^ x.wid.toNat) (fixedSpace hd x) 0 (memEa (issueCtx w h hd) x (issueCtx w h hd).low)).loc,
    (issueCtx w h hd).low, fun a ha => ?_⟩
  obtain ⟨l, hl, rfl⟩ := List.mem_map.mp ha
  rw [checkLane_lane]
  have hval : ∀ r ∈ srcs, h.vreg r l = h.vreg r (issueCtx w h hd).low := by
    by_cases hss : hd.ss = 0#2
    · have hu : hd.u = true := by simpa [siteOf, issueCtx, hss, planOf] using hu
      obtain rfl : l = (issueCtx w h hd).low := by simpa [issueCtx, hss, hu] using hl
      exact fun _ _ => rfl
    · have hone := oneValue_of_uni (c := issueCtx w h hd) hss hu
      have hl : l ∈ (issueCtx w h hd).act := by simpa [issueCtx, hss] using hl
      exact fun r hr => of_decide_eq_true (List.all_eq_true.mp (List.all_eq_true.mp hone r hr) l hl)
  refine ⟨(checkLane_loc s h kind _ _ l 0 _).trans ?_, hval⟩
  have hea : memEa (issueCtx w h hd) x l = memEa (issueCtx w h hd) x (issueCtx w h hd).low := by
    have hv := hval _ hvo
    simp only [memEa, issueCtx] at hv ⊢
    rw [hv]
  rw [hea]
  rfl

/-! The word. -/

section Stores
variable {s : State} {w : Issuer} {h : Herd} {hd : Header} {nib : BitVec 4} {x : FM}

/-- The registers that a store reads. -/
def storeSrcs (x : FM) : List Nat := x.vo.toNat :: (List.range (regCount x.wid.toNat)).map (fun j => x.d.toNat + j)

theorem exec_st (hi : Issues s w h) (hm : MemHeader h hd nib.toNat x) (hal : x.d.toNat % regCount x.wid.toNat = 0)
    (hreg : x.d.toNat + regCount x.wid.toNat ≤ h.nregs) (hvo : x.vo.toNat < h.nregs) (ha : activeLanes h w.f hd ≠ []) :
    exec (.st hd nib x) s = .next (run s ((issueCtx w h hd).finish s
      (accessRes (.st hd nib x) false x nib.toNat (storeSrcs x) (issueCtx w h hd) s))) :=
  issue_legal hi hm.1 ha _ (legalGen_none hm _ (List.forall_mem_append.mpr
    ⟨regUses_causes (regCount_pos _) hal hreg hvo, fmGenUses_causes hm⟩)) _

theorem operandOf_congr {d wid l m : Nat} (hv : ∀ j < regCount wid, h.vreg (d + j) l = h.vreg (d + j) m) :
    operandOf h d wid l = operandOf h d wid m := by
  unfold operandOf
  congr 2
  exact List.map_congr_left (fun j hj => by rw [hv j (List.mem_range.mp hj)])

/-- R228, R229: the stores of the lanes, and with U the one store in their place, leave the same bytes. -/
theorem stored_didAccs {t : State} {p : Plan} {accs : List LaneAcc} (hacc : accs = memAccs (issueCtx w h hd) s .store x)
    (hp : p = planOf (siteOf (.st hd nib x) (issueCtx w h hd) true (storeSrcs x) (memEa (issueCtx w h hd) x)) nib.toNat hd.u
      (accs.map (fun a => a.fmt)))
    (hs : Stored s t ((didAccs p accs).map (fun a => (a.loc, leBytes (2 ^ x.wid.toNat) (operandOf h x.d.toNat x.wid.toNat a.lane).toNat)))) :
    Stored s t (accs.map (fun a => (a.loc, leBytes (2 ^ x.wid.toNat) (operandOf h x.d.toNat x.wid.toNat a.lane).toNat))) := by
  unfold didAccs at hs
  split at hs
  · next hu =>
    rw [hp] at hu
    obtain ⟨loc, lane, hall⟩ := uni_accs (s := s) (kind := .store) (List.mem_cons_self ..) hu
    rw [← hacc] at hall
    have hone : ∀ a ∈ accs, (a.loc, leBytes (2 ^ x.wid.toNat) (operandOf h x.d.toNat x.wid.toNat a.lane).toNat) =
        (loc, leBytes (2 ^ x.wid.toNat) (operandOf h x.d.toNat x.wid.toNat lane).toNat) := fun a ha => by
      obtain ⟨hloc, hval⟩ := hall a ha
      rw [hloc, operandOf_congr (fun j hj => hval _ (List.mem_cons_of_mem _ (List.mem_map_of_mem (List.mem_range.mpr hj))))]
    cases accs with
    | nil => exact hs
    | cons a accs =>
      rw [List.map_congr_left hone, List.map_const', List.length_cons]
      have hs : Stored s t [(a.loc, leBytes (2 ^ x.wid.toNat) (operandOf h x.d.toNat x.wid.toNat a.lane).toNat)] := hs
      rw [hone a (List.mem_cons_self ..)] at hs
      exact stored_replicate hs _
  · exact hs

theorem storesIssue : Sys2Proof.StoresIssue := by
  intro s w h hd nib x accs word srcs p hi hm hal hreg hvo ha hacc hword hsrcs hp href
  obtain rfl : srcs = storeSrcs x := hsrcs
  have hk := herd?_key hi.herd
  have hexec := exec_st hi hm hal hreg hvo ha
  have hsited : Sited (siteOf (.st hd nib x) (issueCtx w h hd) true (storeSrcs x) (memEa (issueCtx w h hd) x)) p word := by
    rw [hp]
    exact sited_siteOf hword _ _ _
  refine ⟨fun hnow hok => ?_, fun hposted => ?_⟩
  · obtain ⟨hflt, hloc, hheld, hbehind, -⟩ := accessesOk_parts hok
    have hres := accessRes_local (reads := false) (srcs := storeSrcs x) hacc rfl hp href hflt hloc hheld (fun _ => hbehind) hk
    simp only [Bool.false_eq_true, if_false, posts_of_now (hd := hd) (h := h) hnow] at hres
    have hlook := run_look (xlateActs accs) (counted s h) (fun a ha => mem_xlateActs ha)
    obtain ⟨acts, hacts⟩ : ∃ acts, storeActs (issueCtx w h hd) s x.d.toNat x.wid.toNat (didAccs p accs) = acts := ⟨_, rfl⟩
    have honly := only_storeParts (only_storeActs (issueCtx w h hd) s (run (counted s h) (xlateActs accs)) x.d.toNat x.wid.toNat (didAccs p accs))
    have hstores := stores_storeActs (issueCtx w h hd) s (run (counted s h) (xlateActs accs)) x.d.toNat x.wid.toNat (didAccs p accs)
    rw [hacts] at honly hstores
    obtain ⟨s1, hs1⟩ : ∃ s1, run (run (counted s h) (xlateActs accs)) acts = s1 := ⟨_, rfl⟩
    rw [hs1] at honly hstores
    obtain ⟨t, ht, hframe, hdone⟩ := run_finish_plan (hd := hd) hi hsited
      (l := xlateActs accs ++ accEffect w h hd s false x p accs) (accHerd w h hd s false x p accs) (s1 := s1)
      (by rw [run_append, ← hs1, ← hacts]; rfl) (by rw [honly, hlook]; rfl) (by rw [honly, hlook])
    obtain ⟨hadv, hrest⟩ := acts_planMoves w h p word
    refine ⟨t, _, by rw [hexec, hres, ht], hdone, ?_, stored_didAccs hacc hp ?_, hadv, hrest⟩
    · rw [hframe, honly, hlook]
      rfl
    · have hlooked : Stores s (run (counted s h) (xlateActs accs)) [] := stores_same (by rw [hlook]; rfl) (by rw [hlook]; rfl)
      have hend : Stores s1 t [] := stores_same (by rw [hframe]) (by rw [hframe])
      obtain ⟨hstored, -⟩ := (hlooked.trans hstores).trans hend
      rwa [List.nil_append, List.append_nil] at hstored
  · obtain ⟨hflt, hloc, hheld, -⟩ := posted_parts hposted
    have hposts := posts_of_posted (hd := hd) hposted
    have hres := accessRes_local (reads := false) (srcs := storeSrcs x) hacc rfl hp href hflt hloc hheld
      (fun hn => absurd (hposts.symm.trans hn) (by decide)) hk
    simp only [Bool.false_eq_true, if_false, hposts, if_true] at hres
    obtain ⟨t, h', ht, hdone⟩ := run_finish_posted (hd := hd) hi hsited accs (postedParts (issueCtx w h hd) false x.d.toNat
      x.wid.toNat p.nib (if p.uni then activeLanes h w.f hd else []) (didAccs p accs))
    refine ⟨t, h', by rw [hexec, hres, ht], ?_⟩
    rw [postedParts_eq hk ha] at hdone
    obtain ⟨-, hwid, -⟩ := hm
    have hpart (a : LaneAcc) : (List.range (regCount x.wid.toNat)).map (fun j => postedOf w h (a.loc.shift (4 * j)) (min x.wid.toNat 2)
          (.store (((leBytes (2 ^ x.wid.toNat) (operandOf h x.d.toNat x.wid.toNat a.lane).toNat).drop (4 * j)).take 4))
          (if p.uni then activeLanes h w.f hd else [a.lane])) =
        (List.range (regCount x.wid.toNat)).map (fun j => postedOf w h (a.loc.shift (4 * j)) (min x.wid.toNat 2)
          (.store (leBytes (2 ^ min x.wid.toNat 2) (operandOf h (x.d.toNat + j) (min x.wid.toNat 2) a.lane).toNat))
          (if p.uni then activeLanes h w.f hd else [a.lane])) :=
      List.map_congr_left (fun j hj => by rw [part_operandOf h x.d.toNat a.lane hwid (List.mem_range.mp hj)])
    simp only [Bool.false_eq_true, if_false, hpart] at hdone
    exact hdone

end Stores

theorem postedStoresPerform : Sys2Proof.PostedStoresPerform := by
  intro s i p bs hp hop
  have hact : outsideActs (.perform i) s = performActs i s := rfl
  rw [hact]
  refine ⟨fun hw => by rw [performActs_waits hp hw, run_nil], fun hw => ⟨_, rfl, ?_⟩⟩
  have heff : p.effect s = writeLoc p.core bs p.loc := by simp only [Posted.effect, hop]
  have honly := only_run (by decide) (within_writeLoc p.core bs p.loc) s
  simp only [Only, State.withParts, List.mem_cons, List.not_mem_nil, or_false, reduceCtorEq, or_true, or_self, if_true, if_false] at honly
  rw [performActs_performs hp hw, heff, run_append, run_cons, run_nil]
  have hend : Stores (run s (writeLoc p.core bs p.loc)) ((run s (writeLoc p.core bs p.loc)).act (.posted (s.posted.eraseIdx i))) [] :=
    stores_same (by simp) (by simp)
  obtain ⟨hstored, -⟩ := (stores_writeLoc s p.core bs p.loc).trans hend
  refine ⟨by simpa using hstored, ?_⟩
  rw [honly]
  rfl

/-- Settles O27: at its turn a store writes its lanes' operands in their order, with U the one that stands for them all; posted, it appends
its parts, and each writes when it is performed. -/
theorem storesComplete : Obligations.StoresComplete := ⟨storesIssue, postedStoresPerform⟩

end Sys2Proof.Machine
end

section
/-! SUPPORT. The faults of loads, stores, atomics and reductions, and the uncorrectable errors that their reads meet (R103, R118, R120,
R226, R232 to R238, R271, R274). -/
namespace Sys2Proof.Machine

/-! What a site's compare-and-swap changes (R274). -/

theorem within_casActs (s : State) (core pa : Nat) (old new : Word) (widen : Bool) :
    Within [.hbm, .crews, .ocache, .coreRegs] (casActs s core pa old new widen) := by
  unfold casActs
  split <;> simp [Within, Act.parts, bumpCore]

theorem casActs_hbm (s u : State) (core pa : Nat) (old new : Word) (widen : Bool) (hu : u.hbm = s.hbm) :
    (run u (casActs s core pa old new widen)).hbm = if s.hbm.num pa 8 = old.toNat then s.hbm.put pa (leBytes 8 new.toNat) else s.hbm := by
  unfold casActs
  split <;> simp [bumpCore, hu]

theorem num_put_word (m : Memory) (a : Nat) (x : Word) : (m.put a (leBytes 8 x.toNat)).num a 8 = x.toNat := by
  have h := Memory.bytes_put m a (leBytes 8 x.toNat)
  rw [length_leBytes] at h
  rw [Memory.num, h, leNat_leBytes]
  exact Nat.mod_eq_of_lt x.isLt

theorem run_casActs (s : State) (h : Herd) (pa : Nat) (old new : Word) (widen : Bool) :
    ∃ u, run (counted s h) (casActs s h.core pa old new widen) = u ∧
      u = { s with coreRegs := u.coreRegs, hbm := u.hbm, crews := u.crews, ocache := u.ocache } ∧
      u.hbm = if s.hbm.num pa 8 = old.toNat then s.hbm.put pa (leBytes 8 new.toNat) else s.hbm := by
  have honly := only_run (by decide) (within_casActs s h.core pa old new widen) (counted s h)
  simp only [Only, State.withParts, List.mem_cons, List.not_mem_nil, or_false, reduceCtorEq, or_true, or_self, if_true, if_false] at honly
  exact ⟨_, rfl, honly, casActs_hbm s (counted s h) h.core pa old new widen rfl⟩

/-! A read that meets an uncorrectable error. -/

section Poison
variable {i : Instr} {s : State} {w : Issuer} {h : Herd} {hd : Header} {t : Option Site} {p : Plan} {word : Word}

theorem withPlan_of_none (hrw : p.rw = none) (c : Ctx) (r : Res) : withPlan c s t p r = r := by
  unfold withPlan
  rw [hrw]
  split <;> simp_all

theorem withPlan_trap (hs : Sited t p word) {new : Word} {widen : Bool} (hrw : p.rw = some (new, widen)) (hown : lineOwned s w.pa 8 = false)
    (q : TrapReq) (pre : List Act) : withPlan (issueCtx w h hd) s t p (.trap q pre) =
      .trap q (casActs s h.core w.pa word new widen ++ pre) := by
  cases ht : t with
  | none => exact absurd (hs.native ht) (by simp [hrw])
  | some u =>
    obtain rfl := hs.word u ht
    have hown : lineOwned s (issueCtx w h hd).pa 8 = false := hown
    simp only [withPlan, hrw, withRewrite, hown, Bool.false_eq_true, if_false]
    rfl

/-- R232, R271: a word that traps on an error has rewritten its site, if it settles it, and nothing else. -/
theorem poisonTraps {viaL1 : Bool} {did accs : List LaneAcc} {r : Res} (hi : Issues s w h) (hs : Sited t p word)
    (he : exec i s = .next (run s ((issueCtx w h hd).finish s r)))
    (hr : ∀ a, did.find? (fun a => poisoned s h.core viaL1 a.loc) = some a →
      r = withPlan (issueCtx w h hd) s t p (.trap (trapAt 2 10 a.lane a.addr) (xlateActs accs))) :
    PoisonTraps i s w h viaL1 did word p := by
  intro a hf hfree hown
  have hxl := fun b (hb : b ∈ xlateActs accs) => mem_xlateActs (l := accs) hb
  cases hrw : p.rw with
  | none =>
    obtain ⟨t0, ht0, hframe⟩ := run_finish_trapLooked hi hd (trapAt 2 10 a.lane a.addr) hxl (Nat.succ_ne_zero 1) hfree
    refine ⟨t0, by rw [he, hr a hf, withPlan_of_none hrw, ht0]; rfl, by rw [hframe]; rfl, fun _ => hframe, fun r hr => nomatch hr⟩
  | some q =>
    obtain ⟨new, widen⟩ := q
    have hown := hown (by rw [hrw]; rfl)
    obtain ⟨u, hu, hframe, hhbm⟩ := run_casActs s h w.pa word new widen
    have hlook := run_look (xlateActs accs) u hxl
    obtain ⟨t0, ht0⟩ : ∃ t0, run u (xlateActs accs) = t0 := ⟨_, rfl⟩
    rw [ht0] at hlook
    have hrun : run (counted s h) (casActs s h.core w.pa word new widen ++ xlateActs accs) = t0 := by
      rw [run_append, hu, ht0]
    have hherds : t0.herds = s.herds := by rw [hlook, hframe]
    have hmem : t0.hbm = if s.hbm.num w.pa 8 = word.toNat then s.hbm.put w.pa (leBytes 8 new.toNat) else s.hbm := by rw [hlook, hhbm]
    refine ⟨t0, ?_, hherds, fun hn => (nomatch hn), fun r hr => ?_⟩
    · rw [he, hr a hf, withPlan_trap hs hrw hown,
        run_finish_trapAfter hi hd (trapAt 2 10 a.lane a.addr) (by rw [hrun]; exact hherds) (Nat.succ_ne_zero 1) hfree, hrun]
      rfl
    · obtain rfl := Option.some.inj hr
      refine ⟨?_, fun q hq => ?_, fun hn => ?_, fun hn => ?_⟩
      · rw [hlook, hframe]
      · rw [hmem]
        split
        · exact Memory.byte_put_of_lt _ _ _ _ (by rwa [length_leBytes])
        · rfl
      · rw [hmem, if_pos hn, num_put_word]
      · rw [hmem, if_neg hn]

end Poison

/-! The words. -/

theorem loadsAndStoresFault : Sys2Proof.LoadsAndStoresFault := by
  intro s w h hd nib x accs hi hm hal hreg hvo ha
  have hk := herd?_key hi.herd
  refine ⟨fun hacc => ?_, fun hacc => ⟨?_, fun word p hword hok hp href => ?_⟩⟩
  · exact faultsOver hi (hacc ▸ pairwise_memAccs w h hd s .store x) (exec_st hi hm hal hreg hvo ha)
      (fun q hq => accessRes_fault (reads := false) hacc hq)
  · exact faultsOver hi (hacc ▸ pairwise_memAccs w h hd s .load x) (exec_ld hi hm hal hreg hvo ha)
      (fun q hq => accessRes_fault (reads := true) hacc hq)
  · obtain ⟨hflt, hloc, hheld, hbehind, -⟩ := accessesOk_parts hok
    have hsited : Sited (siteOf (.ld hd nib x) (issueCtx w h hd) true [x.vo.toNat] (memEa (issueCtx w h hd) x)) p word := by
      rw [hp]
      exact sited_siteOf hword _ _ _
    refine poisonTraps (accs := accs) hi hsited (exec_ld hi hm hal hreg hvo ha) (fun a hf => ?_)
    have hres := accessRes_local (reads := true) (srcs := [x.vo.toNat]) hacc rfl hp href hflt hloc hheld (fun _ => hbehind) hk
    have hf : (didAccs p accs).find? (fun a => poisoned s h.core true a.loc) = some a := hf
    simpa only [if_true, hf] using hres

section Atomics
variable {s : State} {w : Issuer} {h : Herd} {hd : Header} {x : FM}

theorem exec_eq_atomic : ∀ e ∈ atomics, ∀ hd x s, exec (e.1 hd x) s = atomic (e.1 hd x) e.2.1 e.2.2 hd x s := by
  intro e he hd x s
  fin_cases he <;> rfl

theorem exec_atomics {e : (Header → FM → Instr) × AtomOp × Bool} (he : e ∈ atomics) (hi : Issues s w h) (hm : MemHeader h hd 0 x)
    (hwid : x.wid = 2#3) (hal : x.d.toNat % atomRegs e.2.1 = 0) (hreg : x.d.toNat + atomRegs e.2.1 ≤ h.nregs)
    (hvo : x.vo.toNat < h.nregs) (ha : activeLanes h w.f hd ≠ []) :
    exec (e.1 hd x) s = .next (run s ((issueCtx w h hd).finish s (atomRes (e.1 hd x) e.2.1 e.2.2 x (issueCtx w h hd) s))) := by
  have hregs : 1 ≤ atomRegs e.2.1 := by
    unfold atomRegs
    split <;> decide
  have hspc : ∀ u ∈ [Use.cause 7 (x.wid ≠ 2#3), if hd.ss = 0#2 then .cause 7 false else if hd.ss = 2#2 then .cause 5 (x.spc = 7#3)
      else .cause 5 (x.spc ≠ 7#3)], u.causes h = [] := by
    obtain ⟨-, -, hss⟩ := hm
    obtain ⟨hs, -, -⟩ | ⟨hs, -, -, hspc, -⟩ | ⟨hs, -, hspc, -⟩ | ⟨hs, -, -, hspc, -⟩ := hss <;> simp [Use.causes, *]
  rw [exec_eq_atomic e he]
  exact issue_legal hi hm.1 ha _ (legalGen_none hm _ (List.forall_mem_append.mpr ⟨regUses_causes hregs hal hreg hvo, hspc⟩)) _

theorem sited_atomSite {i : Instr} (hword : encode i = some word) : Sited (atomSite i (issueCtx w h hd) x)
    (planOf (atomSite i (issueCtx w h hd) x) 0 hd.u []) word where
  word := fun u hu => by
    obtain ⟨v, hv, rfl⟩ := Option.map_eq_some_iff.mp hu
    exact (sited_siteOf hword 0 hd.u []).word v hv
  native := fun hn => by rw [hn]; rfl

theorem atomRes_fault {i : Instr} {op : AtomOp} {ret : Bool} {accs : List LaneAcc} (hacc : accs = memAccs (issueCtx w h hd) s .atomic x)
    {r : Res} (hf : faultRes accs = some r) : atomRes i op ret x (issueCtx w h hd) s = r := by
  rw [hacc] at hf
  simp only [atomRes, hf]

/-- An atomic a lane of which finds an error. -/
theorem atomRes_poisoned {i : Instr} {op : AtomOp} {ret : Bool} {accs : List LaneAcc} {p : Plan} {a : LaneAcc}
    (hacc : accs = memAccs (issueCtx w h hd) s .atomic x) (hp : p = planOf (atomSite i (issueCtx w h hd) x) 0 hd.u [])
    (hok : AccessesOk s w h 4 true false false accs) (hk : h.key = w.key)
    (hf : (didAccs p accs).find? (fun a => poisoned s h.core false a.loc) = some a) :
    atomRes i op ret x (issueCtx w h hd) s =
      withPlan (issueCtx w h hd) s (atomSite i (issueCtx w h hd) x) p (.trap (trapAt 2 10 a.lane a.addr) (xlateActs accs)) := by
  obtain ⟨hflt, hloc, hheld, hbehind, -⟩ := accessesOk_parts hok
  rw [hk] at hheld hbehind
  obtain ⟨did, hdid⟩ : ∃ did, didAccs p accs = did := ⟨_, rfl⟩
  have hmem : ∀ b ∈ did, b ∈ accs := fun b hb => mem_didAccs (p := p) (hdid ▸ hb)
  have hlocal := (locals_eq (fun b hb => hloc b (hmem b hb))).1
  have hfree : ∀ b ∈ did, locHeld s (issueCtx w h hd).key (issueCtx w h hd).core 4 true false b.loc = false :=
    fun b hb => hheld b (hmem b hb)
  have hfirst : ∀ b ∈ did, behindPosted s.posted (issueCtx w h hd).key (issueCtx w h hd).mask 4 true b.loc = false :=
    fun b hb => hbehind b (hmem b hb)
  have h1 : did.any (fun b => locHeld s (issueCtx w h hd).key (issueCtx w h hd).core 4 true false b.loc) = false :=
    List.any_eq_false.mpr (fun b hb => by simp [hfree b hb])
  have h2 : did.any (fun b => behindPosted s.posted (issueCtx w h hd).key (issueCtx w h hd).mask 4 true b.loc) = false :=
    List.any_eq_false.mpr (fun b hb => by simp [hfirst b hb])
  have hp' : planOf (atomSite i (issueCtx w h hd) x) 0 (issueCtx w h hd).hdr.u [] = p := hp.symm
  rw [hdid] at hf
  have hf : did.find? (fun a => poisoned s (issueCtx w h hd).core false a.loc) = some a := hf
  unfold didAccs at hdid
  simp only [atomRes, ← hacc, faultRes_none hflt, hp', hdid, h1, h2, Bool.and_false, Bool.or_self, Bool.false_eq_true, if_false,
    hlocal, hf]

theorem atomicsFault : Sys2Proof.AtomicsFault := by
  intro e he s w h hd x accs word p hi hm hwid hal hreg hvo ha hacc
  have hexec := exec_atomics he hi hm hwid hal hreg hvo ha
  refine ⟨faultsOver hi (hacc ▸ pairwise_memAccs w h hd s .atomic x) hexec (fun q hq => atomRes_fault hacc hq), fun hword hp hok => ?_⟩
  have hsited : Sited (atomSite (e.1 hd x) (issueCtx w h hd) x) p word := by
    rw [hp]
    exact sited_atomSite hword
  exact poisonTraps hi hsited hexec (fun a hf => atomRes_poisoned hacc hp hok (herd?_key hi.herd) hf)

end Atomics

/-- Settles O29: the fault that a word takes is that of the lowest lane of the first class; a read's error follows the site's rewrite. -/
theorem memoryFaultsTrap : Obligations.MemoryFaultsTrap := ⟨loadsAndStoresFault, atomicsFault⟩

end Sys2Proof.Machine
end

section
/-! SUPPORT. Words and instructions (R125 to R131, R139 to R142): a word is its opcode, its header and the fields of a format, so that
decoding and encoding undo each other, row by row of the opcode table. -/

namespace Sys2Proof

/-! A word from its parts. -/

/-- Neighbouring fields of a word are one field. -/
theorem append_extract (w : Word) {hi lo m n : Nat} (h : hi = lo + n) :
    w.extractLsb' hi m ++ w.extractLsb' lo n = w.extractLsb' lo (m + n) := by
  apply BitVec.eq_of_getLsbD_eq
  intro i hi
  rw [BitVec.getLsbD_append]
  split
  · simp only [BitVec.getLsbD_extractLsb', hi, decide_true, Bool.true_and]
    simp [*]
  · simp only [BitVec.getLsbD_extractLsb', hi, decide_true, Bool.true_and]
    rw [h, show lo + n + (i - n) = lo + i by omega]
    simp only [Bool.and_eq_right_iff_imp, decide_eq_true_eq]
    omega

/-- A bit of a word is a field of one bit. -/
theorem ofBool_getLsbD (w : Word) (i : Nat) : BitVec.ofBool (w.getLsbD i) = w.extractLsb' i 1 := by
  apply BitVec.eq_of_getLsbD_eq
  intro j hj
  obtain rfl : j = 0 := by omega
  rw [getLsbD_ofBool, BitVec.getLsbD_extractLsb']
  rfl

/-- Opcode and header are the word's bits [63:40] (R126). -/
theorem headBits_hdrOf (w : Word) : headBits (opOf w) (hdrOf w) = w.extractLsb' 40 24 := by
  simp only [headBits, hdrOf, opOf, BitVec.ofNat_toNat, BitVec.setWidth_eq, ofBool_getLsbD, append_extract]

/-- A word is its opcode, its header and its bits [39:0]. -/
theorem wordOf_parts (w : Word) {b : BitVec 40} (hb : b = w.extractLsb' 0 40) : wordOf (opOf w) (hdrOf w) b = w := by
  rw [wordOf, headBits_hdrOf, hb, append_extract w (by omega)]
  exact extract_self w

/-! Formats (R127). -/

/-- An operand format: how its fields stand in a word's bits [39:0], and how they are read back. -/
structure Format (F : Type) where
  bits : F → BitVec 40
  fields : Word → F
  fields_wordOf : ∀ op h x, fields (wordOf op h (bits x)) = x
  bits_fields : ∀ w, bits (fields w) = w.extractLsb' 0 40

def formatF3 : Format F3 := ⟨F3.bits, f3Of, f3Of_wordOf, fun w => by simp only [F3.bits, f3Of, append_extract]⟩
def formatF4 : Format F4 := ⟨F4.bits, f4Of, f4Of_wordOf, fun w => by simp only [F4.bits, f4Of, append_extract]⟩
def formatFI : Format FI := ⟨FI.bits, fiOf, fiOf_wordOf, fun w => by simp only [FI.bits, fiOf, append_extract]⟩
def formatFL : Format FL := ⟨FL.bits, flOf, flOf_wordOf, fun w => by simp only [FL.bits, flOf, append_extract]⟩
def formatFM : Format FM := ⟨FM.bits, fmOf, fmOf_wordOf, fun w => by simp only [FM.bits, fmOf, append_extract]⟩
def formatFB : Format FB := ⟨FB.bits, fbOf, fbOf_wordOf, fun w => by simp only [FB.bits, fbOf, ofBool_getLsbD, append_extract]⟩
def formatFE : Format FE := ⟨FE.bits, feOf, feOf_wordOf, fun w => by simp only [FE.bits, feOf, append_extract]⟩
def formatFS : Format FS := ⟨FS.bits, fsOf, fsOf_wordOf, fun w => by simp only [FS.bits, fsOf, append_extract]⟩

/-! Rows of the opcode table (R139). -/

/-- A row of the opcode table: an opcode stands for an instruction of a format. Where rows share an opcode (R142, R192, R252), a word is of
the row whose instruction is well-formed with the word's fields. -/
structure Row {F : Type} (fmt : Format F) (op : Nat) (mk : Header → F → Instr) : Prop where
  op_lt : op < 1024
  encode_eq : ∀ h x, encode (mk h x) = some (wordOf op h (fmt.bits x))
  decodeOp_eq : ∀ w, (mk (hdrOf w) (fmt.fields w)).wf = true → decodeOp op w = mk (hdrOf w) (fmt.fields w)

section Row
variable {F : Type} {fmt : Format F} {op : Nat} {mk : Header → F → Instr}

/-- The word of a row's instruction decodes to it. -/
theorem Row.decode_encode (hr : Row fmt op mk) {h : Header} {x : F} {w : Word} (hwf : (mk h x).wf = true) (he : encode (mk h x) = some w) :
    decodeWord w = mk h x := by
  obtain rfl := Option.some.inj ((hr.encode_eq h x).symm.trans he)
  have hfields : mk (hdrOf (wordOf op h (fmt.bits x))) (fmt.fields (wordOf op h (fmt.bits x))) = mk h x := by
    rw [hdrOf_wordOf, fmt.fields_wordOf]
  rw [decodeWord, opOf_wordOf _ _ _ hr.op_lt, hr.decodeOp_eq _ (hfields ▸ hwf), hfields]

/-- A word of a row decodes to a well-formed instruction whose word it is. -/
theorem Row.encode_decode {w : Word} (hr : Row fmt (opOf w) mk) (hwf : (mk (hdrOf w) (fmt.fields w)).wf = true) :
    (decodeWord w).wf = true ∧ encode (decodeWord w) = some w := by
  rw [decodeWord, hr.decodeOp_eq w hwf, hr.encode_eq, wordOf_parts w (fmt.bits_fields w)]
  exact ⟨hwf, rfl⟩

end Row

/-- A load's row (R226): the opcode's low bits are its format nibble. -/
theorem row_ld {nib : BitVec 4} (hn : nib.toNat < 12) : Row formatFM (0x100 + nib.toNat) (fun h x => .ld h nib x) where
  op_lt := by omega
  encode_eq _ _ := rfl
  decodeOp_eq w _ := by
    obtain ⟨⟨n, hlt⟩⟩ := nib
    change n < 12 at hn
    interval_cases n <;> rfl

/-- A store's row (R226). -/
theorem row_st {nib : BitVec 4} (hn : nib.toNat < 12) : Row formatFM (0x110 + nib.toNat) (fun h x => .st h nib x) where
  op_lt := by omega
  encode_eq _ _ := rfl
  decodeOp_eq w _ := by
    obtain ⟨⟨n, hlt⟩⟩ := nib
    change n < 12 at hn
    interval_cases n <;> rfl

/-- `dqk` and `dqk.all` share an opcode; bit 0 of X tells them apart (R142, R221). -/
theorem fsOf_x_bit (w : Word) : (fsOf w).x.getLsbD 0 = w.getLsbD 0 := by
  simp [fsOf]

theorem row_dqk : Row formatFS 0x0D1 .dqk where
  op_lt := by decide
  encode_eq _ _ := rfl
  decodeOp_eq w hwf := by
    have hbit : w.getLsbD 0 = false := (fsOf_x_bit w).symm.trans (beq_iff_eq.mp hwf)
    exact if_neg (by rw [hbit]; decide)

theorem row_dqkAll : Row formatFS 0x0D1 .dqkAll where
  op_lt := by decide
  encode_eq _ _ := rfl
  decodeOp_eq w hwf := by
    have hbit : w.getLsbD 0 = true := (fsOf_x_bit w).symm.trans (beq_iff_eq.mp hwf)
    exact if_pos hbit

/-- The three words of `tlbi` share an opcode; SEL[1:0] tells them apart (R252). -/
theorem fsOf_sel_low (w : Word) : (fsOf w).sel.extractLsb' 0 2 = w.extractLsb' 8 2 := by
  apply BitVec.eq_of_getLsbD_eq
  intro i hi
  simp only [fsOf, BitVec.getLsbD_extractLsb', hi, decide_true, Bool.true_and, Nat.zero_add]
  rw [decide_eq_true (by omega), Bool.true_and]

theorem row_tlbiPage : Row formatFS 0x148 .tlbiPage where
  op_lt := by decide
  encode_eq _ _ := rfl
  decodeOp_eq w hwf := by
    obtain ⟨h1, h2⟩ : w.extractLsb' 8 2 ≠ 1#2 ∧ w.extractLsb' 8 2 ≠ 2#2 := by simpa [Instr.wf, formatFS, fsOf_sel_low] using hwf
    exact (if_neg h1).trans (if_neg h2)

theorem row_tlbiAll : Row formatFS 0x148 .tlbiAll where
  op_lt := by decide
  encode_eq _ _ := rfl
  decodeOp_eq w hwf := by
    have hsel : w.extractLsb' 8 2 = 1#2 := by simpa [Instr.wf, formatFS, fsOf_sel_low] using hwf
    exact if_pos hsel

theorem row_tlbiPid : Row formatFS 0x148 .tlbiPid where
  op_lt := by decide
  encode_eq _ _ := rfl
  decodeOp_eq w hwf := by
    have hsel : w.extractLsb' 8 2 = 2#2 := by simpa [Instr.wf, formatFS, fsOf_sel_low] using hwf
    exact (if_neg (by rw [hsel]; decide)).trans (if_pos hsel)

/-! Which opcodes are of which format (R139). -/

/-- An opcode of one row alone, each of whose words is well-formed. -/
def PlainRow {F : Type} (fmt : Format F) (op : Nat) : Prop := ∃ mk, Row fmt op mk ∧ ∀ h x, (mk h x).wf = true

theorem plainRow {F : Type} {fmt : Format F} {op : Nat} (mk : Header → F → Instr) (hop : op < 1024)
    (he : ∀ h x, encode (mk h x) = some (wordOf op h (fmt.bits x))) (hd : ∀ w, decodeOp op w = mk (hdrOf w) (fmt.fields w))
    (hwf : ∀ h x, (mk h x).wf = true) : PlainRow fmt op := ⟨mk, ⟨hop, he, fun w _ => hd w⟩, hwf⟩

def opsF3 : List Nat :=
  [0x001, 0x002, 0x003, 0x004, 0x005, 0x006, 0x007, 0x008, 0x009, 0x00A, 0x00B, 0x00C, 0x00D, 0x00E, 0x00F, 0x010, 0x011,
   0x012, 0x013, 0x014, 0x015, 0x016, 0x017, 0x018, 0x040, 0x041, 0x042, 0x043, 0x044, 0x045, 0x046, 0x047, 0x048, 0x049,
   0x04A, 0x04B, 0x04C, 0x080, 0x081, 0x082, 0x083, 0x090, 0x091, 0x092, 0x093, 0x094, 0x095, 0x096, 0x097, 0x0A0, 0x0A1,
   0x0A2, 0x0A3, 0x0A4, 0x0A5, 0x0A6, 0x0A7, 0x0A8, 0x0A9, 0x0AA, 0x0AB, 0x0AD, 0x0C2, 0x0C4, 0x0C5, 0x200, 0x201, 0x202,
   0x203, 0x204, 0x205, 0x206, 0x207, 0x208, 0x209, 0x20A, 0x20C, 0x20D, 0x20E, 0x240, 0x241, 0x243, 0x244, 0x245]

def opsF4 : List Nat :=
  [0x020, 0x021, 0x022, 0x023, 0x024, 0x0AC]

def opsFI : List Nat :=
  [0x030, 0x031, 0x032, 0x033, 0x034, 0x035, 0x036, 0x037, 0x038, 0x039, 0x03A, 0x0AE, 0x0AF, 0x0B0, 0x0B1, 0x20B, 0x242]

def opsFL : List Nat :=
  [0x03C, 0x03D, 0x03E]

def opsFM : List Nat :=
  [0x120, 0x121, 0x122, 0x123, 0x124, 0x125, 0x126, 0x127, 0x128, 0x129, 0x12A, 0x12B, 0x12C, 0x130, 0x131, 0x132, 0x133,
   0x134, 0x135, 0x136, 0x137, 0x138, 0x139, 0x13A, 0x145, 0x146, 0x147]

def opsFB : List Nat :=
  [0x0C1, 0x0C3, 0x0C6]

def opsFE : List Nat :=
  [0x0CC, 0x140, 0x141, 0x142, 0x143, 0x144, 0x180, 0x181, 0x182, 0x183, 0x184, 0x185, 0x186, 0x1C0, 0x1C1, 0x1C2, 0x1C3,
   0x1C4, 0x1C5, 0x1C6, 0x1C7, 0x246, 0x248]

def opsFS : List Nat :=
  [0x0C0, 0x0C7, 0x0C8, 0x0C9, 0x0CA, 0x0CB, 0x0CD, 0x0CE, 0x0CF, 0x0D0, 0x0D2, 0x247]

theorem plainRow_of_mem_opsF3 : ∀ op ∈ opsF3, PlainRow formatF3 op := by
  intro op hop
  fin_cases hop <;> exact plainRow _ (by decide) (fun _ _ => rfl) (fun _ => rfl) (fun _ _ => rfl)

theorem plainRow_of_mem_opsF4 : ∀ op ∈ opsF4, PlainRow formatF4 op := by
  intro op hop
  fin_cases hop <;> exact plainRow _ (by decide) (fun _ _ => rfl) (fun _ => rfl) (fun _ _ => rfl)

theorem plainRow_of_mem_opsFI : ∀ op ∈ opsFI, PlainRow formatFI op := by
  intro op hop
  fin_cases hop <;> exact plainRow _ (by decide) (fun _ _ => rfl) (fun _ => rfl) (fun _ _ => rfl)

theorem plainRow_of_mem_opsFL : ∀ op ∈ opsFL, PlainRow formatFL op := by
  intro op hop
  fin_cases hop <;> exact plainRow _ (by decide) (fun _ _ => rfl) (fun _ => rfl) (fun _ _ => rfl)

theorem plainRow_of_mem_opsFM : ∀ op ∈ opsFM, PlainRow formatFM op := by
  intro op hop
  fin_cases hop <;> exact plainRow _ (by decide) (fun _ _ => rfl) (fun _ => rfl) (fun _ _ => rfl)

theorem plainRow_of_mem_opsFB : ∀ op ∈ opsFB, PlainRow formatFB op := by
  intro op hop
  fin_cases hop <;> exact plainRow _ (by decide) (fun _ _ => rfl) (fun _ => rfl) (fun _ _ => rfl)

theorem plainRow_of_mem_opsFE : ∀ op ∈ opsFE, PlainRow formatFE op := by
  intro op hop
  fin_cases hop <;> exact plainRow _ (by decide) (fun _ _ => rfl) (fun _ => rfl) (fun _ _ => rfl)

theorem plainRow_of_mem_opsFS : ∀ op ∈ opsFS, PlainRow formatFS op := by
  intro op hop
  fin_cases hop <;> exact plainRow _ (by decide) (fun _ _ => rfl) (fun _ => rfl) (fun _ _ => rfl)

/-- Every opcode is unassigned, of one plain row, of a load or a store, or shared (R139, R140, R142, R192, R226, R252). -/
theorem opcode_cases : ∀ op < 1024, unassignedOp op = true ∨ op ∈ opsF3 ∨ op ∈ opsF4 ∨ op ∈ opsFI ∨ op ∈ opsFL ∨ op ∈ opsFM ∨
    op ∈ opsFB ∨ op ∈ opsFE ∨ op ∈ opsFS ∨ (op / 16 = 0x10 ∧ op % 16 < 12) ∨ (op / 16 = 0x11 ∧ op % 16 < 12) ∨ op = 0x0D1 ∨
    op = 0x148 := by
  decide +kernel

/-- An unassigned opcode is none that stands for an instruction. -/
theorem dite_assigned {α : Type} {op n : Nat} (hu : unassignedOp op = true) (hn : unassignedOp n = false) {t : op = n → α} {e : ¬ op = n → α}
    {r : α} (he : ∀ hne, e hne = r) : dite (op = n) t e = r := by
  have hne : ¬ op = n := fun h => by rw [h, hn] at hu; exact nomatch hu
  exact (dif_neg hne).trans (he hne)

/-- A word of an opcode that R139 does not assign decodes to itself (R140). The `match` of `decodeOp` has too many cases to split at once,
so that the proof passes them one by one. -/
theorem decodeOp_unassigned {op : Nat} (hu : unassignedOp op = true) (w : Word) : decodeOp op w = .unassignedOpcode w := by
  unfold decodeOp decodeOp.match_1
  repeat refine dite_assigned hu (by rfl) fun _ => ?_
  rfl

/-! Decoding and encoding undo each other. -/

/-- The word of a well-formed instruction decodes to it. -/
theorem decodeWord_encode {i : Instr} {w : Word} (hwf : i.wf = true) (he : encode i = some w) : decodeWord w = i := by
  cases i with
  | add h x | sub h x | mul h x | mulhi h x | min h x | max h x | abs h x | neg h x | and h x | or h x | xor h x | andn h x
  | not h x | shl h x | shr h x | sar h x | rot h x | popc h x | clz h x | ctz h x | brev h x | bfe h x | mov h x | cmp h x
  | div h x | sqrt h x | rsqrt h x | rcp h x | exp2 h x | log2 h x | sin h x | cos h x | tanh h x | fclass h x | rint h x
  | ldexp h x | sgnj h x | cvt h x | tag h x | pack h x | unpk h x | shfl h x | bcast h x | vote h x | ballot h x | hred h x
  | hscan h x | rdlane h x | splat h x | sadd h x | ssub h x | smul h x | sand h x | sor h x | sxor h x | sshl h x
  | sshr h x | ssar h x | smin h x | smax h x | scmp h x | smov h x | jmpi h x | calli h x | ret h x | dadd h x | dsub h x
  | dmul h x | dmin h x | dmax h x | dneg h x | dscl h x | dmix h x | dpt h x | datm h x | dget h x | dmom h x | dqnt h x
  | dcdf h x | trec h x | trbr h x | tply h x | tplb h x | tpmk h x =>
    exact Row.decode_encode (fmt := formatF3) ⟨by decide, fun _ _ => rfl, fun _ _ => rfl⟩ hwf he
  | fma h x | mad h x | sel h x | bfi h x | dot4 h x | ssel h x =>
    exact Row.decode_encode (fmt := formatF4) ⟨by decide, fun _ _ => rfl, fun _ _ => rfl⟩ hwf he
  | addi h x | muli h x | andi h x | ori h x | xori h x | shli h x | shri h x | sari h x | cmpi h x | mini h x | maxi h x
  | saddi h x | sandi h x | sori h x | sshli h x | dtag h x | tmark h x =>
    exact Row.decode_encode (fmt := formatFI) ⟨by decide, fun _ _ => rfl, fun _ _ => rfl⟩ hwf he
  | movi h x | movs h x | movhs h x =>
    exact Row.decode_encode (fmt := formatFL) ⟨by decide, fun _ _ => rfl, fun _ _ => rfl⟩ hwf he
  | aaddI32 h x | aaddF32 h x | aminI32 h x | aminN32 h x | aminF32 h x | amaxI32 h x | amaxN32 h x | amaxF32 h x | aand h x
  | aor h x | axor h x | axch h x | acas h x | raddI32 h x | raddF32 h x | rminI32 h x | rminN32 h x | rminF32 h x
  | rmaxI32 h x | rmaxN32 h x | rmaxF32 h x | rand h x | ror h x | rxor h x | pf h x | cinv h x | cwb h x =>
    exact Row.decode_encode (fmt := formatFM) ⟨by decide, fun _ _ => rfl, fun _ _ => rfl⟩ hwf he
  | br h x | call h x | head h x =>
    exact Row.decode_encode (fmt := formatFB) ⟨by decide, fun _ _ => rfl, fun _ _ => rfl⟩ hwf he
  | sow h x | cpy h x | cpyg h x | cwait h x | smap h x | sunmap h x | mma h x | mzero h x | mld h x | mst h x | mabs h x
  | mmov h x | mrd h x | board h x | rtile h x | rfree h x | alight h x | rpos h x | rpace h x | rinst h x | rstat h x
  | tbgn h x | tseg h x =>
    exact Row.decode_encode (fmt := formatFE) ⟨by decide, fun _ _ => rfl, fun _ _ => rfl⟩ hwf he
  | nop h x | exit h x | yield h x | barw h x | bars h x | fence h x | trap h x | rft h x | sget h x | sset h x | brk h x
  | tend h x =>
    exact Row.decode_encode (fmt := formatFS) ⟨by decide, fun _ _ => rfl, fun _ _ => rfl⟩ hwf he
  | ld h nib x => exact (row_ld (of_decide_eq_true hwf)).decode_encode hwf he
  | st h nib x => exact (row_st (of_decide_eq_true hwf)).decode_encode hwf he
  | dqk h x => exact row_dqk.decode_encode hwf he
  | dqkAll h x => exact row_dqkAll.decode_encode hwf he
  | tlbiPage h x => exact row_tlbiPage.decode_encode hwf he
  | tlbiAll h x => exact row_tlbiAll.decode_encode hwf he
  | tlbiPid h x => exact row_tlbiPid.decode_encode hwf he
  | unassignedOpcode v =>
    obtain rfl := Option.some.inj he
    exact decodeOp_unassigned hwf v
  | _ => exact nomatch he

/-- A word of a plain row's opcode decodes to a well-formed instruction whose word it is. -/
theorem encode_decode_plain {F : Type} {fmt : Format F} {w : Word} (hp : PlainRow fmt (opOf w)) :
    (decodeWord w).wf = true ∧ encode (decodeWord w) = some w := by
  obtain ⟨mk, hr, hwf⟩ := hp
  exact hr.encode_decode (hwf _ _)

/-- What a word decodes to is well-formed, and its word is that one. -/
theorem encode_decodeWord (w : Word) : (decodeWord w).wf = true ∧ encode (decodeWord w) = some w := by
  obtain hu | hop | hop | hop | hop | hop | hop | hop | hop | ⟨hop, hlt⟩ | ⟨hop, hlt⟩ | hop | hop :=
    opcode_cases (opOf w) (w.extractLsb' 54 10).isLt
  · rw [decodeWord, decodeOp_unassigned hu]
    exact ⟨hu, rfl⟩
  · exact encode_decode_plain (plainRow_of_mem_opsF3 _ hop)
  · exact encode_decode_plain (plainRow_of_mem_opsF4 _ hop)
  · exact encode_decode_plain (plainRow_of_mem_opsFI _ hop)
  · exact encode_decode_plain (plainRow_of_mem_opsFL _ hop)
  · exact encode_decode_plain (plainRow_of_mem_opsFM _ hop)
  · exact encode_decode_plain (plainRow_of_mem_opsFB _ hop)
  · exact encode_decode_plain (plainRow_of_mem_opsFE _ hop)
  · exact encode_decode_plain (plainRow_of_mem_opsFS _ hop)
  · have hnib : (BitVec.ofNat 4 (opOf w % 16)).toNat = opOf w % 16 := by simp
    have hr := row_ld (nib := BitVec.ofNat 4 (opOf w % 16)) (by omega)
    rw [hnib, show 0x100 + opOf w % 16 = opOf w by omega] at hr
    exact hr.encode_decode (decide_eq_true (by omega))
  · have hnib : (BitVec.ofNat 4 (opOf w % 16)).toNat = opOf w % 16 := by simp
    have hr := row_st (nib := BitVec.ofNat 4 (opOf w % 16)) (by omega)
    rw [hnib, show 0x110 + opOf w % 16 = opOf w by omega] at hr
    exact hr.encode_decode (decide_eq_true (by omega))
  · cases hbit : w.getLsbD 0 with
    | false => exact (hop ▸ row_dqk).encode_decode (beq_iff_eq.mpr ((fsOf_x_bit w).trans hbit))
    | true => exact (hop ▸ row_dqkAll).encode_decode (beq_iff_eq.mpr ((fsOf_x_bit w).trans hbit))
  · by_cases hall : w.extractLsb' 8 2 = 1#2
    · exact (hop ▸ row_tlbiAll).encode_decode (beq_iff_eq.mpr ((fsOf_sel_low w).trans hall))
    · by_cases hpid : w.extractLsb' 8 2 = 2#2
      · exact (hop ▸ row_tlbiPid).encode_decode (beq_iff_eq.mpr ((fsOf_sel_low w).trans hpid))
      · exact (hop ▸ row_tlbiPage).encode_decode (by simp [Instr.wf, formatFS, fsOf_sel_low, hall, hpid])

/-- The bytes of a word, in front of others, decode to its instruction (R1, R125). -/
theorem decodeBytes_leBytes (w : Word) (rest : List Byte) : decodeBytes (leBytes 8 w.toNat ++ rest) = .ok (decodeWord w, rest) := by
  have hlen : (leBytes 8 w.toNat).length = 8 := Machine.length_leBytes 8 w.toNat
  have hword : leNat (leBytes 8 w.toNat) = w.toNat := (Machine.leNat_leBytes 8 _).trans (Nat.mod_eq_of_lt w.isLt)
  rw [decodeBytes, if_neg (by simp [hlen]), List.take_left' hlen, List.drop_left' hlen, hword, BitVec.ofNat_toNat, BitVec.setWidth_eq]

/-- Settles O54: each constructor is a row of its format (`Row`), and a row's header and fields read back as they were put. -/
theorem decodeOfEncode : Obligations.DecodeOfEncode := by
  intro i w rest hwf he
  rw [decodeBytes_leBytes, decodeWord_encode hwf he]

/-- Settles O55: every opcode is unassigned or has a row (`opcode_cases`), and a word is its opcode, its header and the fields of its row's
format (`wordOf_parts`). -/
theorem encodeOfDecode : Obligations.EncodeOfDecode := encode_decodeWord

/-- Settles O53: each of the manual's words is the word of the instruction beside it, to which it then decodes. -/
theorem wordsOfTheManualDecode : Obligations.WordsOfTheManualDecode := by
  have hwords : ∀ p ∈ specWords, p.2.wf = true ∧ encode p.2 = some p.1 := by decide
  refine ⟨fun p hp => ?_, fun bs hbs => if_pos hbs⟩
  obtain ⟨hwf, he⟩ := hwords p hp
  have hdecode := decodeOfEncode p.2 p.1 [] hwf he
  rwa [List.append_nil] at hdecode

end Sys2Proof
end

section
/-! SUPPORT. An `rtile` that issues again after its wait, and the refutation of O20. -/
namespace Sys2Proof.Machine

/-- A herd whose only group has waited in an `rtile` that writes S4 and S5, which it may do now (R158, R322). -/
def waitedHerd : Herd :=
  { uncountedHerd with late := [{ fur := 0, reg := 4, stands := true }, { fur := 0, reg := 5, stands := true }] }

/-- The herd alone on its core. -/
def waitedState : State := { State.reset with issuer := some uncountedIssuer, herds := [waitedHerd] }

/-- A header whose uniform predicate register, S9, is zero: no lane is active. -/
def idleHeader : Header := { bareHeader with pe := true, pk := true, pr := 9 }

/-- The fields of `rtile` with destination S4. -/
def bareRtile : FE := { d := 4, sa := 0, sb := 0, sf := 0, x := 0 }

theorem issues_waited : Issues waitedState uncountedIssuer waitedHerd where
  who := rfl
  herd := rfl
  may := rfl
  furrows := by decide
  turn := rfl

/-- The instructions that core 0 counts as issued after a step (R218). -/
def issuedAfter (r : Host.Outcome State Fault Refusal) : Option Word :=
  match r with
  | .next t => some (t.coreReg 0 0x040)
  | _ => none

theorem issuedAfter_rtile : issuedAfter (exec (.rtile idleHeader bareRtile) waitedState) = some 1#64 := by rfl

/-- Refutes O20, by its clause on a word with no active lane: the group of `waitedHerd` has waited in its `rtile`, and S9, which the word
names as its predicate, is zero when it issues again. The statement has every word but `head` do nothing then; the model has judged this
`rtile` when it first issued (log entry 82), so that it completes and is counted. The statement leaves out no `rtile` that has waited. -/
theorem not_issueFollowsItsOrder : ¬ Obligations.IssueFollowsItsOrder := by
  rintro ⟨-, hidle, -, -⟩
  obtain ⟨t, h', hexec, hframe, -⟩ := hidle waitedState uncountedIssuer waitedHerd (.rtile idleHeader bareRtile) idleHeader rfl nofun
    issues_waited (by decide) (fun _ hpk => nomatch hpk)
  have hcount : some (t.coreReg 0 0x040) = some 1#64 := by
    rw [← issuedAfter_rtile, hexec]
    rfl
  have hkept : t.coreReg 0 0x040 = waitedState.coreReg 0 0x040 := by
    rw [hframe]
    rfl
  rw [hkept] at hcount
  exact absurd hcount (by decide)

end Sys2Proof.Machine
end

section
/-! SUPPORT. The generic-capable arithmetic (R134, R157, R160 to R165, R172, R175 to R177, R271): what makes a site legal, the format that it
settles, and the words that fit one description. -/
namespace Sys2Proof.Machine

/-! Sites. -/

/-- R126, R134, R154: the header and the modifier byte of a generic-capable arithmetic word are legal. -/
structure SiteLegal (h : Herd) (hd : Header) (r : FmtRule) (mb : BitVec 8) : Prop where
  pred : PredOk h hd
  state : (hd.ss = 0#2 ∧ hd.wc = 0#3) ∨ (hd.ss = 1#2 ∧ hd.wc ≠ 7#3 ∧ hd.u = false) ∨ (hd.ss = 2#2 ∧ hd.wc ≠ 7#3)
    ∨ (hd.ss = 3#2 ∧ hd.wc = 7#3 ∧ hd.u = false)
  rsv : mb.getLsbD 0 = false
  named : hd.ss = 0#2 ∨ hd.ss = 2#2 → r.accepts (mbFmt mb) mb = true
  unnamed : hd.ss = 1#2 ∨ hd.ss = 3#2 → mbFmt mb = 0

section Site
variable {w : Issuer} {h : Herd} {hd : Header} {r : FmtRule} {mb : BitVec 8} {tags srcs : List Nat} {f : Nat} {u : Bool}
variable {i : Instr} {eff : Nat → Bool → Ctx → State → Res} {s : State}

theorem SiteLegal.hdrCauses (hs : SiteLegal h hd r mb) : genHdrCauses hd = [] := by
  have hpred : (if !hd.pe && (hd.pn || hd.pk || hd.pr ≠ 0#5) then [2] else []) = ([] : List Nat) := by
    cases hpe : hd.pe with
    | true => rfl
    | false =>
      obtain ⟨hpn, hpk, hpr⟩ := hs.pred.1 hpe
      simp [hpn, hpk, hpr]
  rw [genHdrCauses, hpred]
  obtain ⟨hss, hwc⟩ | ⟨hss, hwc, hu⟩ | ⟨hss, hwc⟩ | ⟨hss, hwc, hu⟩ := hs.state <;> simp [*]

theorem SiteLegal.mbCauses (hs : SiteLegal h hd r mb) : ∀ x ∈ mbGenUses r hd mb, x.causes h = [] := by
  have hbit : (mb.extractLsb' 0 1).toNat = 0 := by
    have hzero : mb.extractLsb' 0 1 = 0#1 := BitVec.eq_of_getLsbD_eq (fun j hj => by
      obtain rfl : j = 0 := by omega
      simpa using hs.rsv)
    rw [hzero]
    rfl
  have hnamed := hs.named
  have hunnamed := hs.unnamed
  obtain ⟨hss, -⟩ | ⟨hss, -⟩ | ⟨hss, -⟩ | ⟨hss, -⟩ := hs.state <;> simp_all [mbGenUses, Use.causes]

/-- A word with a legal site is legal when its registers and other fields are. -/
theorem SiteLegal.legalGen (hs : SiteLegal h hd r mb) {uses : List Use} (hu : ∀ x ∈ uses, x.causes h = []) :
    legalGen (uses ++ mbGenUses r hd mb) (issueCtx w h hd) = none := by
  have e : (uses ++ mbGenUses r hd mb).flatMap (fun x => x.causes h) = [] :=
    List.flatMap_eq_nil_iff.mpr (List.forall_mem_append.mpr ⟨hu, hs.mbCauses⟩)
  simp [Machine.legalGen, lowest, issueCtx, hs.hdrCauses, e]

theorem siteLegal_of_settled {ls : List Nat} (hs : SiteSettled h ls hd r mb tags srcs f u) : SiteLegal h hd r mb := by
  obtain ⟨hp, hrsv, hacc, ⟨hss, hwc, rfl, -⟩ | ⟨hss, hwc, rfl, -⟩ | ⟨hss, hwc, hu, -, hfmt, -⟩⟩ := hs
  · exact ⟨hp, .inl ⟨hss, hwc⟩, hrsv, fun _ => hacc, by simp [hss]⟩
  · exact ⟨hp, .inr (.inr (.inl ⟨hss, hwc⟩)), hrsv, fun _ => hacc, by simp [hss]⟩
  · exact ⟨hp, .inr (.inr (.inr ⟨hss, hwc, hu⟩)), hrsv, by simp [hss], fun _ => hfmt⟩

/-- R157: tags that agree on an accepted format give it. -/
theorem tagFormat_some (htags : tags ≠ []) (hf : ∀ n ∈ tags, h.tagOf n = f) (hacc : r.accepts f mb = true) :
    tagFormat (issueCtx w h hd) r (fun _ => true) mb tags = some f := by
  cases tags with
  | nil => exact absurd rfl htags
  | cons n ns =>
    obtain ⟨hn, hns⟩ := List.forall_mem_cons.mp hf
    have hall : ns.all (fun m => decide (h.tagOf m = f)) = true := List.all_eq_true.mpr (fun m hm => decide_eq_true (hns m hm))
    simp [tagFormat, issueCtx, hn, hacc, hall]

/-- R157: tags that agree on no accepted format give none. -/
theorem tagFormat_none (hf : ∀ f, r.accepts f mb = true → ∃ n ∈ tags, h.tagOf n ≠ f) :
    tagFormat (issueCtx w h hd) r (fun _ => true) mb tags = none := by
  cases tags with
  | nil => rfl
  | cons n ns =>
    refine if_neg (fun hif => ?_)
    simp only [Bool.and_eq_true, Bool.and_true, List.all_eq_true, decide_eq_true_eq] at hif
    obtain ⟨hall, hacc⟩ := hif
    obtain ⟨m, hm, hne⟩ := hf _ hacc
    obtain rfl | hm := List.mem_cons.mp hm
    · exact hne rfl
    · exact hne (hall m hm)

/-- A settled site has the effect of its format (R134, R271). -/
theorem genericArith_settled (htags : tags ≠ []) (hs : SiteSettled h (activeLanes h w.f hd) hd r mb tags srcs f u) :
    genericArith i r (fun _ => true) mb tags (fun _ => srcs) eff (issueCtx w h hd) s = eff f u (issueCtx w h hd) s := by
  obtain ⟨-, -, hacc, ⟨hss, -, rfl, rfl⟩ | ⟨hss, -, rfl, rfl, hf, huni⟩ | ⟨hss, -, -, rfl, -, hf⟩⟩ := hs
  · simp [genericArith, issueCtx, hss]
  · have hguard : tags.all (fun n => decide ((issueCtx w h hd).h.tagOf n = mbFmt mb)) = true :=
      List.all_eq_true.mpr (fun n hn => decide_eq_true (hf n hn))
    have hone : (!hd.u || oneValue (issueCtx w h hd) srcs) = true := by
      cases hu : hd.u with
      | false => rfl
      | true =>
        exact List.all_eq_true.mpr (fun n hn => List.all_eq_true.mpr (fun l hl => decide_eq_true (huni hu n hn l hl)))
    have hdr : (issueCtx w h hd).hdr = hd := rfl
    simp only [genericArith, hdr, hss, hguard, hone, Bool.and_self, if_true]
    rfl
  · have hdr : (issueCtx w h hd).hdr = hd := rfl
    simp only [genericArith, hdr, hss, tagFormat_some htags hf hacc]
    rfl

/-- An unresolved or a pinned site whose tags give no format traps with cause 7 (R157). -/
theorem genericArith_noFormat (hss : hd.ss = 1#2 ∨ hd.ss = 3#2) (hf : ∀ f, r.accepts f mb = true → ∃ n ∈ tags, h.tagOf n ≠ f) :
    genericArith i r (fun _ => true) mb tags (fun _ => srcs) eff (issueCtx w h hd) s = .trap (trapOf 0 7) [] := by
  have hdr : (issueCtx w h hd).hdr = hd := rfl
  obtain hss | hss := hss <;> simp only [genericArith, hdr, hss, tagFormat_none hf] <;> rfl

end Site

/-! Words. -/

/-- The model executes the word that the data describe: with the legality of a generic-capable word, whose registers and other fields are the
uses `uses`, and the effect of its lane function. -/
structure Described {F : Type} (g : Sys2Proof.GenWord F) (uses : F → List Use) : Prop where
  exec_eq : ∀ hd x s, exec (g.ctor hd x) s = issue hd (legalGen (uses x ++ mbGenUses g.r hd (g.mb x)))
    (genericArith (g.ctor hd x) g.r (fun _ => true) (g.mb x) (g.srcs x) (fun _ => g.srcs x)
      (fun f u c _ => .done (vecActs c u (g.d x) (g.tag f) (g.val f c.h x)))) s
  uses_ok : ∀ (h : Herd) x, g.d x < h.nregs → (∀ n ∈ g.srcs x, n < h.nregs) → g.ok x → ∀ u ∈ uses x, u.causes h = []
  srcs_ne : ∀ x, g.srcs x ≠ []
  tag_lt : ∀ f ∈ g.r.fmts, g.tag f < 16

section Word
variable {F : Type} {g : Sys2Proof.GenWord F} {uses : F → List Use}

/-- On a settled site a word writes its lanes, and nothing else but the count of issued words changes. -/
theorem Described.settledCompletes (hg : Described g uses) : SettledCompletes g := by
  intro s w h hd x f u hi hs hd' hsrcs hok ha
  have hacc : g.r.accepts f (g.mb x) = true := hs.2.2.1
  have hfmt : f ∈ g.r.fmts := by
    simp only [FmtRule.accepts, Bool.and_eq_true, List.contains_iff_mem] at hacc
    exact hacc.1.1
  have hlegal := (siteLegal_of_settled hs).legalGen (w := w) (hg.uses_ok h x hd' hsrcs hok)
  have hexec := issue_legal (s := s) hi hs.1 ha _ hlegal (genericArith (g.ctor hd x) g.r (fun _ => true) (g.mb x) (g.srcs x) (fun _ => g.srcs x)
    (fun f u c _ => .done (vecActs c u (g.d x) (g.tag f) (g.val f c.h x))))
  rw [genericArith_settled (hg.srcs_ne x) hs] at hexec
  exact ⟨_, _, (hg.exec_eq hd x s).trans hexec, finish_done_herd hi hd _, lanesWritten_vec hi.furrows (hg.tag_lt f hfmt) hd _⟩

/-- An unresolved or a pinned word whose sources carry no common accepted tag traps with cause 7 and does nothing else. -/
theorem Described.noFormatTraps (hg : Described g uses) : NoFormatTraps g := by
  intro s w h hd x hi hp hss hu hrsv hfmt hd' hsrcs hok ha hfree hnone
  have hs : SiteLegal h hd g.r (g.mb x) := by
    obtain ⟨hss, hwc⟩ | ⟨hss, hwc⟩ := hss
    · exact ⟨hp, .inr (.inl ⟨hss, hwc, hu⟩), hrsv, by simp [hss], fun _ => hfmt⟩
    · exact ⟨hp, .inr (.inr (.inr ⟨hss, hwc, hu⟩)), hrsv, by simp [hss], fun _ => hfmt⟩
  rw [hg.exec_eq, issue_legal hi hp ha _ (hs.legalGen (hg.uses_ok h x hd' hsrcs hok)),
    genericArith_noFormat (hss.imp And.left And.left) hnone, run_finish_trap hi hd _ hfree]
  rfl

end Word

/-! The words of two sources, of one and of three. -/

/-- One vector register is legal within the allocation. -/
theorem causes_vreg {h : Herd} {n : Nat} (hn : n < h.nregs) : (Use.v n 1).causes h = [] := by
  simp [Use.causes, Nat.mod_one]
  omega

theorem described_gen2 {mk : Header → F3 → Instr} {r : FmtRule} {ok : F3 → Prop} {tag : Nat → Nat} {g : F3 → Lane2} {fnUse : F3 → Use}
    (he : ∀ hd x s, exec (mk hd x) s = arith2 (mk hd x) hd x r tag (fnUse x) (g x) s)
    (hok : ∀ h x, ok x → (fnUse x).causes h = []) (htag : ∀ f ∈ r.fmts, tag f < 16) :
    Described (gen2 mk r ok tag g) (fun x => [.v x.d.toNat 1, .v x.a.toNat 1, .v x.b.toNat 1, fnUse x]) where
  exec_eq := he
  uses_ok h x hd hsrcs hx := by
    obtain ⟨ha, hb⟩ : x.a.toNat < h.nregs ∧ x.b.toNat < h.nregs := by simpa [gen2] using hsrcs
    simp only [List.forall_mem_cons]
    exact ⟨causes_vreg hd, causes_vreg ha, causes_vreg hb, hok h x hx, nofun⟩
  srcs_ne _ := List.cons_ne_nil _ _
  tag_lt := htag

theorem described_gen1 {mk : Header → F3 → Instr} {r : FmtRule} {g : Lane2}
    (he : ∀ hd x s, exec (mk hd x) s = arith1 (mk hd x) hd x r g s) (htag : ∀ f ∈ r.fmts, f < 16) :
    Described (gen1 mk r g) (fun x => [.v x.d.toNat 1, .v x.a.toNat 1, .rsv x.b.toNat, .rsv x.fn.toNat]) where
  exec_eq := he
  uses_ok h x hd hsrcs hx := by
    obtain ⟨hb, hfn⟩ : x.b = 0#8 ∧ x.fn = 0#8 := hx
    simp only [List.forall_mem_cons]
    exact ⟨causes_vreg hd, causes_vreg (hsrcs _ (List.mem_singleton_self _)), by simp [Use.causes, hb], by simp [Use.causes, hfn], nofun⟩
  srcs_ne _ := List.cons_ne_nil _ _
  tag_lt := htag

theorem described_fma : Described genericFma (fun x => [.v x.d.toNat 1, .v x.a.toNat 1, .v x.b.toNat 1, .v x.c.toNat 1]) where
  exec_eq _ _ _ := rfl
  uses_ok h x hd hsrcs _ := by
    simp only [genericFma, List.forall_mem_cons] at hsrcs
    obtain ⟨ha, hb, hc, -⟩ := hsrcs
    simp only [List.forall_mem_cons]
    exact ⟨causes_vreg hd, causes_vreg ha, causes_vreg hb, causes_vreg hc, nofun⟩
  srcs_ne _ := List.cons_ne_nil _ _
  tag_lt := by decide

/-- An unused selector is reserved. -/
theorem causes_rsv_fn (h : Herd) (x : F3) (hx : x.fn = 0#8) : (Use.rsv x.fn.toNat).causes h = [] := by simp [Use.causes, hx]

/-- R172: the conditions of `cmp` are 0 to 7. -/
theorem causes_cmp_fn (h : Herd) (x : F3) (hx : x.fn.toNat < 8) : (Use.cause 7 (8 ≤ x.fn.toNat)).causes h = [] := by
  simp [Use.causes, hx]

/-- Each generic-capable word of format F3 is described by its entry. -/
theorem described_genericF3 : ∀ g ∈ genericF3, ∃ uses, Described g uses := by
  simp only [genericF3, List.forall_mem_cons]
  refine ⟨?add, ?sub, ?mul, ?min, ?max, ?div, ?cmp, ?abs, ?neg, ?sqrt, ?rint, ?rsqrt, ?rcp, ?exp2, ?log2, ?sin, ?cos, ?tanh, nofun⟩
  case cmp => exact ⟨_, described_gen2 (fun _ _ _ => rfl) causes_cmp_fn (by decide)⟩
  case add | sub | mul | min | max | div => exact ⟨_, described_gen2 (fun _ _ _ => rfl) causes_rsv_fn (by decide)⟩
  all_goals exact ⟨_, described_gen1 (fun _ _ _ => rfl) (by decide)⟩

/-- Settles O3: each word is described by its entry (`Described`), and a settled site has the effect of its format
(`genericArith_settled`). -/
theorem settledArithmeticCompletes : Obligations.SettledArithmeticCompletes := by
  refine ⟨fun g hg => ?_, described_fma.settledCompletes⟩
  obtain ⟨uses, hdesc⟩ := described_genericF3 g hg
  exact hdesc.settledCompletes

/-- Settles O5: such a word is legal, and its site finds no format in the tags (`genericArith_noFormat`), so that all it does is trap. -/
theorem unresolvedWithoutFormatTraps : Obligations.UnresolvedWithoutFormatTraps := by
  refine ⟨fun g hg => ?_, described_fma.noFormatTraps⟩
  obtain ⟨uses, hdesc⟩ := described_genericF3 g hg
  exact hdesc.noFormatTraps

end Sys2Proof.Machine
end

section
/-! SUPPORT. The privileged words at user level (R143, R217, R219, R221, R252, R309, R328, R384): cause 8 is all that they break. -/
namespace Sys2Proof.Machine

/-- R218, R307, R332, R370, R391, R407: user level has no access to a supervisor register. -/
theorem sysAccess_supervisor {n : Nat} (hn : supervisorReg n) : ∃ p, sysAccess n = some (.no, p) := by
  obtain ⟨hlo, hhi⟩ | ⟨hlo, hhi⟩ := hn <;> interval_cases n <;> exact ⟨_, rfl⟩

section Causes
variable {h : Herd} {n : Nat}

/-- One uniform register is legal below 64. -/
theorem causes_sreg (hn : n < 64) : (Use.s n 1).causes h = [] := by
  simp [Use.causes, Nat.mod_one]
  omega

/-- A reserved field is legal when it is zero. -/
theorem causes_rsv (hn : n = 0) : (Use.rsv n).causes h = [] := by simp [Use.causes, hn]

/-- R252: the selector of `tlbi` is 0 to 2. -/
theorem causes_tlbi_sel {sel : BitVec 16} (hsel : sel.toNat < 3) : (Use.cause 7 (sel.extractLsb' 0 2 = 3#2)).causes h = [] := by
  have hne : sel.extractLsb' 0 2 ≠ 3#2 := fun he => by
    have : sel.toNat % 4 = 3 := by simpa using congrArg BitVec.toNat he
    omega
  simp [Use.causes, hne]

/-- R252: the uses of a `tlbi` but its level, given that of its field A. -/
theorem causes_tlbiUses {x : FS} {a : Use} (hd : x.d = 0) (hx : x.x = 0) (hsel : x.sel.toNat < 3) (ha : a.causes h = []) :
    ∀ u ∈ tlbiUses x a, u.causes h = [] := by
  simp [tlbiUses, causes_rsv, causes_tlbi_sel, Nat.div_eq_of_lt (show x.sel.toNat < 4 by omega), *]

/-- R407: a value that sys.droop accepts, or another register. -/
theorem causes_droop {sel : BitVec 16} {x : Word} (hx : sel = 0x083#16 → droopBad x = false) :
    (Use.cause 7 (sel.toNat = 0x083 && droopBad x)).causes h = [] := by
  by_cases hn : sel.toNat = 0x083
  · simp [Use.causes, hx (BitVec.eq_of_toNat_eq hn)]
  · simp [Use.causes, hn]

end Causes

section User
variable {s : State} {w : Issuer} {h : Herd} {hd : Header}

/-- A word at user level that breaks nothing but what its level asks traps with cause 8. -/
theorem issue_refused (hi : Issues s w h) (hw : UserWord h hd w) (uses : Ctx → List Use)
    (huses : (uses (issueCtx w h hd)).flatMap (fun u => u.causes h) = [8]) (eff : Ctx → State → Res) :
    issue hd (fun c => legal false (uses c) c) eff s = .next (trapped s h (trapAtWord w h 0 8)) := by
  obtain ⟨hplain, -, ha, hfree⟩ := hw
  refine issue_illegal hi hplain.pred ha _ ?_ hfree eff
  show lowest (hdrCauses false hd ++ (uses (issueCtx w h hd)).flatMap (fun u => u.causes h)) = some 8
  rw [hdrCauses_nil hplain, huses]
  rfl

/-- Such a word by parts: the uses `ok`, which are legal, and what its level asks. -/
theorem issue_privileged (hi : Issues s w h) (hw : UserWord h hd w) (ok : List Use) (hok : ∀ u ∈ ok, u.causes h = [])
    (level : Ctx → List Use) (hlevel : (level (issueCtx w h hd)).flatMap (fun u => u.causes h) = [8]) (eff : Ctx → State → Res) :
    issue hd (fun c => legal false (ok ++ level c) c) eff s = .next (trapped s h (trapAtWord w h 0 8)) := by
  refine issue_refused hi hw (fun c => ok ++ level c) ?_ eff
  rw [List.flatMap_append, List.flatMap_eq_nil_iff.mpr hok, hlevel, List.nil_append]

/-- What a supervisor-only opcode asks of its level (R143). -/
def supervisorUse (c : Ctx) : List Use := [.cause 8 (!c.h.sup)]

theorem causes_supervisorUse (hw : UserWord h hd w) : (supervisorUse (issueCtx w h hd)).flatMap (fun u => u.causes h) = [8] := by
  rw [supervisorUse, show (issueCtx w h hd).h.sup = false from hw.2.1]
  rfl

/-- At user level the read of a supervisor register has cause 8. -/
theorem causes_sgetUses (hw : UserWord h hd w) {n : Nat} (hn : supervisorReg n) :
    (sgetUses n (issueCtx w h hd).h.sup).flatMap (fun u => u.causes h) = [8] := by
  obtain ⟨p, hp⟩ := sysAccess_supervisor hn
  rw [sgetUses, hp, show (issueCtx w h hd).h.sup = false from hw.2.1]
  rfl

/-- At user level the write of a supervisor register has cause 8. -/
theorem causes_ssetUses (hw : UserWord h hd w) {n : Nat} (hn : supervisorReg n) :
    (ssetUses n (issueCtx w h hd).h.sup).flatMap (fun u => u.causes h) = [8] := by
  obtain ⟨p, hp⟩ := sysAccess_supervisor hn
  rw [ssetUses, hp, show (issueCtx w h hd).h.sup = false from hw.2.1]
  rfl

/-- The uses of an `sset` (R218 to R220, R407). -/
def allSsetUses (x : FS) (c : Ctx) : List Use :=
  [.s x.a.toNat 1, .rsv x.d.toNat, .rsv x.x.toNat] ++ ssetUses x.sel.toNat c.h.sup
    ++ [.cause 7 (x.sel.toNat = 0x083 && droopBad (c.h.sreg x.a.toNat))]

theorem causes_allSsetUses (hw : UserWord h hd w) {x : FS} (ha : x.a.toNat < 64) (hd' : x.d = 0) (hx : x.x = 0)
    (hreg : supervisorReg x.sel.toNat) (hdroop : x.sel = 0x083#16 → droopBad (h.sreg x.a.toNat) = false) :
    (allSsetUses x (issueCtx w h hd)).flatMap (fun u => u.causes h) = [8] := by
  have hok : [Use.s x.a.toNat 1, .rsv x.d.toNat, .rsv x.x.toNat].flatMap (fun u => u.causes h) = [] := by
    simp [causes_sreg, causes_rsv, *]
  have hvalue : [Use.cause 7 (x.sel.toNat = 0x083 && droopBad ((issueCtx w h hd).h.sreg x.a.toNat))].flatMap (fun u => u.causes h) = [] := by
    rw [List.flatMap_singleton]
    exact causes_droop hdroop
  rw [allSsetUses, List.flatMap_append, List.flatMap_append, hok, causes_ssetUses hw hreg, hvalue]
  rfl

/-- Settles O19: each word's other fields are legal, so that its privilege is the only cause (`issue_privileged`). -/
theorem privilegedWordsTrapAtUserLevel : Obligations.PrivilegedWordsTrapAtUserLevel := by
  intro s w h hd hi hw
  have hlevel := causes_supervisorUse hw
  refine ⟨fun x ⟨_, _, hsel, hx⟩ hd' ha => ?dqk, fun x ha hsel hx hd' => ?dqkAll, fun x ⟨hd', ha, hsel, hx⟩ => ?rft,
    fun x ⟨hd', _, _, hx⟩ hsel ha => ⟨?tlbiPage, ?tlbiPid⟩, fun x ⟨hd', ha, _, hx⟩ hsel => ?tlbiAll,
    fun x ⟨_, ha, _, hx⟩ hd' hreg => ?sget, fun x ⟨hd', _, _, hx⟩ ha hreg hdroop => ?sset,
    fun x hd' hb hf hx => ⟨?rpace, ?rinst⟩, fun x hd' hf hx => ?tseg⟩
  case dqk =>
    exact issue_privileged hi hw [.s x.d.toNat 1, .s x.a.toNat 1, .rsv x.sel.toNat, .rsv x.x.toNat]
      (by simp [causes_sreg, causes_rsv, *]) supervisorUse hlevel _
  case dqkAll =>
    exact issue_privileged hi hw [.s x.d.toNat 1, .rsv x.a.toNat, .rsv x.sel.toNat, .rsv (x.x.toNat / 2)]
      (by simp [causes_sreg, causes_rsv, *]) supervisorUse hlevel _
  case rft =>
    have huses : ∀ u ∈ fsRsv x.d.toNat x.a.toNat x.sel.toNat x.x.toNat, u.causes h = [] := by simp [fsRsv, causes_rsv, *]
    exact issue_privileged hi hw _ huses (fun c => [.cause 8 (!c.h.sup || c.h.handler.isNone)])
      (by rw [show (issueCtx w h hd).h.sup = false from hw.2.1]; rfl) _
  case tlbiPage | tlbiPid =>
    exact issue_privileged hi hw (tlbiUses x (.s x.a.toNat 1)) (causes_tlbiUses (hd' rfl) hx hsel (causes_sreg ha)) supervisorUse hlevel _
  case tlbiAll =>
    exact issue_privileged hi hw (tlbiUses x (.rsv x.a.toNat)) (causes_tlbiUses (hd' rfl) hx hsel (causes_rsv (by rw [ha rfl]; rfl)))
      supervisorUse hlevel _
  case sget =>
    exact issue_privileged hi hw [.s x.d.toNat 1, .rsv x.a.toNat, .rsv x.x.toNat] (by simp [causes_sreg, causes_rsv, *])
      (fun c => sgetUses x.sel.toNat c.h.sup) (causes_sgetUses hw hreg) _
  case sset => exact issue_refused hi hw (allSsetUses x) (causes_allSsetUses hw ha (hd' rfl) hx hreg hdroop) _
  case rpace | rinst =>
    exact issue_privileged hi hw [.s x.d.toNat 1, .rsv x.sb.toNat, .rsv x.sf.toNat, .rsv x.x.toNat]
      (by simp [causes_sreg, causes_rsv, *]) supervisorUse hlevel _
  case tseg =>
    exact issue_privileged hi hw [.s x.d.toNat 1, .rsv x.sf.toNat, .rsv x.x.toNat] (by simp [causes_sreg, causes_rsv, *])
      supervisorUse hlevel _

end User

end Sys2Proof.Machine
end

section
/-! SUPPORT. The words that write one lane word to each active lane and are not generic-capable (R51, R137, R153 to R155): when their fields
are legal, and what they leave. The bitwise words, the moves and the select (R167, R171, R174), and the native arithmetic (R161 to R182). -/
namespace Sys2Proof.Machine

/-! Fields. -/

section Fields
variable {r : FmtRule} {mb : BitVec 8} {h : Herd}

theorem mbFmt_lt (mb : BitVec 8) : mbFmt mb < 16 := (mb.extractLsb' 4 4).isLt

/-- Bit 0 of a modifier byte as a reserved field (R128). -/
theorem mbReserved_eq_zero (hmb : mb.getLsbD 0 = false) : (mb.extractLsb' 0 1).toNat = 0 := by
  have hzero : mb.extractLsb' 0 1 = 0#1 := BitVec.eq_of_getLsbD_eq (fun j hj => by
    obtain rfl : j = 0 := by omega
    simpa using hmb)
  rw [hzero]
  rfl

theorem causes_mbUses (hmb : MbOk r mb) : ∀ u ∈ mbUses r mb, u.causes h = [] := by
  obtain ⟨hrsv, hacc⟩ := hmb
  simp [mbUses, Use.causes, mbReserved_eq_zero hrsv, hacc]

/-- A cause whose condition fails is none. -/
theorem causes_cause {n : Nat} {b : Bool} (hb : b = false) : (Use.cause n b).causes h = [] := by simp [Use.causes, hb]

theorem causes_rsv8 {x : BitVec 8} (hx : x = 0#8) : (Use.rsv x.toNat).causes h = [] := causes_rsv (by rw [hx]; rfl)

theorem tagOf_lt (h : Herd) (n : Nat) : h.tagOf n < 16 := (Sparse.get zeros h.vtag n).isLt

theorem movedTag_lt (h : Herd) (a : Nat) (mb : BitVec 8) : movedTag h a mb < 16 := by
  unfold movedTag
  split
  · exact tagOf_lt h a
  · exact mbFmt_lt mb

end Fields

/-! The shape of these words. -/

/-- The issue of a word that writes `val` to the active lanes of V[d], of an opcode that accepts U = 1 when `u` says so. -/
def issueLanes (hd : Header) (u : Bool) (uses : Ctx → List Use) (d : Nat) (tag : Herd → Nat) (val : Herd → List Nat → Nat → Lane) (s : State) :
    Host.Outcome State Fault Refusal :=
  issue hd (fun c => legal u (uses c) c) (fun c _ => .done (vecActs c (u && hd.u) d (tag c.h) (val c.h c.act))) s

/-- The model executes a word as one that writes lanes, and what R137 asks of its fields leaves its uses no cause. -/
structure LaneWord {F : Type} (mk : Header → F → Instr) (u : Bool) (uses : F → Ctx → List Use) (ok : Herd → F → Prop) (d : F → Nat)
    (tag : Herd → F → Nat) (val : Herd → List Nat → F → Nat → Lane) : Prop where
  exec_eq : ∀ hd x s, exec (mk hd x) s = issueLanes hd u (uses x) (d x) (fun h => tag h x) (fun h ls => val h ls x) s
  uses_ok : ∀ (w : Issuer) (h : Herd) (hd : Header) x, d x < h.nregs → ok h x → ∀ y ∈ uses x (issueCtx w h hd), y.causes h = []
  tag_lt : ∀ h x, ok h x → tag h x < 16

section Shape
variable {F : Type} {mk : Header → F → Instr} {u : Bool} {uses : F → Ctx → List Use} {ok : Herd → F → Prop} {d : F → Nat}
  {tag : Herd → F → Nat} {val : Herd → List Nat → F → Nat → Lane}

/-- A legal word of this shape writes its lanes and its tag, and nothing else but the count of issued words changes. -/
theorem LaneWord.writesLanes (hw : LaneWord mk u uses ok d tag val) : WritesLanes mk u ok d tag val := by
  intro s w h hd x hi hplain hd' hok hact
  have hu : (u && hd.u) = hd.u := by
    cases hhd : hd.u with
    | false => exact Bool.and_false u
    | true => rw [hplain.uni hhd]; rfl
  refine ⟨_, _, ?_, finish_done_herd hi hd _, lanesWritten_vec hi.furrows (hw.tag_lt h x hok) hd _⟩
  have hlegal : legal u (uses x (issueCtx w h hd)) (issueCtx w h hd) = none := legal_none hplain _ (hw.uses_ok w h hd x hd' hok)
  rw [hw.exec_eq, issueLanes, issue_legal hi hplain.pred hact (fun c => legal u (uses x c) c) hlegal, hu]
  rfl

end Shape

section Shapes
variable {r : FmtRule} {tag : Herd → F3 → Nat} {val : Herd → List Nat → F3 → Nat → Lane}

/-- An F3 word of two vector sources. -/
theorem writesLanes_src2 {mk : Header → F3 → Instr} {fn : BitVec 8 → Prop} {fnUse : F3 → Use}
    (he : ∀ hd x s, exec (mk hd x) s = issueLanes hd true
      (fun _ => [.v x.d.toNat 1, .v x.a.toNat 1, .v x.b.toNat 1, fnUse x] ++ mbUses r x.mb) x.d.toNat (fun h => tag h x)
      (fun h ls => val h ls x) s)
    (hfn : ∀ h x, fn x.fn → (fnUse x).causes h = []) (htag : ∀ h x, tag h x < 16) :
    WritesLanes mk true (Src2 r fn) (fun x => x.d.toNat) tag val :=
  LaneWord.writesLanes {
    exec_eq := he
    uses_ok := fun _ h _ x hd ⟨ha, hb, hx, hmb⟩ => by
      simp only [List.forall_mem_append, List.forall_mem_cons]
      exact ⟨⟨causes_vreg hd, causes_vreg ha, causes_vreg hb, hfn h x hx, nofun⟩, causes_mbUses hmb⟩
    tag_lt := fun h x _ => htag h x }

/-- An F3 word of one vector source. -/
theorem writesLanes_src1 {mk : Header → F3 → Instr}
    (he : ∀ hd x s, exec (mk hd x) s = issueLanes hd true
      (fun _ => [.v x.d.toNat 1, .v x.a.toNat 1, .rsv x.b.toNat, .rsv x.fn.toNat] ++ mbUses r x.mb) x.d.toNat (fun h => tag h x)
      (fun h ls => val h ls x) s)
    (htag : ∀ h x, tag h x < 16) : WritesLanes mk true (Src1 r) (fun x => x.d.toNat) tag val :=
  LaneWord.writesLanes {
    exec_eq := he
    uses_ok := fun _ h _ x hd ⟨ha, hb, hfn, hmb⟩ => by
      simp only [List.forall_mem_append, List.forall_mem_cons]
      exact ⟨⟨causes_vreg hd, causes_vreg ha, causes_rsv8 hb, causes_rsv8 hfn, nofun⟩, causes_mbUses hmb⟩
    tag_lt := fun h x _ => htag h x }

/-- An F4 word of three vector sources. -/
theorem writesLanes_src3 {mk : Header → F4 → Instr} {tag : Herd → F4 → Nat} {val : Herd → List Nat → F4 → Nat → Lane}
    (he : ∀ hd x s, exec (mk hd x) s = issueLanes hd true
      (fun _ => [.v x.d.toNat 1, .v x.a.toNat 1, .v x.b.toNat 1, .v x.c.toNat 1] ++ mbUses r x.mb) x.d.toNat (fun h => tag h x)
      (fun h ls => val h ls x) s)
    (htag : ∀ h x, tag h x < 16) : WritesLanes mk true (Src3 r) (fun x => x.d.toNat) tag val :=
  LaneWord.writesLanes {
    exec_eq := he
    uses_ok := fun _ h _ x hd ⟨ha, hb, hc, hmb⟩ => by
      simp only [List.forall_mem_append, List.forall_mem_cons]
      exact ⟨⟨causes_vreg hd, causes_vreg ha, causes_vreg hb, causes_vreg hc, nofun⟩, causes_mbUses hmb⟩
    tag_lt := fun h x _ => htag h x }

/-- An FI word of one vector source, with what else its immediate has to meet. -/
theorem writesLanes_srcImm {mk : Header → FI → Instr} {tag : Herd → FI → Nat} {val : Herd → List Nat → FI → Nat → Lane}
    {ok : Herd → FI → Prop} {more : FI → List Use}
    (he : ∀ hd x s, exec (mk hd x) s = issueLanes hd true (fun _ => [.v x.d.toNat 1, .v x.a.toNat 1] ++ more x ++ mbUses r x.mb)
      x.d.toNat (fun h => tag h x) (fun h ls => val h ls x) s)
    (hok : ∀ h x, ok h x → SrcImm r h x ∧ ∀ y ∈ more x, y.causes h = []) (htag : ∀ h x, tag h x < 16) :
    WritesLanes mk true ok (fun x => x.d.toNat) tag val :=
  LaneWord.writesLanes {
    exec_eq := he
    uses_ok := fun _ h _ x hd hx => by
      obtain ⟨⟨ha, hmb⟩, hmore⟩ := hok h x hx
      simp only [List.forall_mem_append, List.forall_mem_cons]
      exact ⟨⟨⟨causes_vreg hd, causes_vreg ha, nofun⟩, hmore⟩, causes_mbUses hmb⟩
    tag_lt := fun h x _ => htag h x }

/-- A word of two sources whose result takes FMT as its tag, and whose selector is reserved. -/
theorem lane2Word_rsv {mk : Header → F3 → Instr} {g : Lane2}
    (he : ∀ hd x s, exec (mk hd x) s = native2 hd x r tagFmt (.rsv x.fn.toNat) g s) : Lane2Word mk r (· = 0#8) (fun _ => g) :=
  writesLanes_src2 he causes_rsv_fn (fun _ x => mbFmt_lt x.mb)

/-- A word of one source whose result takes FMT as its tag. -/
theorem lane1Word_fmt {mk : Header → F3 → Instr} {g : Lane2} (he : ∀ hd x s, exec (mk hd x) s = native1 hd x r tagFmt g s) :
    Lane1Word mk r id g :=
  writesLanes_src1 he (fun _ x => mbFmt_lt x.mb)

/-- A word with any immediate whose result takes FMT as its tag. -/
theorem laneImmWord_fmt {mk : Header → FI → Instr} {g : BitVec 16 → Nat → RMode → Bool → Lane → Lane}
    (he : ∀ hd x s, exec (mk hd x) s = nativeImm hd x r [] tagFmt (g x.imm) s) : LaneImmWord mk r (fun _ => True) id g :=
  writesLanes_srcImm (more := fun _ => []) he (fun _ _ ⟨hx, _⟩ => ⟨hx, nofun⟩) (fun _ x => mbFmt_lt x.mb)

end Shapes

/-! The words. -/

/-- `movi` has no field that could be illegal but its destination (R174). -/
theorem laneWord_movi : LaneWord .movi true (fun x _ => [.v x.d.toNat 1]) (fun _ _ => True) (fun x => x.d.toNat) (fun _ _ => 0)
    (fun _ _ x _ => x.imm) where
  exec_eq _ _ _ := rfl
  uses_ok _ _ _ _ hd _ := List.forall_mem_singleton.mpr (causes_vreg hd)
  tag_lt _ _ _ := by decide

/-- Settles O1: each word is one of its shape in the model, and a legal one of a shape writes its lanes (`LaneWord.writesLanes`). -/
theorem bitwiseWordsComplete : Obligations.BitwiseWordsComplete := by
  have htag (h : Herd) (x : F3) : movedTag h x.a.toNat x.mb < 16 := movedTag_lt h _ _
  have htagImm (h : Herd) (x : FI) : movedTag h x.a.toNat x.mb < 16 := movedTag_lt h _ _
  have himm (h : Herd) (x : FI) (hx : SrcImm ruleBits h x) : SrcImm ruleBits h x ∧ ∀ y ∈ ([] : List Use), y.causes h = [] := ⟨hx, nofun⟩
  refine ⟨?and, ?or, ?xor, ?andn, ?not, ?mov, ?sel, ?andi, ?ori, ?xori, laneWord_movi.writesLanes⟩
  case and | or | xor | andn => exact writesLanes_src2 (fun _ _ _ => rfl) causes_rsv_fn htag
  case not | mov => exact writesLanes_src1 (fun _ _ _ => rfl) htag
  case sel => exact writesLanes_src3 (fun _ _ _ => rfl) (fun h x => movedTag_lt h _ _)
  case andi | ori | xori => exact writesLanes_srcImm (more := fun _ => []) (fun _ _ _ => rfl) himm htagImm

/-- `sgnj` has three forms (R179). -/
theorem causes_sgnj_fn (h : Herd) (x : F3) (hx : x.fn.toNat < 3) : (Use.cause 7 (3 ≤ x.fn.toNat)).causes h = [] :=
  causes_cause (decide_eq_false (by omega))

/-- R182: the element that `pack` and `unpk` name is one of the format's. -/
theorem causes_element {h : Herd} {x : F3} (hx : x.fn.toNat < elemCount (mbFmt x.mb)) :
    (Use.cause 7 (elemCount (mbFmt x.mb) ≤ x.fn.toNat)).causes h = [] :=
  causes_cause (decide_eq_false (by omega))

theorem nativeElementWordsComplete : Sys2Proof.NativeElementWordsComplete := by
  refine ⟨?mulhi, ?shl, ?shr, ?sar, ?rot, ?popc, ?clz, ?ctz, ?brev, ?bfe, ?fclass, ?ldexp, ?sgnj⟩
  case mulhi | shl | shr | sar | rot | bfe | ldexp => exact lane2Word_rsv (fun _ _ _ => rfl)
  case popc | clz | ctz | brev => exact lane1Word_fmt (fun _ _ _ => rfl)
  case fclass => exact writesLanes_src1 (fun _ _ _ => rfl) (fun _ _ => Nat.zero_lt_succ 15)
  case sgnj => exact writesLanes_src2 (fun _ _ _ => rfl) causes_sgnj_fn (fun _ x => mbFmt_lt x.mb)

/-- `cmpi` has the conditions 0 to 5 (R173). -/
theorem causes_cmpi {h : Herd} {x : FI} (hx : x.imm.toNat / 8192 < 6) :
    ∀ y ∈ [Use.cause 7 (6 ≤ x.imm.toNat / 8192)], y.causes h = [] :=
  List.forall_mem_singleton.mpr (causes_cause (decide_eq_false (by omega)))

/-- `pack`: two sources, and an element of the format (R182). -/
theorem laneWord_pack : LaneWord .pack true
    (fun x _ => [.v x.d.toNat 1, .v x.a.toNat 1, .v x.b.toNat 1, .cause 7 (elemCount (mbFmt x.mb) ≤ x.fn.toNat)] ++ mbUses rulePack x.mb)
    (fun h x => Src2 rulePack (fun _ => True) h x ∧ x.fn.toNat < elemCount (mbFmt x.mb))
    (fun x => x.d.toNat) (fun _ x => mbFmt x.mb) (fun h _ x l => buildWord (mbFmt x.mb) (fun i =>
      if i = x.fn.toNat then element (h.vreg x.b.toNat l) (mbFmt x.mb) 0 else element (h.vreg x.a.toNat l) (mbFmt x.mb) i)) where
  exec_eq _ _ _ := rfl
  uses_ok := fun _ h _ x hd hx => by
    obtain ⟨⟨ha, hb, -, hmb⟩, hel⟩ := hx
    simp only [List.forall_mem_append, List.forall_mem_cons]
    exact ⟨⟨causes_vreg hd, causes_vreg ha, causes_vreg hb, causes_element hel, nofun⟩, causes_mbUses hmb⟩
  tag_lt _ x _ := mbFmt_lt x.mb

/-- `unpk`: one source, and an element of the format (R182). -/
theorem laneWord_unpk : LaneWord .unpk true
    (fun x _ => [.v x.d.toNat 1, .v x.a.toNat 1, .rsv x.b.toNat, .cause 7 (elemCount (mbFmt x.mb) ≤ x.fn.toNat)] ++ mbUses rulePack x.mb)
    (fun h x => x.a.toNat < h.nregs ∧ x.b = 0#8 ∧ x.fn.toNat < elemCount (mbFmt x.mb) ∧ MbOk rulePack x.mb) (fun x => x.d.toNat)
    (fun _ x => mbFmt x.mb) (fun h _ x l => BitVec.ofNat 32 (element (h.vreg x.a.toNat l) (mbFmt x.mb) x.fn.toNat)) where
  exec_eq _ _ _ := rfl
  uses_ok := fun _ h _ x hd hx => by
    obtain ⟨ha, hb, hel, hmb⟩ := hx
    simp only [List.forall_mem_append, List.forall_mem_cons]
    exact ⟨⟨causes_vreg hd, causes_vreg ha, causes_rsv8 hb, causes_element hel, nofun⟩, causes_mbUses hmb⟩
  tag_lt _ x _ := mbFmt_lt x.mb

/-- A word that writes a tag and no lane (R181). -/
theorem lanesWritten_tag (h : Herd) {f d tag : Nat} (ht : tag < 16) (g : Nat → Lane) :
    LanesWritten h ((h.acts [.vtag d (BitVec.ofNat 4 tag)]).acts (moveTo h (h.group f) ((h.fur f).pc + 8#64))) f d [] tag g h.holds := by
  obtain ⟨hmoved, hfur⟩ := acts_moveTo (h.acts [.vtag d (BitVec.ofNat 4 tag)]) h (h.group f) ((h.fur f).pc + 8#64) (group_lt h f)
  refine ⟨nofun, fun n l _ _ => ?_, ?_, fun n hn => ?_, hfur, ?_⟩ <;> rw [hmoved]
  · rfl
  · simp [Herd.tagOf, Sparse.get_set, Nat.mod_eq_of_lt ht]
  · simp [Herd.tagOf, Sparse.get_set, hn]
  · rfl

theorem tagCompletes (s : State) (w : Issuer) (h : Herd) (hd : Header) (x : F3) (hi : Issues s w h) (hplain : PlainHeader h hd true)
    (hd' : x.d.toNat < h.nregs) (ha : x.a = 0#8) (hb : x.b = 0#8) (hfn : x.fn = 0#8) (hmb : MbOk ruleBits x.mb)
    (hact : activeLanes h w.f hd ≠ []) : ∃ t h', exec (.tag hd x) s = .next t ∧ OnlyHerd s t w h h' ∧
      LanesWritten h h' w.f x.d.toNat [] (mbFmt x.mb) (fun _ => 0) h.holds := by
  have huses : ∀ y ∈ [.v x.d.toNat 1, .rsv x.a.toNat, .rsv x.b.toNat, .rsv x.fn.toNat] ++ mbUses ruleBits x.mb, y.causes h = [] := by
    simp only [List.forall_mem_append, List.forall_mem_cons]
    exact ⟨⟨causes_vreg hd', causes_rsv8 ha, causes_rsv8 hb, causes_rsv8 hfn, nofun⟩, causes_mbUses hmb⟩
  refine ⟨_, _, ?_, finish_done_herd hi hd _, lanesWritten_tag h (mbFmt_lt x.mb) _⟩
  exact issue_legal hi hplain.pred hact _ (legal_none hplain _ huses) _

theorem immediateAndThreeSourceWordsComplete : Sys2Proof.ImmediateAndThreeSourceWordsComplete := by
  refine ⟨?addi, ?muli, ?shli, ?shri, ?sari, ?cmpi, ?mini, ?maxi, ?mad, ?dot4, ?bfi, laneWord_pack.writesLanes, laneWord_unpk.writesLanes, tagCompletes⟩
  case addi | muli | shli | shri | sari | mini | maxi => exact laneImmWord_fmt (fun _ _ _ => rfl)
  case cmpi =>
    exact writesLanes_srcImm (fun _ _ _ => rfl) (fun _ _ ⟨hx, himm⟩ => ⟨hx, causes_cmpi himm⟩) (fun _ _ => Nat.zero_lt_succ 15)
  case mad => exact writesLanes_src3 (fun _ _ _ => rfl) (fun _ x => mbFmt_lt x.mb)
  case dot4 => exact writesLanes_src3 (fun _ _ _ => rfl) (fun _ _ => by split <;> decide)
  case bfi => exact writesLanes_src3 (fun _ _ _ => rfl) (fun h x => movedTag_lt h _ _)

/-- Settles O2: each word is one of its shape in the model (`LaneWord`), and `tag` writes its tag alone (`lanesWritten_tag`). -/
theorem nativeArithmeticWordsComplete : Obligations.NativeArithmeticWordsComplete :=
  ⟨nativeElementWordsComplete, immediateAndThreeSourceWordsComplete⟩

end Sys2Proof.Machine
end

section
/-! SUPPORT. The generic-capable arithmetic whose site is rewritten (R157, R271 to R274, R277, R278): an unresolved word that quickens and a
quickened one that widens, each with its compare-and-swap pending. -/
namespace Sys2Proof.Machine

/-! A word with a rewrite. -/

/-- A list of holds, set before acts that place furrows, is set after them. -/
theorem acts_furrow_holds (hs : List Hold) : ∀ (l : List HAct) (g : Herd), (∀ a ∈ l, ∃ f r, a = HAct.furrow f r) →
    ({ g with holds := hs } : Herd).acts l = { g.acts l with holds := hs }
  | [], _, _ => rfl
  | a :: l, g, hl => by
    obtain ⟨f, r, rfl⟩ := hl a (List.mem_cons_self ..)
    exact acts_furrow_holds hs l (g.act (.furrow f r)) (fun b hb => hl b (List.mem_cons_of_mem _ hb))

/-- A word that writes lanes, with other holds. -/
theorem lanesWritten_withHolds {h g : Herd} {f d tag : Nat} {ls : List Nat} {val : Nat → Lane} {hs hs' : List Hold}
    (hw : LanesWritten h g f d ls tag val hs) : LanesWritten h { g with holds := hs' } f d ls tag val hs' where
  lanes := hw.lanes
  vregs := hw.vregs
  tag := hw.tag
  tags := hw.tags
  pcs := hw.pcs
  rest := congrArg (fun x : Herd => { x with holds := hs' }) hw.rest

section Rewrite
variable {s : State} {w : Issuer} {h : Herd} {hd : Header}

/-- A word that writes the lanes of V[d] and leaves its compare-and-swap pending (R274). -/
theorem finish_rewrite (hi : Issues s w h) {d tag : Nat} (ht : tag < 16) (u : Bool) (val : Nat → Lane) (old new : Word) (widen : Bool) :
    ∃ t h', run s ((issueCtx w h hd).finish s (withRewrite (issueCtx w h hd) s old new widen
        (.done (vecActs (issueCtx w h hd) u d tag val)))) = t ∧ OnlyHerd s t w h h' ∧
      LanesWritten h h' w.f d (activeLanes h w.f hd) tag (fun l => val (if u then (activeLanes h w.f hd).headD 0 else l))
        (h.holds ++ [rewriteOf w h old new widen]) := by
  let lanes := (activeLanes h w.f hd).map (fun l => HAct.v (vkey d l) [val (useLane (issueCtx w h hd) u l)]) ++
    [.vtag d (BitVec.ofNat 4 tag)]
  let hold := HAct.holds (h.holds ++ [rewriteOf w h old new widen])
  have hacts : withRewrite (issueCtx w h hd) s old new widen (.done (vecActs (issueCtx w h hd) u d tag val))
      = .done (herdActs w.key (lanes ++ [hold])) := by
    rw [herdActs, List.map_append]
    rfl
  have hwritten := lanesWritten_withHolds (hs' := h.holds ++ [rewriteOf w h old new widen])
    (lanesWritten_vec (f := w.f) (d := d) hi.furrows ht hd (fun l => val (useLane (issueCtx w h hd) u l)))
  rw [← acts_furrow_holds _ _ _ (fun a ha => by
    obtain ⟨j, -, rfl⟩ := List.mem_map.mp ha
    exact ⟨_, _, rfl⟩)] at hwritten
  refine ⟨_, _, by rw [hacts], finish_done_herd hi hd (lanes ++ [hold]), ?_⟩
  rw [Herd.acts_append]
  exact hwritten

end Rewrite

/-! Sites. -/

section Site
variable {w : Issuer} {h : Herd} {hd : Header} {r : FmtRule} {mb : BitVec 8} {tags : List Nat} {f : Nat} {u : Bool}
variable {i : Instr} {eff : Nat → Bool → Ctx → State → Res} {s : State}

/-- R272: uniformity as the model finds it. -/
theorem isUniform_iff {srcs : List Nat} : isUniform (issueCtx w h hd) srcs = true ↔
    2 ≤ (activeLanes h w.f hd).length ∧ OneValue h (activeLanes h w.f hd) srcs := by
  simp only [isUniform, oneValue, OneValue, Bool.and_eq_true, List.all_eq_true, decide_eq_true_eq]
  rfl

/-- R271 to R274: an unresolved site whose tags agree on an accepted format quickens. -/
theorem genericArith_unresolved (htags : tags ≠ []) (hss : hd.ss = 1#2) (hf : ∀ n ∈ tags, h.tagOf n = f) (hacc : r.accepts f mb = true)
    (hu : u = true ↔ 2 ≤ (activeLanes h w.f hd).length ∧ OneValue h (activeLanes h w.f hd) tags) :
    genericArith i r (fun _ => true) mb tags (fun _ => tags) eff (issueCtx w h hd) s =
      withRewrite (issueCtx w h hd) s ((encode i).getD 0) (setBits (quickened ((encode i).getD 0) u) 4 4 f) false
        (eff f u (issueCtx w h hd) s) := by
  have hdr : (issueCtx w h hd).hdr = hd := rfl
  obtain rfl : isUniform (issueCtx w h hd) tags = u := Bool.eq_iff_iff.mpr (isUniform_iff.trans hu.symm)
  simp only [genericArith, hdr, hss, tagFormat_some htags hf hacc]
  rfl

/-- R277, R278: a quickened site widens when its guard fails: the tags differ from its format, or its operands are not uniform. -/
theorem genericArith_guardFails (htags : tags ≠ []) (hss : hd.ss = 2#2) (hf : ∀ n ∈ tags, h.tagOf n = f) (hacc : r.accepts f mb = true)
    (hguard : f ≠ mbFmt mb ∨ hd.u = true ∧ ¬ OneValue h (activeLanes h w.f hd) tags) :
    genericArith i r (fun _ => true) mb tags (fun _ => tags) eff (issueCtx w h hd) s =
      withRewrite (issueCtx w h hd) s ((encode i).getD 0) (setBits (widened ((encode i).getD 0)) 4 4 0) true
        (eff f false (issueCtx w h hd) s) := by
  have hdr : (issueCtx w h hd).hdr = hd := rfl
  have hfails : (tags.all (fun n => decide ((issueCtx w h hd).h.tagOf n = mbFmt mb)) && (!hd.u || oneValue (issueCtx w h hd) tags)) = false := by
    rw [Bool.and_eq_false_iff]
    obtain hne | ⟨hu, hvals⟩ := hguard
    · left
      obtain ⟨n, hn⟩ := List.exists_mem_of_ne_nil tags htags
      refine List.all_eq_false.mpr ⟨n, hn, ?_⟩
      have htag : (issueCtx w h hd).h.tagOf n = f := hf n hn
      simpa [htag] using hne
    · right
      rw [hu, Bool.not_true, Bool.false_or]
      refine Bool.eq_false_iff.mpr (fun hone => hvals ?_)
      simpa [oneValue, OneValue, issueCtx, Ctx.low] using hone
  simp only [genericArith, hdr, hss, hfails, tagFormat_some htags hf hacc]
  rfl

end Site

/-! Words. -/

section Word
variable {F : Type} {g : Sys2Proof.GenWord F} {uses : F → List Use}

theorem Described.tag_lt_of_accepts (hg : Described g uses) {f : Nat} {mb : BitVec 8} (hacc : g.r.accepts f mb = true) : g.tag f < 16 := by
  refine hg.tag_lt f ?_
  simp only [FmtRule.accepts, Bool.and_eq_true, List.contains_iff_mem] at hacc
  exact hacc.1.1

/-- A legal word whose site makes a rewrite of its effect completes with it, the compare-and-swap pending. -/
theorem Described.rewrites (hg : Described g uses) {s : State} {w : Issuer} {h : Herd} {hd : Header} {x : F} {f : Nat} {u widen : Bool}
    {old new : Word} (hi : Issues s w h) (hs : SiteLegal h hd g.r (g.mb x)) (hd' : g.d x < h.nregs) (hsrcs : ∀ n ∈ g.srcs x, n < h.nregs)
    (hok : g.ok x) (ha : activeLanes h w.f hd ≠ []) (hacc : g.r.accepts f (g.mb x) = true)
    (hsite : ∀ eff : Nat → Bool → Ctx → State → Res, genericArith (g.ctor hd x) g.r (fun _ => true) (g.mb x) (g.srcs x) (fun _ => g.srcs x) eff
      (issueCtx w h hd) s = withRewrite (issueCtx w h hd) s old new widen (eff f u (issueCtx w h hd) s)) :
    ∃ t h', exec (g.ctor hd x) s = .next t ∧ OnlyHerd s t w h h' ∧
      LanesWritten h h' w.f (g.d x) (activeLanes h w.f hd) (g.tag f)
        (fun l => g.val f h x (if u then (activeLanes h w.f hd).headD 0 else l)) (h.holds ++ [rewriteOf w h old new widen]) := by
  obtain ⟨t, h', hrun, honly, hlanes⟩ := finish_rewrite (hd := hd) hi (d := g.d x) (hg.tag_lt_of_accepts hacc) u (g.val f h x) old new widen
  refine ⟨t, h', ?_, honly, hlanes⟩
  rw [hg.exec_eq, issue_legal hi hs.pred ha _ (hs.legalGen (hg.uses_ok h x hd' hsrcs hok)), hsite, ← hrun]
  rfl

/-- Every word of the description has an encoding. -/
def Encodes (g : Sys2Proof.GenWord F) : Prop := ∀ hd x, ∃ word, encode (g.ctor hd x) = some word

/-- An unresolved word quickens (R271 to R274). -/
theorem Described.unresolvedResolves (hg : Described g uses) (henc : Encodes g) : UnresolvedResolves g := by
  intro s w h hd x f u hi hp hss hwc huni hrsv hfmt htags hacc hd' hsrcs hok ha hu
  obtain ⟨word, hword⟩ := henc hd x
  have hs : SiteLegal h hd g.r (g.mb x) := ⟨hp, .inr (.inl ⟨hss, hwc, huni⟩), hrsv, by simp [hss], fun _ => hfmt⟩
  obtain ⟨t, h', hdone⟩ := hg.rewrites hi hs hd' hsrcs hok ha hacc
    (fun eff => genericArith_unresolved (eff := eff) (hg.srcs_ne x) hss htags hacc hu)
  rw [hword] at hdone
  exact ⟨t, h', word, hword, hdone⟩

/-- A quickened word whose guard fails widens (R277, R278). -/
theorem Described.guardFailureWidens (hg : Described g uses) (henc : Encodes g) : GuardFailureWidens g := by
  intro s w h hd x f hi hp hss hwc hrsv hnamed hguard htags hacc hd' hsrcs hok ha
  obtain ⟨word, hword⟩ := henc hd x
  have hs : SiteLegal h hd g.r (g.mb x) := ⟨hp, .inr (.inr (.inl ⟨hss, hwc⟩)), hrsv, fun _ => hnamed, by simp [hss]⟩
  obtain ⟨t, h', hdone⟩ := hg.rewrites hi hs hd' hsrcs hok ha hacc
    (fun eff => genericArith_guardFails (eff := eff) (hg.srcs_ne x) hss htags hacc hguard)
  rw [hword] at hdone
  exact ⟨t, h', word, hword, hdone⟩

end Word

theorem encodes_genericF3 : ∀ g ∈ genericF3, Encodes g := by
  simp only [genericF3, List.forall_mem_cons]
  refine ⟨?_, ?_, ?_, ?_, ?_, ?_, ?_, ?_, ?_, ?_, ?_, ?_, ?_, ?_, ?_, ?_, ?_, ?_, nofun⟩
  all_goals exact fun _ _ => ⟨_, rfl⟩

theorem encodes_fma : Encodes genericFma := fun _ _ => ⟨_, rfl⟩

theorem unresolvedArithmeticResolves : Sys2Proof.UnresolvedArithmeticResolves := by
  refine ⟨fun g hg => ?_, described_fma.unresolvedResolves encodes_fma⟩
  obtain ⟨uses, hdesc⟩ := described_genericF3 g hg
  exact hdesc.unresolvedResolves (encodes_genericF3 g hg)

theorem failedGuardWidens : Sys2Proof.FailedGuardWidens := by
  refine ⟨fun g hg => ?_, described_fma.guardFailureWidens encodes_fma⟩
  obtain ⟨uses, hdesc⟩ := described_genericF3 g hg
  exact hdesc.guardFailureWidens (encodes_genericF3 g hg)

/-- Settles O4: the site finds its format in the tags and asks for its rewrite (`genericArith_unresolved`, `genericArith_guardFails`), and the
word writes its lanes with the compare-and-swap pending (`finish_rewrite`). -/
theorem sitesRewriteThemselves : Obligations.SitesRewriteThemselves := ⟨unresolvedArithmeticResolves, failedGuardWidens⟩

end Sys2Proof.Machine
end

section
/-! SUPPORT. A trap after a completed word (R355, R356), and the conversions (R84 to R86, R180). -/
namespace Sys2Proof.Machine

/-! The trap. -/

/-- What trap entry does rests on no free value. -/
theorem takeTrap_freeCtr (t : State) (n : Nat) {h : Herd} (hh : h.handler = none) (i : TrapInfo) :
    takeTrap { t with freeCtr := n } h i = takeTrap t h i := by
  simp only [takeTrap, hh, Option.isSome_none, Bool.false_eq_true, if_false]
  rfl

section After
variable {s t : State} {w : Issuer} {h h' : Herd} {hd : Header} {a : List Act} {i : TrapInfo}

/-- R356: with no other group that can issue, or in a handler, no other group of the cycle may still trap. -/
theorem not_mates (halone : Alone h w.f ∨ h.handler ≠ none) : (issueCtx w h hd).mates = false := by
  obtain halone | hhandler := halone
  · have hnone : h.idxs.any (fun j => decide (j ≠ w.f) && h.canIssue j && !h.pendSeen.getLsbD j) = false := by
      refine List.any_eq_false.mpr (fun j hj => ?_)
      by_cases hjf : j = w.f
      · simp [hjf]
      · simp [halone j (List.mem_range.mp hj) hjf]
    exact Bool.and_eq_false_iff.mpr (.inr hnone)
  · exact Bool.and_eq_false_iff.mpr (.inl (by rwa [Option.isNone_eq_false_iff, ← Option.ne_none_iff_isSome]))

/-- R356: a pending trap changes the pending traps of its herd, and nothing else. -/
theorem run_pendActs (hkey : h.key = w.key) (hnow : t.herd? w.key = some h') :
    run t (pendActs h i) = { t with herds := (run t (pendActs h i)).herds } ∧
      (run t (pendActs h i)).herd? h.key = some { h' with
        pend := h.pend ++ [(i.group, i)], pendSeen := h.pendSeen ||| i.group, pendTop := max h.pendTop (lowFur i.group) } := by
  refine ⟨rfl, ?_⟩
  have hself := herd?_herdActs_self t w.key [.pend (h.pend ++ [(i.group, i)]) (h.pendSeen ||| i.group) (max h.pendTop (lowFur i.group))]
  rw [hnow] at hself
  rw [hkey]
  simp only [pendActs, pendMark, hkey]
  exact hself

/-- R355, R356: what a word leaves that has completed by `a` and takes a trap then. -/
theorem takenAfter_afterTrap (hkey : h.key = w.key) (hrun : run s a = t) (hnow : t.herd? w.key = some h') (hctr : t.freeCtr = s.freeCtr)
    (hhandler : h'.handler = h.handler) : TakenAfter s t (run s (afterTrap (issueCtx w h hd) s a i)) h h' w.f i := by
  have hpend := run_pendActs (h := h) (i := i) hkey hnow
  have hself : t.herd? (issueCtx w h hd).key = some h' := hnow
  refine ⟨fun hbefore => ?pends, fun halone hbefore => ?alone, fun hbefore hnone => ?beside⟩
  case pends =>
    have hr : run s (afterTrap (issueCtx w h hd) s a i) = run t (pendActs h i) := by
      rw [afterTrap, if_pos (show pendBefore (issueCtx w h hd).h i.group = true from hbefore), run_append, hrun]
      rfl
    obtain ⟨hframe, hpended⟩ := hpend
    rw [hr]
    exact ⟨⟨_, hpended, rfl, hframe⟩, rfl⟩
  case alone =>
    rw [afterTrap, if_neg (by rw [Bool.not_eq_true]; exact hbefore), not_mates halone, if_neg Bool.false_ne_true, thenTrap, run_two, hrun, hself]
  case beside =>
    rw [afterTrap, if_neg (by rw [Bool.not_eq_true]; exact hbefore)]
    split
    · rw [run_two, hrun]
      split
      · right; left
        rw [run_cons]
        obtain ⟨hframe, hpended⟩ := run_pendActs (t := t.act (.free 1)) (h := h) (h' := h') (i := i) hkey hnow
        exact ⟨_, hpended, rfl, hframe⟩
      · right; right
        rw [run_cons, hself, takeTrap_freeCtr _ _ (hhandler.trans hnone), ← hctr]
        rfl
    · left
      rw [thenTrap, run_two, hrun, hself]

end After

/-! The counters (R84, R85). -/

theorem toNat_convAdd (c : BitVec 32) (n : Nat) : (convAdd c n).toNat = min (c.toNat + n) 0xFFFFFFFF := by
  rw [convAdd, BitVec.toNat_ofNat, Nat.mod_eq_of_lt (by omega)]

/-! Sites whose uniformity sources depend on the format, and whose format has to meet a condition of its own (R157, R180, R269). -/

section Site
variable {w : Issuer} {h : Herd} {hd : Header} {r : FmtRule} {mb : BitVec 8} {tags : List Nat} {srcs : Nat → List Nat} {f : Nat} {u : Bool}
variable {i : Instr} {ok : Nat → Bool} {eff : Nat → Bool → Ctx → State → Res} {s : State}

theorem tagFormat_accepted (htags : tags ≠ []) (hf : ∀ n ∈ tags, h.tagOf n = f) (hacc : r.accepts f mb = true) (hok : ok f = true) :
    tagFormat (issueCtx w h hd) r ok mb tags = some f := by
  cases tags with
  | nil => exact absurd rfl htags
  | cons n ns =>
    obtain ⟨hn, hns⟩ := List.forall_mem_cons.mp hf
    have hall : ns.all (fun m => decide (h.tagOf m = f)) = true := List.all_eq_true.mpr (fun m hm => decide_eq_true (hns m hm))
    simp [tagFormat, issueCtx, hn, hacc, hall, hok]

/-- A settled site has the effect of its format (R134, R271). -/
theorem genericArith_settledBy (htags : tags ≠ []) (hs : SiteSettled h (activeLanes h w.f hd) hd r mb tags (srcs f) f u) (hok : ok f = true) :
    genericArith i r ok mb tags srcs eff (issueCtx w h hd) s = eff f u (issueCtx w h hd) s := by
  have hdr : (issueCtx w h hd).hdr = hd := rfl
  obtain ⟨-, -, hacc, ⟨hss, -, rfl, rfl⟩ | ⟨hss, -, rfl, rfl, hf, huni⟩ | ⟨hss, -, -, rfl, -, hf⟩⟩ := hs
  · simp [genericArith, hdr, hss]
  · have hguard : tags.all (fun n => decide ((issueCtx w h hd).h.tagOf n = mbFmt mb)) = true :=
      List.all_eq_true.mpr (fun n hn => decide_eq_true (hf n hn))
    have hone : (!hd.u || oneValue (issueCtx w h hd) (srcs (mbFmt mb))) = true := by
      cases hu : hd.u with
      | false => rfl
      | true => exact List.all_eq_true.mpr (fun n hn => List.all_eq_true.mpr (fun l hl => decide_eq_true (huni hu n hn l hl)))
    simp only [genericArith, hdr, hss, hguard, hone, Bool.and_self, if_true]
    rfl
  · simp only [genericArith, hdr, hss, tagFormat_accepted htags hf hacc hok]
    rfl

end Site

/-! `cvt`. -/

/-- What R137 and R180 ask of the fields of a `cvt`, its modifier byte apart. -/
def cvtUses (hd : Header) (x : F3) : List Use :=
  [.v x.d.toNat 1, .v x.a.toNat 1, .rsv x.b.toNat, .cause 7 (hd.ss = 0#2 && !cvtOk (x.fn.toNat % 16) (x.fn.toNat / 16) (mbFmt x.mb)),
   .cause 5 (hd.ss = 2#2 && !cvtOk (x.fn.toNat % 16) (x.fn.toNat / 16) (mbFmt x.mb))]

/-- The events that a `cvt` counts (R84, R180). -/
def cvtEvents (h : Herd) (ls : List Nat) (x : F3) (f : Nat) (u : Bool) : ConvCount :=
  convSum ((if u then [ls.headD 0] else ls).map (fun l => (cvtOf h x f l).2))

/-- The effect of a `cvt` from format f. -/
def cvtRes (x : F3) (f : Nat) (u : Bool) (c : Ctx) : Res :=
  countRes c (vecActs c u x.d.toNat (x.fn.toNat % 16) (fun l => (cvtOf c.h x f l).1)) (cvtEvents c.h c.act x f u)

theorem exec_cvt (hd : Header) (x : F3) (s : State) : exec (.cvt hd x) s = issue hd (legalGen (cvtUses hd x ++ mbGenUses ruleCvt hd x.mb))
    (genericArith (.cvt hd x) ruleCvt (cvtOk (x.fn.toNat % 16) (x.fn.toNat / 16)) x.mb [x.a.toNat] (cvtSrcs x)
      (fun f u c _ => cvtRes x f u c)) s := rfl

section Conversion
variable {s : State} {w : Issuer} {h : Herd} {hd : Header} {x : F3} {f : Nat} {u : Bool} {n : ConvCount}

theorem causes_cvtUses {ls tags srcs : List Nat} (hs : SiteSettled h ls hd ruleCvt x.mb tags srcs f u)
    (hok : cvtOk (x.fn.toNat % 16) (x.fn.toNat / 16) f = true) (hd' : x.d.toNat < h.nregs) (ha : x.a.toNat < h.nregs) (hb : x.b = 0#8) :
    ∀ y ∈ cvtUses hd x, y.causes h = [] := by
  have hpart : (hd.ss = 0#2 ∨ hd.ss = 2#2) → cvtOk (x.fn.toNat % 16) (x.fn.toNat / 16) (mbFmt x.mb) = true := by
    obtain ⟨-, -, -, ⟨-, -, rfl, -⟩ | ⟨-, -, rfl, -⟩ | ⟨hss, -⟩⟩ := hs
    · exact fun _ => hok
    · exact fun _ => hok
    · simp [hss]
  simp only [cvtUses, List.forall_mem_cons]
  refine ⟨causes_vreg hd', causes_vreg ha, causes_rsv8 hb, causes_cause ?_, causes_cause ?_, nofun⟩
  · by_cases hss : hd.ss = 0#2
    · simp [hpart (.inl hss)]
    · simp [hss]
  · by_cases hss : hd.ss = 2#2
    · simp [hpart (.inr hss)]
    · simp [hss]

/-- The acts of a `cvt` on its herd: its lanes, its tag and its counters. -/
def cvtHActs (w : Issuer) (h : Herd) (hd : Header) (x : F3) (f : Nat) (u : Bool) : List HAct :=
  (activeLanes h w.f hd).map (fun l => HAct.v (vkey x.d.toNat l) [(cvtOf h x f (if u then (activeLanes h w.f hd).headD 0 else l)).1])
    ++ [.vtag x.d.toNat (BitVec.ofNat 4 (x.fn.toNat % 16))] ++ [convAct h (cvtEvents h (activeLanes h w.f hd) x f u)]

/-- The outcome of a `cvt`: it is done, or a conversion-limit trap follows (R86). -/
theorem cvtRes_eq : cvtRes x f u (issueCtx w h hd) = if crosses h (cvtEvents h (activeLanes h w.f hd) x f u) then
    .after (herdActs w.key (cvtHActs w h hd x f u)) (trapOf 11 0) else .done (herdActs w.key (cvtHActs w h hd x f u)) := by
  rw [cvtHActs, herdActs, List.map_append]
  rfl

/-- The counters, set before acts that place furrows, are set after them. -/
theorem acts_furrow_conv (a b c : BitVec 32) : ∀ (l : List HAct) (g : Herd), (∀ y ∈ l, ∃ f r, y = HAct.furrow f r) →
    ({ g with cvsat := a, cvflush := b, cvnan := c } : Herd).acts l = { g.acts l with cvsat := a, cvflush := b, cvnan := c }
  | [], _, _ => rfl
  | y :: l, g, hl => by
    obtain ⟨f, r, rfl⟩ := hl y (List.mem_cons_self ..)
    exact acts_furrow_conv a b c l (g.act (.furrow f r)) (fun b hb => hl b (List.mem_cons_of_mem _ hb))

/-- The herd that a `cvt` leaves, its counters apart. -/
def convertedHerd (w : Issuer) (h : Herd) (hd : Header) (x : F3) (f : Nat) (u : Bool) : Herd :=
  (h.acts ((activeLanes h w.f hd).map (fun l => HAct.v (vkey x.d.toNat l)
    [(cvtOf h x f (if u then (activeLanes h w.f hd).headD 0 else l)).1]) ++ [.vtag x.d.toNat (BitVec.ofNat 4 (x.fn.toNat % 16))])).acts
      (moveTo h (h.group w.f) ((h.fur w.f).pc + 8#64))

theorem acts_cvtHActs : (h.acts (cvtHActs w h hd x f u)).acts (moveTo h (h.group w.f) ((h.fur w.f).pc + 8#64)) =
    { convertedHerd w h hd x f u with
      cvsat := convAdd h.cvsat (cvtEvents h (activeLanes h w.f hd) x f u).sat
      cvflush := convAdd h.cvflush (cvtEvents h (activeLanes h w.f hd) x f u).flush
      cvnan := convAdd h.cvnan (cvtEvents h (activeLanes h w.f hd) x f u).nan } := by
  rw [cvtHActs, Herd.acts_append]
  exact acts_furrow_conv _ _ _ _ _ (fun a ha => by
    obtain ⟨j, -, rfl⟩ := List.mem_map.mp ha
    exact ⟨_, _, rfl⟩)

end Conversion

/-- Settles O6: a settled `cvt` has the effect of its format (`genericArith_settledBy`), which writes the lanes and the counters
(`acts_cvtHActs`), and where a counter crosses its limit the trap follows as R356 has it (`takenAfter_afterTrap`). -/
theorem conversionCompletes : Obligations.ConversionCompletes := by
  rintro s w h hd x f u n hi hs hok hd' ha hb hact rfl
  have hlanes : LanesWritten h (convertedHerd w h hd x f u) w.f x.d.toNat (activeLanes h w.f hd) (x.fn.toNat % 16)
      (fun l => (cvtOf h x f (if u then (activeLanes h w.f hd).headD 0 else l)).1) h.holds :=
    lanesWritten_vec hi.furrows (Nat.mod_lt _ (by decide)) hd _
  have honly := finish_done_herd hi hd (cvtHActs w h hd x f u)
  rw [acts_cvtHActs] at honly
  have hexec := issue_legal (s := s) hi hs.1 hact _
    ((siteLegal_of_settled hs).legalGen (w := w) (causes_cvtUses hs hok hd' ha hb))
    (genericArith (.cvt hd x) ruleCvt (cvtOk (x.fn.toNat % 16) (x.fn.toNat / 16)) x.mb [x.a.toNat] (cvtSrcs x) (fun f u c _ => cvtRes x f u c))
  rw [genericArith_settledBy (List.cons_ne_nil _ _) hs hok, cvtRes_eq, ← exec_cvt] at hexec
  refine ⟨_, _, honly, ?lanes, toNat_convAdd _ _, toNat_convAdd _ _, toNat_convAdd _ _, fun hcross => ?done, fun hcross hfree => ?after⟩
  case lanes =>
    have hrest := hlanes.rest
    exact { hlanes with rest := congrArg (fun g : Herd => { g with cvsat := h.cvsat, cvflush := h.cvflush, cvnan := h.cvnan }) hrest }
  case done =>
    have hnot : crosses h (cvtEvents h (activeLanes h w.f hd) x f u) = false := hcross
    rw [hexec, hnot, if_neg Bool.false_ne_true]
  case after =>
    have hlimit : crosses h (cvtEvents h (activeLanes h w.f hd) x f u) = true := hcross
    refine ⟨_, by rw [hexec, if_pos hlimit], ?_⟩
    obtain ⟨hwaits, -⟩ := hfree
    have hafter : (issueCtx w h hd).finish s (.after (herdActs w.key (cvtHActs w h hd x f u)) (trapOf 11 0)) =
        afterTrap (issueCtx w h hd) s ((issueCtx w h hd).finish s (.done (herdActs w.key (cvtHActs w h hd x f u))))
          (trapAfterWord w h 11 0 0) := by
      simp only [Ctx.finish, issueCtx, hwaits, Bool.false_eq_true, if_false]
      rfl
    rw [hafter]
    have hhandler := congrArg Herd.handler hlanes.rest
    exact takenAfter_afterTrap (herd?_key hi.herd) rfl honly.now (by rw [honly.rest]) hhandler

end Sys2Proof.Machine
end

section
/-! SUPPORT. The cross-lane words with a vector result (R183 to R186, R188, R189). -/
namespace Sys2Proof.Machine

/-- What a word writes may be said in another way on the operands that are legal. -/
theorem writesLanes_congr {F : Type} {mk : Header → F → Instr} {u : Bool} {ok : Herd → F → Prop} {d : F → Nat} {tag : Herd → F → Nat}
    {val val' : Herd → List Nat → F → Nat → Lane} (hw : WritesLanes mk u ok d tag val)
    (hval : ∀ h ls x l, ok h x → val h ls x l = val' h ls x l) : WritesLanes mk u ok d tag val' := by
  intro s w h hd x hi hplain hd' hok hact
  obtain ⟨t, h', hexec, honly, hlanes⟩ := hw s w h hd x hi hplain hd' hok hact
  refine ⟨t, h', hexec, honly, ?_⟩
  rwa [funext (fun l => hval h (activeLanes h w.f hd) x (opLane h w.f hd l) hok)] at hlanes

/-- R184: the word that `shfl` takes for lane l from the active lanes `ls`. -/
def shuffled (h : Herd) (ls : List Nat) (x : F3) (l : Nat) : Lane :=
  let src := shflSrc x.fn.toNat l (h.vreg x.b.toNat l).toNat
  if 0 ≤ src ∧ src < h.width ∧ ls.contains src.toNat then h.vreg x.a.toNat src.toNat else h.vreg x.a.toNat l

theorem laneWord_shfl : LaneWord .shfl false
    (fun x _ => [.v x.d.toNat 1, .v x.a.toNat 1, .v x.b.toNat 1, .cause 7 (4 ≤ x.fn.toNat), .rsv x.mb.toNat])
    (fun h x => x.a.toNat < h.nregs ∧ x.b.toNat < h.nregs ∧ x.fn.toNat < 4 ∧ x.mb = 0#8) (fun x => x.d.toNat)
    (fun h x => h.tagOf x.a.toNat) shuffled where
  exec_eq _ _ _ := rfl
  uses_ok _ h _ x hd hx := by
    obtain ⟨ha, hb, hfn, hmb⟩ := hx
    simp only [List.forall_mem_cons]
    exact ⟨causes_vreg hd, causes_vreg ha, causes_vreg hb, causes_cause (decide_eq_false (by omega)), causes_rsv8 hmb, nofun⟩
  tag_lt h x _ := tagOf_lt h _

theorem laneWord_bcast : LaneWord .bcast false
    (fun x c => [.v x.d.toNat 1, .v x.a.toNat 1, .rsv x.b.toNat, .cause 7 (c.h.width ≤ x.fn.toNat), .rsv x.mb.toNat])
    (fun h x => x.a.toNat < h.nregs ∧ x.b = 0#8 ∧ x.fn.toNat < h.width ∧ x.mb = 0#8) (fun x => x.d.toNat)
    (fun h x => h.tagOf x.a.toNat) (fun h _ x _ => if h.exited x.fn.toNat then 0#32 else h.vreg x.a.toNat x.fn.toNat) where
  exec_eq _ _ _ := rfl
  uses_ok w h hdr x hd hx := by
    obtain ⟨ha, hb, hfn, hmb⟩ := hx
    have hlane : ¬ (issueCtx w h hdr).h.width ≤ x.fn.toNat := Nat.not_le.mpr hfn
    simp only [List.forall_mem_cons]
    exact ⟨causes_vreg hd, causes_vreg ha, causes_rsv8 hb, causes_cause (decide_eq_false hlane), causes_rsv8 hmb, nofun⟩
  tag_lt h x _ := tagOf_lt h _

theorem laneWord_splat : LaneWord .splat false
    (fun x _ => [.v x.d.toNat 1, .s x.a.toNat 1, .rsv x.b.toNat, .cause 7 (2 ≤ x.fn.toNat), .rsv x.mb.toNat])
    (fun _ x => x.a.toNat < 64 ∧ x.b = 0#8 ∧ x.fn.toNat < 2 ∧ x.mb = 0#8) (fun x => x.d.toNat) (fun _ _ => 0)
    (fun h _ x _ => if x.fn = 0#8 then (h.sreg x.a.toNat).extractLsb' 0 32 else (h.sreg x.a.toNat).extractLsb' 32 32) where
  exec_eq _ _ _ := rfl
  uses_ok _ h _ x hd hx := by
    obtain ⟨ha, hb, hfn, hmb⟩ := hx
    simp only [List.forall_mem_cons]
    exact ⟨causes_vreg hd, causes_sreg ha, causes_rsv8 hb, causes_cause (decide_eq_false (by omega)), causes_rsv8 hmb, nofun⟩
  tag_lt _ _ _ := Nat.zero_lt_succ 15

/-- R188: the reduction over lanes `ls` of the herd, element by element. -/
def reduced (h : Herd) (x : F3) (op : Nat) (ls : List Nat) : Lane :=
  buildWord (mbFmt x.mb) (fun i => reduceEl op (mbFmt x.mb) (mbRm x.mb) (mbSat x.mb)
    (ls.map (fun k => element (h.vreg x.a.toNat k) (mbFmt x.mb) i)))

theorem laneWord_hred : LaneWord .hred false
    (fun x _ => [.v x.d.toNat 1, .v x.a.toNat 1, .rsv x.b.toNat, .cause 7 (6 ≤ x.fn.toNat)] ++ mbUses (ruleRed x.fn.toNat) x.mb)
    (fun h x => x.a.toNat < h.nregs ∧ x.b = 0#8 ∧ x.fn.toNat < 6 ∧ MbOk (ruleRed x.fn.toNat) x.mb) (fun x => x.d.toNat)
    (fun _ x => mbFmt x.mb) (fun h ls x _ => reduced h x x.fn.toNat ls) where
  exec_eq _ _ _ := rfl
  uses_ok _ h _ x hd hx := by
    obtain ⟨ha, hb, hfn, hmb⟩ := hx
    simp only [List.forall_mem_append, List.forall_mem_cons]
    exact ⟨⟨causes_vreg hd, causes_vreg ha, causes_rsv8 hb, causes_cause (decide_eq_false (by omega)), nofun⟩, causes_mbUses hmb⟩
  tag_lt _ x _ := mbFmt_lt x.mb

/-- R189: the lanes that the scan of lane l takes: those below it, and itself when FN bit 3 is zero. -/
def scanned (x : F3) (ls : List Nat) (l : Nat) : List Nat := ls.filter (fun k => k < l || (!x.fn.getLsbD 3 && k = l))

theorem laneWord_hscan : LaneWord .hscan false
    (fun x _ => [.v x.d.toNat 1, .v x.a.toNat 1, .rsv x.b.toNat, .cause 7 (6 ≤ x.fn.toNat % 8 || 16 ≤ x.fn.toNat)]
      ++ mbUses (ruleRed (x.fn.toNat % 8)) x.mb)
    (fun h x => x.a.toNat < h.nregs ∧ x.b = 0#8 ∧ x.fn.toNat < 16 ∧ x.fn.toNat % 8 < 6 ∧ MbOk (ruleRed (x.fn.toNat % 8)) x.mb)
    (fun x => x.d.toNat) (fun _ x => mbFmt x.mb) (fun h ls x l => reduced h x (x.fn.toNat % 8) (scanned x ls l)) where
  exec_eq _ _ _ := rfl
  uses_ok _ h _ x hd hx := by
    obtain ⟨ha, hb, hfn, hop, hmb⟩ := hx
    have hcause : (decide (6 ≤ x.fn.toNat % 8) || decide (16 ≤ x.fn.toNat)) = false := by simp; omega
    simp only [List.forall_mem_append, List.forall_mem_cons]
    exact ⟨⟨causes_vreg hd, causes_vreg ha, causes_rsv8 hb, causes_cause hcause, nofun⟩, causes_mbUses hmb⟩
  tag_lt _ x _ := mbFmt_lt x.mb

/-- Of a selector below 16, bit 3 is zero exactly below 8. -/
theorem fnBit3_eq {fn : BitVec 8} (hfn : fn.toNat < 16) : (!fn.getLsbD 3) = decide (fn.toNat < 8) := by
  have hbit : fn.getLsbD 3 = decide (fn.toNat / 2 ^ 3 % 2 = 1) := Nat.testBit_eq_decide_div_mod_eq
  rw [hbit, ← decide_not, decide_eq_decide]
  omega

/-- Settles O7: each word is one of its shape (`LaneWord`); the lane that `shfl` reads is a member of the active lanes, and the lanes of a
scan are told by FN below 8 (`fnBit3_eq`). -/
theorem crossLaneWordsComplete : Obligations.CrossLaneWordsComplete := by
  refine ⟨writesLanes_congr laneWord_shfl.writesLanes (fun h ls x l _ => ?shfl), laneWord_bcast.writesLanes, laneWord_splat.writesLanes,
    laneWord_hred.writesLanes, writesLanes_congr laneWord_hscan.writesLanes (fun h ls x l hx => ?hscan)⟩
  case shfl => exact if_congr (by rw [List.contains_iff_mem]) rfl rfl
  case hscan =>
    obtain ⟨-, -, hfn, -, -⟩ := hx
    rw [scanned, fnBit3_eq hfn]
    rfl

end Sys2Proof.Machine
end

section
/-! SUPPORT. The words that write one uniform register (R158, R174, R185, R187, R190, R191). -/
namespace Sys2Proof.Machine

/-! The shape of these words. -/

/-- The issue of a word that writes `val` to S[d]. -/
def issueSreg (hd : Header) (uses : Ctx → List Use) (d : Nat) (val : Herd → List Nat → Word) (s : State) :
    Host.Outcome State Fault Refusal :=
  issue hd (fun c => legal false (uses c) c) (fun c _ => .done (uniActs c d (val c.h c.act))) s

/-- The model executes a word as one that writes S[d], and what R137 asks of its fields leaves its uses no cause. -/
structure SregWord {F : Type} (mk : Header → F → Instr) (uses : Header → F → Ctx → List Use) (ok : Herd → Header → F → Prop) (d : F → Nat)
    (val : Herd → List Nat → F → Word) : Prop where
  exec_eq : ∀ hd x s, exec (mk hd x) s = issueSreg hd (uses hd x) (d x) (fun h ls => val h ls x) s
  uses_ok : ∀ (w : Issuer) (h : Herd) (hd : Header) x, d x < 64 → ok h hd x → ∀ y ∈ uses hd x (issueCtx w h hd), y.causes h = []

section Shape
variable {F : Type} {mk : Header → F → Instr} {uses : Header → F → Ctx → List Use} {ok : Herd → Header → F → Prop} {d : F → Nat}
  {val val' : Herd → List Nat → F → Word}

/-- A legal word of this shape writes S[d], and nothing else but the count of issued words changes. -/
theorem SregWord.writesSreg (hw : SregWord mk uses ok d val) : WritesSreg mk ok d val := by
  intro s w h hd x hi hplain hd' hok hact
  refine ⟨_, _, ?_, finish_done_herd hi hd _, sregWritten_s h w.f (d x) _⟩
  have hlegal : legal false (uses hd x (issueCtx w h hd)) (issueCtx w h hd) = none := legal_none hplain _ (hw.uses_ok w h hd x hd' hok)
  rw [hw.exec_eq, issueSreg, issue_legal hi hplain.pred hact (fun c => legal false (uses hd x c) c) hlegal]
  rfl

/-- What a word writes may be said in another way on the operands that are legal. -/
theorem writesSreg_congr (hw : WritesSreg mk ok d val) (hval : ∀ h hd ls x, ok h hd x → val h ls x = val' h ls x) :
    WritesSreg mk ok d val' := by
  intro s w h hd x hi hplain hd' hok hact
  obtain ⟨t, h', hexec, honly, hsreg⟩ := hw s w h hd x hi hplain hd' hok hact
  exact ⟨t, h', hexec, honly, hval h hd (activeLanes h w.f hd) x hok ▸ hsreg⟩

end Shape

section Shapes
variable {h : Herd} {hd : Header}

theorem causes_uniPred (hp : UniPred hd) : (uniPred hd).causes h = [] :=
  causes_cause (by
    cases hpe : hd.pe with
    | false => rfl
    | true => simp [hp hpe])

theorem causes_uniMb {cmp : Bool} {mb : BitVec 8} (hmb : UniMb cmp mb) : ∀ y ∈ uniMb cmp mb, y.causes h = [] := by
  obtain ⟨hrsv, hrest, hfmt⟩ := hmb
  simp only [uniMb, List.forall_mem_cons]
  refine ⟨causes_rsv (mbReserved_eq_zero hrsv), causes_cause ?_, causes_cause (by simp [hrest]), nofun⟩
  cases cmp with
  | false => simpa using hfmt
  | true => simpa [or_iff_not_imp_left] using hfmt

/-- An F3 word on S[A] and S[B]. -/
theorem writesSreg_uni2 {mk : Header → F3 → Instr} {cmp : Bool} {fn : BitVec 8 → Prop} {fnUse : F3 → Use} {g : F3 → Word → Word → Word}
    (he : ∀ hd x s, exec (mk hd x) s = uni2 hd x cmp (fnUse x) (g x) s) (hfn : ∀ h x, fn x.fn → (fnUse x).causes h = []) :
    WritesSreg mk (fun _ hd x => UniPred hd ∧ x.a.toNat < 64 ∧ x.b.toNat < 64 ∧ fn x.fn ∧ UniMb cmp x.mb) (fun x => x.d.toNat)
      (fun h _ x => g x (h.sreg x.a.toNat) (h.sreg x.b.toNat)) :=
  SregWord.writesSreg (uses := fun hd x _ => [.s x.d.toNat 1, .s x.a.toNat 1, .s x.b.toNat 1, fnUse x, uniPred hd] ++ uniMb cmp x.mb) {
    exec_eq := he
    uses_ok := fun _ h _ x hd hok => by
      obtain ⟨hp, ha, hb, hx, hmb⟩ := hok
      simp only [List.forall_mem_append, List.forall_mem_cons]
      exact ⟨⟨causes_sreg hd, causes_sreg ha, causes_sreg hb, hfn h x hx, causes_uniPred hp, nofun⟩, causes_uniMb hmb⟩ }

/-- Such a word whose selector is reserved. -/
theorem uni2Word_rsv {mk : Header → F3 → Instr} {cmp : Bool} {g : BitVec 8 → Nat → Word → Word → Word}
    (he : ∀ hd x s, exec (mk hd x) s = uni2 hd x cmp (.rsv x.fn.toNat) (g x.fn (mbFmt x.mb)) s) : Uni2Word mk cmp (· = 0#8) g :=
  writesSreg_uni2 (fn := (· = 0#8)) (g := fun x => g x.fn (mbFmt x.mb)) he causes_rsv_fn

/-- Its value may be said in another way. -/
theorem uni2Word_congr {mk : Header → F3 → Instr} {cmp : Bool} {fn : BitVec 8 → Prop} {g g' : BitVec 8 → Nat → Word → Word → Word}
    (hw : Uni2Word mk cmp fn g) (hg : ∀ n f a b, g n f a b = g' n f a b) : Uni2Word mk cmp fn g' :=
  writesSreg_congr hw (fun _ _ _ _ _ => hg _ _ _ _)

/-- An FI word on S[A] and the immediate. -/
theorem sregWord_uniImm {mk : Header → FI → Instr} {g : BitVec 16 → Word → Word}
    (he : ∀ hd x s, exec (mk hd x) s = uniImm hd x (g x.imm) s) :
    SregWord mk (fun hd x _ => [.s x.d.toNat 1, .s x.a.toNat 1, uniPred hd] ++ uniMb false x.mb)
      (fun _ hd x => UniPred hd ∧ x.a.toNat < 64 ∧ UniMb false x.mb) (fun x => x.d.toNat) (fun h _ x => g x.imm (h.sreg x.a.toNat)) where
  exec_eq := he
  uses_ok _ h _ x hd hok := by
    obtain ⟨hp, ha, hmb⟩ := hok
    simp only [List.forall_mem_append, List.forall_mem_cons]
    exact ⟨⟨causes_sreg hd, causes_sreg ha, causes_uniPred hp, nofun⟩, causes_uniMb hmb⟩

theorem uniImmWord {mk : Header → FI → Instr} {g : BitVec 16 → Word → Word} (he : ∀ hd x s, exec (mk hd x) s = uniImm hd x (g x.imm) s) :
    UniImmWord mk g :=
  (sregWord_uniImm he).writesSreg

end Shapes

/-! Values. -/

theorem uniLt_iff (f : Nat) (a b : Word) : uniLt f a b = true ↔ uniInt f a < uniInt f b := by
  unfold uniLt uniInt
  split
  · exact BitVec.slt_iff_toInt_lt
  · rw [BitVec.ult_iff_lt, BitVec.lt_def, Int.ofNat_lt]

theorem uniInt_inj (f : Nat) (a b : Word) : uniInt f a = uniInt f b ↔ a = b := by
  unfold uniInt
  split
  · exact BitVec.toInt_inj
  · rw [Int.ofNat_inj, BitVec.toNat_inj]

/-- R172, R191: the conditions of `scmp`. -/
theorem uniCond_iff {fn : Nat} (hfn : fn < 6) (f : Nat) (a b : Word) : uniCond fn f a b = true ↔ condOf fn (uniInt f a) (uniInt f b) := by
  obtain rfl | rfl | rfl | rfl | rfl | rfl : fn = 0 ∨ fn = 1 ∨ fn = 2 ∨ fn = 3 ∨ fn = 4 ∨ fn = 5 := by omega
  all_goals simp [uniCond, condOf, uniLt_iff, uniInt_inj, ← Bool.not_eq_true]

/-- R191: the arithmetic shift is a division that rounds down. -/
theorem ssarW_eq (a : Word) (n : Nat) : ssarW a n = BitVec.ofInt 64 (a.toInt / ((2 ^ min n 63 : Nat) : Int)) := by
  have hn : (if n < 64 then n else 63) = min n 63 := by split <;> omega
  rw [ssarW, hn, BitVec.sshiftRight, Int.shiftRight_eq_div_pow]

/-- The mask of some indices has their bits. -/
theorem getLsbD_foldl_maskOf {w b : Nat} (hb : b < w) : ∀ (is : List Nat) (m : BitVec w),
    (is.foldl (fun m i => m ||| BitVec.ofNat w (2 ^ i)) m).getLsbD b = (m.getLsbD b || decide (b ∈ is))
  | [], m => by simp
  | i :: is, m => by
    have hbit : (BitVec.ofNat w (2 ^ i)).getLsbD b = decide (b = i) := by
      rw [BitVec.getLsbD_ofNat, Nat.testBit_two_pow, decide_eq_true hb, Bool.true_and, decide_eq_decide, eq_comm]
    rw [List.foldl_cons, getLsbD_foldl_maskOf hb is, BitVec.getLsbD_or, hbit]
    by_cases e : b = i <;> simp [e]

theorem getLsbD_maskOf_of_lt {w b : Nat} (hb : b < w) (is : List Nat) : (maskOf w is).getLsbD b = decide (b ∈ is) := by
  rw [maskOf, getLsbD_foldl_maskOf hb is]
  simp

/-- R187: lane l votes with bit 0 of V[a]. -/
def votesOne (h : Herd) (a l : Nat) : Bool := (h.vreg a l).getLsbD 0

/-- R187: the outcome of a vote from the lanes that vote with one. -/
def voted (h : Herd) (ls : List Nat) (x : F3) : Word :=
  let n := (ls.filter (votesOne h x.a.toNat)).length
  if (if x.fn = 0#8 then decide (n = ls.length) else if x.fn = 1#8 then decide (n ≠ 0) else decide (n = 0) || decide (n = ls.length))
    then 1 else 0

/-- All, any and one of the two, in lanes. -/
theorem voted_eq (h : Herd) (ls : List Nat) (x : F3) : voted h ls x =
    if x.fn = 0#8 then (if ls.all (votesOne h x.a.toNat) then 1#64 else 0#64)
    else if x.fn = 1#8 then (if ls.any (votesOne h x.a.toNat) then 1#64 else 0#64)
    else if ls.all (votesOne h x.a.toNat) || !ls.any (votesOne h x.a.toNat) then 1#64 else 0#64 := by
  have hall : decide ((ls.filter (votesOne h x.a.toNat)).length = ls.length) = ls.all (votesOne h x.a.toNat) := by
    rw [Bool.eq_iff_iff, decide_eq_true_eq, List.length_filter_eq_length_iff, List.all_eq_true]
  have hany : decide ((ls.filter (votesOne h x.a.toNat)).length = 0) = !ls.any (votesOne h x.a.toNat) := by
    rw [Bool.eq_iff_iff, decide_eq_true_eq, List.length_eq_zero_iff, List.filter_eq_nil_iff]
    simp
  simp only [voted, decide_not, hall, hany, Bool.not_not, Bool.or_comm]
  by_cases h0 : x.fn = 0#8
  · simp [h0]
  · by_cases h1 : x.fn = 1#8 <;> simp [h0, h1]

/-! Words. -/

theorem sregWord_vote : SregWord .vote
    (fun _ x _ => [.s x.d.toNat 1, .v x.a.toNat 1, .rsv x.b.toNat, .cause 7 (3 ≤ x.fn.toNat), .rsv x.mb.toNat])
    (fun h _ x => x.a.toNat < h.nregs ∧ x.b = 0#8 ∧ x.fn.toNat < 3 ∧ x.mb = 0#8) (fun x => x.d.toNat) voted where
  exec_eq _ _ _ := rfl
  uses_ok _ h _ x hd hx := by
    obtain ⟨ha, hb, hfn, hmb⟩ := hx
    simp only [List.forall_mem_cons]
    exact ⟨causes_sreg hd, causes_vreg ha, causes_rsv8 hb, causes_cause (decide_eq_false (by omega)), causes_rsv8 hmb, nofun⟩

theorem sregWord_ballot : SregWord .ballot
    (fun _ x _ => [.s x.d.toNat 1, .v x.a.toNat 1, .rsv x.b.toNat, .rsv x.fn.toNat, .rsv x.mb.toNat])
    (fun h _ x => x.a.toNat < h.nregs ∧ x.b = 0#8 ∧ x.fn = 0#8 ∧ x.mb = 0#8) (fun x => x.d.toNat)
    (fun h ls x => maskOf 64 (ls.filter (votesOne h x.a.toNat))) where
  exec_eq _ _ _ := rfl
  uses_ok _ h _ x hd hx := by
    obtain ⟨ha, hb, hfn, hmb⟩ := hx
    simp only [List.forall_mem_cons]
    exact ⟨causes_sreg hd, causes_vreg ha, causes_rsv8 hb, causes_rsv8 hfn, causes_rsv8 hmb, nofun⟩

theorem sregWord_rdlane : SregWord .rdlane
    (fun _ x c => [.s x.d.toNat 1, .v x.a.toNat 1, .rsv x.b.toNat, .cause 7 (c.h.width ≤ x.fn.toNat), .rsv x.mb.toNat])
    (fun h _ x => x.a.toNat < h.nregs ∧ x.b = 0#8 ∧ x.fn.toNat < h.width ∧ x.mb = 0#8) (fun x => x.d.toNat)
    (fun h _ x => (if h.exited x.fn.toNat then 0#32 else h.vreg x.a.toNat x.fn.toNat).setWidth 64) where
  exec_eq _ _ _ := rfl
  uses_ok w h hdr x hd hx := by
    obtain ⟨ha, hb, hfn, hmb⟩ := hx
    have hlane : ¬ (issueCtx w h hdr).h.width ≤ x.fn.toNat := Nat.not_le.mpr hfn
    simp only [List.forall_mem_cons]
    exact ⟨causes_sreg hd, causes_vreg ha, causes_rsv8 hb, causes_cause (decide_eq_false hlane), causes_rsv8 hmb, nofun⟩

theorem lanesToUniformWordsComplete : Sys2Proof.LanesToUniformWordsComplete := by
  refine ⟨writesSreg_congr sregWord_vote.writesSreg (fun h _ ls x _ => voted_eq h ls x), ?ballot,
    writesSreg_congr sregWord_rdlane.writesSreg (fun h _ _ x _ => ?rdlane)⟩
  case ballot =>
    intro s w h hd x hi hplain hd' ha hb hfn hmb hact
    obtain ⟨t, h', hexec, honly, hsreg⟩ := sregWord_ballot.writesSreg s w h hd x hi hplain hd' ⟨ha, hb, hfn, hmb⟩ hact
    refine ⟨t, h', _, hexec, honly, hsreg, fun l hl => (getLsbD_maskOf_of_lt hl _).trans ?_⟩
    simp [List.mem_filter, votesOne]
  case rdlane => split <;> rfl

theorem sregWord_ssel : SregWord .ssel
    (fun hd x _ => [.s x.d.toNat 1, .s x.a.toNat 1, .s x.b.toNat 1, .s x.c.toNat 1, uniPred hd] ++ uniMb false x.mb)
    (fun _ hd x => UniPred hd ∧ x.a.toNat < 64 ∧ x.b.toNat < 64 ∧ x.c.toNat < 64 ∧ UniMb false x.mb) (fun x => x.d.toNat)
    (fun h _ x => if (h.sreg x.c.toNat).getLsbD 0 then h.sreg x.a.toNat else h.sreg x.b.toNat) where
  exec_eq _ _ _ := rfl
  uses_ok _ h _ x hd hx := by
    obtain ⟨hp, ha, hb, hc, hmb⟩ := hx
    simp only [List.forall_mem_append, List.forall_mem_cons]
    exact ⟨⟨causes_sreg hd, causes_sreg ha, causes_sreg hb, causes_sreg hc, causes_uniPred hp, nofun⟩, causes_uniMb hmb⟩

theorem sregWord_smov : SregWord .smov
    (fun hd x _ => [.s x.d.toNat 1, .s x.a.toNat 1, .rsv x.b.toNat, .rsv x.fn.toNat, uniPred hd] ++ uniMb false x.mb)
    (fun _ hd x => UniPred hd ∧ x.a.toNat < 64 ∧ x.b = 0#8 ∧ x.fn = 0#8 ∧ UniMb false x.mb) (fun x => x.d.toNat)
    (fun h _ x => h.sreg x.a.toNat) where
  exec_eq _ _ _ := rfl
  uses_ok _ h _ x hd hx := by
    obtain ⟨hp, ha, hb, hfn, hmb⟩ := hx
    simp only [List.forall_mem_append, List.forall_mem_cons]
    exact ⟨⟨causes_sreg hd, causes_sreg ha, causes_rsv8 hb, causes_rsv8 hfn, causes_uniPred hp, nofun⟩, causes_uniMb hmb⟩

/-- `movs` and `movhs` have no field that could be illegal but their destination (R174). -/
theorem sregWord_fl {mk : Header → FL → Instr} {val : Herd → List Nat → FL → Word}
    (he : ∀ hd x s, exec (mk hd x) s = issueSreg hd (fun _ => [.s x.d.toNat 1]) x.d.toNat (fun h ls => val h ls x) s) :
    SregWord mk (fun _ x _ => [.s x.d.toNat 1]) (fun _ _ _ => True) (fun x => x.d.toNat) val where
  exec_eq := he
  uses_ok _ _ _ _ hd _ := List.forall_mem_singleton.mpr (causes_sreg hd)

/-- R191: `scmp` has the conditions 0 to 5. -/
theorem causes_scmp_fn (h : Herd) (x : F3) (hx : x.fn.toNat < 6) : (Use.cause 7 (6 ≤ x.fn.toNat)).causes h = [] :=
  causes_cause (decide_eq_false (by omega))

theorem uni2Word_ssar : Uni2Word .ssar false (· = 0#8) (fun _ _ a b => BitVec.ofInt 64 (a.toInt / ((2 ^ min b.toNat 63 : Nat) : Int))) :=
  uni2Word_congr (g := fun _ _ a b => ssarW a b.toNat) (uni2Word_rsv (fun _ _ _ => rfl)) (fun _ _ a b => ssarW_eq a b.toNat)

theorem uni2Word_smin : Uni2Word .smin true (· = 0#8) (fun _ f a b => if uniInt f b < uniInt f a then b else a) :=
  uni2Word_congr (g := fun _ f a b => if uniLt f b a then b else a) (uni2Word_rsv (fun _ _ _ => rfl))
    (fun _ f a b => if_congr (uniLt_iff f b a) rfl rfl)

theorem uni2Word_smax : Uni2Word .smax true (· = 0#8) (fun _ f a b => if uniInt f a < uniInt f b then b else a) :=
  uni2Word_congr (g := fun _ f a b => if uniLt f a b then b else a) (uni2Word_rsv (fun _ _ _ => rfl))
    (fun _ f a b => if_congr (uniLt_iff f a b) rfl rfl)

theorem writesSreg_scmp : WritesSreg .scmp
    (fun _ hd x => UniPred hd ∧ x.a.toNat < 64 ∧ x.b.toNat < 64 ∧ x.fn.toNat < 6 ∧ UniMb true x.mb) (fun x => x.d.toNat)
    (fun h _ x => if uniCond x.fn.toNat (mbFmt x.mb) (h.sreg x.a.toNat) (h.sreg x.b.toNat) then 1 else 0) :=
  writesSreg_uni2 (fn := fun fn => fn.toNat < 6) (g := fun x a b => if uniCond x.fn.toNat (mbFmt x.mb) a b then 1 else 0) (fun _ _ _ => rfl)
    causes_scmp_fn

theorem uniImmWord_sshli : UniImmWord .sshli (fun imm a => if imm.toNat < 64 then a <<< imm.toNat else 0#64) :=
  uniImmWord (fun _ _ _ => rfl)

theorem writesSreg_movs : WritesSreg .movs (fun _ _ _ => True) (fun x => x.d.toNat) (fun _ _ x => x.imm.signExtend 64) :=
  (sregWord_fl (fun _ _ _ => rfl)).writesSreg

theorem writesSreg_movhs : WritesSreg .movhs (fun _ _ _ => True) (fun x => x.d.toNat)
    (fun h _ x => x.imm ++ (h.sreg x.d.toNat).setWidth 32) :=
  (sregWord_fl (fun _ _ _ => rfl)).writesSreg

theorem uniformArithmeticCompletes : Sys2Proof.UniformArithmeticCompletes := by
  refine ⟨?sadd, ?ssub, ?smul, ?sand, ?sor, ?sxor, ?sshl, ?sshr, uni2Word_ssar, uni2Word_smin, uni2Word_smax, ?scmp,
    sregWord_ssel.writesSreg, sregWord_smov.writesSreg, ?saddi, ?sandi, ?sori, uniImmWord_sshli, writesSreg_movs, writesSreg_movhs⟩
  case sadd | ssub | smul | sand | sor | sxor | sshl | sshr => exact uni2Word_rsv (fun _ _ _ => rfl)
  case scmp =>
    intro s w h hd x hi hplain hp hd' ha hb hfn hmb hact
    obtain ⟨t, h', hexec, honly, hsreg⟩ := writesSreg_scmp s w h hd x hi hplain hd' ⟨hp, ha, hb, hfn, hmb⟩ hact
    have hcond := uniCond_iff hfn (mbFmt x.mb) (h.sreg x.a.toNat) (h.sreg x.b.toNat)
    exact ⟨t, h', _, hexec, honly, hsreg, fun hc => if_pos (hcond.mpr hc), fun hc => if_neg (fun hu => hc (hcond.mp hu))⟩
  case saddi | sandi | sori => exact uniImmWord (fun _ _ _ => rfl)

/-- Settles O8: each word is one of its shape in the model, and a legal one writes its uniform register (`SregWord.writesSreg`). -/
theorem uniformResultsComplete : Obligations.UniformResultsComplete := ⟨lanesToUniformWordsComplete, uniformArithmeticCompletes⟩

end Sys2Proof.Machine
end

section
/-! SUPPORT. The integer arithmetic of a lane word, element by element, is that of bit vectors (R70, R82, R155, R160 to R163, R168). -/
namespace Sys2Proof.Machine

/-! Integer formats. -/

/-- An integer format c of n elements of w bits, which fill a lane word (R68, R70). -/
structure IntFormat (c w n : Nat) : Prop where
  width : elemWidth c = w
  count : elemCount c = n
  fills : w * n = 32
  isInt : isInt c = true
  signed : isSignedInt c = decide (c ≠ 2)
  notFloat : ffmtOf c = none
  notTap : isTap c = false

/-- The four integer formats of R68. -/
theorem intFormat_of_mem {c w n : Nat} (h : (c, w, n) ∈ [(1, 32, 1), (2, 32, 1), (10, 8, 4), (11, 16, 2)]) : IntFormat c w n := by
  simp only [List.mem_cons, Prod.mk.injEq, List.not_mem_nil, or_false] at h
  obtain ⟨rfl, rfl, rfl⟩ | ⟨rfl, rfl, rfl⟩ | ⟨rfl, rfl, rfl⟩ | ⟨rfl, rfl, rfl⟩ := h <;> constructor <;> rfl

/-! Digits: the elements of a word that is built from them. -/

/-- The number whose digits to base 2^w are `g 0` to `g (n - 1)`. -/
def digitSum (w : Nat) (g : Nat → Nat) (n : Nat) : Nat := ((List.range n).map (fun i => g i % 2 ^ w * 2 ^ (w * i))).sum

theorem digitSum_succ (w : Nat) (g : Nat → Nat) (n : Nat) : digitSum w g (n + 1) = digitSum w g n + g n % 2 ^ w * 2 ^ (w * n) := by
  simp [digitSum, List.range_succ]

theorem digitSum_lt (w : Nat) (g : Nat → Nat) : ∀ n, digitSum w g n < 2 ^ (w * n)
  | 0 => by simp [digitSum]
  | n + 1 => by
    have hdigit : g n % 2 ^ w + 1 ≤ 2 ^ w := Nat.mod_lt _ (Nat.two_pow_pos w)
    calc digitSum w g (n + 1) = digitSum w g n + g n % 2 ^ w * 2 ^ (w * n) := digitSum_succ w g n
      _ < 2 ^ (w * n) + g n % 2 ^ w * 2 ^ (w * n) := Nat.add_lt_add_right (digitSum_lt w g n) _
      _ = (g n % 2 ^ w + 1) * 2 ^ (w * n) := by ring
      _ ≤ 2 ^ w * 2 ^ (w * n) := Nat.mul_le_mul_right _ hdigit
      _ = 2 ^ (w * (n + 1)) := by rw [← Nat.pow_add, Nat.mul_succ, Nat.add_comm]

theorem digit_digitSum (w : Nat) (g : Nat → Nat) {i : Nat} : ∀ {n}, i < n → digitSum w g n / 2 ^ (w * i) % 2 ^ w = g i % 2 ^ w
  | 0, hi => absurd hi (Nat.not_lt_zero i)
  | n + 1, hi => by
    rw [digitSum_succ]
    obtain hlt | rfl := Nat.lt_succ_iff_lt_or_eq.mp hi
    · obtain ⟨k, rfl⟩ := Nat.exists_eq_add_of_lt hlt
      have hhigh : g (i + k + 1) % 2 ^ w * 2 ^ (w * (i + k + 1)) = 2 ^ (w * i) * (2 ^ w * (g (i + k + 1) % 2 ^ w * 2 ^ (w * k))) := by
        rw [show w * (i + k + 1) = w * i + w + w * k by ring, Nat.pow_add, Nat.pow_add]
        ring
      rw [hhigh, Nat.add_mul_div_left _ _ (Nat.two_pow_pos _), Nat.add_mul_mod_self_left, digit_digitSum w g hlt]
    · rw [Nat.add_mul_div_right _ _ (Nat.two_pow_pos _), Nat.div_eq_of_lt (digitSum_lt w g i), Nat.zero_add, Nat.mod_mod]

section Elements
variable {c w n i : Nat} {x y : Lane}

theorem toNat_el (w i : Nat) (x : Lane) : (el w i x).toNat = x.toNat / 2 ^ (w * i) % 2 ^ w := by
  rw [el, BitVec.extractLsb'_toNat, Nat.shiftRight_eq_div_pow]

/-- The pattern of an element is its bits. -/
theorem element_eq (hf : IntFormat c w n) (x : Lane) (i : Nat) : element x c i = (el w i x).toNat := by
  rw [toNat_el, element, hf.width]

/-- An element of a word that is built from patterns. -/
theorem el_buildWord (hf : IntFormat c w n) (hi : i < n) (g : Nat → Nat) : el w i (buildWord c g) = BitVec.ofNat w (g i) := by
  have hsum : buildWord c g = BitVec.ofNat 32 (digitSum w g n) := by rw [buildWord, hf.count, hf.width, digitSum]
  have hlt : digitSum w g n < 2 ^ 32 := hf.fills ▸ digitSum_lt w g n
  apply BitVec.eq_of_toNat_eq
  rw [toNat_el, hsum, BitVec.toNat_ofNat, Nat.mod_eq_of_lt hlt, digit_digitSum w g hi, BitVec.toNat_ofNat]

/-- The integer that bits stand for in a format: unsigned for FMT 2, else signed (R70). -/
def bitsInt (c : Nat) {w : Nat} (b : BitVec w) : Int := if c = 2 then (b.toNat : Int) else b.toInt

theorem elInt_eq (c w i : Nat) (x : Lane) : elInt c w i x = bitsInt c (el w i x) := rfl

theorem sext_toNat (hw : 0 < w) (b : BitVec w) : sext b.toNat w = b.toInt := by
  have hhalf : 2 ^ w = 2 * 2 ^ (w - 1) := by
    obtain ⟨k, rfl⟩ := Nat.exists_eq_add_of_lt hw
    rw [Nat.zero_add, Nat.add_sub_cancel, Nat.pow_succ, Nat.mul_comm]
  rw [sext, Nat.mod_eq_of_lt b.isLt, BitVec.toInt_eq_toNat_cond]
  exact if_congr (by omega) rfl rfl

theorem intOf_toNat (hf : IntFormat c w n) (hw : 0 < w) (b : BitVec w) : intOf b.toNat c = bitsInt c b := by
  rw [intOf, hf.signed, hf.width, sext_toNat hw, bitsInt]
  by_cases hc : c = 2 <;> simp [hc]

/-- Either reading of bits gives them back. -/
theorem ofInt_bitsInt (c : Nat) (b : BitVec w) : BitVec.ofInt w (bitsInt c b) = b := by
  unfold bitsInt
  split
  · rw [BitVec.ofInt_natCast, BitVec.ofNat_toNat, BitVec.setWidth_eq]
  · exact BitVec.ofInt_toInt

theorem ofNat_wrapN (w : Nat) (z : Int) : BitVec.ofNat w (wrapN z w) = BitVec.ofInt w z := by
  apply BitVec.eq_of_toNat_eq
  have hpos : (0 : Int) < ((2 ^ w : Nat) : Int) := by exact_mod_cast Nat.two_pow_pos w
  have hlt := Int.emod_lt_of_pos z hpos
  have hge := Int.emod_nonneg z hpos.ne'
  rw [BitVec.toNat_ofNat, BitVec.toNat_ofInt, wrapN, Nat.mod_eq_of_lt (by omega)]

/-! Saturation (R82, R160). -/

theorem intRange_eq (hf : IntFormat c w n) :
    intRange c = if c = 2 then (0, (2 : Int) ^ w - 1) else (-(2 : Int) ^ (w - 1), (2 : Int) ^ (w - 1) - 1) := by
  rw [intRange, hf.signed, hf.width]
  by_cases hc : c = 2 <;> simp [hc]

/-- Saturation is to the range of the format. -/
theorem clampInt_eq (hf : IntFormat c w n) (z : Int) : clampInt c w z = max (intRange c).1 (min (intRange c).2 z) := by
  rw [intRange_eq hf, clampInt]
  split <;> rfl

theorem intRange_le (hf : IntFormat c w n) : (intRange c).1 ≤ (intRange c).2 := by
  have hpos : (0 : Int) < 2 ^ w := by positivity
  have hhalf : (0 : Int) < 2 ^ (w - 1) := by positivity
  rw [intRange_eq hf]
  split <;> dsimp only <;> omega

/-- An exact integer is rounded to itself. -/
theorem roundUnits_int (rm : RMode) (neg : Bool) (m : Nat) : roundUnits rm neg m 0 false 0 = m := by
  cases rm <;> cases neg <;> simp [roundUnits, roundsUp]

/-- A saturated integer is the nearest that the format holds. -/
theorem encodeInt_valOfInt (hf : IntFormat c w n) (z : Int) : (encodeInt c .rn (valOfInt z)).1 = wrapN (clampInt c w z) w := by
  have hself : (if decide (z < 0) = true then -((z.natAbs : Nat) : Int) else ((z.natAbs : Nat) : Int)) = z := by
    by_cases hz : z < 0
    · rw [if_pos (decide_eq_true hz)]; omega
    · rw [if_neg (by simpa using hz)]; omega
  have hle := intRange_le hf
  simp only [encodeInt, valOfInt, roundUnits_int, hself, hf.width, clampInt_eq hf]
  split
  · exact congrArg (wrapN · w) (by omega)
  · split <;> exact congrArg (wrapN · w) (by omega)

/-- What a saturated result stands for. -/
theorem bitsInt_ofInt_clamp (c : Nat) (hw : 0 < w) (z : Int) : bitsInt c (BitVec.ofInt w (clampInt c w z)) = clampInt c w z := by
  have hpos : (0 : Int) < 2 ^ w := by positivity
  have hhalf : (0 : Int) < 2 ^ (w - 1) := by positivity
  unfold bitsInt clampInt
  split
  · rw [BitVec.toNat_ofInt, Nat.cast_pow, Nat.cast_ofNat, Int.emod_eq_of_lt (by omega) (by omega), Int.toNat_of_nonneg (by omega)]
  · exact BitVec.toInt_ofInt_eq_self hw (by omega) (by omega)

/-! Operations on integers (R155, R160 to R163). -/

theorem el_elem2 (hf : IntFormat c w n) (hw : 0 < w) (hi : i < n) (zi : Int → Int → Int) (zf : RMode → Val → Val → Val) (rm : RMode)
    (sat : Bool) (x y : Lane) : el w i (elem2 zi zf c rm sat x y) =
      BitVec.ofInt w (if sat then clampInt c w (zi (elInt c w i x) (elInt c w i y)) else zi (elInt c w i x) (elInt c w i y)) := by
  rw [elem2, el_buildWord hf hi]
  simp only [encElem, hf.isInt, if_true, element_eq hf, intOf_toNat hf hw, encodeIntArith, encodeInt_valOfInt hf, hf.width, elInt_eq]
  cases sat <;> exact ofNat_wrapN w _

/-- An operation without .sat wraps. -/
theorem el_elem2_wraps (hf : IntFormat c w n) (hw : 0 < w) (hi : i < n) (zi : Int → Int → Int) (zf : RMode → Val → Val → Val) (rm : RMode)
    (x y : Lane) : el w i (elem2 zi zf c rm false x y) = BitVec.ofInt w (zi (elInt c w i x) (elInt c w i y)) :=
  el_elem2 hf hw hi zi zf rm false x y

/-- An operation with .sat saturates. -/
theorem elInt_elem2_sat (hf : IntFormat c w n) (hw : 0 < w) (hi : i < n) (zi : Int → Int → Int) (zf : RMode → Val → Val → Val) (rm : RMode)
    (x y : Lane) : elInt c w i (elem2 zi zf c rm true x y) = clampInt c w (zi (elInt c w i x) (elInt c w i y)) := by
  rw [elInt_eq, el_elem2 hf hw hi, if_pos rfl, bitsInt_ofInt_clamp c hw]

theorem ofInt_elInt (c w i : Nat) (x : Lane) : BitVec.ofInt w (elInt c w i x) = el w i x := ofInt_bitsInt c _

theorem el_laneMulhi (hf : IntFormat c w n) (hw : 0 < w) (hi : i < n) (rm : RMode) (sat : Bool) (x y : Lane) :
    el w i (laneMulhi c rm sat x y) = BitVec.ofInt w (elInt c w i x * elInt c w i y / 2 ^ w) := by
  rw [laneMulhi, el_buildWord hf hi, hf.width, ofNat_wrapN, element_eq hf, element_eq hf, intOf_toNat hf hw, intOf_toNat hf hw,
    Nat.cast_pow, Nat.cast_ofNat]
  rfl

/-! Minimum and maximum (R162). -/

theorem decodeVal_toNat (hf : IntFormat c w n) (hw : 0 < w) (b : BitVec w) : decodeVal b.toNat c = valOfInt (bitsInt c b) := by
  rw [decodeVal, hf.notFloat]
  simp only [hf.notTap, Bool.false_eq_true, if_false, intOf_toNat hf hw]

theorem dy_valOfInt (z : Int) : (valOfInt z).dy = (z, 0) := by
  simp only [valOfInt, Val.dy]
  by_cases hz : z < 0
  · rw [if_pos (decide_eq_true hz)]; exact congrArg (·, (0 : Int)) (by omega)
  · rw [if_neg (by simpa using hz)]; exact congrArg (·, (0 : Int)) (by omega)

theorem vcmp_valOfInt (a b : Int) : vcmp (valOfInt a) (valOfInt b) = compare a b := by
  change compare ((valOfInt a).dy.1 * _) ((valOfInt b).dy.1 * _) = _
  rw [dy_valOfInt, dy_valOfInt]
  simp

section Order
variable (hf : IntFormat c w n) (hw : 0 < w) (p q : BitVec w)
include hf hw

/-- The smaller of two patterns is one of them, of the smaller value. -/
theorem minPat_toNat : ∃ b : BitVec w, minPat c p.toNat q.toNat = b.toNat ∧ bitsInt c b = min (bitsInt c p) (bitsInt c q) := by
  simp only [minPat, decodeVal_toNat hf hw, vcmp_valOfInt]
  obtain hlt | heq | hgt := lt_trichotomy (bitsInt c p) (bitsInt c q)
  · exact ⟨p, by simp [valOfInt, Val.isNan, compare_lt_iff_lt.mpr hlt], (min_eq_left hlt.le).symm⟩
  · by_cases hneg : bitsInt c p < 0
    · exact ⟨p, by simp [valOfInt, Val.isNan, Val.neg, ← heq, hneg], by rw [heq, min_self]⟩
    · exact ⟨q, by simp [valOfInt, Val.isNan, Val.neg, ← heq, hneg], by rw [heq, min_self]⟩
  · exact ⟨q, by simp [valOfInt, Val.isNan, compare_gt_iff_gt.mpr hgt], (min_eq_right hgt.le).symm⟩

/-- The larger of two patterns is one of them, of the larger value. -/
theorem maxPat_toNat : ∃ b : BitVec w, maxPat c p.toNat q.toNat = b.toNat ∧ bitsInt c b = max (bitsInt c p) (bitsInt c q) := by
  simp only [maxPat, decodeVal_toNat hf hw, vcmp_valOfInt]
  obtain hlt | heq | hgt := lt_trichotomy (bitsInt c p) (bitsInt c q)
  · exact ⟨q, by simp [valOfInt, Val.isNan, compare_lt_iff_lt.mpr hlt], (max_eq_right hlt.le).symm⟩
  · by_cases hneg : bitsInt c p < 0
    · exact ⟨q, by simp [valOfInt, Val.isNan, Val.neg, ← heq, hneg], by rw [heq, max_self]⟩
    · exact ⟨p, by simp [valOfInt, Val.isNan, Val.neg, ← heq, hneg], by rw [heq, max_self]⟩
  · exact ⟨p, by simp [valOfInt, Val.isNan, compare_gt_iff_gt.mpr hgt], (max_eq_left hgt.le).symm⟩

end Order

theorem ofNat_toNat_self (b : BitVec w) : BitVec.ofNat w b.toNat = b := by rw [BitVec.ofNat_toNat, BitVec.setWidth_eq]

theorem elInt_laneMin (hf : IntFormat c w n) (hw : 0 < w) (hi : i < n) (rm : RMode) (sat : Bool) (x y : Lane) :
    elInt c w i (laneMin c rm sat x y) = min (elInt c w i x) (elInt c w i y) := by
  obtain ⟨b, hpat, hval⟩ := minPat_toNat hf hw (el w i x) (el w i y)
  rw [elInt_eq, laneMin, el_buildWord hf hi, element_eq hf, element_eq hf, hpat, ofNat_toNat_self, hval]
  rfl

theorem elInt_laneMax (hf : IntFormat c w n) (hw : 0 < w) (hi : i < n) (rm : RMode) (sat : Bool) (x y : Lane) :
    elInt c w i (laneMax c rm sat x y) = max (elInt c w i x) (elInt c w i y) := by
  obtain ⟨b, hpat, hval⟩ := maxPat_toNat hf hw (el w i x) (el w i y)
  rw [elInt_eq, laneMax, el_buildWord hf hi, element_eq hf, element_eq hf, hpat, ofNat_toNat_self, hval]
  rfl

end Elements

/-! Shifts and rotations (R168). -/

section Shifts
variable {w : Nat}

/-- A bit operation on elements, when it is `f` on bit vectors of their width. -/
theorem el_bits2 {c n i : Nat} (hf : IntFormat c w n) (hi : i < n) {g : Nat → Nat → Nat → Nat} {f : BitVec w → Nat → BitVec w}
    (hg : ∀ b k, BitVec.ofNat w (g w b.toNat k) = f b k) (rm : RMode) (sat : Bool) (x y : Lane) :
    el w i (bits2 g c rm sat x y) = f (el w i x) (el w i y).toNat := by
  rw [bits2, el_buildWord hf hi, hf.width, element_eq hf, element_eq hf, hg]

theorem ofNat_shlEl (b : BitVec w) (k : Nat) : BitVec.ofNat w (shlEl w b.toNat k) = b <<< k := by
  apply BitVec.eq_of_toNat_eq
  rw [BitVec.toNat_ofNat, BitVec.toNat_shiftLeft, Nat.shiftLeft_eq, shlEl]
  split
  · rw [Nat.mod_mod]
  · have hdvd : 2 ^ w ∣ b.toNat * 2 ^ k := (Nat.pow_dvd_pow 2 (by omega)).mul_left _
    rw [Nat.zero_mod, Nat.mod_eq_zero_of_dvd hdvd]

theorem ofNat_shrEl (b : BitVec w) (k : Nat) : BitVec.ofNat w (shrEl w b.toNat k) = b >>> k := by
  have hlt := b.isLt
  apply BitVec.eq_of_toNat_eq
  rw [BitVec.toNat_ofNat, BitVec.toNat_ushiftRight, Nat.shiftRight_eq_div_pow, shrEl]
  split
  · exact Nat.mod_eq_of_lt ((Nat.div_le_self _ _).trans_lt hlt)
  · have hle : 2 ^ w ≤ 2 ^ k := Nat.pow_le_pow_right (by decide) (by omega)
    rw [Nat.zero_mod, Nat.div_eq_of_lt (hlt.trans_le hle)]

/-- Beyond the width an arithmetic shift leaves the sign alone. -/
theorem toInt_div_two_pow (b : BitVec w) {k m : Nat} (hk : w - 1 ≤ k) (hm : w - 1 ≤ m) : b.toInt / (2 : Int) ^ k = b.toInt / (2 : Int) ^ m := by
  have hbound {j : Nat} (hj : w - 1 ≤ j) : (2 : Int) ^ (w - 1) ≤ 2 ^ j := pow_le_pow_right₀ (by decide) hj
  have hlt := b.toInt_lt
  have hge := b.le_toInt
  by_cases hneg : b.toInt < 0
  · rw [Int.ediv_eq_neg_one_of_neg_of_le hneg (by linarith [hbound hk]), Int.ediv_eq_neg_one_of_neg_of_le hneg (by linarith [hbound hm])]
  · rw [Int.ediv_eq_zero_of_lt (by omega) (by linarith [hbound hk]), Int.ediv_eq_zero_of_lt (by omega) (by linarith [hbound hm])]

theorem ofNat_sarEl (hw : 0 < w) (b : BitVec w) (k : Nat) : BitVec.ofNat w (sarEl w b.toNat k) = b.sshiftRight k := by
  rw [sarEl, ofNat_wrapN, sext_toNat hw, BitVec.sshiftRight, Int.shiftRight_eq_div_pow, Nat.cast_pow, Nat.cast_pow, Nat.cast_ofNat]
  split
  · rfl
  · rw [toInt_div_two_pow b (by omega : w - 1 ≤ w - 1) (by omega : w - 1 ≤ k)]

/-- The two parts of a rotation have no bit in common. -/
theorem rotEl_eq (hw : 0 < w) (b : BitVec w) (k : Nat) : rotEl w b.toNat k = (b.rotateLeft k).toNat := by
  have hk : k % w < w := Nat.mod_lt k hw
  have hsplit : 2 ^ w = 2 ^ (k % w) * 2 ^ (w - k % w) := by rw [← Nat.pow_add]; congr 1; omega
  have hhigh : b.toNat * 2 ^ (k % w) % 2 ^ w = 2 ^ (k % w) * (b.toNat % 2 ^ (w - k % w)) := by
    rw [hsplit, Nat.mul_comm, Nat.mul_mod_mul_left]
  have hlow : b.toNat / 2 ^ (w - k % w) < 2 ^ (k % w) := by
    rw [Nat.div_lt_iff_lt_mul (Nat.two_pow_pos _), ← hsplit]
    exact b.isLt
  rw [rotEl, BitVec.toNat_rotateLeft, Nat.shiftLeft_eq, Nat.shiftRight_eq_div_pow, hhigh, Nat.two_pow_add_eq_or_of_lt hlow]

theorem ofNat_rotEl (hw : 0 < w) (b : BitVec w) (k : Nat) : BitVec.ofNat w (rotEl w b.toNat k) = b.rotateLeft k := by
  rw [rotEl_eq hw, ofNat_toNat_self]

end Shifts

section Arithmetic
variable {c w n i : Nat} (hf : IntFormat c w n) (hw : 0 < w) (hi : i < n) (rm : RMode) (x y : Lane)
include hf hw hi

theorem el_laneAdd : el w i (laneAdd c rm false x y) = el w i x + el w i y := by
  rw [laneAdd, el_elem2_wraps hf hw hi, BitVec.ofInt_add, ofInt_elInt, ofInt_elInt]

theorem el_laneSub : el w i (laneSub c rm false x y) = el w i x - el w i y := by
  rw [laneSub, el_elem2_wraps hf hw hi, Int.sub_eq_add_neg, BitVec.ofInt_add, BitVec.ofInt_neg, ofInt_elInt, ofInt_elInt,
    BitVec.sub_eq_add_neg]

theorem el_laneMul : el w i (laneMul c rm false x y) = el w i x * el w i y := by
  rw [laneMul, el_elem2_wraps hf hw hi, BitVec.ofInt_mul, ofInt_elInt, ofInt_elInt]

theorem el_laneNeg : el w i (laneNeg c rm false x y) = - el w i x := by
  rw [laneNeg, elem1, el_elem2_wraps hf hw hi, BitVec.ofInt_neg, ofInt_elInt]

theorem el_laneAbs : el w i (laneAbs c rm false x y) = BitVec.ofInt w (elInt c w i x).natAbs := by
  rw [laneAbs, elem1, el_elem2_wraps hf hw hi]

end Arithmetic

/-- Settles O59: an element of a built word is its pattern (`el_buildWord`), an operation on integers wraps or saturates by its format
(`el_elem2`, `elInt_elem2_sat`), and a bit operation is that of bit vectors (`el_bits2`). -/
theorem integerLanesAreBitVectors : Obligations.IntegerLanesAreBitVectors := by
  refine ⟨lane2Word_rsv (fun _ _ _ => rfl), fun x y rm sat c w n i hmem hi => ?_⟩
  have hf := intFormat_of_mem hmem
  have hw : 0 < w := Nat.pos_of_ne_zero (fun h0 => by simpa [h0] using hf.fills)
  refine ⟨el_laneMulhi hf hw hi rm sat x y, el_laneAdd hf hw hi rm x y, el_laneSub hf hw hi rm x y, el_laneMul hf hw hi rm x y,
    el_laneNeg hf hw hi rm x y, el_laneAbs hf hw hi rm x y, ?addSat, ?subSat, ?mulSat,
    elInt_laneMin hf hw hi rm sat x y, elInt_laneMax hf hw hi rm sat x y, ?shl, ?shr, ?sar, ?rot⟩
  case addSat | subSat | mulSat => exact elInt_elem2_sat hf hw hi _ _ rm x y
  case shl => exact el_bits2 hf hi ofNat_shlEl rm sat x y
  case shr => exact el_bits2 hf hi ofNat_shrEl rm sat x y
  case sar => exact el_bits2 hf hi (ofNat_sarEl hw) rm sat x y
  case rot => exact el_bits2 hf hi (ofNat_rotEl hw) rm sat x y

end Sys2Proof.Machine
end

section
/-! SUPPORT. An `rft` that brings back a lane with an element in error, and the refutation of O18. -/
namespace Sys2Proof.Machine

/-- A herd in its handler. Lane 7 has left its path, and its element of d0 has an uncorrectable error (R334, R354). -/
def lostLaneHerd : Herd :=
  { uncountedHerd with
    sup := true
    handler := some 1#8
    derr := [7]
    furrows := [{ Furrow.fresh 0x100 0 with path := 0x7F#8 }] }

/-- The herd alone on its core. Its save area, at address 0, holds the record of a running furrow with all eight lanes in its path (R363). -/
def lostLaneState : State :=
  { State.reset with
    issuer := some uncountedIssuer
    herds := [lostLaneHerd]
    hbm := [(0x408, 0xFF#8), (0x40A, 0x20#8)] }

theorem issues_lostLane : Issues lostLaneState uncountedIssuer lostLaneHerd where
  who := rfl
  herd := rfl
  may := rfl
  furrows := by decide
  turn := rfl

theorem saveArea_lostLane : saveArea lostLaneState lostLaneHerd = 0 := by rfl

/-- The record of the furrow: running, with its eight lanes. -/
theorem readRec_lostLane : (readRec lostLaneState.hbm 0x400).st = 1 ∧ (readRec lostLaneState.hbm 0x400).path = 0xFF#8 := ⟨rfl, rfl⟩

theorem rftOk_lostLane : rftOk lostLaneState lostLaneHerd (lostLaneHerd.group 0) 1#8 = true := by rfl

/-- The elements in error after a step. -/
def errorsAfter (r : Host.Outcome State Fault Refusal) : Option (List Nat) :=
  match r with
  | .next t => (t.herd? lostLaneHerd.key).map (fun g => g.derr)
  | _ => none

theorem errorsAfter_rft : errorsAfter (exec (.rft bareHeader bareExit) lostLaneState) = some [] := by decide +kernel

/-- Refutes O18, by its frame: the record brings lane 7 back into the path, whose registers become free values (log entry 80). The model writes
the lane's d elements as wholes, and a whole element written loses its error mark (R334, R354), so that no element of the herd is in error any
more. The statement lists the d registers among what changes, and not the marks. -/
theorem not_returnFromTrapRestores : ¬ Obligations.ReturnFromTrapRestores := by
  intro hall
  obtain ⟨t, h', hexec, hdone, -, -, -, -, -, -, -, -, -, -, hframe, -⟩ := hall lostLaneState uncountedIssuer lostLaneHerd bareHeader bareExit
    1#8 _ issues_lostLane (bareHeader_plain lostLaneHerd) rfl (by decide) rfl rfl rftOk_lostLane rfl (by decide) rfl
    ⟨0, by decide, rfl, rfl, readRec_lostLane.1⟩
  have hnow : t.herd? lostLaneHerd.key = some h' := hdone.now
  have hnone : h'.derr = [] := by
    have hafter := errorsAfter_rft
    rw [hexec] at hafter
    simpa [errorsAfter, hnow] using hafter
  have hkept : h'.derr = [7] := by
    rw [hframe]
    rfl
  rw [hnone] at hkept
  cases hkept

end Sys2Proof.Machine
end

section
/-! SUPPORT. `dqk` and `dqk.all` (R221). -/
namespace Sys2Proof.Machine

/-- At supervisor level a word of that level alone has no cause of it (R143). -/
theorem causes_supervisor {h : Herd} (hsup : h.sup = true) : (Use.cause 8 (!h.sup)).causes h = [] := by simp [Use.causes, hsup]

/-- R137, R143: what a `dqk` of a register asks of its fields and of its herd. -/
def dqkUses (x : FS) (c : Ctx) : List Use := [.s x.d.toNat 1, .s x.a.toNat 1, .rsv x.sel.toNat, .rsv x.x.toNat, .cause 8 (!c.h.sup)]

/-- R137, R143: what a `dqk.all` asks of its fields and of its herd. -/
def dqkAllUses (x : FS) (c : Ctx) : List Use :=
  [.s x.d.toNat 1, .rsv x.a.toNat, .rsv x.sel.toNat, .rsv (x.x.toNat / 2), .cause 8 (!c.h.sup)]

/-- The bytes of several objects, one object after another. -/
theorem flatMap_restoreObj (os : List CodeObj) : os.flatMap restoreObj = memActs (os.flatMap objectBytes) := by
  rw [memActs, List.map_flatMap]
  exact congrArg os.flatMap (funext restoreObj_eq)

section Dequickening
variable {s : State} {w : Issuer} {h : Herd} {hd : Header} {x : FS}

/-- Objects written back, with the status 0. -/
theorem finish_restored (hi : Issues s w h) (hd : Header) (d : Nat) (os : List CodeObj) :
    ∃ t h', run s ((issueCtx w h hd).finish s (.done (os.flatMap restoreObj ++ uniActs (issueCtx w h hd) d 0#64))) = t ∧
      WordDone s t w h h' ∧ SregWritten h h' w.f d 0#64 ∧ t.hbm = putAll s.hbm (os.flatMap objectBytes) ∧
      t = { s with herds := t.herds, coreRegs := t.coreRegs, hbm := t.hbm, crews := t.crews, ocache := t.ocache } := by
  obtain ⟨s1, hrun, hbytes, hframe1⟩ := run_memActs (os.flatMap objectBytes) (counted s h)
  obtain ⟨t, ht, hframe, hdone⟩ := run_finish_done hi hd [.s d 0#64] hrun (by rw [hframe1]; rfl) (by rw [hframe1])
  rw [flatMap_restoreObj]
  refine ⟨t, _, ht, hdone, sregWritten_s h w.f d _, ?bytes, ?frame⟩
  case bytes => rw [hframe]; exact hbytes
  case frame => rw [hframe, hframe1]; rfl

theorem exec_dqk (hi : Issues s w h) (hh : PlainHeader h hd false) (hd' : x.d.toNat < 64) (hreg : x.a.toNat < 64) (hsel : x.sel = 0#16)
    (hx : x.x = 0#8) (ha : activeLanes h w.f hd ≠ []) (hsup : h.sup = true) :
    exec (.dqk hd x) s = .next (run s ((issueCtx w h hd).finish s
      (match s.objs.find? (fun o => decide (o.part = w.key.crew.part) && decide (o.va = h.sreg x.a.toNat)) with
      | some o => .done (restoreObj o ++ uniActs (issueCtx w h hd) x.d.toNat 0#64)
      | none => .done (uniActs (issueCtx w h hd) x.d.toNat 1#64)))) := by
  have huses : ∀ u ∈ dqkUses x (issueCtx w h hd), u.causes h = [] := by
    simp [dqkUses, issueCtx, causes_sreg, causes_rsv, causes_supervisor hsup, hd', hreg, hsel, hx]
  exact issue_legal hi hh.pred ha (fun c => legal false (dqkUses x c) c) (legal_none hh _ huses) _

theorem exec_dqkAll (hi : Issues s w h) (hh : PlainHeader h hd false) (hd' : x.d.toNat < 64) (hreg : x.a = 0#8) (hsel : x.sel = 0#16)
    (hx : x.x.toNat < 2) (ha : activeLanes h w.f hd ≠ []) (hsup : h.sup = true) :
    exec (.dqkAll hd x) s = .next (run s ((issueCtx w h hd).finish s
      (.done ((s.objs.filter (fun o => decide (o.part = w.key.crew.part))).flatMap restoreObj
        ++ uniActs (issueCtx w h hd) x.d.toNat 0#64)))) := by
  have huses : ∀ u ∈ dqkAllUses x (issueCtx w h hd), u.causes h = [] := by
    simp [dqkAllUses, issueCtx, causes_sreg, causes_rsv, causes_supervisor hsup, hd', hreg, hsel, Nat.div_eq_of_lt hx]
  exact issue_legal hi hh.pred ha (fun c => legal false (dqkAllUses x c) c) (legal_none hh _ huses) _

end Dequickening

/-- Settles O22: the words of the objects are bytes written to memory (`flatMap_restoreObj`), after which the word completes with its
status (`finish_restored`). -/
theorem dequickeningRestoresObjects : Obligations.DequickeningRestoresObjects := by
  intro s w h hd x hi hh hd' hsel ha hsup
  refine ⟨fun o _ hreg hx hfind => ?found, fun hreg hx hnone => ?missing, fun hreg hx => ?all⟩
  case found =>
    have hexec := exec_dqk hi hh hd' hreg hsel hx ha hsup
    obtain ⟨t, h', ht, hdone, hs, hbytes, hframe⟩ := finish_restored hi hd x.d.toNat [o]
    rw [hfind] at hexec
    rw [List.flatMap_singleton] at ht hbytes
    exact ⟨t, h', hexec.trans (congrArg _ ht), hdone, hs, hbytes, hframe⟩
  case missing =>
    have hexec := exec_dqk hi hh hd' hreg hsel hx ha hsup
    have hfind : s.objs.find? (fun o => decide (o.part = w.key.crew.part) && decide (o.va = h.sreg x.a.toNat)) = none := by
      simpa using hnone
    rw [hfind] at hexec
    exact ⟨_, _, hexec, finish_done_herd hi hd [.s x.d.toNat 1#64], sregWritten_s h w.f x.d.toNat _⟩
  case all =>
    obtain ⟨t, h', ht, hdone, hs, hbytes, hframe⟩ := finish_restored hi hd x.d.toNat
      (s.objs.filter (fun o => decide (o.part = w.key.crew.part)))
    exact ⟨t, h', (exec_dqkAll hi hh hd' hreg hsel hx ha hsup).trans (congrArg _ ht), hdone, hs, hbytes, hframe⟩

end Sys2Proof.Machine
end

section
/-! SUPPORT. `trap` and `brk` (R216). -/
namespace Sys2Proof.Machine

/-- The acts of a group that goes on at PC + 8. -/
abbrev goOn (h : Herd) (f : Nat) : List HAct := moveTo h (h.group f) ((h.fur f).pc + 8#64)

/-- A group that goes on: its furrows move to PC + 8, and nothing else of the herd changes. -/
theorem acts_goesOn (h : Herd) (f : Nat) : FurrowsOnly h (h.acts (goOn h f)) ∧
    Advanced h (h.acts (goOn h f)) f :=
  acts_moveTo h h (h.group f) _ (group_lt h f)

section Plain
variable {s : State} {w : Issuer} {h : Herd} {hd : Header} {x : FS}

/-- A word whose other fields are reserved is legal when they are zero (R137). -/
theorem legal_fs (hh : PlainHeader h hd false) (hd' : x.d = 0#8) (ha : x.a = 0#8) (hx : x.x = 0#8) :
    legal false [.rsv x.d.toNat, .rsv x.a.toNat, .rsv x.x.toNat] (issueCtx w h hd) = none :=
  legal_none hh _ (by simp [causes_rsv, *])

/-- R355: a trap after a word that does nothing else is that of a word which goes on. -/
theorem takenAfter_goesOn (hi : Issues s w h) (t : TrapReq) (hfree : trapWaits h (furMask (h.group w.f)) = false) :
    TakenAfter s (run s (bumpCore h.core 0x040 :: herdActs w.key (goOn h w.f)))
      (run s ((issueCtx w h hd).finish s (.after [] t))) h (h.acts (goOn h w.f)) w.f
      ((issueCtx w h hd).info t ((h.fur w.f).pc + 8#64)) := by
  have honly := onlyHerd_counted hi (goOn h w.f)
  have hafter : (issueCtx w h hd).finish s (.after [] t) =
      afterTrap (issueCtx w h hd) s (bumpCore h.core 0x040 :: herdActs w.key (goOn h w.f))
        ((issueCtx w h hd).info t ((h.fur w.f).pc + 8#64)) := by
    simp only [Ctx.finish, issueCtx, hfree, Bool.false_eq_true, if_false]
    rfl
  have hhandler : (h.acts (goOn h w.f)).handler = h.handler :=
    (congrArg Herd.handler (acts_goesOn h w.f).1 :)
  rw [hafter]
  exact takenAfter_afterTrap (herd?_key hi.herd) rfl honly.now (by rw [honly.rest]) hhandler

end Plain

/-- Settles O15: each word goes on and takes the trap that follows it (`takenAfter_goesOn`). -/
theorem softwareAndDebugTrapsAreTaken : Obligations.SoftwareAndDebugTrapsAreTaken := by
  intro s w h hd x hi hh hd' ha hx hact hfree
  obtain ⟨honly, hadvanced⟩ := acts_goesOn h w.f
  have hl := legal_fs (w := w) hh hd' ha hx
  exact ⟨_, _, _, _, onlyHerd_counted hi _, honly, hadvanced,
    issue_legal hi hh.pred hact _ hl (fun _ _ => .after [] { trapOf 13 0 with code := x.sel.toNat }), takenAfter_goesOn hi _ hfree,
    issue_legal hi hh.pred hact _ hl (fun _ _ => .after [] { trapOf 14 0 with code := x.sel.toNat }), takenAfter_goesOn hi _ hfree⟩

end Sys2Proof.Machine
end

section
/-! SUPPORT. `nop` and `yield` (R192, R203). -/
namespace Sys2Proof.Machine

/-- The furrows of a mask are those it was made of. -/
theorem mem_bitsOf_furMask {fs : List Nat} (hfs : ∀ j ∈ fs, j < 8) (j : Nat) : j ∈ bitsOf (furMask fs) 8 ↔ j ∈ fs := by
  have hbit (hj : j < 8) : (furMask fs).getLsbD j = decide (j ∈ fs) := getLsbD_maskOf hj hfs
  constructor
  · intro h
    obtain ⟨hj, hset⟩ := List.mem_filter.mp h
    simpa [hbit (List.mem_range.mp hj)] using hset
  · intro h
    exact List.mem_filter.mpr ⟨List.mem_range.mpr (hfs j h), by simpa [hbit (hfs j h)] using h⟩

section Yield
variable {s : State} {w : Issuer} {h : Herd} {hd : Header} {x : FS}

/-- The furrows of a group that issues are among the herd's eight. -/
theorem issues_group_lt (hi : Issues s w h) : ∀ j ∈ h.group w.f, j < 8 := fun j hj => by
  have := group_lt h w.f j hj
  have := hi.furrows
  omega

/-- The furrow that names a group which issues is in it. -/
theorem issues_mem_group (hi : Issues s w h) : w.f ∈ h.group w.f := by
  have hmay := hi.may
  simp only [Herd.canIssue, Bool.and_eq_true, decide_eq_true_eq] at hmay
  obtain ⟨⟨⟨⟨-, hrunning⟩, hnames⟩, -⟩, -⟩ := hmay
  have hlt : w.f < h.furrows.length := by
    by_contra hge
    rw [fur_of_length_le (Nat.le_of_not_lt hge)] at hrunning
    cases hrunning
  simp [Herd.group, Herd.idxs, Herd.live, hlt, hrunning, hnames]

/-- R403: no hold covers a group that issues. -/
theorem issues_unheld (hi : Issues s w h) : ∀ z ∈ h.holds, z.group.getLsbD w.f = false := by
  have hmay := hi.may
  simp only [Herd.canIssue, Bool.and_eq_true, decide_eq_true_eq, Option.isNone_iff_eq_none] at hmay
  obtain ⟨⟨-, hfree⟩, -⟩ := hmay
  intro z hz
  have hnot := List.find?_eq_none.mp hfree z hz
  simp only [List.any_eq_true, not_exists, not_and] at hnot
  exact Bool.eq_false_iff.mpr (hnot w.f (issues_mem_group hi))

/-- A hold of the issuing group covers the furrow that names it. -/
theorem getLsbD_issuedMask (hi : Issues s w h) : (furMask (h.group w.f)).getLsbD w.f = true := by
  have hmem := issues_mem_group hi
  rw [furMask, getLsbD_maskOf (issues_group_lt hi _ hmem) (issues_group_lt hi)]
  exact decide_eq_true hmem

/-- A hold that joins those of the issuing group's herd is the only one of the group. -/
theorem heldBy_issued (hi : Issues s w h) {g : Herd} {y : HoldWhy} (hg : g.holds = h.holds ++ [{ group := furMask (h.group w.f), why := y }]) :
    HeldBy g w.f { group := furMask (h.group w.f), why := y } := by
  refine ⟨by simp [hg], getLsbD_issuedMask hi, fun z hz hset => ?_⟩
  rw [hg, List.mem_append, List.mem_singleton] at hz
  exact hz.resolve_left (fun hold => by simp [issues_unheld hi z hold] at hset)

/-- When such a hold goes, the others stand. -/
theorem holdsWithout_issued (hi : Issues s w h) {g : Herd} {y : HoldWhy}
    (hg : g.holds = h.holds ++ [{ group := furMask (h.group w.f), why := y }]) :
    holdsWithout g { group := furMask (h.group w.f), why := y } = h.holds := by
  have hothers : ∀ z ∈ h.holds, decide (z ≠ { group := furMask (h.group w.f), why := y }) = true := fun z hz => by
    rw [decide_eq_true_eq]
    rintro rfl
    have := issues_unheld hi _ hz
    rw [getLsbD_issuedMask hi] at this
    cases this
  rw [holdsWithout, hg, List.filter_append, List.filter_eq_self.mpr hothers]
  simp

/-- The acts of `yield 0`: the group moves on, and the herd as that leaves it ranks the group as the youngest. -/
def yieldNow (s : State) (w : Issuer) (h : Herd) : List Act :=
  chain s [fun _ => herdActs w.key (goOn h w.f), fun s' => match s'.herd? w.key with
    | some h' => youngest s' h' (h.group w.f)
    | none => []]

theorem finish_yieldNow (hi : Issues s w h) (hd : Header) : (issueCtx w h hd).finish s (.jump (yieldNow s w h)) =
    bumpCore h.core 0x040 :: herdActs w.key (goOn h w.f ++ (h.group w.f).map (fun f =>
        furAct (h.acts (goOn h w.f)) f (fun r => { r with rank := s.nextOrder })))
      ++ [.nextOrder (s.nextOrder + 1)] := by
  have hmoved : (run s (herdActs w.key (goOn h w.f))).herd? w.key
      = some (h.acts (goOn h w.f)) := by
    rw [herd?_herdActs_self, hi.herd]
    rfl
  have hkey := herd?_key hmoved
  have horder : (run s (herdActs w.key (goOn h w.f))).nextOrder = s.nextOrder := by
    rw [run_herdActs]
  simp only [yieldNow, chain, List.append_nil, hmoved, youngest, hkey, horder]
  simp [Ctx.finish, Ctx.count, Ctx.core, herdActs, issueCtx]

/-- R203: a word that yields at once. -/
theorem yield_now (hi : Issues s w h) (hd : Header) : ∃ t h', run s ((issueCtx w h hd).finish s (.jump (yieldNow s w h))) = t ∧
    OnlyHerd s { t with nextOrder := s.nextOrder } w h h' ∧ FurrowsOnly h h' ∧ t.nextOrder = s.nextOrder + 1 ∧
    ∀ j, h'.fur j = if j ∈ h.group w.f then { h.fur j with pc := (h.fur w.f).pc + 8#64, rank := s.nextOrder } else h.fur j := by
  obtain ⟨h1, hh1⟩ : ∃ h1, h1 = h.acts (goOn h w.f) := ⟨_, rfl⟩
  obtain ⟨rank, hrank⟩ : ∃ rank, rank = (h.group w.f).map (fun f => furAct h1 f (fun r => { r with rank := s.nextOrder })) := ⟨_, rfl⟩
  obtain ⟨hmoves, hpcs⟩ := acts_goesOn h w.f
  rw [← hh1] at hmoves hpcs
  have hlen : ∀ j ∈ h.group w.f, j < h1.furrows.length := by
    rw [hh1, Herd.acts_length]
    exact group_lt h w.f
  have hranks : h1.acts rank = { h1 with furrows := (h1.acts rank).furrows } := acts_furrowActs rank h1 (by simp [hrank, furAct])
  have honly := onlyHerd_counted hi (goOn h w.f ++ rank)
  rw [Herd.acts_append, ← hh1] at honly
  have hrun : run s ((issueCtx w h hd).finish s (.jump (yieldNow s w h))) =
      { run s (bumpCore h.core 0x040 :: herdActs w.key (goOn h w.f ++ rank)) with nextOrder := s.nextOrder + 1 } := by
    rw [finish_yieldNow hi, run_append, ← hh1, ← hrank]
    rfl
  refine ⟨_, h1.acts rank, hrun, ?only, hranks.trans (by rw [hmoves]), rfl, fun j => ?furrow⟩
  case only =>
    have horder : (run s (bumpCore h.core 0x040 :: herdActs w.key (goOn h w.f ++ rank))).nextOrder = s.nextOrder := by rw [honly.rest]
    rw [← horder]
    exact honly
  case furrow =>
    rw [hrank, fur_acts h1 (fun _ r => { r with rank := s.nextOrder }) _ _ j hlen, hpcs j]
    by_cases hj : j ∈ h.group w.f <;> simp [hj]

/-- The herd of a group that yields for `n` cycles. -/
def yieldHeld (h : Herd) (f n : Nat) : Herd := { h with holds := h.holds ++ [{ group := furMask (h.group f), why := .yield n }] }

/-- R203: a group that has yielded for `n` cycles is ready again, and the youngest, when they have passed. -/
theorem yield_later (hi : Issues s w h) (n : Nat) {t : State} (hnow : t.herd? w.key = some ((yieldHeld h w.f n).acts (goOn h w.f))) :
    ∃ u g, exec (.yieldExpiry w.key w.f) t = .next u ∧ u = { t with herds := u.herds, nextOrder := t.nextOrder + 1 } ∧
      OneHerd t u w.key g ∧ FurrowsOnly h g ∧
      ∀ j, g.fur j = if j ∈ h.group w.f then { h.fur j with pc := (h.fur w.f).pc + 8#64, rank := t.nextOrder } else h.fur j := by
  obtain ⟨hmoves, hpcs⟩ := acts_moveTo (yieldHeld h w.f n) h (h.group w.f) ((h.fur w.f).pc + 8#64) (group_lt h w.f)
  have hholds := congrArg Herd.holds hmoves
  have hmask := mem_bitsOf_furMask (issues_group_lt hi)
  have hlen : ∀ j ∈ bitsOf (furMask (h.group w.f)) 8, j < ((yieldHeld h w.f n).acts (goOn h w.f)).furrows.length := fun j hj => by
    rw [Herd.acts_length]
    exact group_lt h w.f j ((hmask j).mp hj)
  obtain ⟨u, g, hexec, hframe, hone, hg, hfurs⟩ := yield_expires hnow (heldBy_issued hi hholds) rfl hlen
  refine ⟨u, g, hexec, hframe, hone, ?frame, fun j => ?furrow⟩
  case frame =>
    rw [holdsWithout_issued hi hholds, hmoves] at hg
    exact hg
  case furrow =>
    rw [hfurs j, hpcs j]
    by_cases hj : j ∈ h.group w.f
    · rw [if_pos ((hmask j).mpr hj), if_pos hj, if_pos hj]
    · rw [if_neg (fun hm => hj ((hmask j).mp hm)), if_neg hj, if_neg hj]
      rfl

theorem exec_yield (hi : Issues s w h) (hh : PlainHeader h hd false) (hact : activeLanes h w.f hd ≠ []) (hd' : x.d = 0#8) (ha : x.a = 0#8)
    (hx : x.x = 0#8) : exec (.yield hd x) s = .next (run s ((issueCtx w h hd).finish s
      (if x.sel = 0#16 then .jump (yieldNow s w h) else .done (herdActs w.key [.holds (yieldHeld h w.f x.sel.toNat).holds])))) :=
  issue_legal hi hh.pred hact _ (legal_fs hh hd' ha hx) _

end Yield

/-- Settles O14: `nop` only goes on; `yield 0` goes on and ranks its group (`yield_now`); `yield n` adds the only hold of its group
(`heldBy_issued`), with which it expires (`yield_later`). -/
theorem nopAndYieldComplete : Obligations.NopAndYieldComplete := by
  intro s w h hd x hi hh hd' ha hx hact
  have hyields := exec_yield hi hh hact hd' ha hx
  refine ⟨fun hsel => ?nop, fun hsel => ?now, fun hsel => ?later⟩
  case nop =>
    obtain ⟨hframe, hadvanced⟩ := acts_goesOn h w.f
    have hrsv : ∀ u ∈ fsRsv x.d.toNat x.a.toNat x.sel.toNat x.x.toNat, u.causes h = [] := by simp [fsRsv, causes_rsv, *]
    exact ⟨_, _, issue_legal hi hh.pred hact _ (legal_none hh _ hrsv) (fun _ _ => .done []), finish_done_herd hi hd [], hframe, hadvanced⟩
  case now =>
    obtain ⟨t, h', ht, hyield⟩ := yield_now hi hd
    rw [if_pos hsel, ht] at hyields
    exact ⟨t, h', hyields, hyield⟩
  case later =>
    obtain ⟨hframe, hadvanced⟩ := acts_moveTo (yieldHeld h w.f x.sel.toNat) h (h.group w.f) ((h.fur w.f).pc + 8#64) (group_lt h w.f)
    have honly := finish_done_herd hi hd [.holds (yieldHeld h w.f x.sel.toNat).holds]
    obtain ⟨u, g, hlater⟩ := yield_later hi x.sel.toNat honly.now
    rw [if_neg hsel] at hyields
    exact ⟨_, _, u, g, hyields, honly, hadvanced, hframe, hlater⟩

end Sys2Proof.Machine
end

section
/-! SUPPORT. `sow` (R211 to R215). -/
namespace Sys2Proof.Machine

section Sow
variable {s : State} {w : Issuer} {h : Herd} {hd : Header} {x : FE} {acc : LaneAcc}

/-- The core whose queue a `sow` names (R211). -/
def sowCore (h : Herd) (x : FE) : Nat := if x.x.getLsbD 1 then h.core else (h.sreg x.sb.toNat).toNat

/-- The card that a `sow` posts: the one it reads, with the argument block that it names (R211). -/
def sowCard (h : Herd) (x : FE) (card0 : Card) : Card := if x.sf.toNat = 0 then card0 else card0.withArgs (h.sreg x.sf.toNat)

/-- What the read of a card leaves in the TLB and the L1 (R212). -/
def sowTraces (s : State) (h : Herd) (acc : LaneAcc) : List Act := xlateActs [acc] ++ loadTraces s h.core [acc]

/-- The outcome of a `sow` whose card's address is aligned and in global space. -/
def sowRead (s : State) (w : Issuer) (h : Herd) (hd : Header) (x : FE) (acc : LaneAcc) : Res :=
  let card0 := cardOf (readLoc s h.core 64 true acc.loc)
  match acc.flt with
  | some (4, cause) => .park cause 255 (h.sreg x.sa.toNat) (xlateActs [acc])
  | some (cls, cause) => .trap (trapAt cls cause 255 (h.sreg x.sa.toNat)) (xlateActs [acc])
  | none =>
    if locWaits s w.key (furMask (h.group w.f)) h.core 64 false true acc.loc then .stall
    else if poisoned s h.core true acc.loc then .trap (trapAt 2 10 255 (h.sreg x.sa.toNat)) (xlateActs [acc])
    else sowPost (issueCtx w h hd) (sowCard h x card0) (sowCore h x) x.d.toNat
      (cardStatus s w.key.crew.part card0 (sowCore h x) true (!h.sup)) (x.x.getLsbD 0) s (sowTraces s h acc)

theorem exec_sow (hi : Issues s w h) (hh : PlainHeader h hd false) (hact : activeLanes h w.f hd ≠ []) (hd' : x.d.toNat < 64)
    (hx : x.x.toNat < 4) (hself : x.x.getLsbD 1 = true → x.sb = 0#6) :
    exec (.sow hd x) s = .next (run s ((issueCtx w h hd).finish s
      (if (h.sreg x.sa.toNat).toNat % 64 ≠ 0 then .trap (trapAt 1 0 255 (h.sreg x.sa.toNat)) []
       else if fld (h.sreg x.sa.toNat) 63 60 ≠ 0 then .trap (trapAt 2 2 255 (h.sreg x.sa.toNat)) []
       else sowRead s w h hd x (checkLane s h .load 64 (some 0) 255 (h.sreg x.sa.toNat))))) := by
  have hrsv : (x.x.extractLsb' 2 12).toNat = 0 := by
    rw [BitVec.extractLsb'_toNat, Nat.shiftRight_eq_div_pow, Nat.div_eq_of_lt hx, Nat.zero_mod]
  have hdest : (Use.cause 2 (x.x.getLsbD 1 && decide (x.sb.toNat ≠ 0))).causes h = [] := by
    cases hs : x.x.getLsbD 1 with
    | false => simp [Use.causes]
    | true => simp [Use.causes, hself hs]
  have huses : ∀ u ∈ [Use.s x.d.toNat 1, .rsv (x.x.extractLsb' 2 12).toNat, .cause 2 (x.x.getLsbD 1 && decide (x.sb.toNat ≠ 0))],
      u.causes h = [] := by
    simp only [List.forall_mem_cons]
    exact ⟨causes_sreg hd', causes_rsv hrsv, hdest, nofun⟩
  exact issue_legal hi hh.pred hact _ (legal_none hh _ huses) _

/-- A word that goes no further, with acts on the module and acts on its herd. -/
theorem run_finish_jump (hi : Issues s w h) (hd : Header) {l : List Act} (ha : List HAct) {s1 : State} (h1 : run (counted s h) l = s1)
    (hherds : s1.herds = s.herds) (hregs : s1.coreRegs = (counted s h).coreRegs) :
    ∃ t, run s ((issueCtx w h hd).finish s (.jump (l ++ herdActs w.key ha))) = t ∧ t = { s1 with herds := t.herds } ∧
      WordDone s t w h (h.acts ha) := by
  have hh1 (k : HerdKey) : s1.herd? k = s.herd? k := herd?_congr _ _ hherds k
  obtain ⟨hself, hothers⟩ := oneHerd_herdActs (hh1 w.key ▸ hi.herd) ha
  obtain ⟨hcount, hrest⟩ := counted_coreReg s h
  have hrun : run s ((issueCtx w h hd).finish s (.jump (l ++ herdActs w.key ha))) = run s1 (herdActs w.key ha) := by
    rw [← h1, ← run_append]
    rfl
  rw [run_herdActs] at hrun hself hothers
  refine ⟨_, hrun, rfl, hself, fun k hk => (hothers k hk).trans (hh1 k), ?_, fun n hn => ?_⟩
  · rw [State.coreReg, hregs]
    exact hcount
  · rw [hregs]
    exact hrest n hn

/-- A card that is read leaves TLB entries, free values and sectors of the L1. -/
theorem run_sowTraces (s : State) (h : Herd) (acc : LaneAcc) : ∃ s1, run (counted s h) (sowTraces s h acc) = s1 ∧
    s1 = { counted s h with tlb := s1.tlb, freeCtr := s1.freeCtr, l1 := s1.l1, crews := s1.crews, ocache := s1.ocache } := by
  have hlook := run_look (xlateActs [acc]) (counted s h) (fun _ ha => mem_xlateActs ha)
  have htraced := (traced_loadTraces s (run (counted s h) (xlateActs [acc])) h.core [acc]).frame
  refine ⟨_, rfl, ?_⟩
  rw [sowTraces, run_append, htraced, hlook]

/-- A `sow` that writes a status and posts nothing. -/
theorem finish_sowStatus (hi : Issues s w h) (hd : Header) (acc : LaneAcc) (d : Nat) (v : Word) :
    ∃ t h', run s ((issueCtx w h hd).finish s (.done (sowTraces s h acc ++ uniActs (issueCtx w h hd) d v))) = t ∧ WordDone s t w h h' ∧
      SregWritten h h' w.f d v ∧
      t = { s with herds := t.herds, coreRegs := t.coreRegs, tlb := t.tlb, l1 := t.l1, freeCtr := t.freeCtr, crews := t.crews
                   ocache := t.ocache } := by
  obtain ⟨s1, h1, hframe1⟩ := run_sowTraces s h acc
  obtain ⟨t, ht, hframe, hdone⟩ := run_finish_done hi hd [.s d v] h1 (by rw [hframe1]; rfl) (by rw [hframe1])
  exact ⟨t, _, ht, hdone, sregWritten_s h w.f d v, by rw [hframe, hframe1]; rfl⟩

/-- A `sow` that its queue has no room for. -/
theorem finish_sowHeld (hi : Issues s w h) (hd : Header) (acc : LaneAcc) (x : Hold) :
    ∃ t, run s ((issueCtx w h hd).finish s (.jump (sowTraces s h acc ++ herdActs w.key [.holds (h.holds ++ [x])]))) = t ∧
      WordDone s t w h { h with holds := h.holds ++ [x] } ∧
      t = { s with herds := t.herds, coreRegs := t.coreRegs, tlb := t.tlb, l1 := t.l1, freeCtr := t.freeCtr, crews := t.crews
                   ocache := t.ocache } := by
  obtain ⟨s1, h1, hframe1⟩ := run_sowTraces s h acc
  obtain ⟨t, ht, hframe, hdone⟩ := run_finish_jump hi hd [.holds (h.holds ++ [x])] h1 (by rw [hframe1]; rfl) (by rw [hframe1])
  exact ⟨t, ht, hdone, by rw [hframe, hframe1]; rfl⟩

/-- A `sow` that posts its card. -/
theorem finish_sowPosted (hi : Issues s w h) (hd : Header) (acc : LaneAcc) (d : Nat) (card : Card) (core : Nat) :
    ∃ t h', run s ((issueCtx w h hd).finish s
        (.done (sowTraces s h acc ++ postCard s w.key.crew.part card core ++ uniActs (issueCtx w h hd) d 0#64))) = t ∧
      WordDone s t w h h' ∧ SregWritten h h' w.f d 0#64 ∧
      t = { s with herds := t.herds, coreRegs := t.coreRegs, tlb := t.tlb, l1 := t.l1, freeCtr := t.freeCtr, crews := t.crews
                   counts := t.counts, fields := t.fields, seeds := t.seeds, ocache := t.ocache } ∧
      t.seeds = s.seeds ++ [{ core := core, prio := card.prio, part := w.key.crew.part
                              field := (nextFieldId s w.key.crew.part).toNat }] ∧
      t.fields = s.fields ++ [{ part := w.key.crew.part, id := (nextFieldId s w.key.crew.part).toNat, card := card
                                home := core, admitted := 0, ended := 0, aborted := false, phases := [] }] := by
  obtain ⟨s1, h1, hframe1⟩ := run_sowTraces s h acc
  obtain ⟨t, ht, hframe, hdone⟩ := run_finish_done hi hd [.s d 0#64] (l := sowTraces s h acc ++ postCard s w.key.crew.part card core)
    (by rw [run_append, h1]) (by simp only [postCard, run_cons, run_nil]; rw [hframe1]; rfl)
    (by simp only [postCard, run_cons, run_nil]; rw [hframe1]; rfl)
  refine ⟨t, _, ht, hdone, sregWritten_s h w.f d _, ?_, by rw [hframe]; rfl, by rw [hframe]; rfl⟩
  rw [hframe, hframe1]
  rfl

end Sow

/-- R211 to R215: the post of a card that has been read, by its status and the room of its queue. -/
theorem cardsArePosted : Sys2Proof.CardsArePosted := by
  intro s w h hd x acc card0 card core st n full hi hh hact hd' hx hself halign hspace hacc hflt hown hpois hcard0 hcard hcore hst hn hfull
  have hexec := exec_sow hi hh hact hd' hx hself
  have hposted : sowCard h x card0 = card := by
    rw [hcard, sowCard, Card.withArgs]
    exact if_congr (by rw [← BitVec.toNat_inj]; rfl) rfl rfl
  rw [herd?_key hi.herd] at hown
  rw [if_neg (by simpa using halign), if_neg (by simpa using hspace), ← hacc, sowRead] at hexec
  simp only [hflt, hown, hpois, ← hcard0, hposted, if_false, Bool.false_eq_true, show sowCore h x = core from hcore.symm, ← hst] at hexec
  have hres : sowPost (issueCtx w h hd) card core x.d.toNat st (x.x.getLsbD 0) s (sowTraces s h acc) =
      if st ≠ 0 then .done (sowTraces s h acc ++ uniActs (issueCtx w h hd) x.d.toNat (BitVec.ofNat 64 st))
      else if full then
        if x.x.getLsbD 0 then .done (sowTraces s h acc ++ uniActs (issueCtx w h hd) x.d.toNat 1#64)
        else .jump (sowTraces s h acc ++
          herdActs w.key [.holds (h.holds ++ [{ group := furMask (h.group w.f), why := .sow card core x.d.toNat }])])
      else if n ≠ 0 then .stall
      else .done (sowTraces s h acc ++ postCard s w.key.crew.part card core ++ uniActs (issueCtx w h hd) x.d.toNat 0#64) := by
    simp only [hfull, decide_eq_true_eq, hn]
    rfl
  rw [hres] at hexec
  refine ⟨fun hst0 hroom hbefore => ?waits, fun hfirst => ?acts⟩
  case waits =>
    rw [hexec, hroom, if_neg (by simp [hst0]), if_neg Bool.false_ne_true, if_pos hbefore, run_finish_stall]
  case acts =>
    by_cases hst0 : st = 0
    · rw [if_neg (by simp [hst0])] at hexec
      cases hroom : full with
      | false =>
        rw [hroom, if_neg Bool.false_ne_true, if_neg (by simp [hfirst hst0 hroom])] at hexec
        obtain ⟨t, h', ht, hdone, hwritten, hframe, hseeds, hfields⟩ := finish_sowPosted hi hd acc x.d.toNat card core
        exact ⟨t, h', by rw [hexec, ht], hdone, hframe, fun hne => absurd hst0 hne, fun _ _ => ⟨hwritten, hseeds, hfields⟩, nofun, nofun⟩
      | true =>
        rw [hroom, if_pos rfl] at hexec
        cases htry : x.x.getLsbD 0 with
        | true =>
          rw [htry, if_pos rfl] at hexec
          obtain ⟨t, h', ht, hdone, hwritten, hframe⟩ := finish_sowStatus hi hd acc x.d.toNat 1#64
          refine ⟨t, h', by rw [hexec, ht], hdone, ?_, fun hne => absurd hst0 hne, nofun, fun _ _ _ => ⟨hwritten, ?_⟩, nofun⟩
          · rw [hframe]
          · rw [hframe]; exact ⟨rfl, rfl⟩
        | false =>
          rw [htry, if_neg Bool.false_ne_true] at hexec
          obtain ⟨t, ht, hdone, hframe⟩ := finish_sowHeld hi hd acc { group := furMask (h.group w.f), why := .sow card core x.d.toNat }
          refine ⟨t, _, by rw [hexec, ht], hdone, ?_, fun hne => absurd hst0 hne, nofun, nofun, fun _ _ _ => ⟨rfl, ?_⟩⟩
          · rw [hframe]
          · rw [hframe]; exact ⟨rfl, rfl⟩
    · rw [if_pos hst0] at hexec
      obtain ⟨t, h', ht, hdone, hwritten, hframe⟩ := finish_sowStatus hi hd acc x.d.toNat (BitVec.ofNat 64 st)
      refine ⟨t, h', by rw [hexec, ht], hdone, ?_, fun _ => ⟨hwritten, ?_⟩, fun h0 => absurd h0 hst0, fun h0 => absurd h0 hst0,
        fun h0 => absurd h0 hst0⟩
      · rw [hframe]
      · rw [hframe]; exact ⟨rfl, rfl, rfl⟩

/-- R212: a card whose address faults. -/
theorem cardAddressesTrap : Sys2Proof.CardAddressesTrap := by
  intro s w h hd x a acc hi hh hact hd' hx hself ha hacc
  have hexec := exec_sow hi hh hact hd' hx hself
  rw [← ha] at hexec
  rw [← hacc] at hexec
  have hread (halign : a.toNat % 64 = 0) (hspace : fld a 63 60 = 0) :
      exec (.sow hd x) s = .next (run s ((issueCtx w h hd).finish s (sowRead s w h hd x acc))) := by
    rw [hexec, if_neg (by simpa using halign), if_neg (by simpa using hspace)]
  have hlooks : ∀ b ∈ xlateActs [acc], (∃ l, b = .tlbAdd l) ∨ ∃ n, b = .free n := fun _ hb => mem_xlateActs hb
  refine ⟨fun hfree => ⟨fun hmis => ?misaligned, fun halign hspace => ?space, fun cls cause halign hspace hflt hcls => ?refused,
    fun halign hspace hflt hown hpois => ?poisoned⟩, fun cause halign hspace hflt => ?parks⟩
  case misaligned =>
    rw [hexec, if_pos hmis, run_finish_trap hi hd _ hfree]
    rfl
  case space =>
    rw [hexec, if_neg (by simpa using halign), if_pos hspace, run_finish_trap hi hd _ hfree]
    rfl
  case refused =>
    have hclass : ClassOk acc.flt := hacc ▸ classOk_checkLane s h .load 64 (some 0) 255 a
    obtain ⟨hlow, -⟩ := hclass _ hflt
    have hres : sowRead s w h hd x acc = .trap (trapAt cls cause 255 a) (xlateActs [acc]) := by
      rw [sowRead, hflt, ← ha]
      split
      next heq => exact absurd (congrArg Prod.fst (Option.some.inj heq)) hcls
      next heq =>
        obtain ⟨rfl, rfl⟩ := Prod.mk.inj (Option.some.inj heq)
        rfl
      next heq => cases heq
    obtain ⟨t0, ht0, hframe⟩ := run_finish_trapLooked hi hd (trapAt cls cause 255 a) hlooks (Nat.ne_of_gt hlow) hfree
    exact ⟨t0, by rw [hread halign hspace, hres, ht0]; rfl, hframe⟩
  case poisoned =>
    have hres : sowRead s w h hd x acc = .trap (trapAt 2 10 255 a) (xlateActs [acc]) := by
      rw [herd?_key hi.herd] at hown
      rw [sowRead, ← ha]
      simp only [hflt, hown, hpois, if_false, if_true, Bool.false_eq_true]
    obtain ⟨t0, ht0, hframe⟩ := run_finish_trapLooked hi hd (trapAt 2 10 255 a) hlooks (Nat.succ_ne_zero 1) hfree
    exact ⟨t0, by rw [hread halign hspace, hres, ht0]; rfl, hframe⟩
  case parks =>
    have hres : sowRead s w h hd x acc = .park cause 255 a (xlateActs [acc]) := by
      rw [sowRead, ← ha]
      simp only [hflt]
    obtain ⟨t, h', ht, hpark, hframe⟩ := run_finish_park hi hd cause 255 a hlooks
    exact ⟨t, h', by rw [hread halign hspace, hres, ht], hpark, hframe⟩

/-- Settles O25: a `sow` reads its card, and posts it, waits, writes its status or traps (`exec_sow`). -/
theorem sowPostsCards : Obligations.SowPostsCards := ⟨cardsArePosted, cardAddressesTrap⟩

end Sys2Proof.Machine
end

section
/-! SUPPORT. A patience that passes a group of another core, and the refutation of O21. -/
namespace Sys2Proof.Machine

/-- A supervisor herd on core 0, with 1 in s1. -/
def patienceHerd : Herd := { uncountedHerd with sup := true, s := Sparse.set zeros [] 1 1#64, furrows := [Furrow.fresh 0x100 0] }

/-- The name of two herds. -/
def twinKey : HerdKey := { uncountedHerd.key with herd := 1 }

/-- The first herd of the name, on core 1: a group that stands at headland 0, beside one that runs. -/
def twinAway : Herd :=
  { uncountedHerd with
    key := twinKey
    core := 1
    furrows := [{ Furrow.fresh 0x100 0 with st := .standing 0 }, { Furrow.fresh 0x100 0 with grp := 1 }] }

/-- The second herd of the name, on core 0. -/
def twinHere : Herd := { uncountedHerd with key := twinKey, furrows := [Furrow.fresh 0x100 0] }

/-- The three herds; the patience of core 1 is 0. -/
def twinState : State :=
  { State.reset with
    issuer := some uncountedIssuer
    herds := [patienceHerd, twinAway, twinHere]
    coreRegs := Sparse.set coreReset State.reset.coreRegs (4096 + 0x080) 0#64 }

/-- `sset` of sys.patience from s1. -/
def setPatience : FS := { d := 0, a := 1, sel := 0x080, x := 0 }

theorem issues_twin : Issues twinState uncountedIssuer patienceHerd where
  who := rfl
  herd := rfl
  may := rfl
  furrows := by decide
  turn := rfl

/-- The state of a herd's first furrow after a step. -/
def firstFurrow (k : HerdKey) (r : Host.Outcome State Fault Refusal) : Option FState :=
  match r with
  | .next t => (t.herd? k).map (fun g => (g.fur 0).st)
  | _ => none

theorem firstFurrow_sset : firstFurrow twinKey (exec (.sset bareHeader setPatience) twinState) = some .running := by decide +kernel

/-- R46: a herd with a running furrow has passed. -/
theorem passed_of_running {g : Herd} {j : Nat} (hlive : j ∈ g.liveFurs) (hrun : (g.fur j).st = .running) : Passed g := by
  intro f _ hall
  refine ⟨j, hall ▸ hlive, fun n hn => ?_⟩
  rw [hrun] at hn
  cases hn

/-- Each of the three herds has a running furrow. -/
theorem passed_twin : ∀ g ∈ twinState.herds, Passed g := by
  intro g hg
  obtain rfl | rfl | rfl : g = patienceHerd ∨ g = twinAway ∨ g = twinHere := by simpa [twinState] using hg
  case inl => exact passed_of_running (j := 0) (by decide) rfl
  case inr.inl => exact passed_of_running (j := 1) (by decide) rfl
  case inr.inr => exact passed_of_running (j := 0) (by decide) rfl

/-- Refutes O21, by the frame of an `sset` of sys.patience: the statement does not ask that names of herds be distinct, and the herd of
core 0 whose standing groups the write may pass is looked up by its name. Here a herd of core 1 has that name too and stands before it in the
list. The patience of core 1 is 0, so that one of its groups passes its headland: the write changes a herd that it does not name. -/
theorem not_systemRegisterWordsComplete : ¬ Obligations.SystemRegisterWordsComplete := by
  rintro ⟨-, hwrites⟩
  obtain ⟨-, -, hcore, -⟩ := hwrites twinState uncountedIssuer patienceHerd bareHeader setPatience issues_twin (bareHeader_plain _)
    rfl (by decide) rfl (by decide)
  obtain ⟨t, h', hexec, -, -, -, hothers, -⟩ := hcore rfl rfl (fun hsel => absurd hsel (by decide)) (fun _ => ⟨by decide, passed_twin⟩)
  have hkept : t.herd? twinKey = some twinAway := hothers twinKey (by decide)
  have hafter := firstFurrow_sset
  rw [hexec] at hafter
  simp only [firstFurrow, hkept] at hafter
  exact absurd hafter (by decide)

end Sys2Proof.Machine
end

section
/-! SUPPORT. The last of a list of stores at an address. -/
namespace Sys2Proof.Machine

/-- Byte ranges that no address lies in twice. -/
def Apart (p q : Nat × List Byte) : Prop := p.1 + p.2.length ≤ q.1 ∨ q.1 + q.2.length ≤ p.1

theorem lastStore_outside (a : Nat) : ∀ (l : List (Nat × List Byte)) (old : Byte), (∀ p ∈ l, a < p.1 ∨ p.1 + p.2.length ≤ a) →
    lastStore l a old = old
  | [], _, _ => rfl
  | p :: l, old, h => by
    have hp := h p (by simp)
    rw [lastStore, List.foldl_cons, if_neg (by omega)]
    exact lastStore_outside a l old (fun q hq => h q (by simp [hq]))

theorem lastStore_apart {p : Nat × List Byte} {i : Nat} (hi : i < p.2.length) : ∀ (l : List (Nat × List Byte)) (old : Byte), l.Pairwise Apart →
    p ∈ l → lastStore l (p.1 + i) old = p.2.getD i 0#8
  | q :: l, old, hl, hp => by
    obtain ⟨hq, hl⟩ := List.pairwise_cons.mp hl
    rw [lastStore, List.foldl_cons]
    by_cases hpl : p ∈ l
    · exact lastStore_apart hi l _ hl hpl
    · obtain rfl : p = q := (List.mem_cons.mp hp).resolve_right hpl
      rw [if_pos (by omega), Nat.add_sub_cancel_left]
      exact lastStore_outside _ l _ (fun r hr => (hq r hr).elim (fun h => .inl (by omega)) (fun h => .inr (by omega)))

end Sys2Proof.Machine
end

section
/-! SUPPORT. Blocks of a tape that are written (R373, R388). -/
namespace Sys2Proof.Machine

@[simp] theorem length_padBytes (n : Nat) : ∀ k, (padBytes n k).length = k
  | 0 => rfl
  | k + 1 => by rw [padBytes, List.length_cons, length_padBytes n k]

/-- What is written of tape blocks: each is a whole block of 256 bytes, at its physical address. -/
def blockStores (s : State) (t : TapeCtx) (bl : List (Word × List Byte)) : List (Nat × List Byte) :=
  bl.mapIdx (fun n b => (t.pa b.1, b.2 ++ padBytes (s.freeCtr + 256 * n) (256 - b.2.length)))

theorem writeBlocks_eq (s : State) (core : Nat) (t : TapeCtx) (bl : List (Word × List Byte)) : writeBlocks s core t bl =
    ((blockStores s t bl).map (fun p => (Loc.mem p.1, p.2))).flatMap (fun p => writeLoc core p.2 p.1)
      ++ healed s (bl.map (fun c => (Loc.mem (t.pa c.1), 256))) ++ (if bl.isEmpty then [] else [.free (256 * bl.length)]) := by
  have hblocks : (bl.mapIdx (fun n c => writeBlock s core t n c.1 c.2)).flatten =
      ((blockStores s t bl).map (fun p => (Loc.mem p.1, p.2))).flatMap (fun p => writeLoc core p.2 p.1) := by
    rw [List.flatMap_def, List.map_map]
    exact congrArg List.flatten (List.ext_getElem (by simp [blockStores]) (fun n h1 h2 => by simp [blockStores, writeBlock, writeLoc]))
  rw [writeBlocks, hblocks]

theorem memWrites_map_mem (l : List (Nat × List Byte)) : memWrites (l.map (fun p => (Loc.mem p.1, p.2))) = l := by
  rw [memWrites, List.filterMap_map]
  exact (List.filterMap_congr (fun p _ => rfl)).trans List.filterMap_some

/-- Blocks that are written stand in memory; their marks of errors go, and nothing else but the L1 and the free values changes. -/
theorem run_writeBlocks (s u : State) (core : Nat) (t : TapeCtx) (bl : List (Word × List Byte)) :
    (∀ a, (run u (writeBlocks s core t bl)).hbm.byte a = lastStore (blockStores s t bl) a (u.hbm.byte a)) ∧
      run u (writeBlocks s core t bl) = { u with
        hbm := (run u (writeBlocks s core t bl)).hbm, hbmErr := (run u (writeBlocks s core t bl)).hbmErr
        crews := (run u (writeBlocks s core t bl)).crews, ocache := (run u (writeBlocks s core t bl)).ocache
        l1 := (run u (writeBlocks s core t bl)).l1, freeCtr := (run u (writeBlocks s core t bl)).freeCtr } := by
  obtain ⟨pre, hpre⟩ : ∃ pre, pre = ((blockStores s t bl).map (fun p => (Loc.mem p.1, p.2))).flatMap (fun p => writeLoc core p.2 p.1)
      ++ healed s (bl.map (fun c => (Loc.mem (t.pa c.1), 256))) := ⟨_, rfl⟩
  have hstores : Stores u (run u pre) ((blockStores s t bl).map (fun p => (Loc.mem p.1, p.2))) := by
    rw [hpre, run_append]
    simpa using (stores_writeLocs core ((blockStores s t bl).map (fun p => (Loc.mem p.1, p.2))) u).trans (stores_healed s _ _)
  have hwithin : Within storeParts pre := hpre ▸ within_append
    (within_flatMap fun p _ => (within_writeLoc _ _ _).mono (by decide)) ((within_healed s _).mono (by decide))
  have hframe := only_storeParts (only_run (by decide) hwithin u)
  obtain ⟨⟨hbytes, -⟩, -⟩ := hstores
  rw [memWrites_map_mem] at hbytes
  rw [writeBlocks_eq, ← hpre, run_append]
  by_cases hbl : bl.isEmpty = true
  · rw [if_pos hbl, run_nil]
    exact ⟨hbytes, by rw [hframe]⟩
  · rw [if_neg hbl, run_cons, run_nil]
    exact ⟨hbytes, by rw [hframe]; rfl⟩

section Blocks
variable {s : State} {t : TapeCtx} {bl : List (Word × List Byte)}

/-- What is written of a block of the list. -/
theorem mem_blockStores {p : Nat × List Byte} (hlen : ∀ b ∈ bl, b.2.length ≤ 256) (hp : p ∈ blockStores s t bl) :
    ∃ b ∈ bl, p.1 = t.pa b.1 ∧ p.2.length = 256 := by
  obtain ⟨n, hn, rfl⟩ := List.mem_mapIdx.mp hp
  have hle := hlen bl[n] (List.getElem_mem hn)
  exact ⟨bl[n], List.getElem_mem hn, rfl, by rw [List.length_append, length_padBytes]; omega⟩

theorem blockStores_apart (hlen : ∀ b ∈ bl, b.2.length ≤ 256)
    (hapart : bl.Pairwise (fun a b => t.pa a.1 + 256 ≤ t.pa b.1 ∨ t.pa b.1 + 256 ≤ t.pa a.1)) : (blockStores s t bl).Pairwise Apart := by
  rw [List.pairwise_iff_getElem] at hapart ⊢
  intro i j hi hj hij
  have hlength : (blockStores s t bl).length = bl.length := List.length_mapIdx
  have hfull (n : Nat) (hn : n < (blockStores s t bl).length) : ((blockStores s t bl)[n].2).length = 256 :=
    (mem_blockStores hlen (List.getElem_mem hn)).choose_spec.2.2
  have hat (n : Nat) (hn : n < (blockStores s t bl).length) : (blockStores s t bl)[n].1 = t.pa (bl[n]'(hlength ▸ hn)).1 := by
    simp [blockStores]
  rw [Apart, hfull i hi, hfull j hj, hat i hi, hat j hj]
  exact hapart i j (hlength ▸ hi) (hlength ▸ hj) hij

/-- A block that is written stands at its address. -/
theorem lastStore_block (hlen : ∀ b ∈ bl, b.2.length ≤ 256)
    (hapart : bl.Pairwise (fun a b => t.pa a.1 + 256 ≤ t.pa b.1 ∨ t.pa b.1 + 256 ≤ t.pa a.1)) {b : Word × List Byte} (hb : b ∈ bl)
    {i : Nat} (hi : i < b.2.length) (old : Byte) : lastStore (blockStores s t bl) (t.pa b.1 + i) old = b.2.getD i 0#8 := by
  obtain ⟨n, hn, rfl⟩ := List.getElem_of_mem hb
  have hmem : (t.pa bl[n].1, bl[n].2 ++ padBytes (s.freeCtr + 256 * n) (256 - bl[n].2.length)) ∈ blockStores s t bl :=
    List.mem_mapIdx.mpr ⟨n, hn, rfl⟩
  refine (lastStore_apart (i := i) ?_ _ old (blockStores_apart hlen hapart) hmem).trans ?_
  · rw [List.length_append]
    omega
  · exact List.getD_append _ _ _ _ hi

/-- Memory outside the blocks stands. -/
theorem lastStore_outsideBlocks (hlen : ∀ b ∈ bl, b.2.length ≤ 256) {a : Nat} (ha : ∀ b ∈ bl, a < t.pa b.1 ∨ t.pa b.1 + 256 ≤ a) (old : Byte) :
    lastStore (blockStores s t bl) a old = old := by
  refine lastStore_outside a _ old (fun p hp => ?_)
  obtain ⟨b, hb, hat, hfull⟩ := mem_blockStores hlen hp
  rw [hat, hfull]
  exact ha b hb

end Blocks

end Sys2Proof.Machine
end

section
/-! SUPPORT. Fences (R208 to R210, R259, R388). -/
namespace Sys2Proof.Machine

section Fence
variable {s : State} {w : Issuer} {h : Herd} {hd : Header} {x : FS}

/-- The kind of a fence (R208): full, acquire or release. -/
def fenceKind (x : FS) : Nat := (x.sel.extractLsb' 4 2).toNat

/-- The scope of a fence (R208). -/
def fenceScope (x : FS) : Nat := (x.sel.extractLsb' 0 3).toNat

/-- What a fence does besides its tape: an acquire discards the core's L1 (R209), and a release stands (R259). -/
def fenceActs (s : State) (w : Issuer) (h : Herd) (hd : Header) (x : FS) : List Act :=
  (if fenceKind x ≠ 2 && 2 ≤ fenceScope x then [.l1drop h.core] else [])
    ++ (if fenceKind x = 2 then releaseActs (issueCtx w h hd) s (fenceScope x) else [])

theorem exec_fence (hi : Issues s w h) (hh : PlainHeader h hd false) (hact : activeLanes h w.f hd ≠ []) (hd' : x.d = 0) (ha : x.a = 0)
    (hx : x.x = 0) (h9 : x.sel.extractLsb' 9 7 = 0) (h6 : x.sel.extractLsb' 6 2 = 0) (h3 : x.sel.extractLsb' 3 1 = 0)
    (hkind : x.sel.extractLsb' 4 2 ≠ 3) (hscope : fenceScope x < 6) :
    exec (.fence hd x) s = .next (run s ((issueCtx w h hd).finish s
      (if x.sel.getLsbD 8 && ((issueCtx w h hd).commandsPending s || flushOwned s (issueCtx w h hd).fencedTape) then .stall
       else .done ((if x.sel.getLsbD 8 then fenceTape (issueCtx w h hd) s else []) ++ fenceActs s w h hd x)))) := by
  have hkinds : (Use.cause 7 (decide (fenceKind x = 3))).causes h = [] := by
    have hne : fenceKind x ≠ 3 := fun he => hkind (BitVec.eq_of_toNat_eq he)
    simp [Use.causes, hne]
  have hscopes : (Use.cause 7 (decide (6 ≤ fenceScope x))).causes h = [] := by simp [Use.causes, hscope]
  have huses : ∀ u ∈ [Use.rsv x.d.toNat, .rsv x.a.toNat, .rsv x.x.toNat, .rsv (x.sel.extractLsb' 9 7).toNat,
      .rsv (x.sel.extractLsb' 6 2).toNat, .rsv (x.sel.extractLsb' 3 1).toNat, .cause 7 (fenceKind x = 3), .cause 7 (6 ≤ fenceScope x)],
      u.causes h = [] := by
    simp only [List.forall_mem_cons, hd', ha, hx, h9, h6, h3]
    exact ⟨causes_rsv rfl, causes_rsv rfl, causes_rsv rfl, causes_rsv rfl, causes_rsv rfl, causes_rsv rfl, hkinds, hscopes, nofun⟩
  rw [fenceActs, ← List.append_assoc]
  exact issue_legal hi hh.pred hact _ (legal_none hh _ huses) _

/-- R260, R261: a release is alone in its scope exactly where the statement says that no other agent lies there. -/
theorem scopeAlone_eq_false (hkey : h.key = w.key) (scope : Nat) :
    (issueCtx w h hd).scopeAlone s scope = false ↔ Sys2Proof.OthersInScope s h scope := by
  have hcrew : (issueCtx w h hd).key = h.key := hkey.symm
  rw [Ctx.scopeAlone, Sys2Proof.OthersInScope, hcrew]
  cases hg : h.ganged with
  | false => simp [issueCtx, hg]
  | true =>
    simp only [issueCtx, hg, Bool.true_and, Bool.or_eq_false_iff, Bool.and_eq_false_iff, decide_eq_false_iff_not, List.all_eq_false,
      Bool.or_eq_true, decide_eq_true_eq, Bool.true_eq_false, false_or, not_or, Bool.not_eq_true]
    constructor
    · rintro ⟨h0, h1 | ⟨y, hy, ⟨hcrew, hother⟩, hlive⟩⟩
      · exact .inl (by omega)
      · by_cases h1 : scope = 1
        · exact .inr ⟨h1, y, hy, not_not.mp hcrew, hother, hlive⟩
        · exact .inl (by omega)
    · rintro (h2 | ⟨rfl, y, hy, hcrew, hother, hlive⟩)
      · exact ⟨by omega, .inl (by omega)⟩
      · exact ⟨by decide, .inr ⟨y, hy, ⟨not_not.mpr hcrew, hother⟩, hlive⟩⟩

/-- The posted accesses with those of the issuing agent behind a release (R259). -/
def releasedPosts (s : State) (w : Issuer) (h : Herd) : List Posted :=
  s.posted.map (fun p => if p.own h.key (furMask (h.group w.f)) then { p with fenced := true } else p)

/-- A release stands before the agent's later stores unless it is alone in its scope. -/
theorem run_releaseActs (hkey : h.key = w.key) (scope : Nat) {u : State} (hu : u.posted = s.posted) :
    run u (releaseActs (issueCtx w h hd) s scope) =
      { u with posted := if (issueCtx w h hd).scopeAlone s scope then s.posted else releasedPosts s w h } := by
  have hown (p : Posted) : p.own (issueCtx w h hd).key (issueCtx w h hd).mask = p.own h.key (furMask (h.group w.f)) := by
    rw [hkey]
    rfl
  have hposts : s.posted.map (fun p => if p.own (issueCtx w h hd).key (issueCtx w h hd).mask then { p with fenced := true } else p)
      = releasedPosts s w h := List.map_congr_left (fun p _ => by rw [hown])
  rw [releaseActs, hposts]
  cases halone : (issueCtx w h hd).scopeAlone s scope with
  | true =>
    rw [Bool.not_true, Bool.and_false, if_neg Bool.false_ne_true, if_pos rfl, run_nil, ← hu]
  | false =>
    rw [if_neg Bool.false_ne_true, Bool.not_false, Bool.and_true]
    split
    · rfl
    next hnone =>
      have hsame : releasedPosts s w h = s.posted := by
        refine (List.map_congr_left (fun p hp => ?_)).trans (List.map_id _)
        have hp' : p.own h.key (furMask (h.group w.f)) = false := by
          rw [← hown]
          simpa using List.any_eq_false.mp (Bool.not_eq_true _ ▸ hnone) p hp
        rw [hp']
        rfl
      rw [run_nil, hsame, ← hu]

/-- What the posted accesses are after a fence. -/
def fencedPosts (s : State) (w : Issuer) (h : Herd) (hd : Header) (x : FS) : List Posted :=
  if fenceKind x = 2 ∧ (issueCtx w h hd).scopeAlone s (fenceScope x) = false then releasedPosts s w h else s.posted

theorem releaseStands_fenced (hkey : h.key = w.key) {t : State} (ht : t.posted = fencedPosts s w h hd x) :
    Sys2Proof.ReleaseStands s t w h x := by
  have hkind : x.sel.extractLsb' 4 2 = 2 ↔ fenceKind x = 2 := (BitVec.toNat_inj (x := x.sel.extractLsb' 4 2) (y := 2)).symm
  have halone := scopeAlone_eq_false (s := s) (hd := hd) hkey (fenceScope x)
  refine ⟨fun hrel hothers => ?_, fun hnot => ?_⟩
  · rw [ht, fencedPosts, if_pos ⟨hkind.mp hrel, halone.mpr hothers⟩]
    rfl
  · rw [ht, fencedPosts, if_neg (fun hand => hnot ⟨hkind.mpr hand.1, halone.mp hand.2⟩)]

theorem acquires_iff : Sys2Proof.acquires x = (fenceKind x ≠ 2 && 2 ≤ fenceScope x) := by
  have hkind : x.sel.extractLsb' 4 2 = 2 ↔ fenceKind x = 2 := (BitVec.toNat_inj (x := x.sel.extractLsb' 4 2) (y := 2)).symm
  rw [Sys2Proof.acquires, decide_eq_decide.mpr (not_congr hkind)]
  rfl

/-- What a fence does to the L1 and to the posted accesses. -/
theorem run_fenceActs (hkey : h.key = w.key) {u : State} (hu : u.posted = s.posted) : run u (fenceActs s w h hd x) =
    { u with l1 := if Sys2Proof.acquires x then u.l1.filter (fun q => q.core ≠ h.core) else u.l1
             posted := fencedPosts s w h hd x } := by
  obtain ⟨v, hrun, hv⟩ : ∃ v, run u (if fenceKind x ≠ 2 && 2 ≤ fenceScope x then [.l1drop h.core] else []) = v ∧
      v = { u with l1 := if fenceKind x ≠ 2 && 2 ≤ fenceScope x then u.l1.filter (fun q => q.core ≠ h.core) else u.l1 } :=
    ⟨_, rfl, by split <;> rfl⟩
  have hposted : v.posted = s.posted := by rw [hv]; exact hu
  rw [fenceActs, run_append, acquires_iff, hrun]
  by_cases hrel : fenceKind x = 2
  · have hposts : fencedPosts s w h hd x = if (issueCtx w h hd).scopeAlone s (fenceScope x) then s.posted else releasedPosts s w h := by
      rw [fencedPosts]
      cases (issueCtx w h hd).scopeAlone s (fenceScope x) <;> simp [hrel]
    rw [if_pos hrel, run_releaseActs hkey _ hposted, hposts, hv]
  · have hposts : fencedPosts s w h hd x = s.posted := if_neg (fun hand => hrel hand.1)
    rw [if_neg hrel, run_nil, hposts, ← hu, hv]

theorem commandsPending_iff : (issueCtx w h hd).commandsPending s = true ↔ Sys2Proof.CommandsLeft s w h := by
  simp only [Ctx.commandsPending, Ctx.ownCommand, Bool.or_eq_true, List.any_eq_true, Bool.and_eq_true, decide_eq_true_eq]
  rfl

/-- A fence that writes no block of a tape. -/
theorem finish_fencePlain (hi : Issues s w h) (hd : Header) (x : FS) : ∃ t h', run s ((issueCtx w h hd).finish s (.done (fenceActs s w h hd x))) = t ∧
    OnlyHerd s { t with l1 := s.l1, posted := s.posted } w h h' ∧ FurrowsOnly h h' ∧ Advanced h h' w.f ∧ Sys2Proof.ReleaseStands s t w h x ∧
    t.l1 = if Sys2Proof.acquires x then s.l1.filter (fun q => q.core ≠ h.core) else s.l1 := by
  have hkey := herd?_key hi.herd
  obtain ⟨s1, h1, hframe1⟩ : ∃ s1, run (counted s h) (fenceActs s w h hd x) = s1 ∧
      s1 = { counted s h with l1 := if Sys2Proof.acquires x then s.l1.filter (fun q => q.core ≠ h.core) else s.l1
                              posted := fencedPosts s w h hd x } := ⟨_, rfl, run_fenceActs hkey rfl⟩
  have hone : OneHerd s s1 w.key h := by
    rw [hframe1]
    exact ⟨hi.herd, fun _ _ => rfl⟩
  obtain ⟨t, ht, hframe, hdone⟩ := run_finish_doneBy hd h1 hone (by rw [hframe1])
  obtain ⟨hfurrows, hadvanced⟩ := acts_goesOn h w.f
  refine ⟨t, _, ht, ⟨hdone.now, ?_, hdone.others, hdone.issued, hdone.regs, fun a => ?_, fun a => ?_, ?_⟩, hfurrows, hadvanced,
    releaseStands_fenced hkey (hd := hd) ?_, ?_⟩
  all_goals rw [hframe, hframe1] <;> rfl

/-- A fence that writes the dirty blocks of the agent's tape streams. -/
theorem finish_fenceTape (hi : Issues s w h) (hd : Header) (x : FS) {bl : List (Word × List Byte)}
    (hbl : bl = dirtyBlocks (issueCtx w h hd).fencedTape) (hne : bl ≠ []) (hlen : ∀ b ∈ bl, b.2.length ≤ 256)
    (hapart : bl.Pairwise (fun a b => h.tape.pa a.1 + 256 ≤ h.tape.pa b.1 ∨ h.tape.pa b.1 + 256 ≤ h.tape.pa a.1)) :
    ∃ t h', run s ((issueCtx w h hd).finish s (.done (fenceTape (issueCtx w h hd) s ++ fenceActs s w h hd x))) = t ∧ WordDone s t w h h' ∧
      Advanced h h' w.f ∧
      t = { s with herds := t.herds, coreRegs := t.coreRegs, hbm := t.hbm, hbmErr := t.hbmErr, crews := t.crews
                   ocache := t.ocache, l1 := t.l1, freeCtr := t.freeCtr, posted := t.posted } ∧ Sys2Proof.ReleaseStands s t w h x ∧
      (Sys2Proof.acquires x = true → ∀ q ∈ t.l1, q.core ≠ h.core) ∧
      h' = { h with furrows := h'.furrows, tape := (issueCtx w h hd).tapeAfterFence } ∧
      (∀ b ∈ bl, ∀ i < b.2.length, t.hbm.byte (h.tape.pa b.1 + i) = b.2.getD i 0#8) ∧
      ∀ p, (∀ b ∈ bl, p < h.tape.pa b.1 ∨ h.tape.pa b.1 + 256 ≤ p) → t.hbm.byte p = s.hbm.byte p := by
  have hkey := herd?_key hi.herd
  obtain ⟨hbytes, hframe1⟩ := run_writeBlocks s (counted s h) h.core (issueCtx w h hd).fencedTape bl
  obtain ⟨s1, h1⟩ : ∃ s1, run (counted s h) (writeBlocks s h.core (issueCtx w h hd).fencedTape bl) = s1 := ⟨_, rfl⟩
  rw [h1] at hbytes hframe1
  have hone1 : s1.herd? w.key = some h := by rw [hframe1]; exact hi.herd
  obtain ⟨s2, h2⟩ : ∃ s2, run s1 (herdActs w.key [.tape (issueCtx w h hd).tapeAfterFence]) = s2 := ⟨_, rfl⟩
  obtain ⟨hself2, hothers2⟩ := oneHerd_herdActs hone1 [.tape (issueCtx w h hd).tapeAfterFence]
  have hframe2 : s2 = { s1 with herds := s2.herds } := by rw [← h2, run_herdActs]
  rw [h2] at hself2 hothers2
  have h3 : run (counted s h) (fenceTape (issueCtx w h hd) s ++ fenceActs s w h hd x) =
      { s2 with l1 := if Sys2Proof.acquires x then s2.l1.filter (fun q => q.core ≠ h.core) else s2.l1, posted := fencedPosts s w h hd x } := by
    have hposted : s2.posted = s.posted := by rw [hframe2, hframe1]; rfl
    rw [← run_fenceActs hkey hposted, ← h2, ← h1, ← run_append, ← run_append, fenceTape, ← hbl, if_neg (by simpa using hne), flushTape, ← hbl,
      List.append_assoc]
    rfl
  have hone : OneHerd s { s2 with l1 := if Sys2Proof.acquires x then s2.l1.filter (fun q => q.core ≠ h.core) else s2.l1
                                  posted := fencedPosts s w h hd x } w.key { h with tape := (issueCtx w h hd).tapeAfterFence } :=
    ⟨hself2, fun k hk => (hothers2 k hk).trans (by rw [hframe1]; rfl)⟩
  obtain ⟨t, ht, hframe, hdone⟩ := run_finish_doneBy hd h3 hone (by rw [hframe2, hframe1])
  obtain ⟨hmoves, hpcs⟩ := acts_moveTo { h with tape := (issueCtx w h hd).tapeAfterFence } h (h.group w.f) ((h.fur w.f).pc + 8#64)
    (group_lt h w.f)
  refine ⟨t, _, ht, hdone, hpcs, ?frame, releaseStands_fenced hkey (hd := hd) ?posts, fun hacq q hq => ?l1, hmoves, fun b hb i hi' => ?block,
    fun p hp => ?outside⟩
  case frame => rw [hframe, hframe2, hframe1]; rfl
  case posts => rw [hframe]
  case l1 =>
    rw [hframe, if_pos hacq] at hq
    simpa using (List.mem_filter.mp hq).2
  case block =>
    rw [hframe, hframe2]
    exact (hbytes _).trans (lastStore_block hlen hapart hb hi' _)
  case outside =>
    rw [hframe, hframe2]
    exact (hbytes p).trans (lastStore_outsideBlocks hlen hp _)

end Fence

theorem fencesIssue : Sys2Proof.FencesIssue := by
  intro s w h hd x bl hi hh hact hd' ha hx h9 h6 h3 hkind hscope hbl
  have hexec := exec_fence hi hh hact hd' ha hx h9 h6 h3 hkind hscope
  have hpending : ¬ Sys2Proof.CommandsLeft s w h → (issueCtx w h hd).commandsPending s = false := fun hleft =>
    Bool.eq_false_iff.mpr (fun hp => hleft (commandsPending_iff.mp hp))
  refine ⟨fun heng => ?plain, fun heng hleft => ?waits, fun heng hleft hne hblocks hapart => ?tape⟩
  case plain =>
    have hres : (if x.sel.getLsbD 8 && ((issueCtx w h hd).commandsPending s || flushOwned s (issueCtx w h hd).fencedTape) then Res.stall
        else .done ((if x.sel.getLsbD 8 then fenceTape (issueCtx w h hd) s else []) ++ fenceActs s w h hd x)) =
        .done (fenceActs s w h hd x) := by
      cases h8 : x.sel.getLsbD 8 with
      | false => rfl
      | true =>
        obtain ⟨hleft, hnil⟩ := heng h8
        have hclean : dirtyBlocks (issueCtx w h hd).fencedTape = [] := hbl.symm.trans hnil
        simp [hpending hleft, flushOwned, fenceTape, hclean]
    obtain ⟨t, h', ht, hfence⟩ := finish_fencePlain hi hd x
    exact ⟨t, h', by rw [hexec, hres, ht], hfence⟩
  case waits => rw [hexec, heng, commandsPending_iff.mpr hleft, Bool.true_or, Bool.true_and, if_pos rfl, run_finish_stall]
  case tape =>
    have howned : flushOwned s (issueCtx w h hd).fencedTape = false := by
      rw [flushOwned, ← hbl, List.any_eq_false]
      exact fun b hb => Bool.eq_false_iff.mp (hblocks b hb).2
    obtain ⟨t, h', ht, hfence⟩ := finish_fenceTape hi hd x hbl hne (fun b hb => (hblocks b hb).1) hapart
    exact ⟨t, h', by rw [hexec, heng, hpending hleft, howned, ← ht]; rfl, hfence⟩

/-- A posted access of a group's herd is its own when they share a furrow (R253). -/
theorem own_of {p : Posted} {k : HerdKey} {g : BitVec 8} (hkey : p.key = k) (hgroup : p.group &&& g ≠ 0#8) : p.own k g = true := by
  simp [Posted.own, hkey, hgroup]

/-- R256, R259: what makes an access precede another of its agent. -/
theorem before_of {p : Posted} {k : HerdKey} {g : BitVec 8} {n : Nat} {write : Bool} {l : Loc} (hkey : p.key = k) (hgroup : p.group &&& g ≠ 0#8)
    (h : p.loc.meets p.size n l = true ∨ (p.fenced = true ∧ write = true)) : p.before k g n write l = true := by
  rw [Posted.before, own_of hkey hgroup, Bool.true_and, Bool.or_eq_true, Bool.and_eq_true]
  exact h

section Awaited
variable {s : State} {h : Herd} {p : Posted}

/-- The accesses that a herd's word may wait for. -/
def herdPosts (s : State) (h : Herd) : List Posted := s.posted.filter (fun p => decide (p.key = h.key))

/-- Those of them that are the issuing group's own. -/
def groupPosts (s : State) (h : Herd) (f : Nat) : List Posted := (herdPosts s h).filter (fun p => p.own h.key (furMask (h.group f)))

theorem mem_herdPosts (hp : p ∈ s.posted) (hkey : p.key = h.key) : p ∈ herdPosts s h := List.mem_filter.mpr ⟨hp, decide_eq_true hkey⟩

theorem mem_groupPosts {f : Nat} (hp : p ∈ s.posted) (hkey : p.key = h.key) (hgroup : p.group &&& furMask (h.group f) ≠ 0#8) :
    p ∈ groupPosts s h f := List.mem_filter.mpr ⟨mem_herdPosts hp hkey, own_of hkey hgroup⟩

/-- With an access of its herd posted, a word waits for one of the reasons of `postedWaits`. -/
theorem postedWaits_eq (hp : p ∈ s.posted) (hkey : p.key = h.key) (f : Nat) (post : Bool) (word : Word) : postedWaits s h f post word =
    (postedBusy (herdPosts s h) word
      || (!(groupPosts s h f).isEmpty && orderedOps.any (fun r => decide (r.1 ≤ opOf word) && decide (opOf word ≤ r.2)))
      || (match decodeWord word with
          | .fence _ x => fenceWaits post x (groupPosts s h f)
          | .exit _ _ => true
          | .head _ _ => mayRegang h (furMask (h.group f))
          | _ => false)) := by
  have hsome : (herdPosts s h).isEmpty = false := List.isEmpty_eq_false_iff_exists_mem.mpr ⟨p, mem_herdPosts hp hkey⟩
  rw [herdPosts] at hsome
  simp only [postedWaits, hsome, Bool.not_false, Bool.true_and] <;> rfl

/-- R209, R210, R259: what a fence waits for. -/
theorem fenceWaits_of_mem {own : List Posted} (hp : p ∈ own) {post : Bool} {x : FS} (h : x.sel.getLsbD 8 = true ∨ x.sel.extractLsb' 4 2 = 0
    ∨ (x.sel.extractLsb' 4 2 = 2 ∧ post = false) ∨ (x.sel.extractLsb' 4 2 = 1 ∧ p.reads = true)) : fenceWaits post x own = true := by
  have hsome : own.isEmpty = false := List.isEmpty_eq_false_iff_exists_mem.mpr ⟨p, hp⟩
  unfold fenceWaits
  obtain heng | hfull | ⟨hrel, hpost⟩ | ⟨hacq, hreads⟩ := h
  · simp [heng, hsome]
  · simp [hfull, hsome]
  · simp [hrel, hpost, hsome]
  · have hany : own.any Posted.reads = true := List.any_eq_true.mpr ⟨p, hp, hreads⟩
    simp [hacq, hsome, hany]

end Awaited

theorem postedAccessesAreAwaited : Sys2Proof.PostedAccessesAreAwaited := by
  refine ⟨fun s i j p q hp hq hij hkey hgroup hbefore => ?performs, fun s k g core n write viaL1 l p hp hkey hgroup hbefore => ?accesses,
    fun s h f post word p hp hkey => ⟨fun hnames => ?names, fun hd x hexit => ?exit, fun hgroup => ⟨fun hd x hfence hkinds => ?fence,
    fun hop => ?ordered⟩⟩⟩
  case performs =>
    have hmem : p ∈ s.posted.take j := List.mem_of_getElem? (by rw [List.getElem?_take_of_lt hij, hp])
    rw [performWaits, behindPosted_of_mem hmem (before_of hkey hgroup hbefore), Bool.true_or]
  case accesses => rw [locWaits, behindPosted_of_mem hp (before_of hkey hgroup hbefore), Bool.or_true]
  case names =>
    obtain ⟨r, hr, n, hn, hrange⟩ := hnames
    have hbusy : postedBusy (herdPosts s h) word = true := List.any_eq_true.mpr ⟨p, mem_herdPosts hp hkey, List.any_eq_true.mpr ⟨r, hr,
      List.any_eq_true.mpr ⟨n, hn, by simpa using hrange⟩⟩⟩
    rw [postedWaits_eq hp hkey, hbusy, Bool.true_or, Bool.true_or]
  case exit => rw [postedWaits_eq hp hkey, hexit, Bool.or_true]
  case fence =>
    simp only [postedWaits_eq hp hkey, hfence, fenceWaits_of_mem (mem_groupPosts hp hkey hgroup) hkinds, Bool.or_true]
  case ordered =>
    have hany : orderedOps.any (fun r => decide (r.1 ≤ opOf word) && decide (opOf word ≤ r.2)) = true := by
      simpa [List.any_eq_true] using hop
    have hsome : (groupPosts s h f).isEmpty = false := List.isEmpty_eq_false_iff_exists_mem.mpr ⟨p, mem_groupPosts hp hkey hgroup⟩
    rw [postedWaits_eq hp hkey, hsome, hany, Bool.not_false, Bool.true_and, Bool.or_true, Bool.true_or]

/-- Settles O24: what a fence does at its turn (`exec_fence`), and what waits for the accesses that are posted before it. -/
theorem fencesComplete : Obligations.FencesComplete := ⟨fencesIssue, postedAccessesAreAwaited⟩

end Sys2Proof.Machine
end

section
/-! SUPPORT. What ends a hold (R202): the acts of its end, and those of a word that completes with it. -/
namespace Sys2Proof.Machine

/-- A herd that has lost a hold. -/
def letOff (h : Herd) (x : Hold) : Herd := { h with holds := holdsWithout h x }

section Held
variable {s : State} {k : HerdKey} {h : Herd} {x : Hold}

/-- Acts on the module that leave the herds, and then acts on one herd. -/
theorem run_thenHerd (hh : s.herd? k = some h) (l : List Act) (ha : List HAct) (hherds : (run s l).herds = s.herds) :
    ∃ t, run s (l ++ herdActs k ha) = t ∧ t = { run s l with herds := t.herds } ∧ OneHerd s t k (h.acts ha) := by
  have hh1 (j : HerdKey) : (run s l).herd? j = s.herd? j := herd?_congr _ _ hherds j
  obtain ⟨hself, hothers⟩ := oneHerd_herdActs ((hh1 k).trans hh) ha
  refine ⟨_, rfl, ?_, ?_⟩
  · rw [run_append, run_herdActs]
  · rw [run_append]
    exact ⟨hself, fun j hj => (hothers j hj).trans (hh1 j)⟩

/-- A held word that completes: its hold goes, and its group goes on. -/
theorem acts_finishHold (hlen : ∀ j ∈ bitsOf x.group 8, j < h.furrows.length) :
    h.acts (finishHold h x) = { letOff h x with furrows := (h.acts (finishHold h x)).furrows } ∧ HeldAdvanced h (h.acts (finishHold h x)) x := by
  have hmoves := acts_furrowActs ((bitsOf x.group 8).map (fun f => furAct h f (fun r => { r with pc := r.pc + 8#64 }))) (letOff h x)
    (by simp [furAct])
  exact ⟨hmoves, fun j => fur_acts h (fun _ r => { r with pc := r.pc + 8#64 }) _ (letOff h x) j hlen⟩

end Held

end Sys2Proof.Machine
end

section
/-! SUPPORT. The answer of a site's compare-and-swap, and a stalled `sow` (R212 to R214, R274). -/
namespace Sys2Proof.Machine

section Answered
variable {s : State} {k : HerdKey} {h : Herd} {f : Nat} {x : Hold}

theorem exec_siteRewrite {pa : Nat} {old new : Word} {widen : Bool} (hh : s.herd? k = some h) (hx : HeldBy h f x)
    (hwhy : x.why = .rewrite pa old new widen) (hfree : lineOwned s pa 8 = false) :
    exec (.siteRewrite k f) s = .next (run s (casActs s h.core pa old new widen ++ herdActs k [dropHold h x])) := by
  obtain ⟨g, why⟩ := x
  obtain rfl : why = _ := hwhy
  refine congrArg (fun l => Host.Outcome.next (run s l)) ?_
  simp only [siteActs, hh, holdOf_heldBy hx, hfree, Bool.false_eq_true, if_false]

/-- R274: the swap succeeds where the word is still the old one. -/
theorem siteRewrite_answers {pa : Nat} {old new : Word} {widen : Bool} (hh : s.herd? k = some h) (hx : HeldBy h f x)
    (hwhy : x.why = .rewrite pa old new widen) (hfree : lineOwned s pa 8 = false) :
    ∃ t, exec (.siteRewrite k f) s = .next t ∧ OneHerd s t k { h with holds := holdsWithout h x } ∧
      (s.hbm.num pa 8 ≠ old.toNat → t = { s with herds := t.herds }) ∧
      (s.hbm.num pa 8 = old.toNat →
        t = { s with herds := t.herds, hbm := t.hbm, coreRegs := t.coreRegs, crews := t.crews, ocache := t.ocache } ∧
        t.hbm.num pa 8 = new.toNat ∧ (∀ p, p < pa ∨ pa + 8 ≤ p → t.hbm.byte p = s.hbm.byte p) ∧
        t.coreReg h.core (if widen then 0x044 else 0x043)
          = BitVec.ofNat 64 (min ((s.coreReg h.core (if widen then 0x044 else 0x043)).toNat + 1) (2 ^ 64 - 1))) := by
  have hcas : (run s (casActs s h.core pa old new widen)).herds = s.herds := by
    unfold casActs
    split <;> simp [bumpCore]
  obtain ⟨t, ht, hframe, hone⟩ := run_thenHerd hh (casActs s h.core pa old new widen) [dropHold h x] hcas
  refine ⟨t, by rw [exec_siteRewrite hh hx hwhy hfree, ht], hone, fun hne => ?_, fun heq => ?_⟩
  · rw [hframe, casActs, if_neg hne]
    rfl
  · have hswap : run s (casActs s h.core pa old new widen) =
        (s.act (.mem pa (leBytes 8 new.toNat) none)).act (bumpCore h.core (if widen then 0x044 else 0x043)) := by
      rw [casActs, if_pos heq]
      rfl
    rw [hframe, hswap]
    refine ⟨rfl, num_put_word s.hbm pa new, fun p hp => ?_, ?_⟩
    · exact Memory.byte_put_of_lt _ _ _ _ (by rw [length_leBytes]; exact hp)
    · simp [State.coreReg, bumpCore, Sparse.get_set]

theorem exec_sowStalledPost {core d : Nat} {card : Card} (hh : s.herd? k = some h) (hx : HeldBy h f x) (hwhy : x.why = .sow card core d) :
    exec (.sowStalledPost k f) s = .next (run s
      (if queueFull s core card.prio || sowsBefore s core card.prio (postRank h core card.prio x.group) ≠ 0 then []
       else postCard s k.crew.part card core ++ herdActs k (finishHold h x ++ [.s d 0#64]))) := by
  obtain ⟨g, why⟩ := x
  obtain rfl : why = _ := hwhy
  refine congrArg (fun l => Host.Outcome.next (run s l)) ?_
  simp only [sowPostActs, hh, holdOf_heldBy hx]

/-- R212 to R214: a stalled `sow` whose turn has come posts its card. -/
theorem sowStalledPost_posts {core d : Nat} {card : Card} (hh : s.herd? k = some h) (hx : HeldBy h f x) (hwhy : x.why = .sow card core d)
    (hroom : queueFull s core card.prio = false) (hfirst : sowsBefore s core card.prio (postRank h core card.prio x.group) = 0)
    (hlen : ∀ j ∈ bitsOf x.group 8, j < h.furrows.length) :
    ∃ t h', exec (.sowStalledPost k f) s = .next t ∧ OneHerd s t k h' ∧ HeldAdvanced h h' x ∧
      t = { s with herds := t.herds, counts := t.counts, fields := t.fields, seeds := t.seeds } ∧
      h' = { h with s := h'.s, furrows := h'.furrows, holds := holdsWithout h x, late := h.overrule d } ∧ h'.sreg d = 0#64 ∧
      (∀ n, n ≠ d → h'.sreg n = h.sreg n) ∧
      t.seeds = s.seeds ++ [{ core := core, prio := card.prio, part := k.crew.part, field := (nextFieldId s k.crew.part).toNat }] ∧
      t.fields = s.fields ++ [{ part := k.crew.part, id := (nextFieldId s k.crew.part).toNat, card := card, home := core
                                admitted := 0, ended := 0, aborted := false, phases := [] }] := by
  obtain ⟨t, ht, hframe, hone⟩ := run_thenHerd hh (postCard s k.crew.part card core) (finishHold h x ++ [.s d 0#64]) rfl
  have hexec := exec_sowStalledPost hh hx hwhy
  rw [hroom, hfirst, if_neg (by decide), ht] at hexec
  obtain ⟨hfinish, hmoves⟩ := acts_finishHold hlen
  rw [Herd.acts_append] at hone
  obtain ⟨g, hg⟩ : ∃ g, h.acts (finishHold h x) = g := ⟨_, rfl⟩
  rw [hg] at hone hfinish hmoves
  have hsregs := sreg_written (g := g.acts [.s d 0#64]) (h := h) (d := d) (x := 0#64) (by rw [hfinish]; rfl)
  refine ⟨t, g.acts [.s d 0#64], hexec, hone, hmoves, ?frame, ?rest, ?dest, fun n hn => ?others, ?seeds, ?fields⟩
  case frame => rw [hframe]; rfl
  case rest => rw [hfinish]; rfl
  case dest => rw [hsregs, if_pos rfl]; simp
  case others => rw [hsregs, if_neg hn]
  case seeds => rw [hframe]; rfl
  case fields => rw [hframe]; rfl

/-- R213, R214: one whose queue is full, or that others stand before, waits on. -/
theorem sowStalledPost_waits {core d : Nat} {card : Card} (hh : s.herd? k = some h) (hx : HeldBy h f x) (hwhy : x.why = .sow card core d)
    (hwaits : queueFull s core card.prio = true ∨ sowsBefore s core card.prio (postRank h core card.prio x.group) ≠ 0) :
    exec (.sowStalledPost k f) s = .next s := by
  rw [exec_sowStalledPost hh hx hwhy, if_pos (by simpa using hwaits), run_nil]

end Answered

end Sys2Proof.Machine
end

section
/-! SUPPORT. The answers of a remote word (R230 to R232, R275, R277, R278, R417). -/
namespace Sys2Proof.Machine

/-- A compare-and-swap that a word makes before its trap, where its format is refused (R278). -/
def refusedCas (s : State) (core : Nat) (r : RemoteOp) (p : Plan) : List Act :=
  match r.site with
  | some t => if t.ss = 2 then remoteCas s core r p true else []
  | none => []

/-- Whether every peer lane's format is known, or none is to come (R277, R278). -/
def fmtsKnown (s : State) (r : RemoteOp) (ans : List LaneAnswer) : Bool :=
  r.waiting.all (fun w => r.space w.2.1 ≠ 5 || !answerFails s r ans w) || (match r.site with | some t => !t.fmtDim | none => true)

/-- What a word with a lane in error does before its trap. -/
def failedActs (s : State) (core : Nat) (r : RemoteOp) (ans : List LaneAnswer) (p : Plan) : List Act :=
  hostStores s r ans ++ (if r.spoilt.isSome then [] else laterActs s core r) ++ remoteCas s core r p (fmtsKnown s r ans)

/-- The hold of a completed word's own compare-and-swap (R278). -/
def rewriteActs (h : Herd) (x : Hold) (r : RemoteOp) (p : Plan) : List HAct :=
  match r.site, p.rw with
  | some t, some (w, widen) => [.holds (h.holds.filter (fun y => decide (y ≠ x)) ++ [{ group := x.group, why := .rewrite r.pa t.word w widen }])]
  | _, _ => []

/-- R356: what delays a trap of a herd with a hold fewer delayed it before. -/
theorem trapFree_letOff {h : Herd} {x : Hold} {g : BitVec 8} (hfree : TrapFree h g) : TrapFree (letOff h x) g := by
  obtain ⟨hwaits, hpend⟩ := hfree
  refine ⟨?_, hpend⟩
  rw [trapWaits, List.any_eq_false] at hwaits ⊢
  exact fun y hy => hwaits y (List.mem_filter.mp hy).1

/-! What the acts of an answer change. -/

theorem byte_putAll (a : Nat) : ∀ (l : List (Nat × List Byte)) (m : Memory), (putAll m l).byte a = lastStore l a (m.byte a)
  | [], _ => rfl
  | p :: l, m => by
    have ih := byte_putAll a l (Memory.put m p.1 p.2)
    rw [Memory.byte_put] at ih
    exact ih

theorem run_hostMems : ∀ (l : List (Nat × List Byte)) (s : State),
    run s (l.map (fun p => Act.hostMem p.1 p.2)) = { s with hostMem := putAll s.hostMem l }
  | [], _ => rfl
  | p :: l, s => by
    rw [List.map_cons, run_cons, run_hostMems l]
    rfl

/-- The stores to the host that were answered without error (R231). -/
def hostWrites (s : State) (r : RemoteOp) (ans : List LaneAnswer) : List (Nat × List Byte) :=
  if r.kind = 1 && r.op.isNone then
    (r.waiting.filter (fun w => r.space w.2.1 = 6 && !answerFails s r ans w)).map (fun w => (fld w.2.1 47 0, leBytes (2 ^ r.wid) w.2.2.toNat))
  else []

theorem flatMap_ite_singleton {α β : Type} (p : α → Bool) (g : α → β) : ∀ l : List α,
    l.flatMap (fun a => if p a then [g a] else []) = (l.filter p).map g
  | [] => rfl
  | a :: l => by
    rw [List.flatMap_cons, flatMap_ite_singleton p g l, List.filter_cons]
    cases p a <;> rfl

theorem hostStores_eq (s : State) (r : RemoteOp) (ans : List LaneAnswer) :
    hostStores s r ans = (hostWrites s r ans).map (fun p => Act.hostMem p.1 p.2) := by
  rw [hostStores, hostWrites, flatMap_ite_singleton]
  split
  · rw [List.map_map]
    rfl
  · rfl

theorem run_hostStores (s u : State) (r : RemoteOp) (ans : List LaneAnswer) :
    run u (hostStores s r ans) = { u with hostMem := putAll u.hostMem (hostWrites s r ans) } := by
  rw [hostStores_eq, run_hostMems]

/-- The places and bytes of a store's local lanes. -/
def laterWrites (s : State) (r : RemoteOp) : List (Loc × List Byte) := (r.stores s).map (fun q => (q.2.1, leBytes (2 ^ r.wid) q.2.2.toNat))

theorem run_laterActs (s u : State) (core : Nat) (r : RemoteOp) : Stored u (run u (laterActs s core r)) (laterWrites s r) ∧
    run u (laterActs s core r) = { u with hbm := (run u (laterActs s core r)).hbm, hbmErr := (run u (laterActs s core r)).hbmErr
                                          crews := (run u (laterActs s core r)).crews, ocache := (run u (laterActs s core r)).ocache
                                          l1 := (run u (laterActs s core r)).l1 } := by
  obtain ⟨pre, hpre⟩ : ∃ pre, pre = (r.stores s).flatMap (fun w => writeLoc core (leBytes (2 ^ r.wid) w.2.2.toNat) w.2.1)
      ++ healed s ((r.stores s).map (fun w => (w.2.1, 2 ^ r.wid))) := ⟨_, rfl⟩
  have hstores : Stores u (run u pre) (laterWrites s r) := by
    have hwrites := (stores_writeLocs core (laterWrites s r) u).trans (stores_healed s _ ((r.stores s).map (fun w => (w.2.1, 2 ^ r.wid))))
    rw [← run_append, laterWrites, List.flatMap_map, List.append_nil] at hwrites
    rw [hpre]
    exact hwrites
  have hwithin : Within storeParts pre := hpre ▸ within_append
    (within_flatMap fun p _ => (within_writeLoc _ _ _).mono (by decide)) ((within_healed s _).mono (by decide))
  have hframe := only_storeParts (only_run (by decide) hwithin u)
  have htraced := traced_loadTraces s (run u pre) core
    (r.seen.map (fun w => { lane := w.1, addr := w.2.1, flt := none, loc := w.2.2, fmt := 0, drew := false, fill := [] }))
  obtain ⟨⟨hmem, htile⟩, -⟩ := hstores
  rw [laterActs, ← hpre, run_append]
  refine ⟨⟨fun a => ?_, fun c a => (htraced.bytes c a).trans (htile c a)⟩, ?_⟩
  · rw [htraced.frame]
    exact hmem a
  · rw [htraced.frame, hframe]

/-- A word with no local lane that waits does nothing there. -/
theorem laterActs_nil {r : RemoteOp} (hlater : r.later = []) (hseen : r.seen = []) (s : State) (core : Nat) : laterActs s core r = [] := by
  rw [laterActs, RemoteOp.stores, hlater, hseen]
  simp [healed_nil, loadTraces]

/-- A compare-and-swap: the core's counts, and the word where it is still the old one (R274). -/
theorem run_cas (s u : State) (core pa : Nat) (old new : Word) (widen : Bool) :
    run u (casActs s core pa old new widen) = { u with
      hbm := (run u (casActs s core pa old new widen)).hbm, coreRegs := (run u (casActs s core pa old new widen)).coreRegs
      crews := (run u (casActs s core pa old new widen)).crews, ocache := (run u (casActs s core pa old new widen)).ocache } ∧
    (∀ q, q < pa ∨ pa + 8 ≤ q → (run u (casActs s core pa old new widen)).hbm.byte q = u.hbm.byte q) ∧
    (s.hbm.num pa 8 = old.toNat → (run u (casActs s core pa old new widen)).hbm.num pa 8 = new.toNat) := by
  unfold casActs
  split
  next heq =>
    refine ⟨rfl, fun q hq => ?_, fun _ => num_put_word u.hbm pa new⟩
    exact Memory.byte_put_of_lt _ _ _ _ (by rw [length_leBytes]; exact hq)
  next hne => exact ⟨rfl, fun _ _ => rfl, fun heq => absurd heq hne⟩

/-- What a word's own compare-and-swap changes, if it makes one. -/
structure Swapped (u t : State) (pa : Nat) : Prop where
  frame : t = { u with hbm := t.hbm, coreRegs := t.coreRegs, crews := t.crews, ocache := t.ocache }
  outside : ∀ q, q < pa ∨ pa + 8 ≤ q → t.hbm.byte q = u.hbm.byte q

theorem swapped_refl (u : State) (pa : Nat) : Swapped u u pa := ⟨rfl, fun _ _ => rfl⟩

theorem swapped_remoteCas (s u : State) (core : Nat) (r : RemoteOp) (p : Plan) (all : Bool) :
    Swapped u (run u (remoteCas s core r p all)) r.pa := by
  have hcas (old new : Word) (widen : Bool) : Swapped u (run u (casActs s core r.pa old new widen)) r.pa := by
    obtain ⟨hframe, houtside, -⟩ := run_cas s u core r.pa old new widen
    exact ⟨hframe, houtside⟩
  unfold remoteCas
  split
  · split
    · exact hcas _ _ _
    · exact swapped_refl u r.pa
  · exact swapped_refl u r.pa

/-- The swap is made where every format is known, or where the new word is a widening. -/
theorem remoteCas_eq {r : RemoteOp} {p : Plan} {y : Site} {new : Word} {b all : Bool} (hy : r.site = some y) (hrw : p.rw = some (new, b))
    (hmade : (all || b) = true) (s : State) (core : Nat) : remoteCas s core r p all = casActs s core r.pa y.word new b := by
  rw [remoteCas, hy, hrw]
  exact if_pos hmade

theorem remoteCas_none {r : RemoteOp} {p : Plan} (hrw : p.rw = none) (s : State) (core : Nat) (all : Bool) : remoteCas s core r p all = [] := by
  rw [remoteCas, hrw]
  cases r.site <;> rfl

theorem swapped_refusedCas (s u : State) (core : Nat) (r : RemoteOp) (p : Plan) : Swapped u (run u (refusedCas s core r p)) r.pa := by
  unfold refusedCas
  split
  · split
    · exact swapped_remoteCas s u core r p true
    · exact swapped_refl u r.pa
  · exact swapped_refl u r.pa

section Remote
variable {s : State} {k : HerdKey} {h : Herd} {f : Nat} {x : Hold} {r : RemoteOp} {ans : List LaneAnswer} {p : Plan}

/-- What a remote word does with its answers, once no lane of it stalls. -/
theorem exec_remoteAnswer (hh : s.herd? k = some h) (hx : HeldBy h f x) (hwhy : x.why = .remote r)
    (hans : ans.map (fun a => a.lane) = r.waiting.map (fun q => q.1)) (hsite : r.site.isSome = true → lineOwned s r.pa 8 = false)
    (hlater : laterWaits s k x.group h.core r = false) (hp : p = r.plan (answerFmts s r ans)) :
    exec (.remoteAnswer k f ans) s = .next (run s
      (if fmtRefused r.site r.wid (answerFmts s r ans) p then
         chain s [fun s => refusedCas s h.core r p ++ herdActs k [dropHold h x], remoteTrap k x (trapOf 0 7)]
       else match remoteFault s r ans with
         | some t => chain s [fun s => failedActs s h.core r ans p ++ herdActs k [dropHold h x], remoteTrap k x t]
         | none => hostStores s r ans ++ laterActs s h.core r ++
             herdActs k (finishHold h x ++ remoteWrites r ans p ++ rewriteActs h x r p))) := by
  obtain ⟨g, why⟩ := x
  obtain rfl : why = _ := hwhy
  have howned : (r.site.isSome && lineOwned s r.pa 8) = false := by
    cases hs : r.site.isSome with
    | false => rfl
    | true => rw [hsite hs, Bool.and_false]
  refine congrArg (fun l => Host.Outcome.next (run s l)) ?_
  rw [hp]
  simp only [remoteActs, hh, holdOf_heldBy hx, hans, howned, hlater, ne_eq, not_true_eq_false, decide_false, Bool.or_false, Bool.false_eq_true,
    if_false] <;> rfl

/-- R202, R231: the trap of a word that fails, taken by its herd once its hold has gone, unless it has ended. -/
theorem run_letOffTrap (hh : s.herd? k = some h) (hfree : TrapFree h x.group) {acts : State → List Act} {s1 : State} (h1 : run s (acts s) = s1)
    (hherds : s1.herds = s.herds) (tr : TrapReq) :
    ∃ t0, run s (acts s ++ herdActs k [dropHold h x]) = t0 ∧
      run s (chain s [fun s => acts s ++ herdActs k [dropHold h x], remoteTrap k x tr]) = run t0 (if h.ended then [] else
        takeTrap t0 (letOff h x) (heldTrap h x.group tr.cls tr.cause tr.lane tr.addr)) ∧
      OneHerd s t0 k (letOff h x) ∧ t0 = { s1 with herds := t0.herds } := by
  obtain ⟨t0, ht0, hframe, hone⟩ := run_thenHerd hh (acts s) [dropHold h x] (h1 ▸ hherds)
  rw [h1] at hframe
  have hself : t0.herd? k = some (letOff h x) := hone.1
  refine ⟨t0, ht0, ?_, hone, hframe⟩
  rw [run_two, ht0, remoteTrap, hself]
  refine congrArg (run t0) (if_congr Iff.rfl rfl ?_)
  rw [raiseTrap_free (trapFree_letOff hfree)]
  rfl

/-- R230, R278: a format that the WID refuses. -/
theorem remoteAnswer_refused (hh : s.herd? k = some h) (hx : HeldBy h f x) (hwhy : x.why = .remote r)
    (hans : ans.map (fun a => a.lane) = r.waiting.map (fun q => q.1)) (hsite : r.site.isSome = true → lineOwned s r.pa 8 = false)
    (hlater : laterWaits s k x.group h.core r = false) (hp : p = r.plan (answerFmts s r ans))
    (hrefused : fmtRefused r.site r.wid (answerFmts s r ans) p = true) (hfree : TrapFree h x.group) :
    ∃ t0, exec (.remoteAnswer k f ans) s = .next (run t0 (if h.ended then [] else
        takeTrap t0 { h with holds := holdsWithout h x } (heldTrap h x.group 0 7 255 0))) ∧
      OneHerd s t0 k { h with holds := holdsWithout h x } ∧
      t0 = { s with herds := t0.herds, hbm := t0.hbm, coreRegs := t0.coreRegs, crews := t0.crews, ocache := t0.ocache } ∧
      (∀ q, q < r.pa ∨ r.pa + 8 ≤ q → t0.hbm.byte q = s.hbm.byte q) ∧ (∀ y, r.site = some y → y.ss ≠ 2 → t0.hbm = s.hbm) ∧
      ∀ y new b, r.site = some y → y.ss = 2 → p.rw = some (new, b) → s.hbm.num r.pa 8 = y.word.toNat → t0.hbm.num r.pa 8 = new.toNat := by
  have hswap := swapped_refusedCas s s h.core r p
  obtain ⟨s1, h1⟩ : ∃ s1, run s (refusedCas s h.core r p) = s1 := ⟨_, rfl⟩
  rw [h1] at hswap
  obtain ⟨hframe1, houtside⟩ := hswap
  obtain ⟨t0, -, ht0, hone, hframe⟩ := run_letOffTrap hh hfree (acts := fun s => refusedCas s h.core r p) h1 (by rw [hframe1]) (trapOf 0 7)
  have hbm : t0.hbm = s1.hbm := by rw [hframe]
  refine ⟨t0, ?step, hone, by rw [hframe, hframe1], fun q hq => ?outside, fun y hy hss => ?other, fun y new b hy hss hrw heq => ?made⟩
  case step => rw [exec_remoteAnswer hh hx hwhy hans hsite hlater hp, if_pos hrefused, ht0]; rfl
  case outside => rw [hbm]; exact houtside q hq
  case other =>
    have hnone : refusedCas s h.core r p = [] := by
      rw [refusedCas, hy]
      exact if_neg hss
    rw [hnone, run_nil] at h1
    rw [hbm, ← h1]
  case made =>
    have hcas : refusedCas s h.core r p = casActs s h.core r.pa y.word new b := by
      rw [refusedCas, hy]
      exact (if_pos hss).trans (remoteCas_eq hy hrw (Bool.true_or b) s h.core)
    obtain ⟨-, -, hmade⟩ := run_cas s s h.core r.pa y.word new b
    rw [← hcas, h1] at hmade
    rw [hbm]
    exact hmade heq

/-- What a failed word does before its trap: its stores to the host, its local lanes, and its compare-and-swap. -/
theorem run_failedActs (s : State) (core : Nat) (r : RemoteOp) (ans : List LaneAnswer) (p : Plan) : run s (failedActs s core r ans p) =
    run (run { s with hostMem := putAll s.hostMem (hostWrites s r ans) } (if r.spoilt.isSome then [] else laterActs s core r))
      (remoteCas s core r p (fmtsKnown s r ans)) := by
  rw [failedActs, run_append, run_append, run_hostStores]

/-- R231, R232: the fault of a word with a lane in error (log entry 73). -/
theorem remoteFault_of {tr : TrapReq} (h : (∃ b, r.spoilt = some b ∧ tr = trapAt 2 10 b.1 b.2) ∨
    (r.spoilt = none ∧ ∃ q, r.waiting.find? (answerFails s r ans) = some q ∧ tr = trapAt 2 8 q.1 q.2.1)) :
    remoteFault s r ans = some tr ∧ tr.cls = 2 := by
  unfold remoteFault
  obtain ⟨b, hb, rfl⟩ | ⟨hnone, q, hq, rfl⟩ := h
  · rw [hb]
    exact ⟨rfl, rfl⟩
  · rw [hnone, hq]
    exact ⟨rfl, rfl⟩

/-- R231, R232, R278: a word with a lane in error. -/
theorem remoteAnswer_failed (hh : s.herd? k = some h) (hx : HeldBy h f x) (hwhy : x.why = .remote r)
    (hans : ans.map (fun a => a.lane) = r.waiting.map (fun q => q.1)) (hsite : r.site.isSome = true → lineOwned s r.pa 8 = false)
    (hlater : laterWaits s k x.group h.core r = false) (hp : p = r.plan (answerFmts s r ans)) {tr : TrapReq}
    (hok : fmtRefused r.site r.wid (answerFmts s r ans) p = false) (hfree : TrapFree h x.group)
    (htr : (∃ b, r.spoilt = some b ∧ tr = trapAt 2 10 b.1 b.2) ∨
      (r.spoilt = none ∧ ∃ q, r.waiting.find? (answerFails s r ans) = some q ∧ tr = trapAt 2 8 q.1 q.2.1)) :
    ∃ t0, exec (.remoteAnswer k f ans) s = .next (run t0 (if h.ended then [] else
        takeTrap t0 { h with holds := holdsWithout h x } (heldTrap h x.group 2 tr.cause tr.lane tr.addr))) ∧
      OneHerd s t0 k { h with holds := holdsWithout h x } ∧
      t0 = { s with herds := t0.herds, hostMem := t0.hostMem, hbm := t0.hbm, hbmErr := t0.hbmErr, coreRegs := t0.coreRegs
                    crews := t0.crews, ocache := t0.ocache, l1 := t0.l1 } ∧
      (hostStores s r ans = [] → t0.hostMem = s.hostMem) ∧
      (r.site = none → r.later = [] → r.seen = [] → t0 = { s with herds := t0.herds, hostMem := t0.hostMem }) ∧
      (p.rw = none → r.spoilt = none → Stored s t0 (laterWrites s r)) ∧
      (p.rw = none → r.spoilt.isSome = true → t0.hbm = s.hbm ∧ t0.crews = s.crews) ∧
      ∀ y new, r.site = some y → p.rw = some (new, true) → s.hbm.num r.pa 8 = y.word.toNat → t0.hbm.num r.pa 8 = new.toNat := by
  obtain ⟨hfault, hcls⟩ := remoteFault_of htr
  obtain ⟨later, hlaters⟩ : ∃ later, later = if r.spoilt.isSome then [] else laterActs s h.core r := ⟨_, rfl⟩
  obtain ⟨u, hu⟩ : ∃ u, u = run { s with hostMem := putAll s.hostMem (hostWrites s r ans) } later := ⟨_, rfl⟩
  obtain ⟨s1, h1⟩ : ∃ s1, run u (remoteCas s h.core r p (fmtsKnown s r ans)) = s1 := ⟨_, rfl⟩
  have hacts : run s (failedActs s h.core r ans p) = s1 := by rw [run_failedActs, ← hlaters, ← hu, h1]
  have hframeu : u = { s with hostMem := u.hostMem, hbm := u.hbm, hbmErr := u.hbmErr, crews := u.crews, ocache := u.ocache, l1 := u.l1 } := by
    rw [hu, hlaters]
    split
    · rfl
    · rw [(run_laterActs s _ h.core r).2]
  obtain ⟨hframe1, houtside⟩ : Swapped u s1 r.pa := h1 ▸ swapped_remoteCas s u h.core r p (fmtsKnown s r ans)
  have hherds : s1.herds = s.herds := by rw [hframe1, hframeu]
  obtain ⟨t0, -, ht0, hone, hframe⟩ := run_letOffTrap hh hfree (acts := fun s => failedActs s h.core r ans p) hacts hherds tr
  rw [hcls] at ht0
  have hbm : t0.hbm = s1.hbm := by rw [hframe]
  refine ⟨t0, ?step, hone, ?frame, fun hnone => ?host, fun hs hl hseen => ?only, fun hrw hsound => ?stored, fun hrw hspoilt => ?kept,
    fun y new hy hrw heq => ?made⟩
  case step => rw [exec_remoteAnswer hh hx hwhy hans hsite hlater hp, hok, if_neg Bool.false_ne_true, hfault]; exact congrArg _ ht0
  case frame => rw [hframe, hframe1, hframeu]
  case host =>
    have hwrites : hostWrites s r ans = [] := by
      rw [hostStores_eq] at hnone
      exact List.map_eq_nil_iff.mp hnone
    have hkept : u.hostMem = s.hostMem := by
      rw [hu, hwrites, hlaters]
      split
      · rfl
      · rw [(run_laterActs s _ h.core r).2]
        rfl
    rw [hframe, hframe1, hkept]
  case only =>
    have hcas : remoteCas s h.core r p (fmtsKnown s r ans) = [] := by rw [remoteCas, hs]
    have hnil : later = [] := by rw [hlaters, laterActs_nil hl hseen, ite_self]
    rw [hcas, run_nil] at h1
    rw [hnil, run_nil] at hu
    rw [hframe, ← h1, hu]
  case stored =>
    rw [remoteCas_none hrw, run_nil] at h1
    have hl : later = laterActs s h.core r := by rw [hlaters, hsound]; rfl
    obtain ⟨hstored, -⟩ := run_laterActs s { s with hostMem := putAll s.hostMem (hostWrites s r ans) } h.core r
    rw [← hl, ← hu, h1] at hstored
    rw [hframe]
    exact hstored
  case kept =>
    rw [remoteCas_none hrw, run_nil] at h1
    have hl : later = [] := by rw [hlaters, if_pos hspoilt]
    rw [hl, run_nil] at hu
    rw [hframe, ← h1, hu]
    exact ⟨rfl, rfl⟩
  case made =>
    obtain ⟨-, -, hmade⟩ := run_cas s u h.core r.pa y.word new true
    rw [← remoteCas_eq hy hrw (Bool.or_true _) s h.core, h1] at hmade
    rw [hbm]
    exact hmade heq

end Remote

end Sys2Proof.Machine
end

section
/-! SUPPORT. Remote words that complete with their answers, and the timeout of peers (R230, R231, R417). -/
namespace Sys2Proof.Machine

theorem mem_insertBy {α : Type} {key : α → Nat} {a b : α} : ∀ {l : List α}, b ∈ insertBy key a l ↔ b = a ∨ b ∈ l
  | [] => by simp [insertBy]
  | c :: l => by
    rw [insertBy]
    split
    · rw [List.mem_cons, mem_insertBy, List.mem_cons]
      exact or_left_comm
    · rw [List.mem_cons]

theorem mem_foldl_insertBy {α : Type} {key : α → Nat} {b : α} : ∀ (l acc : List α),
    b ∈ l.foldl (fun acc a => insertBy key a acc) acc ↔ b ∈ l ∨ b ∈ acc
  | [], _ => by simp
  | a :: l, acc => by
    rw [List.foldl_cons, mem_foldl_insertBy l, mem_insertBy, List.mem_cons]
    exact ⟨fun h => h.elim (fun h => .inl (.inr h)) (fun h => h.elim (fun h => .inl (.inl h)) .inr),
      fun h => h.elim (fun h => h.elim (fun h => .inr (.inl h)) .inl) (fun h => .inr (.inr h))⟩

/-- A sorted list has the elements that it was sorted from. -/
theorem mem_sortBy {α : Type} {key : α → Nat} {b : α} (l : List α) : b ∈ sortBy key l ↔ b ∈ l := by
  rw [sortBy, mem_foldl_insertBy]
  simp

/-- In a list that gives every key the value of one function, a key has that value. -/
theorem assocGet_of_forall {β : Type} {g : Nat → β} {dflt : β} {l : Nat} : ∀ {es : List (Nat × β)}, (∀ e ∈ es, e.2 = g e.1) →
    l ∈ es.map (fun e => e.1) → assocGet dflt es l = g l
  | e :: es, hes, hl => by
    by_cases he : e.1 = l
    · rw [assocGet, if_pos he, hes e (by simp), he]
    · rw [assocGet, if_neg he]
      have hl' : l ∈ es.map (fun e => e.1) := (List.mem_cons.mp hl).resolve_left (fun h => he h.symm)
      exact assocGet_of_forall (fun e he => hes e (by simp [he])) hl'

theorem getD_leBytes : ∀ (n v i : Nat), i < n → (leBytes n v).getD i 0#8 = BitVec.ofNat 8 (v / 2 ^ (8 * i))
  | n + 1, v, 0, _ => by simp [leBytes]
  | n + 1, v, i + 1, h => by
    have ih := getD_leBytes n (v / 256) i (by omega)
    rw [leBytes, List.getD_cons_succ, ih, Nat.div_div_eq_div_mul]
    congr 2
    rw [show 8 * (i + 1) = 8 + 8 * i from by ring, Nat.pow_add]

section Answers
variable {s : State} {k : HerdKey} {h : Herd} {f : Nat} {x : Hold} {r : RemoteOp} {ans : List LaneAnswer} {p : Plan}

theorem remoteFault_none (hsound : r.spoilt = none) (hok : ∀ q ∈ r.waiting, answerFails s r ans q = false) : remoteFault s r ans = none := by
  rw [remoteFault, hsound]
  have hnone : r.waiting.find? (answerFails s r ans) = none := List.find?_eq_none.mpr (fun q hq => by simp [hok q hq])
  rw [hnone]
  rfl

/-- A word with every lane answered, which makes no compare-and-swap of its own. -/
theorem remoteAnswer_completes (hh : s.herd? k = some h) (hx : HeldBy h f x) (hwhy : x.why = .remote r)
    (hans : ans.map (fun a => a.lane) = r.waiting.map (fun q => q.1)) (hsite : r.site.isSome = true → lineOwned s r.pa 8 = false)
    (hlater : laterWaits s k x.group h.core r = false) (hp : p = r.plan (answerFmts s r ans))
    (hfmts : fmtRefused r.site r.wid (answerFmts s r ans) p = false) (hrw : p.rw = none) (hsound : r.spoilt = none)
    (hok : ∀ q ∈ r.waiting, answerFails s r ans q = false) :
    ∃ u t, u = run { s with hostMem := putAll s.hostMem (hostWrites s r ans) } (laterActs s h.core r) ∧
      exec (.remoteAnswer k f ans) s = .next t ∧ t = { u with herds := t.herds } ∧
      OneHerd s t k ((h.acts (finishHold h x)).acts (remoteWrites r ans p)) := by
  have hrewrite : rewriteActs h x r p = [] := by
    rw [rewriteActs, hrw]
    cases r.site <;> rfl
  have hrun : run s (hostStores s r ans ++ laterActs s h.core r) =
      run { s with hostMem := putAll s.hostMem (hostWrites s r ans) } (laterActs s h.core r) := by
    rw [run_append, run_hostStores]
  have hherds : (run s (hostStores s r ans ++ laterActs s h.core r)).herds = s.herds := by
    rw [hrun, (run_laterActs s _ h.core r).2]
  obtain ⟨t, ht, hframe, hone⟩ := run_thenHerd hh (hostStores s r ans ++ laterActs s h.core r) (finishHold h x ++ remoteWrites r ans p) hherds
  rw [hrun] at hframe
  rw [Herd.acts_append] at hone
  refine ⟨_, t, rfl, ?_, hframe, hone⟩
  rw [exec_remoteAnswer hh hx hwhy hans hsite hlater hp, hfmts, if_neg Bool.false_ne_true, remoteFault_none hsound hok, hrewrite,
    List.append_nil, ht]

/-- Peers' lanes store nothing to the host. -/
theorem hostWrites_peers (hpeer : ∀ q ∈ r.waiting, r.space q.2.1 = 5) : hostWrites s r ans = [] := by
  have hnone : r.waiting.filter (fun w => r.space w.2.1 = 6 && !answerFails s r ans w) = [] :=
    List.filter_eq_nil_iff.mpr (fun q hq => by simp [hpeer q hq])
  rw [hostWrites, hnone]
  exact ite_self _

/-- A store writes no register. -/
theorem remoteWrites_store (hkind : r.kind = 1) (hop : r.op = none) (ans : List LaneAnswer) (p : Plan) : remoteWrites r ans p = [] := by
  rw [remoteWrites, hkind, hop]
  rfl

/-- R230: a store with peers, whose local lanes have waited for the peers' formats. -/
theorem remoteStore_completes (hh : s.herd? k = some h) (hx : HeldBy h f x) (hwhy : x.why = .remote r)
    (hans : ans.map (fun a => a.lane) = r.waiting.map (fun q => q.1)) (hsite : r.site.isSome = true → lineOwned s r.pa 8 = false)
    (hlater : laterWaits s k x.group h.core r = false) (hlen : ∀ j ∈ bitsOf x.group 8, j < h.furrows.length)
    (hp : p = r.plan (answerFmts s r ans)) (hkind : r.kind = 1) (hop : r.op = none)
    (hfmts : fmtRefused r.site r.wid (answerFmts s r ans) p = false) (hrw : p.rw = none) (hsound : r.spoilt = none)
    (hpeers : ∀ q ∈ r.waiting, answerFails s r ans q = false ∧ r.space q.2.1 = 5) :
    ∃ t h', exec (.remoteAnswer k f ans) s = .next t ∧ OneHerd s t k h' ∧ HeldAdvanced h h' x ∧
      h' = { h with furrows := h'.furrows, holds := holdsWithout h x } ∧
      t = { s with herds := t.herds, hbm := t.hbm, hbmErr := t.hbmErr, crews := t.crews, ocache := t.ocache, l1 := t.l1 } ∧
      Stored s t (laterWrites s r) := by
  obtain ⟨u, t, hu, hexec, hframe, hone⟩ := remoteAnswer_completes hh hx hwhy hans hsite hlater hp hfmts hrw hsound
    (fun q hq => (hpeers q hq).1)
  rw [hostWrites_peers (fun q hq => (hpeers q hq).2)] at hu
  rw [remoteWrites_store hkind hop] at hone
  obtain ⟨hfinish, hmoves⟩ := acts_finishHold hlen
  obtain ⟨hstored, hframeu⟩ := run_laterActs s { s with hostMem := putAll s.hostMem [] } h.core r
  rw [← hu] at hstored hframeu
  exact ⟨t, _, hexec, hone, hmoves, hfinish, by rw [hframe, hframeu]; rfl, by rw [hframe]; exact hstored⟩

/-- The word that lane l of a remote load writes to register d + j. -/
def answeredWord (r : RemoteOp) (ans : List LaneAnswer) (j l : Nat) : Lane :=
  loadWord r.nib r.wid (obtained (sortBy (fun q => q.1) (r.vals ++ answerVals r ans)) false l) j

/-- The values that a load's remote lanes obtain, whatever the order of the lanes. -/
theorem obtained_answers (hvals : r.vals = []) (hop : r.op = none) {l : Nat} (hl : l ∈ r.waiting.map (fun q => q.1)) :
    obtained (sortBy (fun q => q.1) (r.vals ++ answerVals r ans)) false l = answerData ans l := by
  have hlist : r.vals ++ answerVals r ans = r.waiting.map (fun w => (w.1, answerData ans w.1)) := by
    rw [hvals, answerVals, hop]
    rfl
  refine assocGet_of_forall (g := answerData ans) (fun e he => ?_) ?_
  · rw [hlist, mem_sortBy] at he
    obtain ⟨w, -, rfl⟩ := List.mem_map.mp he
    rfl
  · obtain ⟨w, hw, rfl⟩ := List.mem_map.mp hl
    exact List.mem_map.mpr ⟨(w.1, answerData ans w.1), by rw [hlist, mem_sortBy]; exact List.mem_map.mpr ⟨w, hw, rfl⟩, rfl⟩

/-- A word without a site has the format and the U that it names, and refuses none. -/
theorem plan_native (hs : r.site = none) (fmts : List Nat) : r.plan fmts = { nib := r.nib, uni := r.uni, rw := none } := by
  rw [RemoteOp.plan, hs]

/-- R231: a native load of remote lanes alone. -/
theorem remoteLoad_completes (hh : s.herd? k = some h) (hx : HeldBy h f x) (hwhy : x.why = .remote r)
    (hans : ans.map (fun a => a.lane) = r.waiting.map (fun q => q.1)) (hlater : laterWaits s k x.group h.core r = false)
    (hlen : ∀ j ∈ bitsOf x.group 8, j < h.furrows.length) (hs : r.site = none) (hl : r.later = []) (hseen : r.seen = [])
    (hsound : r.spoilt = none) (hkind : r.kind = 0) (hop : r.op = none) (huni : r.uni = false)
    (hok : ∀ q ∈ r.waiting, answerFails s r ans q = false) (hact : ∀ l ∈ r.active, l < 64 ∧ l ∈ (r.waiting.map (fun q => q.1)))
    (hvals : r.vals = []) :
    ∃ t h', exec (.remoteAnswer k f ans) s = .next t ∧ t = { s with herds := t.herds } ∧ OneHerd s t k h' ∧
      HeldAdvanced h h' x ∧ h' = { h with v := h'.v, vtag := h'.vtag, furrows := h'.furrows, holds := holdsWithout h x } ∧
      (∀ l ∈ r.active, ∀ j, j < regCount r.wid → h'.vreg (r.d + j) l = loadWord r.nib r.wid (answerData ans l) j) ∧
      (∀ j, j < regCount r.wid → h'.tagOf (r.d + j) = r.nib % 16) ∧
      (∀ n l, l < 64 → ¬ (r.d ≤ n ∧ n < r.d + regCount r.wid ∧ l ∈ r.active) → h'.vreg n l = h.vreg n l) := by
  obtain ⟨u, t, hu, hexec, hframe, hone⟩ := remoteAnswer_completes (p := r.plan (answerFmts s r ans)) hh hx hwhy hans (by simp [hs]) hlater rfl
    (by rw [hs]; rfl) (by rw [plan_native hs]) hsound hok
  have hwrites : hostWrites s r ans = [] := by rw [hostWrites, hkind]; rfl
  rw [laterActs_nil hl hseen, run_nil, hwrites] at hu
  obtain ⟨hfinish, hmoves⟩ := acts_finishHold hlen
  obtain ⟨g, hg⟩ : ∃ g, h.acts (finishHold h x) = g := ⟨_, rfl⟩
  rw [hg] at hone hfinish hmoves
  have hloads : remoteWrites r ans (r.plan (answerFmts s r ans)) = blockActs r.d (regCount r.wid) r.active r.nib (answeredWord r ans) := by
    rw [remoteWrites, if_pos hkind, plan_native hs, huni]
    rfl
  rw [hloads] at hone
  obtain ⟨hv, htag⟩ := read_blockActs r.d (fun l hl => (hact l hl).1) r.nib (answeredWord r ans) g (regCount r.wid)
  have hlanes := acts_lanes _ g (blockActs_lanes (d := r.d) (k := regCount r.wid) (ls := r.active) (tag := r.nib) (val := answeredWord r ans))
  refine ⟨t, _, hexec, by rw [hframe, hu]; rfl, hone, fun j => ?furs, ?frame, fun l hl j hj => ?loaded, fun j hj => ?tagged,
    fun n l hl hn => ?others⟩
  case furs => rw [hlanes]; exact hmoves j
  case frame => rw [hlanes, hfinish]; rfl
  case loaded =>
    obtain ⟨hlt, hwaiting⟩ := hact l hl
    rw [hv _ l hlt, if_pos ⟨Nat.le_add_right _ _, Nat.add_lt_add_left hj _, hl⟩, Nat.add_sub_cancel_left, answeredWord,
      obtained_answers hvals hop hwaiting]
  case tagged => rw [htag, if_pos ⟨Nat.le_add_right _ _, Nat.add_lt_add_left hj _⟩]
  case others => rw [hv n l hl, if_neg hn, hfinish]; rfl

/-- The bytes that a store's lanes write to the host, where no lane fails. -/
theorem hostWrites_answered (hkind : r.kind = 1) (hop : r.op = none) (hok : ∀ q ∈ r.waiting, answerFails s r ans q = false)
    (hhost : ∀ q ∈ r.waiting, r.space q.2.1 = 6) :
    hostWrites s r ans = r.waiting.map (fun w => (fld w.2.1 47 0, leBytes (2 ^ r.wid) w.2.2.toNat)) := by
  have hall : r.waiting.filter (fun w => r.space w.2.1 = 6 && !answerFails s r ans w) = r.waiting :=
    List.filter_eq_self.mpr (fun q hq => by simp [hok q hq, hhost q hq])
  rw [hostWrites, hkind, hop, hall]
  rfl

/-- Aligned places of one size that differ do not meet. -/
theorem apart_aligned {a b n : Nat} {p q : List Byte} (ha : a % n = 0) (hb : b % n = 0) (hne : a / n ≠ b / n)
    (hp : p.length = n) (hq : q.length = n) :
    Apart (a, p) (b, q) := by
  have hdiv (c : Nat) (hc : c % n = 0) : n * (c / n) = c := Nat.mul_div_cancel' (Nat.dvd_of_mod_eq_zero hc)
  have hstep {c d : Nat} (h : c < d) : n * c + n ≤ n * d := by
    rw [← Nat.mul_succ]
    exact Nat.mul_le_mul_left n h
  rw [Apart, hp, hq, ← hdiv a ha, ← hdiv b hb]
  rcases Nat.lt_or_gt_of_ne hne with h | h
  · exact .inl (hstep h)
  · exact .inr (hstep h)

/-- R231: a native store of lanes to the host alone, at places that do not meet. -/
theorem remoteHostStore_completes (hh : s.herd? k = some h) (hx : HeldBy h f x) (hwhy : x.why = .remote r)
    (hans : ans.map (fun a => a.lane) = r.waiting.map (fun q => q.1)) (hlater : laterWaits s k x.group h.core r = false)
    (hlen : ∀ j ∈ bitsOf x.group 8, j < h.furrows.length) (hs : r.site = none) (hl : r.later = []) (hseen : r.seen = [])
    (hsound : r.spoilt = none) (hkind : r.kind = 1) (hop : r.op = none) (hok : ∀ q ∈ r.waiting, answerFails s r ans q = false)
    (hhost : ∀ q ∈ r.waiting, r.space q.2.1 = 6) (hnodup : (r.waiting.map (fun q => fld q.2.1 47 0 / 2 ^ r.wid)).Nodup)
    (haligned : ∀ q ∈ r.waiting, fld q.2.1 47 0 % 2 ^ r.wid = 0) :
    ∃ t h', exec (.remoteAnswer k f ans) s = .next t ∧ t = { s with herds := t.herds, hostMem := t.hostMem } ∧ OneHerd s t k h' ∧
      HeldAdvanced h h' x ∧ h' = { h with furrows := h'.furrows, holds := holdsWithout h x } ∧
      (∀ q ∈ r.waiting, ∀ i, i < 2 ^ r.wid → t.hostMem.byte (fld q.2.1 47 0 + i) = BitVec.ofNat 8 (q.2.2.toNat / 2 ^ (8 * i))) ∧
      (∀ p, (∀ q ∈ r.waiting, p < fld q.2.1 47 0 ∨ fld q.2.1 47 0 + 2 ^ r.wid ≤ p) → t.hostMem.byte p = s.hostMem.byte p) := by
  obtain ⟨u, t, hu, hexec, hframe, hone⟩ := remoteAnswer_completes (p := r.plan (answerFmts s r ans)) hh hx hwhy hans (by simp [hs]) hlater rfl
    (by rw [hs]; rfl) (by rw [plan_native hs]) hsound hok
  rw [laterActs_nil hl hseen, run_nil] at hu
  rw [remoteWrites_store hkind hop] at hone
  obtain ⟨hfinish, hmoves⟩ := acts_finishHold hlen
  have hwrites := hostWrites_answered (s := s) (ans := ans) hkind hop hok hhost
  have hmem : t.hostMem = putAll s.hostMem (hostWrites s r ans) := by rw [hframe, hu]
  have hapart : (hostWrites s r ans).Pairwise Apart := by
    rw [hwrites, List.pairwise_map]
    rw [List.Nodup, List.pairwise_map] at hnodup
    exact hnodup.imp_of_mem (fun ha hb hne => apart_aligned (haligned _ ha) (haligned _ hb) hne (length_leBytes _ _) (length_leBytes _ _))
  refine ⟨t, _, hexec, by rw [hframe, hu], hone, hmoves, hfinish, fun q hq i hi => ?stored, fun a ha => ?outside⟩
  case stored =>
    have hin : (fld q.2.1 47 0, leBytes (2 ^ r.wid) q.2.2.toNat) ∈ hostWrites s r ans := by
      rw [hwrites]
      exact List.mem_map.mpr ⟨q, hq, rfl⟩
    rw [hmem, byte_putAll, ← getD_leBytes _ _ _ hi]
    exact lastStore_apart (i := i) (by rw [length_leBytes]; exact hi) _ _ hapart hin
  case outside =>
    rw [hmem, byte_putAll, hwrites]
    refine lastStore_outside a _ _ (fun p hp => ?_)
    obtain ⟨q, hq, rfl⟩ := List.mem_map.mp hp
    rw [length_leBytes]
    exact ha q hq

/-- The answers that a word has when its peers have given none in time: errors (R417). -/
def noAnswers (r : RemoteOp) : List LaneAnswer := r.waiting.map (fun w => { lane := w.1, err := true, data := 0, fmt := 0 })

theorem noAnswers_fails {q : Nat × Word × BitVec 128} {rest : List (Nat × Word × BitVec 128)} (hw : r.waiting = q :: rest) :
    r.waiting.find? (answerFails s r (noAnswers r)) = some q := by
  have hq : answerFails s r (noAnswers r) q = true := by
    rw [answerFails, noAnswers, hw]
    simp
  rw [hw, List.find?_cons_of_pos hq]

/-- R417: the timeout is an answer of errors to every lane. -/
theorem exec_peerTimeout (hh : s.herd? k = some h) (hx : HeldBy h f x) (hwhy : x.why = .remote r)
    (hpeers : ∀ u ∈ r.waiting, r.space u.2.1 = 5) : exec (.peerTimeout k f) s = exec (.remoteAnswer k f (noAnswers r)) s := by
  obtain ⟨g, why⟩ := x
  obtain rfl : why = _ := hwhy
  have hall : (r.waiting.all fun w => decide (r.space w.2.1 = 5)) = true := by simpa using hpeers
  refine congrArg (fun l => Host.Outcome.next (run s l)) ?_
  simp only [peerTimeoutActs, hh, holdOf_heldBy hx, hall, if_true] <;> rfl

/-- R417: a word whose peers have not answered in time traps at its lowest lane. -/
theorem peerTimeout_traps {q : Nat × Word × BitVec 128} {rest : List (Nat × Word × BitVec 128)} (hh : s.herd? k = some h) (hx : HeldBy h f x)
    (hwhy : x.why = .remote r) (hw : r.waiting = q :: rest) (hpeers : ∀ u ∈ r.waiting, r.space u.2.1 = 5) (hs : r.site = none) (hl : r.later = [])
    (hseen : r.seen = []) (hsound : r.spoilt = none) (hfree : TrapFree h x.group) :
    exec (.peerTimeout k f) s = .next (run { s with herds := (s.act (.herd k (.holds (holdsWithout h x)))).herds }
      (if h.ended then [] else takeTrap { s with herds := (s.act (.herd k (.holds (holdsWithout h x)))).herds }
        { h with holds := holdsWithout h x } (heldTrap h x.group 2 8 q.1 q.2.1))) := by
  have hans : (noAnswers r).map (fun a => a.lane) = r.waiting.map (fun q => q.1) := by
    rw [noAnswers, List.map_map]
    rfl
  have hlater : laterWaits s k x.group h.core r = false := by rw [laterWaits, RemoteOp.stores, hl]; rfl
  have hacts : failedActs s h.core r (noAnswers r) (r.plan (answerFmts s r (noAnswers r))) = [] := by
    rw [failedActs, hostStores_eq, hostWrites_peers hpeers, laterActs_nil hl hseen, ite_self, remoteCas, hs]
    rfl
  have hfault : remoteFault s r (noAnswers r) = some (trapAt 2 8 q.1 q.2.1) :=
    (remoteFault_of (.inr ⟨hsound, q, noAnswers_fails hw, rfl⟩)).1
  obtain ⟨t0, ht0, htrap, -⟩ := run_letOffTrap hh hfree
    (acts := fun s => failedActs s h.core r (noAnswers r) (r.plan (answerFmts s r (noAnswers r)))) (s1 := s) (by rw [hacts]; rfl) rfl
    (trapAt 2 8 q.1 q.2.1)
  have hfmts : fmtRefused r.site r.wid (answerFmts s r (noAnswers r)) (r.plan (answerFmts s r (noAnswers r))) = false := by rw [hs]; rfl
  have hstate : t0 = { s with herds := (s.act (.herd k (.holds (holdsWithout h x)))).herds } := by
    rw [← ht0, hacts]
    rfl
  rw [exec_peerTimeout hh hx hwhy hpeers, exec_remoteAnswer hh hx hwhy hans (by simp [hs]) hlater rfl, hfmts, if_neg Bool.false_ne_true, hfault]
  rw [hstate] at htrap
  exact congrArg Host.Outcome.next htrap

end Answers

/-- Settles O45: a held word's outcome by its answers (`exec_siteRewrite`, `exec_sowStalledPost`, `exec_remoteAnswer`), case by case. -/
theorem heldWordsComplete : Obligations.HeldWordsComplete := by
  refine ⟨fun s k h f pa x old new widen hh hx hwhy hfree => siteRewrite_answers hh hx hwhy hfree,
    fun s k h f core d x card hh hx hwhy hroom hfirst hlen => sowStalledPost_posts hh hx hwhy hroom hfirst hlen,
    fun s k h f core d x card hh hx hwhy hwaits => sowStalledPost_waits hh hx hwhy hwaits,
    fun s k h f x r ans p hh hx hwhy hans hsite hlater hlen hp => ⟨fun hrefused hfree => ?refused, fun tr hfmts hfree htr => ?failed,
      fun hkind hop hfmts hrw hsound hseen hpeers => ?store, fun hs hl hseen hsound hkind hop huni hok hact hvals hnodup => ?load,
      fun hs hl hseen hsound hkind hop hok hhost hnodup haligned => ?host⟩,
    fun s k h f x r q rest hh hx hwhy hw hpeers hs hl hseen hsound hfree =>
      peerTimeout_traps hh hx hwhy hw hpeers hs hl hseen hsound hfree⟩
  case refused => exact remoteAnswer_refused hh hx hwhy hans hsite hlater hp hrefused hfree
  case failed => exact remoteAnswer_failed hh hx hwhy hans hsite hlater hp hfmts hfree htr
  case store => exact remoteStore_completes hh hx hwhy hans hsite hlater hlen hp hkind hop hfmts hrw hsound hpeers
  case load => exact remoteLoad_completes hh hx hwhy hans hlater hlen hs hl hseen hsound hkind hop huni hok hact hvals
  case host => exact remoteHostStore_completes hh hx hwhy hans hlater hlen hs hl hseen hsound hkind hop hok hhost hnodup haligned

end Sys2Proof.Machine
end
